-- ==== Sys2Proof/Word.lean ====
section
/-!
DEFINITION. The word types of the part (spec/00 R6, spec/03 R71, R72, spec/02 R29).
-/
namespace Sys2Proof

/-- A 32-bit register or memory word. -/
abbrev Word := BitVec 32
/-- A byte of memory. -/
abbrev Byte := BitVec 8
/-- A 64-bit value: a virtual address, device time, a pair of registers. -/
abbrev DWord := BitVec 64
/-- A mask over the 128 lanes of a strand. -/
abbrev Mask := BitVec 128

end Sys2Proof
end

