-- ==== Sys2Proof/Machine/Bits.lean ====
section
/-!
DEFINITION. Bit fields, sign extension, packing and the canonical sparse map that State's tables are kept in.
-/
namespace Sys2Proof

/-- Bits [lo+n-1:lo] of w (spec/00 R6). -/
def fld (w lo n : Nat) : Nat := w / 2 ^ lo % 2 ^ n

/-- The value of the n-bit field w read as two's complement (spec/06 R156, Sext). -/
def sextI (w n : Nat) : Int := if w % 2 ^ n < 2 ^ (n - 1) then (w % 2 ^ n : Nat) else (w % 2 ^ n : Nat) - (2 ^ n : Nat)

/-- Sext(w, n) as a 32-bit word. -/
def sextW (w n : Nat) : Word := BitVec.ofInt 32 (sextI w n)

/-- Sext(w, n) as a 64-bit value. -/
def sextD (w n : Nat) : DWord := BitVec.ofInt 64 (sextI w n)

def bitIf (b : Bool) (k : Nat) : Nat := if b then 2 ^ k else 0

/-- Two 32-bit words as one 64-bit value, the low word first (spec/06 R156, Pair). -/
def pair (lo hi : Word) : DWord := hi ++ lo

def loW (d : DWord) : Word := d.extractLsb' 0 32
def hiW (d : DWord) : Word := d.extractLsb' 32 32

/-- Four words as a 128-lane mask, lane 32w in word w (spec/06 R156, Q). -/
def quadMask (a b c d : Word) : Mask := d ++ c ++ b ++ a

def maskW (m : Mask) (w : Nat) : Word := m.extractLsb' (32 * w) 32

/-- The number of set bits of the low n bits. -/
def popN (x : Nat) : Nat → Nat
  | 0 => 0
  | n + 1 => popN x n + (if x.testBit n then 1 else 0)

/-- Leading zeros of the low n bits, n when they are all zero. -/
def clzN (x : Nat) : Nat → Nat
  | 0 => 0
  | n + 1 => if x.testBit n then 0 else clzN x n + 1

/-- Trailing zeros seen from bit i, with n bits left. -/
def ctzN (x i : Nat) : Nat → Nat
  | 0 => 0
  | n + 1 => if x.testBit i then 0 else ctzN x (i + 1) n + 1

/-- The low n bits reversed. -/
def revN (x : Nat) : Nat → Nat
  | 0 => 0
  | n + 1 => 2 * revN (x % 2 ^ n) n + (if x.testBit n then 1 else 0)

def pop32 (x : Word) : Word := BitVec.ofNat 32 (popN x.toNat 32)
def clz32 (x : Word) : Word := BitVec.ofNat 32 (clzN x.toNat 32)
def ctz32 (x : Word) : Word := BitVec.ofNat 32 (ctzN x.toNat 0 32)
/-- Bit i of the result is bit 31 - i of x (spec/06 R160). -/
def brev32 (x : Word) : Word := x.reverse

/-- Byte i of a value, little-endian (spec/00 R6). -/
def byteAt (v i : Nat) : Byte := BitVec.ofNat 8 (v / 256 ^ i)

/-- The n bytes of a value, lowest first. -/
def bytesOf (v : Nat) (n : Nat) : List Byte := (List.range n).map (byteAt v)

/-- The value of bytes, lowest first. -/
def natOf : List Byte → Nat
  | [] => 0
  | b :: bs => b.toNat + 256 * natOf bs

/-- Element i of width w bits of a packed word (spec/04 R118). -/
def elem (x : Word) (i w : Nat) : Nat := fld x.toNat (i * w) w

/-- The word with element i of width w replaced. -/
def setElem (x : Word) (i w v : Nat) : Word :=
  BitVec.ofNat 32 (x.toNat - elem x i w * 2 ^ (i * w) + (v % 2 ^ w) * 2 ^ (i * w))

/-- A sparse table: keys strictly rising, no entry equal to what an unlisted key reads as. -/
abbrev AMap (β : Type) := List (Nat × β)

namespace AMap
variable {β : Type}

/-- The listed value of a key. -/
def look : AMap β → Nat → Option β
  | [], _ => none
  | (k, v) :: m, a => if a = k then some v else look m a

/-- The value of a key, d when unlisted. -/
def get (m : AMap β) (a : Nat) (d : β) : β := (look m a).getD d

/-- Lists v at a, in key order. -/
def put : AMap β → Nat → β → AMap β
  | [], a, v => [(a, v)]
  | (k, x) :: m, a, v => if a < k then (a, v) :: (k, x) :: m else if a = k then (a, v) :: m else (k, x) :: put m a v

/-- Removes the entry of a. -/
def del : AMap β → Nat → AMap β
  | [], _ => []
  | (k, x) :: m, a => if a = k then del m a else (k, x) :: del m a

/-- Writes v at a, where an unlisted key reads as d: the canonical form is kept. -/
def set [DecidableEq β] (m : AMap β) (a : Nat) (v d : β) : AMap β := if v = d then del m a else put m a v

/-- Keys strictly rising, each above lo. -/
def sortedFrom (lo : Nat) : AMap β → Bool
  | [] => true
  | (k, _) :: m => decide (lo ≤ k) && sortedFrom (k + 1) m

/-- The canonical form where an unlisted key reads as d. -/
def canon [DecidableEq β] (d : β) (m : AMap β) : Bool := sortedFrom 0 m && m.all (fun e => decide (e.2 ≠ d))

/-- Updates a listed entry. -/
def upd (m : AMap β) (a : Nat) (f : β → β) : AMap β :=
  match look m a with
  | some v => put m a (f v)
  | none => m

end AMap

/-- The 128 lane values of a vector register. -/
abbrev Vec := List Word

/-- The value of lane l. -/
def Vec.lane (v : Vec) (l : Nat) : Word := v.getD l 0#32

/-- The register whose lane l is f l. -/
def Vec.ofFn (f : Nat → Word) : Vec := (List.range 128).map f

/-- Lanes l of a mask, ascending. -/
def lanesOf (m : Mask) : List Nat := (List.range 128).filter (fun l => m.getLsbD l)

/-- The mask of a list of lanes. -/
def maskOfLanes (ls : List Nat) : Mask := ls.foldl (fun m l => m ||| (1#128 <<< l)) 0#128

/-- The lowest set lane. -/
def lowest (m : Mask) : Option Nat := (List.range 128).find? (fun l => m.getLsbD l)

/-- The mask whose lane l is f l. -/
def maskOf (f : Nat → Bool) : Mask := maskOfLanes ((List.range 128).filter f)

end Sys2Proof
end

