-- ==== Sys2Proof/Syntax.lean ====
section
/-!
DEFINITION. The instructions and events of spec/opcode_table.json, one constructor per row, in the table's order but for the
last thirteen (a compiled constructor with operands must be among the first 245).
Register numbers and fields are Nat; WellFormed.lean bounds them.  Offsets (soff, loff, imm) stand as raw field values:
the machine sign-extends them where spec/05 and spec/06 say so.
-/
namespace Sys2Proof

/-- The fields of a 96-bit lane instruction below its OP (spec/05 R141). -/
structure LaneF where
  vd : Nat
  va : Nat
  vb : Nat
  vc : Nat
  stg : Nat
  fs : Nat
  bsrc : Nat
  rnd : Nat
  sub : Nat
  mod : Nat
  imm : Nat
  deriving DecidableEq, Repr

/-- One partition of the signed configuration record (spec/15 R292, R294, spec/14 R278, R288). -/
structure PartRec where
  p : Nat
  dies : Nat
  x0 : Nat
  x1 : Nat
  y0 : Nat
  y1 : Nat
  ioshare : Nat
  lpmask : Nat
  pb : Nat
  deriving DecidableEq, Repr

/-- The calibration of the configuration record (spec/14 R280, R288): static energy of a slice, a router, a port, a near-DRAM
and an LPDDR6 channel in nJ per control interval, and the weights of a slice access and of a flit. -/
structure Calib where
  slice : Nat
  router : Nat
  port : Nat
  near : Nat
  lp : Nat
  wAcc : Nat
  wFlit : Nat
  /-- Calibrated energies for a failed source (R361): of an issue cycle and active lane, a slice access, a flit, a byte. -/
  lane : Nat
  eAcc : Nat
  eFlit : Nat
  eByte : Nat
  deriving DecidableEq, Repr

/-- What a cold boot reads: verification outcomes (spec/21 R363), the configuration record (spec/14 R288), and the digests of
the firmware and of the record (spec/14 R289). -/
structure BootRec where
  fwSig : Nat
  cfgSig : Nat
  idOk : Bool
  parts : List PartRec
  calib : Calib
  fwDigest : Nat
  cfgDigest : Nat
  deriving DecidableEq, Repr

/-- What the sensors measured in a control interval (spec/14 R276, R280, R281): energy per cluster; strand-slot cycles
(cluster, context or 16 for none, cycles); energy of (stack, kind), kind 0 the cache-die rail, 1 near DRAM, 2 LPDDR6;
activity (stack, kind, partition, context or 16, slice accesses or bytes, flits). -/
structure IntervalIn where
  cluE : List (Nat × Nat)
  cluSlots : List (Nat × Nat × Nat)
  railE : List (Nat × Nat × Nat)
  act : List (Nat × Nat × Nat × Nat × Nat × Nat)
  deriving DecidableEq, Repr, Inhabited

/-- The instructions and events of the part. -/
inductive Instr where
  /-- CLAUSE_HEADER (R136): Issues a clause once its wait mask is clear, sets its busy flags and dispatches its lane instructions. -/
  | clauseHeader (wm : Nat) (sa : Nat) (sb : Nat) (nl : Nat) (ns : Nat)
  /-- ADD (R157): S[d] := S[a] + S[b], wrapping. -/
  | add (d : Nat) (a : Nat) (b : Nat)
  /-- SUB (R157): S[d] := S[a] - S[b], wrapping. -/
  | sub (d : Nat) (a : Nat) (b : Nat)
  /-- MUL (R157): Low 32 bits of the product. -/
  | mul (d : Nat) (a : Nat) (b : Nat)
  /-- MULH (R157): High 32 bits of the signed product. -/
  | mulh (d : Nat) (a : Nat) (b : Nat)
  /-- MULHU (R157): High 32 bits of the unsigned product. -/
  | mulhu (d : Nat) (a : Nat) (b : Nat)
  /-- AND (R157): Bitwise AND of two scalars. -/
  | and (d : Nat) (a : Nat) (b : Nat)
  /-- OR (R157): Bitwise OR of two scalars. -/
  | or (d : Nat) (a : Nat) (b : Nat)
  /-- XOR (R157): Bitwise XOR of two scalars. -/
  | xor (d : Nat) (a : Nat) (b : Nat)
  /-- ANDN (R157): S[a] AND NOT S[b]. -/
  | andn (d : Nat) (a : Nat) (b : Nat)
  /-- SHL (R157): Scalar shift left by b[4:0]. -/
  | shl (d : Nat) (a : Nat) (b : Nat)
  /-- SHR (R157): Scalar logical shift right by b[4:0]. -/
  | shr (d : Nat) (a : Nat) (b : Nat)
  /-- SAR (R157): Scalar arithmetic shift right by b[4:0]. -/
  | sar (d : Nat) (a : Nat) (b : Nat)
  /-- MIN (R157): Signed minimum. -/
  | min (d : Nat) (a : Nat) (b : Nat)
  /-- MAX (R157): Signed maximum. -/
  | max (d : Nat) (a : Nat) (b : Nat)
  /-- MINU (R157): Unsigned minimum. -/
  | minu (d : Nat) (a : Nat) (b : Nat)
  /-- MAXU (R157): Unsigned maximum. -/
  | maxu (d : Nat) (a : Nat) (b : Nat)
  /-- SEQ (R157): 1 if equal, else 0. -/
  | seq (d : Nat) (a : Nat) (b : Nat)
  /-- SNE (R157): 1 if not equal, else 0. -/
  | sne (d : Nat) (a : Nat) (b : Nat)
  /-- SLT (R157): 1 if signed less, else 0. -/
  | slt (d : Nat) (a : Nat) (b : Nat)
  /-- SLTU (R157): 1 if unsigned less, else 0. -/
  | sltu (d : Nat) (a : Nat) (b : Nat)
  /-- ADDI (R158): Adds a sign-extended 8-bit immediate. -/
  | addi (d : Nat) (a : Nat) (imm : Nat)
  /-- ANDI (R158): ANDs a zero-extended immediate. -/
  | andi (d : Nat) (a : Nat) (imm : Nat)
  /-- ORI (R158): ORs a zero-extended immediate. -/
  | ori (d : Nat) (a : Nat) (imm : Nat)
  /-- XORI (R158): XORs a zero-extended immediate. -/
  | xori (d : Nat) (a : Nat) (imm : Nat)
  /-- SHLI (R158): Shift left by an immediate. -/
  | shli (d : Nat) (a : Nat) (imm : Nat)
  /-- SHRI (R158): Logical shift right by an immediate. -/
  | shri (d : Nat) (a : Nat) (imm : Nat)
  /-- SARI (R158): Arithmetic shift right by an immediate. -/
  | sari (d : Nat) (a : Nat) (imm : Nat)
  /-- SLTI (R158): 1 if signed less than a sign-extended immediate. -/
  | slti (d : Nat) (a : Nat) (imm : Nat)
  /-- MOVI (R159): Loads a sign-extended 17-bit immediate. -/
  | movi (d : Nat) (imm : Nat)
  /-- MOVHI (R159): Writes bits [31:15] from a 17-bit immediate, keeping [14:0]. -/
  | movhi (d : Nat) (imm : Nat)
  /-- POPC (R160): Counts set bits of a scalar. -/
  | popc (d : Nat) (a : Nat)
  /-- CLZ (R160): Counts leading zeros of a scalar. -/
  | clz (d : Nat) (a : Nat)
  /-- CTZ (R160): Counts trailing zeros of a scalar. -/
  | ctz (d : Nat) (a : Nat)
  /-- BREV (R160): Reverses the bits of a scalar. -/
  | brev (d : Nat) (a : Nat)
  /-- BFE (R160): Extracts a bit field of S[d] in place. -/
  | bfe (d : Nat) (ctl : Nat)
  /-- BFI (R160): Inserts S[a] into S[d] under control S[a+1]. -/
  | bfi (d : Nat) (a : Nat)
  /-- MOV (R160): Copies a scalar. -/
  | mov (d : Nat) (a : Nat)
  /-- NOT (R160): Bitwise NOT of a scalar. -/
  | not (d : Nat) (a : Nat)
  /-- SEXT8 (R160): Sign-extends bits [7:0]. -/
  | sext8 (d : Nat) (a : Nat)
  /-- SEXT16 (R160): Sign-extends bits [15:0]. -/
  | sext16 (d : Nat) (a : Nat)
  /-- LDS (R161): Loads 4 bytes into a scalar through the constant cache. -/
  | lds (d : Nat) (p : Nat) (fs : Nat) (off : Nat)
  /-- LDS2 (R161): Loads 8 bytes into a scalar pair. -/
  | lds2 (d : Nat) (p : Nat) (fs : Nat) (off : Nat)
  /-- LDS4 (R161): Loads 16 bytes into a scalar quad. -/
  | lds4 (d : Nat) (p : Nat) (fs : Nat) (off : Nat)
  /-- STS (R161): Stores a scalar word through the L1. -/
  | sts (d : Nat) (p : Nat) (fs : Nat) (off : Nat)
  /-- STS2 (R161): Stores a scalar pair. -/
  | sts2 (d : Nat) (p : Nat) (fs : Nat) (off : Nat)
  /-- ATOMS (R162): Scalar atomic read-modify-write on the at path. -/
  | atoms (d : Nat) (p : Nat) (fs : Nat) (opc : Nat) (ord : Nat) (scope : Nat)
  /-- RETURNING_ACCESS_COMPLETE (R152): A returning load or atomic returns, writes its destinations, lowers its path counter and releases its flag. -/
  | retComplete (k : Nat) (path : Nat)
  /-- SOURCING_ACCESS_COMPLETE (R37): A store, reduction or prefetch completes and lowers its path counter. -/
  | srcComplete (k : Nat) (path : Nat)
  /-- BRA (R163): Unconditional two-word branch. -/
  | bra (soff : Nat) (loff : Nat)
  /-- BZ (R163): Branches when S[r] is zero. -/
  | bz (r : Nat) (soff : Nat) (loff : Nat)
  /-- BNZ (R163): Branches when S[r] is not zero. -/
  | bnz (r : Nat) (soff : Nat) (loff : Nat)
  /-- BEXZ (R163): Branches when EXEC is zero. -/
  | bexz (soff : Nat) (loff : Nat)
  /-- CALL (R164): Pushes a return entry and branches. -/
  | call (soff : Nat) (loff : Nat)
  /-- CALLI (R166): Indirect call through a scalar pair and scalar LPC. -/
  | calli (x : Nat) (y : Nat)
  /-- JMPI (R166): Indirect jump through scalars. -/
  | jmpi (x : Nat) (y : Nat)
  /-- CALLV (R166): Call through uniform vector registers. -/
  | callv (x : Nat) (y : Nat)
  /-- JMPV (R166): Jump through uniform vector registers. -/
  | jmpv (x : Nat) (y : Nat)
  /-- MSPLIT (R51): Saves masks to a save area, narrows EXEC to the condition and opens a region. -/
  | msplit (c : Nat) (sv : Nat) (soff : Nat) (loff : Nat)
  /-- MJOIN (R52): Runs the pending path or restores the masks and closes the region. -/
  | mjoin (sv : Nat)
  /-- MSET (R169): EXEC := mask AND LIVE. -/
  | mset (y : Nat) (z : Nat)
  /-- MGET (R169): Copies a mask into a quad. -/
  | mget (x : Nat) (y : Nat) (z : Nat)
  /-- MAND (R169): ANDs a mask into a quad. -/
  | mand (x : Nat) (y : Nat) (z : Nat)
  /-- MOR (R169): ORs a mask into a quad. -/
  | mor (x : Nat) (y : Nat) (z : Nat)
  /-- MNOT (R169): Writes the complement of a mask to a quad. -/
  | mnot (x : Nat) (y : Nat) (z : Nat)
  /-- MPOPC (R169): Counts the set bits of a mask. -/
  | mpopc (x : Nat) (y : Nat) (z : Nat)
  /-- LOOP (R57): Opens a hardware loop frame or skips the loop when n is 0. -/
  | loop (lvl : Nat) (cnt : Nat) (nstg : Nat) (rot : Nat) (item : Nat) (ireg : Nat) (send : Nat) (llen : Nat)
  /-- LEXIT (R61): Removes a mask of lanes from EXEC and records them in the loop frame. -/
  | lexit (x : Nat)
  /-- ROTSET (R63): Defines the rotating register region and clears RB. -/
  | rotset (base : Nat) (size : Nat)
  /-- SKPUT (R172): Appends item indices to a skein. -/
  | skput (x : Nat) (y : Nat) (z : Nat)
  /-- LDEPTH (R172): Reads open loop and return stack depths. -/
  | ldepth (x : Nat)
  /-- WAITP (R173): Stalls the scalar stream until a path counter is at most n. -/
  | waitp (path : Nat) (i : Nat) (n : Nat)
  /-- FENCE (R174): Orders accesses at a scope with the maintenance the scope needs. -/
  | fence (kind : Nat) (scope : Nat)
  /-- CLASP_INIT (R176): Initialises a clasp's phase, counts and member records. -/
  | claspInit (x : Nat) (h : Nat)
  /-- CLASP_ARRIVE (R176): Arrives at a clasp as a release, possibly completing the phase. -/
  | claspArrive (x : Nat) (h : Nat)
  /-- CLASP_ARRIVETX (R176): Makes an arrival held until the strand's tagged shuttle commands complete. -/
  | claspArrivetx (x : Nat) (h : Nat)
  /-- HELD_ARRIVAL_TAKES_EFFECT (R176): Once the tagged commands complete, the held arrival counts as a release. -/
  | heldArrival (k : Nat) (h : Nat)
  /-- CLASP_WAIT (R176): Blocks until a token's phase completes or the clasp is invalidated. -/
  | claspWait (x : Nat) (h : Nat)
  /-- CLASP_TEST (R176): Reports whether a token's phase is pending, complete or invalidated. -/
  | claspTest (x : Nat) (h : Nat)
  /-- CLASP_INVAL (R177): Invalidates a clasp and releases its waiters. -/
  | claspInval (h : Nat)
  /-- CLASP_REG (R177): Binds a clasp handle for the whole weave. -/
  | claspReg (x : Nat) (h : Nat) (bolt : Nat)
  /-- CLASP_UNREG (R177): Unbinds a handle and stops membership tracking. -/
  | claspUnreg (h : Nat)
  /-- WEAVE_ATTACH (R42): Places k new strands in the weave, or none. -/
  | attach (x : Nat) (coord : Nat) (role : Nat)
  /-- WEAVE_DETACH (R47): Tests the minimum and reserves the departure, or refuses. -/
  | detach (x : Nat)
  /-- DEPARTURE (R44): After the detaching strand has drained, its clasps are updated and its slot released. -/
  | departure (k : Nat)
  /-- WEAVE_YIELDQ (R48): Claims one unit of the yield request. -/
  | yieldq (x : Nat)
  /-- WEAVE_COUNT (R180): Reads the member count and limits. -/
  | count (x : Nat)
  /-- WEAVE_GROW (R181): Asks the scheduler to reserve strand slots and blocks. -/
  | grow (x : Nat) (role : Nat)
  /-- GROW_DECIDED (R49): A pending GROW is granted, or denied when every strand of the core is blocked in GROW. -/
  | growDecided (k : Nat)
  /-- WEAVE_SHRINK (R181): Returns reserved slots. -/
  | shrink (x : Nat) (role : Nat)
  /-- WEAVE_WHO (R180): Reports rank, index, slot, core and spindle of a strand. -/
  | who (x : Nat) (y : Nat) (z : Nat)
  /-- LAUNCH (R182): Reads a launch descriptor and submits a child bolt. -/
  | launch (d : Nat) (p : Nat)
  /-- SGET (R183): Reads a special register. -/
  | sget (x : Nat) (y : Nat)
  /-- SSET (R183): Writes a special register. -/
  | sset (x : Nat) (y : Nat)
  /-- TRAP (R184): Raises TRAP with a code. -/
  | trap (code : Nat)
  /-- BKPT (R184): Raises BKPT with an id. -/
  | bkpt (id : Nat)
  /-- PROG (R307): Adds one to a progress counter. -/
  | prog (id : Nat)
  /-- CSRR (R185): Reads a partition control block word. -/
  | csrr (x : Nat) (y : Nat)
  /-- CSRW (R185): Writes a partition control block word. -/
  | csrw (x : Nat) (y : Nat)
  /-- GO (R251): Prologue launches a bolt and finishes the packet. -/
  | go (x : Nat)
  /-- CANCEL (R251): Prologue writes the signal cancelled and finishes. -/
  | cancel (x : Nat)
  /-- REPEAT (R251): Prologue launches, waits for completion and reruns. -/
  | repeatGo (x : Nat)
  /-- SHT_COPYIN (R187): Shuttle copies a box from global memory to scratch. -/
  | shtCopyin (x : Nat) (y : Nat) (fs : Nat)
  /-- SHT_COPYOUT (R187): Shuttle copies a box from scratch to global memory. -/
  | shtCopyout (x : Nat) (y : Nat) (fs : Nat)
  /-- SHT_GATHER (R187): Shuttle gathers indexed rows into scratch. -/
  | shtGather (x : Nat) (y : Nat) (fs : Nat)
  /-- SHT_STASH (R187): Maps a scratch page onto a global page. -/
  | shtStash (x : Nat) (y : Nat) (fs : Nat)
  /-- SHT_UNSTASH (R187): Writes back and unmaps a stash page. -/
  | shtUnstash (x : Nat) (y : Nat) (fs : Nat)
  /-- SHT_FILL (R187): Fills a scratch box with a scalar word. -/
  | shtFill (x : Nat) (y : Nat) (fs : Nat)
  /-- SHUTTLE_COMMAND_COMPLETE (R342): A shuttle command finishes its chunks, lowers the sh path, and on a chunk fault invalidates its tagged clasp and holds the error. -/
  | shuttleComplete (k : Nat)
  /-- TBEGIN (R105): Opens a transaction for the active lanes. -/
  | tbegin (soff : Nat) (loff : Nat)
  /-- TEND (R108): Commits the outermost transaction or lowers the depth. -/
  | tend (x : Nat)
  /-- TABORT (R191): Aborts the transaction with code EXPLICIT. -/
  | tabort (arg : Nat)
  /-- TSERIAL (R111): Waits for the serial token and opens a serial transaction. -/
  | tserial (soff : Nat) (loff : Nat)
  /-- IADD (R198): Lane integer add. -/
  | iadd (f : LaneF)
  /-- ISUB (R198): Lane integer subtract. -/
  | isub (f : LaneF)
  /-- IMUL (R198): Lane low product. -/
  | imul (f : LaneF)
  /-- IMULH (R198): Lane high product. -/
  | imulh (f : LaneF)
  /-- IMAD (R198): Lane multiply-add. -/
  | imad (f : LaneF)
  /-- IMADW (R199): Lane 64-bit multiply-add into a pair. -/
  | imadw (f : LaneF)
  /-- IAND (R198): Lane AND. -/
  | iand (f : LaneF)
  /-- IOR (R198): Lane OR. -/
  | ior (f : LaneF)
  /-- IXOR (R198): Lane XOR. -/
  | ixor (f : LaneF)
  /-- TERN (R198): Lane ternary bitwise function by table. -/
  | tern (f : LaneF)
  /-- SHL_LANE (R199): Lane shift left. -/
  | shlL (f : LaneF)
  /-- SHR_LANE (R199): Lane logical shift right. -/
  | shrL (f : LaneF)
  /-- SAR_LANE (R199): Lane arithmetic shift right. -/
  | sarL (f : LaneF)
  /-- SHF (R199): Lane funnel shift. -/
  | shf (f : LaneF)
  /-- IMIN (R198): Lane integer minimum. -/
  | imin (f : LaneF)
  /-- IMAX (R198): Lane integer maximum. -/
  | imax (f : LaneF)
  /-- IABS (R199): Lane absolute value. -/
  | iabs (f : LaneF)
  /-- ICMP (R200): Lane integer compare into a scalar mask quad. -/
  | icmp (f : LaneF)
  /-- SEL (R200): Lane select by a captured mask quad. -/
  | sel (f : LaneF)
  /-- POPC_LANE (R198): Lane population count. -/
  | popcL (f : LaneF)
  /-- CLZ_LANE (R198): Lane leading zeros. -/
  | clzL (f : LaneF)
  /-- BREV_LANE (R198): Lane bit reverse. -/
  | brevL (f : LaneF)
  /-- BFE_LANE (R199): Lane bit field extract. -/
  | bfeL (f : LaneF)
  /-- BFI_LANE (R199): Lane bit field insert. -/
  | bfiL (f : LaneF)
  /-- PRMT (R199): Lane byte permute. -/
  | prmt (f : LaneF)
  /-- MOV_LANE (R201): Lane move of a register, scalar or immediate. -/
  | movL (f : LaneF)
  /-- IADDC (R199): Lane 64-bit add with carry. -/
  | iaddc (f : LaneF)
  /-- LANE (R201): Writes the lane or global lane index. -/
  | laneId (f : LaneF)
  /-- FADD (R202): Lane FP32 add. -/
  | fadd (f : LaneF)
  /-- FMUL (R202): Lane FP32 multiply. -/
  | fmul (f : LaneF)
  /-- FFMA (R132): Lane fused multiply-add. -/
  | ffma (f : LaneF)
  /-- FMIN (R203): Lane FP minimum. -/
  | fmin (f : LaneF)
  /-- FMAX (R203): Lane FP maximum. -/
  | fmax (f : LaneF)
  /-- FCMP (R203): Lane FP compare into a mask quad. -/
  | fcmp (f : LaneF)
  /-- FRND (R202): Rounds to an integral FP32 value. -/
  | frnd (f : LaneF)
  /-- FSCL (R202): Scales by a power of two from an E8M0 byte. -/
  | fscl (f : LaneF)
  /-- HADD2 (R202): Packed 16-bit add. -/
  | hadd2 (f : LaneF)
  /-- HMUL2 (R202): Packed 16-bit multiply. -/
  | hmul2 (f : LaneF)
  /-- HFMA2 (R202): Packed 16-bit fused multiply-add. -/
  | hfma2 (f : LaneF)
  /-- RCP (R205): Reciprocal. -/
  | rcp (f : LaneF)
  /-- RSQ (R205): Reciprocal square root. -/
  | rsq (f : LaneF)
  /-- SQRT (R205): Correctly rounded square root. -/
  | sqrt (f : LaneF)
  /-- EXP2 (R205): Power of two. -/
  | exp2 (f : LaneF)
  /-- LOG2 (R205): Base-two logarithm. -/
  | log2 (f : LaneF)
  /-- SIN (R205): Sine. -/
  | sin (f : LaneF)
  /-- COS (R205): Cosine. -/
  | cos (f : LaneF)
  /-- TANH (R205): Hyperbolic tangent. -/
  | tanh (f : LaneF)
  /-- CVT (R208): Converts one element between formats. -/
  | cvt (f : LaneF)
  /-- PACK8 (R209): Narrows four registers into 8-bit elements. -/
  | pack8 (f : LaneF)
  /-- PACK4 (R209): Narrows eight registers into 4-bit elements. -/
  | pack4 (f : LaneF)
  /-- UNPK (R209): Widens packed elements into several registers. -/
  | unpk (f : LaneF)
  /-- DOT8 (R210): 8-bit float dot product accumulate. -/
  | dot8 (f : LaneF)
  /-- DOT4 (R210): 4-bit float dot product accumulate. -/
  | dot4 (f : LaneF)
  /-- IDOT4 (R210): 4-bit integer dot product accumulate. -/
  | idot4 (f : LaneF)
  /-- IDOT8 (R210): 8-bit integer dot product accumulate. -/
  | idot8 (f : LaneF)
  /-- DOTH2 (R210): 16-bit float dot product accumulate. -/
  | doth2 (f : LaneF)
  /-- SHFL (R212): Cross-lane shuffle within segments. -/
  | shfl (f : LaneF)
  /-- BALLOT (R213): Writes a mask quad of non-zero active lanes. -/
  | ballot (f : LaneF)
  /-- REDL (R133): Tree reduction of lanes to a scalar. -/
  | redl (f : LaneF)
  /-- SCAN (R134): Inclusive or exclusive prefix across lanes. -/
  | scan (f : LaneF)
  /-- V2S (R213): Moves one lane's value to a scalar. -/
  | v2s (f : LaneF)
  /-- VOTE (R213): Votes over active lanes into a scalar. -/
  | vote (f : LaneF)
  /-- LD (R220): Global lane load on the ld path. -/
  | ld (f : LaneF)
  /-- ST (R220): Global lane store on the st path. -/
  | st (f : LaneF)
  /-- LDSC (R220): Scratch lane load. -/
  | ldsc (f : LaneF)
  /-- STSC (R220): Scratch lane store. -/
  | stsc (f : LaneF)
  /-- LDWN (R223): Register window load. -/
  | ldwn (f : LaneF)
  /-- STWN (R223): Register window store. -/
  | stwn (f : LaneF)
  /-- ATOM (R225): Global lane atomic, returning. -/
  | atom (f : LaneF)
  /-- ATOMSC (R225): Scratch lane atomic, returning. -/
  | atomsc (f : LaneF)
  /-- RED (R226): Non-returning reduction through the combining buffer. -/
  | red (f : LaneF)
  /-- PREF (R227): Prefetches lines, optionally pinning them. -/
  | pref (f : LaneF)
  /-- MMA (R232): Posts a member's matrix multiply for pairing with its quad. -/
  | mma (f : LaneF)
  /-- MMA_MEET (R231): When all four members have posted a position, the joint MMA runs on the arrays. -/
  | mmaMeet (k : Nat)
  /-- MOPF (R234): Holds the next matrix issue until operand writes are visible to the engine. -/
  | mopf (f : LaneF)
  /-- MBATCH (R235): Closes the open batch and raises the mx counter. -/
  | mbatch (f : LaneF)
  /-- BATCH_RETIRE (R235): A batch whose operations have completed retires in order and lowers the mx counter. -/
  | batchRetire (k : Nat)
  /-- MSTORE (R239): Converts accumulator rows and stores them, with MX scales and amax. -/
  | mstore (f : LaneF)
  /-- MZERO (R236): Zeroes 32 accumulator registers in matrix order. -/
  | mzero (f : LaneF)
  /-- LNOP (R151): Lane no-operation. -/
  | lnop (f : LaneF)
  /-- TRAP_ENTRY (R323): After draining ld, sc and at, writes the frame and enters the trap handler. -/
  | trapEntry (k : Nat)
  /-- WEAVE_RETIRE (R67): A weave retires once its strands, paths and children are done, releasing its resources. -/
  | weaveRetire (w : Nat)
  /-- BOLT_COMPLETE (R68): When the summed retire count reaches the size, stores are made visible and the signal written. -/
  | boltComplete (b : Nat)
  /-- QWR_WRITE (R244): Software publishes packets by writing QWR as a release. -/
  | qwrWrite (ln : Nat) (v : Nat)
  /-- WRITE_SIGNAL (R245): Packet that stores a 64-bit signal as a release. -/
  | writeSignal (ln : Nat)
  /-- WAIT_SIGNAL (R246): Packet that holds its queue until a signal condition holds. -/
  | waitSignal (ln : Nat)
  /-- LAUNCH_IND (R250): Packet that runs a prologue on the command core lane. -/
  | launchInd (ln : Nat)
  /-- LAUNCH_PACKET (R245): Packet that launches a bolt from a descriptor. -/
  | launchPacket (ln : Nat)
  /-- COPY (R247): Packet that issues a copy through the home slices. -/
  | copy (ln : Nat)
  /-- COPY_COMPLETE (R246): A COPY's writes become visible at system scope. -/
  | copyComplete (ln : Nat)
  /-- MARKER (R308): Packet that writes a front-end trace block. -/
  | marker (ln : Nat)
  /-- SKIP (R355): Clears the queue fault and advances past the packet. -/
  | skip (ln : Nat)
  /-- RETRY (R355): Clears the queue fault and starts the packet again. -/
  | retry (ln : Nat)
  /-- WEAVE_ADMISSION (R255): A dispatcher places a waiting weave once it fits slots, carve and budget. -/
  | weaveAdmission (p : Nat) (die : Nat) (c : Nat)
  /-- CONTROL_INTERVAL_BOUNDARY (R273): Every 2 us the power manager picks rails, slides the budget, restores allowances and applies knob changes. -/
  | controlBoundary (m : IntervalIn)
  /-- RAIL_CHANGE (R274): A cluster's rail change completes within 20 ns. -/
  | railChange (clu : Nat)
  /-- SLEW_STEP (R275): Each 20 ns step wakes at most SLEW idle clusters in rotating order. -/
  | slewStep (p : Nat)
  /-- DECISION (R265): At each learner interval, latches sensors, scores, updates Q, chooses and shields an action. -/
  | decision (p : Nat) (sens : List (Nat × Nat))
  /-- LCFG_WRITE (R271): Writes learner configuration; writing EN sets the anchor or stops decisions. -/
  | lcfgWrite (p : Nat) (v : Nat)
  /-- LCFG2_WRITE (R265): Writes interval, exploration and recovery fields, moving the anchor. -/
  | lcfg2Write (p : Nat) (v : Nat)
  /-- KNOB_WRITE (R261): Software writes a knob, clamped, taking effect at a control boundary. -/
  | knobWrite (p : Nat) (kid : Nat) (v : Nat)
  /-- PERIODIC_HALLMARK (R284): After HMPER ms a signed hallmark of the meters is written to the ring. -/
  | periodicHallmark (p : Nat)
  /-- CONTEXT_END_REQUEST (R284): Write of GO at 0x8020 requests a context-end hallmark. -/
  | contextEndRequest (p : Nat) (v : Nat)
  /-- CONTEXT_END_HALLMARK (R284): Once the context's accesses drain, its hallmark is taken at a control boundary. -/
  | contextEndHallmark (p : Nat) (c : Nat)
  /-- ANCHOR_WRITE (R362): Every 10 s, or on retry after failure, the meter anchor is written to flash. -/
  | anchorWrite (ok : Nat)
  /-- COLD_BOOT (R288): Verifies images, regenerates keys and resumes meters from the anchor. -/
  | coldBoot (r : BootRec)
  /-- PRST_GO (R367): Resets one partition: stop queues, kill contexts, flush L2, reset registers. -/
  | prstGo (v : Nat)
  /-- FUNCTION_LEVEL_RESET (R297): CXL function-level reset of a partition function, or of function 0's CXL.io state. -/
  | functionLevelReset (fn : Nat)
  /-- HOST_CXL_MEM_ACCESS (R298): A host access performed at the line's home slice as a system-scope agent. -/
  | hostCxlAccess (wr : Nat) (a : Nat) (size : Nat) (v : Nat)
  /-- COMPLETION_TIMEOUT (R365): No host completion within 50 ms completes the access as poison. -/
  | completionTimeout (k : Nat) (path : Nat)
  /-- POISON_RECEIVED (R365): Poison received from the host is handled as poisoned data. -/
  | poisonReceived (k : Nat) (path : Nat)
  /-- SAVE (R333): Pre-empts a context and writes its save area. -/
  | save (p : Nat) (v : Nat)
  /-- RESTORE (R335): Restores a saved context to its slots. -/
  | restore (p : Nat) (v : Nat)
  /-- KILL (R336): Abandons a context and ends its bolts. -/
  | kill (p : Nat) (v : Nat)
  /-- TIMEOUT (R331): The watchdog raises TIMEOUT on a strand stuck too long in a clasp or quad wait. -/
  | timeout (k : Nat)
  /-- ATTR_TRANSITION_GO (R90): Starts an attribute transition run over a page range. -/
  | attrGo (p : Nat) (v : Nat)
  /-- ATTR_TRANSITION_SIGNAL (R90): After drain, write-back, entry change and shoot-down, writes the completion word. -/
  | attrSignal (p : Nat)
  /-- PIN_CLR (R349): Releases every pin of a context. -/
  | pinClr (p : Nat) (c : Nat)
  /-- HALT (R302): DCMD 1 halts a strand. -/
  | halt (p : Nat)
  /-- RESUME (R302): DCMD 2 resumes a halted strand. -/
  | resume (p : Nat)
  /-- STEP_ONE_ITEM (R302): DCMD 3 steps one item. -/
  | stepOne (p : Nat)
  /-- STEP_TO_NEXT_HEADER (R302): DCMD 4 steps to the next header. -/
  | stepHeader (p : Nat)
  /-- DSTOPRD_WRITE (R305): Software consumes stop records, letting waiting records enter the queue. -/
  | dstoprdWrite (p : Nat) (v : Nat)
  /-- SAMPLE (R306): At every P-th cycle a core samples one resident strand into the ring. -/
  | sample (core : Nat)
  /-- SEN_WRITE (R315): Enabling sampling resets counters and takes up ring settings. -/
  | senWrite (p : Nat) (v : Nat)
  /-- TEN_WRITE (R311): Enabling or disabling trace takes up or ends the streams. -/
  | tenWrite (p : Nat) (v : Nat)
  /-- TSYNC (R302): Requests a SYNC from every traced strand. -/
  | tsync (p : Nat)
  /-- TRACE_BLOCK_TIMEOUT (R308): A trace block is written 1 us after its last packet. -/
  | traceTimeout (k : Nat)
  /-- TRD_WRITE (R319): Freeing trace slots writes held blocks and lets strands write LOSS and SYNC. -/
  | trdWrite (p : Nat) (v : Nat)
  /-- DFREEZE (R353): Freezes the partition's memory system for a dump. -/
  | dfreeze (p : Nat) (v : Nat)
  /-- REGISTER_WRITE (R185): Write of a control register with no behaviour of its own. -/
  | registerWrite (p : Nat) (off : Nat) (v : Nat)
  /-- PEER_UIO_REQUEST (R300): A peer device's unordered I/O request to this device's HDM arrives, and the home slice performs it, including an ATOM or RED as one read-modify-write. -/
  | peerUio (wr : Nat) (a : Nat) (size : Nat) (v : Nat)
  /-- RET (R166): Pops the return stack and continues there. -/
  | ret
  /-- BACK_EDGE (R58): After the end clause, rewinds the loop, steps RB and STAGE and refills ITEM lanes, or exits. -/
  | backEdge
  /-- LBRK (R61): LEXIT of every active lane. -/
  | lbrk
  /-- RFT (R326): Returns from the trap handler to the saved item. -/
  | rft
  /-- EXIT (R53): Removes active lanes from LIVE; the strand retires when LIVE empties. -/
  | exit
  /-- COMMAND_CORE_ROUND (R248): The command core runs each present packet type under its lane mask in fixed order. -/
  | ccRound
  /-- ORDERLY_SHUTDOWN (R287): At orderly shutdown an anchor is written. -/
  | orderlyShutdown
  /-- WARM_RESET (R286): Warm reset of the package, keeping the always-on island. -/
  | warmReset
  /-- LINK_DOWN (R365): Link down or IDE failure poisons loads to system space and drops stores. -/
  | linkDown
  /-- LINK_UP (R365): The host link retrains and returns after being down, so host CXL.mem accesses resume and device accesses to system space stop completing as poison. -/
  | linkUp
  /-- COLD_POWER_LOSS (R287): Supply is lost without an orderly shutdown; volatile state and the energy metered since the last anchor are lost. -/
  | coldPowerLoss
  /-- SENSOR_FAULT (R361): A metering source fails or recovers and is replaced by estimate. -/
  | sensorFault (p : Nat) (bit : Nat) (idx : Nat) (bad : Nat)
  /-- ECC_ERROR (R344): A stored bit in a register file, scratch, cache or DRAM is upset and becomes a correctable or uncorrectable error, poisoning the only copy. -/
  | eccError (lvl : Nat) (k : Nat) (a : Nat) (b : Nat) (fixed : Nat)
  deriving DecidableEq, Repr

end Sys2Proof
end

