-- ==== Sys2Proof/WellFormed.lean ====
section
/-!
DEFINITION. Which instructions the encodings allow: every test that reads field values alone (spec/05 R136 to R142, R148;
spec/06; spec/07 R193 to R196; spec/08 R216, R220 to R241).  A word or lane instruction that breaks one raises ILLEGAL.
-/
namespace Sys2Proof

/-- A scalar register number (R139). -/
def isReg (r : Nat) : Bool := decide (r < 384)
def isPair (r : Nat) : Bool := decide (r < 384) && r % 2 == 0
def isQuad (r : Nat) : Bool := decide (r < 384) && r % 4 == 0
/-- A 12-register save area (R139). -/
def isSave (r : Nat) : Bool := decide (r ≤ 372) && r % 4 == 0

/-- The special registers that SGET names (R144). -/
def isSpr (y : Nat) : Bool := decide (y ≤ 0x0E) || (decide (0x10 ≤ y) && decide (y ≤ 0x15)) || (decide (0x20 ≤ y) && decide (y < 0x60))
/-- The special registers that SSET may write (R144). -/
def isSprW (y : Nat) : Bool := decide (y ≤ 3) || (decide (8 ≤ y) && decide (y ≤ 0x0C)) || y == 0x0E

/-- The second operand of the MSK sub-ops (R169). -/
def isMaskOp (y z : Nat) : Bool := (z == 0 && isQuad y) || ((z == 1 || z == 2) && y == 0)

/-- A placement coordinate: placed, or unplaced with its reserved bits zero (R145). -/
def isCoord (c : Nat) : Bool := decide (c < 2) || (decide (256 ≤ c) && decide (c < 512))

def isFlagSel (a : Nat) : Bool := decide (a ≤ 11) || a == 15

/-- The widths of the fields of a lane instruction (R141). -/
def LaneF.inRange (f : LaneF) : Bool :=
  decide (f.vd < 256) && decide (f.va < 256) && decide (f.vb < 256) && decide (f.vc < 256) && decide (f.stg < 8)
    && decide (f.fs < 2) && decide (f.bsrc < 3) && decide (f.rnd < 4) && decide (f.sub < 256) && decide (f.mod < 256)
    && decide (f.imm < 2 ^ 32)

/-- The B operand of an instruction that has one: VB alone, a captured scalar, or an immediate (R141, R142, R195, R215). -/
def LaneF.bOk (f : LaneF) : Bool :=
  match f.bsrc with
  | 0 => f.imm == 0
  | 1 => f.vb == 0 && decide (f.imm < 384)
  | _ => f.vb == 0

/-- An instruction without a B operand (R195). -/
def LaneF.noB (f : LaneF) : Bool := f.vb == 0 && f.bsrc == 0 && f.imm == 0

/-- The arithmetic lane instructions: which registers they use, whether SUB is listed, which MOD bits they accept, and
whether they round (R142, R193, R195, R196). -/
def LaneF.arith (f : LaneF) (a b c : Bool) (subOk : Bool) (mods : Nat) (rnd : Bool) : Bool :=
  f.inRange && f.fs == 0 && (a || f.va == 0) && (if b then f.bOk else f.noB) && (c || f.vc == 0) && subOk
    && (f.mod &&& (255 - mods)) == 0 && (rnd || f.rnd == 0)

/-- Elements per word of a conversion code (R207). -/
def cvtN (c : Nat) : Nat :=
  if c = 0 ∨ c = 6 ∨ c = 7 then 1 else if c = 1 ∨ c = 2 ∨ c = 8 ∨ c = 9 then 2
  else if c = 5 ∨ c = 12 ∨ c = 13 then 8 else 4

/-- The floating-point conversion codes FP32 to E2M1. -/
def cvtIsFloat (c : Nat) : Bool := decide (c ≤ 5)

/-- CVT: codes, element indices and modifiers (R208).  E8M0 is not counted among the floating-point formats whose sources take NA and
AA: the bits are ILLEGAL there (log 23). -/
def LaneF.cvtOk (f : LaneF) : Bool :=
  let src := f.sub / 16; let dst := f.sub % 16
  f.inRange && f.fs == 0 && f.vb == 0 && f.vc == 0 && f.bsrc == 0 && src != 15 && dst != 15 && src != dst
    && decide (f.imm % 8 < cvtN src) && decide (f.imm / 16 % 8 < cvtN dst) && f.imm == f.imm % 8 + 16 * (f.imm / 16 % 8)
    && (f.mod &&& (255 - (if cvtIsFloat src then 18 else 0))) == 0

/-- PACK8, PACK4 and UNPK: the listed codes, SUB[7] for float codes alone, B only when it is set (R209). -/
def LaneF.packOk (f : LaneF) (codes : List Nat) : Bool :=
  let sc := f.sub / 128 == 1
  f.inRange && f.fs == 0 && f.vc == 0 && f.mod == 0 && codes.contains (f.sub % 16) && f.sub / 16 % 8 == 0
    && (if sc then f.bOk && cvtIsFloat (f.sub % 16) else f.noB)

/-- The dot instructions: IMM holds the scales when BSRC is 00 (R210, R211). -/
def LaneF.dotOk (f : LaneF) (subs mods : Nat) : Bool :=
  f.inRange && f.fs == 0 && f.rnd == 0 && decide (f.sub < subs) && decide (f.mod < mods)
    && (if f.bsrc = 0 then decide (f.imm < 2 ^ 16) else f.bOk)

/-- VC[0] x 256 + VD names a scalar register (R194). -/
def LaneF.sdest (f : LaneF) : Nat := f.vc * 256 + f.vd
def LaneF.sdestOk (f : LaneF) : Bool := decide (f.vc < 2) && decide (f.sdest < 384)

/-- V2S: a uniform B, or the first form without B (R213). -/
def LaneF.v2sOk (f : LaneF) : Bool :=
  f.inRange && f.fs == 0 && f.mod == 0 && f.rnd == 0 && f.sdestOk
    && ((f.sub == 0 && f.bsrc != 0 && f.bOk) || (f.sub == 1 && f.noB))

/-- The address fields of OP 0x70 to 0x79 (R217): g for the global spaces. -/
def LaneF.addrOk (f : LaneF) (g : Bool) : Bool :=
  f.inRange && f.vb == 0 && f.rnd == 0
    && (f.bsrc == 0 || (f.bsrc == 1 && decide (f.imm % 512 < 384) && (!g || f.imm % 2 == 0)))

/-- ORD and SCOPE of a load or store (R216): acq is the accepted ordered code. -/
def LaneF.ordOk (f : LaneF) (acq hints : Nat) : Bool :=
  decide (f.sub < 32) && (f.sub / 8 == 0 || f.sub / 8 == acq) && decide (f.mod % 8 ≤ 5) && (f.sub / 8 != 0 || f.mod % 8 == 0)
    && (f.mod &&& (255 - (7 + hints))) == 0

/-- Loads (R220): largest SIZE, hints. -/
def LaneF.loadOk (f : LaneF) (g : Bool) (maxSize hints : Nat) : Bool :=
  f.addrOk g && f.ordOk 1 hints && decide (f.sub % 8 ≤ maxSize) && (if f.mod / 16 % 2 = 1 then decide (f.vc ≤ 95) else f.vc == 0)

/-- Stores (R220). -/
def LaneF.storeOk (f : LaneF) (g : Bool) (sizes : List Nat) (hints : Nat) : Bool :=
  f.addrOk g && f.ordOk 2 hints && sizes.contains (f.sub % 8) && f.vd == 0

/-- ATOM and ATOMSC (R224, R225). -/
def LaneF.atomOk (f : LaneF) (g : Bool) : Bool :=
  f.addrOk g && decide (f.sub < 64) && decide (f.mod ≤ 5) && (f.sub / 16 != 0 || f.mod == 0)

/-- RED (R224, R226). -/
def LaneF.redOk (f : LaneF) : Bool :=
  f.atomOk true && f.vd == 0 && (f.sub / 16 == 0 || f.sub / 16 == 2) && !([8, 9, 14, 15].contains (f.sub % 16))

/-- PREF (R227). -/
def LaneF.prefOk (f : LaneF) : Bool :=
  f.addrOk true && decide (f.sub < 2) && (f.mod &&& 231) == 0 && f.vc == 0
    && (if f.mod / 16 % 2 = 1 then decide (f.vd ≤ 95) else f.vd == 0)

/-- MMA (R230); IMM is read by FMT.SCALE when it runs. -/
def LaneF.mmaOk (f : LaneF) : Bool :=
  f.inRange && f.vc == 0 && f.fs == 0 && f.bsrc == 0 && f.rnd == 0 && f.sub == 0 && decide (f.mod < 2)

/-- MOPF, MBATCH, MZERO, LNOP: every field zero but STG and those named (R234 to R236, R151). -/
def LaneF.bareOk (f : LaneF) (vd fs : Bool) : Bool :=
  f.inRange && (vd || f.vd == 0) && f.va == 0 && f.vc == 0 && f.noB && (fs || f.fs == 0) && f.rnd == 0 && f.sub == 0 && f.mod == 0

/-- MSTORE (R238). -/
def LaneF.mstoreOk (f : LaneF) : Bool :=
  let dst := f.sub % 16; let sc := f.sub / 16 % 4; let amax := f.sub / 64 % 2; let nc := fld f.imm 17 5 + 1
  f.inRange && f.vd == 0 && f.vb == 0 && f.mod == 0 && [0, 1, 2, 3, 4, 5, 6, 10, 11].contains dst && decide (sc ≤ 2)
    && f.bsrc == amax && (if amax = 1 then decide (f.imm % 512 < 384) && f.imm % 2 == 0 else f.imm % 512 == 0)
    && (sc == 2 || fld f.imm 9 8 == 0) && decide (f.imm < 2 ^ 22)
    && (sc != 1 || ([3, 4, 5].contains dst && nc == 32)) && (sc != 2 || decide (dst ≤ 5)) && (dst != 5 || nc % 2 == 0)

/-- Well-formedness of every instruction; an event's operands are checked where it runs. -/
def Instr.wf : Instr → Bool
  | .clauseHeader wm sa sb nl ns => decide (wm < 4096) && isFlagSel sa && isFlagSel sb && decide (nl < 8) && decide (ns < 8)
  | .add d a b => isReg d && isReg a && decide (b < 256)
  | .sub d a b => isReg d && isReg a && decide (b < 256)
  | .mul d a b => isReg d && isReg a && decide (b < 256)
  | .mulh d a b => isReg d && isReg a && decide (b < 256)
  | .mulhu d a b => isReg d && isReg a && decide (b < 256)
  | .and d a b => isReg d && isReg a && decide (b < 256)
  | .or d a b => isReg d && isReg a && decide (b < 256)
  | .xor d a b => isReg d && isReg a && decide (b < 256)
  | .andn d a b => isReg d && isReg a && decide (b < 256)
  | .shl d a b => isReg d && isReg a && decide (b < 256)
  | .shr d a b => isReg d && isReg a && decide (b < 256)
  | .sar d a b => isReg d && isReg a && decide (b < 256)
  | .min d a b => isReg d && isReg a && decide (b < 256)
  | .max d a b => isReg d && isReg a && decide (b < 256)
  | .minu d a b => isReg d && isReg a && decide (b < 256)
  | .maxu d a b => isReg d && isReg a && decide (b < 256)
  | .seq d a b => isReg d && isReg a && decide (b < 256)
  | .sne d a b => isReg d && isReg a && decide (b < 256)
  | .slt d a b => isReg d && isReg a && decide (b < 256)
  | .sltu d a b => isReg d && isReg a && decide (b < 256)
  | .addi d a imm => isReg d && isReg a && decide (imm < 256)
  | .andi d a imm => isReg d && isReg a && decide (imm < 256)
  | .ori d a imm => isReg d && isReg a && decide (imm < 256)
  | .xori d a imm => isReg d && isReg a && decide (imm < 256)
  | .shli d a imm => isReg d && isReg a && decide (imm < 32)
  | .shri d a imm => isReg d && isReg a && decide (imm < 32)
  | .sari d a imm => isReg d && isReg a && decide (imm < 32)
  | .slti d a imm => isReg d && isReg a && decide (imm < 256)
  | .movi d imm => isReg d && decide (imm < 2 ^ 17)
  | .movhi d imm => isReg d && decide (imm < 2 ^ 17)
  | .popc d a => isReg d && isReg a
  | .clz d a => isReg d && isReg a
  | .ctz d a => isReg d && isReg a
  | .brev d a => isReg d && isReg a
  | .bfe d ctl => isReg d && decide (ctl < 2048)
  | .bfi d a => isReg d && isPair a
  | .mov d a => isReg d && isReg a
  | .not d a => isReg d && isReg a
  | .sext8 d a => isReg d && isReg a
  | .sext16 d a => isReg d && isReg a
  | .lds d p fs off => isReg d && decide (p < 192) && decide (fs < 2) && decide (off < 256)
  | .lds2 d p fs off => isPair d && decide (p < 192) && decide (fs < 2) && decide (off < 256)
  | .lds4 d p fs off => isQuad d && decide (p < 192) && decide (fs < 2) && decide (off < 256)
  | .sts d p fs off => isReg d && decide (p < 192) && decide (fs < 2) && decide (off < 256)
  | .sts2 d p fs off => isPair d && decide (p < 192) && decide (fs < 2) && decide (off < 256)
  | .atoms d p fs opc ord scope => isReg d && decide (p < 192) && decide (fs < 2) && decide (opc < 7) && decide (ord < 4) && decide (scope ≤ 5) && (ord != 0 || scope == 0) && (opc != 6 || d % 2 == 0)
  | .retComplete _ _ => true
  | .srcComplete _ _ => true
  | .bra soff loff => decide (soff < 2 ^ 17) && decide (loff < 2 ^ 32)
  | .bz r soff loff => isReg r && decide (soff < 2 ^ 17) && decide (loff < 2 ^ 32)
  | .bnz r soff loff => isReg r && decide (soff < 2 ^ 17) && decide (loff < 2 ^ 32)
  | .bexz soff loff => decide (soff < 2 ^ 17) && decide (loff < 2 ^ 32)
  | .call soff loff => decide (soff < 2 ^ 17) && decide (loff < 2 ^ 32)
  | .ret => true
  | .calli x y => isPair x && isReg y
  | .jmpi x y => isPair x && isReg y
  | .callv x y => decide (x < 256) && decide (y < 512)
  | .jmpv x y => decide (x < 256) && decide (y < 512)
  | .msplit c sv soff loff => isQuad c && isSave sv && decide (soff < 2 ^ 16) && decide (loff < 2 ^ 16)
  | .mjoin sv => isSave sv
  | .mset y z => isMaskOp y z
  | .mget x y z => isQuad x && isMaskOp y z
  | .mand x y z => isQuad x && isMaskOp y z
  | .mor x y z => isQuad x && isMaskOp y z
  | .mnot x y z => isQuad x && isMaskOp y z
  | .mpopc x y z => isReg x && isMaskOp y z
  | .loop lvl cnt nstg rot item ireg send llen => decide (lvl < 4) && isReg cnt && decide (1 ≤ nstg) && decide (nstg < 8) && decide (rot < 2) && decide (item < 2) && decide (ireg < 256) && decide (2 ≤ send) && decide (send < 2 ^ 16) && decide (llen < 2 ^ 16) && (item == 0 || nstg == 1) && (item == 1 || ireg == 0)
  | .backEdge => true
  | .lexit x => isQuad x
  | .lbrk => true
  | .rotset base size => decide (base < 256) && decide (1 ≤ size) && decide (size ≤ 128)
  | .skput x y z => isReg x && isReg y && decide (z < 2)
  | .ldepth x => isReg x
  | .waitp path i n => decide (path ≤ 5) && ((i == 1 && decide (n < 1024)) || (i == 0 && isReg n))
  | .fence kind scope => decide (kind < 4) && decide (scope ≤ 5)
  | .claspInit x h => isReg x && decide (h < 16)
  | .claspArrive x h => isReg x && decide (h < 16)
  | .claspArrivetx x h => isReg x && decide (h < 16)
  | .heldArrival _ _ => true
  | .claspWait x h => isReg x && decide (h < 16)
  | .claspTest x h => isReg x && decide (h < 16)
  | .claspInval h => decide (h < 16)
  | .claspReg x h bolt => decide (h < 16) && ((bolt == 0 && isReg x) || (bolt == 1 && isPair x))
  | .claspUnreg h => decide (h < 16)
  | .attach x coord role => isQuad x && isCoord coord && decide (role < 3)
  | .detach x => isReg x
  | .departure _ => true
  | .yieldq x => isReg x
  | .count x => isReg x
  | .grow x role => isReg x && decide (role < 3)
  | .growDecided _ => true
  | .shrink x role => isReg x && decide (role < 3)
  | .who x y z => isReg x && ((z == 0 && y == 0) || (z == 1 && isReg y))
  | .launch d p => isReg d && decide (p < 192)
  | .sget x y => isReg x && isSpr y
  | .sset x y => isReg x && isSprW y
  | .trap code => decide (code < 2048)
  | .rft => true
  | .exit => true
  | .bkpt id => decide (id < 2048)
  | .prog id => decide (id < 256)
  | .csrr x y => isReg x && isReg y
  | .csrw x y => isReg x && isReg y
  | .go x => isQuad x
  | .cancel x => isReg x
  | .repeatGo x => isQuad x
  | .shtCopyin x y fs => isQuad x && isQuad y && decide (fs < 2)
  | .shtCopyout x y fs => isQuad x && isQuad y && decide (fs < 2)
  | .shtGather x y fs => isQuad x && isQuad y && decide (fs < 2)
  | .shtStash x y fs => isReg x && isPair y && decide (fs < 2)
  | .shtUnstash x y fs => isReg x && isPair y && decide (fs < 2)
  | .shtFill x y fs => isQuad x && isReg y && decide (fs < 2)
  | .shuttleComplete _ => true
  | .tbegin soff loff => decide (soff < 2 ^ 16) && decide (loff < 2 ^ 16)
  | .tend x => isQuad x
  | .tabort arg => decide (arg < 256)
  | .tserial soff loff => decide (soff < 2 ^ 16) && decide (loff < 2 ^ 16)
  | .iadd f => f.arith true true false (decide (f.sub < 2)) 1 false
  | .isub f => f.arith true true false (decide (f.sub < 2)) 1 false
  | .imul f => f.arith true true false (f.sub == 0) 0 false
  | .imulh f => f.arith true true false (decide (f.sub < 2)) 0 false
  | .imad f => f.arith true true true (decide (f.sub < 2)) 1 false
  | .imadw f => f.arith true true true (decide (f.sub < 2)) 0 false
  | .iand f => f.arith true true false (f.sub == 0) 0 false
  | .ior f => f.arith true true false (f.sub == 0) 0 false
  | .ixor f => f.arith true true false (f.sub == 0) 0 false
  | .tern f => f.arith true true true (true) 0 false
  | .shlL f => f.arith true true false (decide (f.sub < 2)) 0 false
  | .shrL f => f.arith true true false (decide (f.sub < 2)) 0 false
  | .sarL f => f.arith true true false (decide (f.sub < 2)) 0 false
  | .shf f => f.arith true true true (decide (f.sub < 2)) 0 false
  | .imin f => f.arith true true false (decide (f.sub < 2)) 0 false
  | .imax f => f.arith true true false (decide (f.sub < 2)) 0 false
  | .iabs f => f.arith true false false (f.sub == 0) 1 false
  | .icmp f => f.arith true true false (decide (f.sub < 16) && decide (f.sub % 8 ≤ 5)) 0 false && decide (f.vd ≤ 95)
  | .sel f => f.arith true true true (f.sub == 0) 0 false && decide (f.vc ≤ 95)
  | .popcL f => f.arith true false false (f.sub == 0) 0 false
  | .clzL f => f.arith true false false (f.sub == 0) 0 false
  | .brevL f => f.arith true false false (f.sub == 0) 0 false
  | .bfeL f => f.arith true true false (decide (f.sub < 2)) 0 false
  | .bfiL f => f.arith true true true (f.sub == 0) 0 false
  | .prmt f => f.arith true true true (f.sub == 0) 0 false
  | .movL f => f.arith false true false (f.sub == 0) 0 false
  | .iaddc f => f.arith true true false (f.sub == 0) 0 false && (f.bsrc != 1 || f.imm % 2 == 0)
  | .laneId f => f.arith false false false (decide (f.sub < 2)) 0 false
  | .fadd f => f.arith true true false (f.sub == 0) 55 true
  | .fmul f => f.arith true true false (f.sub == 0) 55 true
  | .ffma f => f.arith true true true (f.sub == 0) 63 true
  | .fmin f => f.arith true true false (f.sub == 0) 54 false
  | .fmax f => f.arith true true false (f.sub == 0) 54 false
  | .fcmp f => f.arith true true false (decide (f.sub < 8)) 54 false && decide (f.vd ≤ 95)
  | .frnd f => f.arith true false false (f.sub == 0) 18 true
  | .fscl f => f.arith true true false (decide (f.sub < 4)) 18 true
  | .hadd2 f => f.arith true true false (decide (f.sub < 2)) 7 true
  | .hmul2 f => f.arith true true false (decide (f.sub < 2)) 7 true
  | .hfma2 f => f.arith true true true (decide (f.sub < 2)) 15 true
  | .rcp f => f.arith true false false (f.sub == 0) 18 false
  | .rsq f => f.arith true false false (f.sub == 0) 18 false
  | .sqrt f => f.arith true false false (f.sub == 0) 18 true
  | .exp2 f => f.arith true false false (f.sub == 0) 18 false
  | .log2 f => f.arith true false false (f.sub == 0) 18 false
  | .sin f => f.arith true false false (f.sub == 0) 18 false
  | .cos f => f.arith true false false (f.sub == 0) 18 false
  | .tanh f => f.arith true false false (f.sub == 0) 18 false
  | .cvt f => f.cvtOk
  | .pack8 f => f.packOk [3, 4, 10, 11]
  | .pack4 f => f.packOk [5, 12, 13]
  | .unpk f => f.packOk [1, 2, 3, 4, 5, 8, 9, 10, 11, 12, 13]
  | .dot8 f => f.dotOk 1 1
  | .dot4 f => f.dotOk 1 1
  | .idot4 f => f.dotOk 4 2
  | .idot8 f => f.dotOk 4 2
  | .doth2 f => f.dotOk 1 1
  | .shfl f => f.arith true true false (decide (f.sub < 28)) 0 false
  | .ballot f => f.arith true false false (f.sub == 0) 0 false && decide (f.vd ≤ 95)
  | .redl f => f.arith true false true (decide (f.sub ≤ 10)) 0 (f.sub == 0) && f.sdestOk
  | .scan f => f.arith true false false (decide (f.sub < 32) && decide (f.sub % 16 ≤ 10)) 0 (f.sub % 16 == 0)
  | .v2s f => f.v2sOk
  | .vote f => f.arith true false true (decide (f.sub < 4)) 0 false && f.sdestOk
  | .ld f => f.loadOk true 6 56
  | .st f => f.storeOk true [0, 2, 4, 5, 6] 32
  | .ldsc f => f.loadOk false 6 0
  | .stsc f => f.storeOk false [0, 2, 4, 5, 6] 0
  | .ldwn f => f.loadOk false 4 0
  | .stwn f => f.storeOk false [0, 2, 4] 0
  | .atom f => f.atomOk true
  | .atomsc f => f.atomOk false
  | .red f => f.redOk
  | .pref f => f.prefOk
  | .mma f => f.mmaOk
  | .mmaMeet _ => true
  | .mopf f => f.bareOk false false
  | .mbatch f => f.bareOk false true
  | .batchRetire _ => true
  | .mstore f => f.mstoreOk
  | .mzero f => f.bareOk true false
  | .lnop f => f.bareOk false false
  | .trapEntry _ => true
  | .weaveRetire _ => true
  | .boltComplete _ => true
  | .qwrWrite _ _ => true
  | .ccRound => true
  | .writeSignal _ => true
  | .waitSignal _ => true
  | .launchInd _ => true
  | .launchPacket _ => true
  | .copy _ => true
  | .copyComplete _ => true
  | .marker _ => true
  | .skip _ => true
  | .retry _ => true
  | .weaveAdmission _ _ _ => true
  | .controlBoundary _ => true
  | .railChange _ => true
  | .slewStep _ => true
  | .decision _ _ => true
  | .lcfgWrite _ _ => true
  | .lcfg2Write _ _ => true
  | .knobWrite _ _ _ => true
  | .periodicHallmark _ => true
  | .contextEndRequest _ _ => true
  | .contextEndHallmark _ _ => true
  | .anchorWrite _ => true
  | .orderlyShutdown => true
  | .coldBoot _ => true
  | .warmReset => true
  | .prstGo _ => true
  | .functionLevelReset _ => true
  | .hostCxlAccess _ _ _ _ => true
  | .linkDown => true
  | .completionTimeout _ _ => true
  | .poisonReceived _ _ => true
  | .sensorFault _ _ _ _ => true
  | .save _ _ => true
  | .restore _ _ => true
  | .kill _ _ => true
  | .timeout _ => true
  | .attrGo _ _ => true
  | .attrSignal _ => true
  | .pinClr _ _ => true
  | .halt _ => true
  | .resume _ => true
  | .stepOne _ => true
  | .stepHeader _ => true
  | .dstoprdWrite _ _ => true
  | .sample _ => true
  | .senWrite _ _ => true
  | .tenWrite _ _ => true
  | .tsync _ => true
  | .traceTimeout _ => true
  | .trdWrite _ _ => true
  | .dfreeze _ _ => true
  | .registerWrite _ _ _ => true
  | .linkUp => true
  | .coldPowerLoss => true
  | .eccError _ _ _ _ _ => true
  | .peerUio _ _ _ _ => true

/-- An instruction of the two streams, not an event of the part. -/
def Instr.isItem : Instr → Bool
  | .retComplete _ _ => false
  | .srcComplete _ _ => false
  | .backEdge => false
  | .heldArrival _ _ => false
  | .departure _ => false
  | .growDecided _ => false
  | .shuttleComplete _ => false
  | .mmaMeet _ => false
  | .batchRetire _ => false
  | .trapEntry _ => false
  | .weaveRetire _ => false
  | .boltComplete _ => false
  | .qwrWrite _ _ => false
  | .ccRound => false
  | .writeSignal _ => false
  | .waitSignal _ => false
  | .launchInd _ => false
  | .launchPacket _ => false
  | .copy _ => false
  | .copyComplete _ => false
  | .marker _ => false
  | .skip _ => false
  | .retry _ => false
  | .weaveAdmission _ _ _ => false
  | .controlBoundary _ => false
  | .railChange _ => false
  | .slewStep _ => false
  | .decision _ _ => false
  | .lcfgWrite _ _ => false
  | .lcfg2Write _ _ => false
  | .knobWrite _ _ _ => false
  | .periodicHallmark _ => false
  | .contextEndRequest _ _ => false
  | .contextEndHallmark _ _ => false
  | .anchorWrite _ => false
  | .orderlyShutdown => false
  | .coldBoot _ => false
  | .warmReset => false
  | .prstGo _ => false
  | .functionLevelReset _ => false
  | .hostCxlAccess _ _ _ _ => false
  | .linkDown => false
  | .completionTimeout _ _ => false
  | .poisonReceived _ _ => false
  | .sensorFault _ _ _ _ => false
  | .save _ _ => false
  | .restore _ _ => false
  | .kill _ _ => false
  | .timeout _ => false
  | .attrGo _ _ => false
  | .attrSignal _ => false
  | .pinClr _ _ => false
  | .halt _ => false
  | .resume _ => false
  | .stepOne _ => false
  | .stepHeader _ => false
  | .dstoprdWrite _ _ => false
  | .sample _ => false
  | .senWrite _ _ => false
  | .tenWrite _ _ => false
  | .tsync _ => false
  | .traceTimeout _ => false
  | .trdWrite _ _ => false
  | .dfreeze _ _ => false
  | .registerWrite _ _ _ => false
  | .linkUp => false
  | .coldPowerLoss => false
  | .eccError _ _ _ _ _ => false
  | .peerUio _ _ _ _ => false
  | .clauseHeader _ _ _ _ _ => true
  | .add _ _ _ => true
  | .sub _ _ _ => true
  | .mul _ _ _ => true
  | .mulh _ _ _ => true
  | .mulhu _ _ _ => true
  | .and _ _ _ => true
  | .or _ _ _ => true
  | .xor _ _ _ => true
  | .andn _ _ _ => true
  | .shl _ _ _ => true
  | .shr _ _ _ => true
  | .sar _ _ _ => true
  | .min _ _ _ => true
  | .max _ _ _ => true
  | .minu _ _ _ => true
  | .maxu _ _ _ => true
  | .seq _ _ _ => true
  | .sne _ _ _ => true
  | .slt _ _ _ => true
  | .sltu _ _ _ => true
  | .addi _ _ _ => true
  | .andi _ _ _ => true
  | .ori _ _ _ => true
  | .xori _ _ _ => true
  | .shli _ _ _ => true
  | .shri _ _ _ => true
  | .sari _ _ _ => true
  | .slti _ _ _ => true
  | .movi _ _ => true
  | .movhi _ _ => true
  | .popc _ _ => true
  | .clz _ _ => true
  | .ctz _ _ => true
  | .brev _ _ => true
  | .bfe _ _ => true
  | .bfi _ _ => true
  | .mov _ _ => true
  | .not _ _ => true
  | .sext8 _ _ => true
  | .sext16 _ _ => true
  | .lds _ _ _ _ => true
  | .lds2 _ _ _ _ => true
  | .lds4 _ _ _ _ => true
  | .sts _ _ _ _ => true
  | .sts2 _ _ _ _ => true
  | .atoms _ _ _ _ _ _ => true
  | .bra _ _ => true
  | .bz _ _ _ => true
  | .bnz _ _ _ => true
  | .bexz _ _ => true
  | .call _ _ => true
  | .ret => true
  | .calli _ _ => true
  | .jmpi _ _ => true
  | .callv _ _ => true
  | .jmpv _ _ => true
  | .msplit _ _ _ _ => true
  | .mjoin _ => true
  | .mset _ _ => true
  | .mget _ _ _ => true
  | .mand _ _ _ => true
  | .mor _ _ _ => true
  | .mnot _ _ _ => true
  | .mpopc _ _ _ => true
  | .loop _ _ _ _ _ _ _ _ => true
  | .lexit _ => true
  | .lbrk => true
  | .rotset _ _ => true
  | .skput _ _ _ => true
  | .ldepth _ => true
  | .waitp _ _ _ => true
  | .fence _ _ => true
  | .claspInit _ _ => true
  | .claspArrive _ _ => true
  | .claspArrivetx _ _ => true
  | .claspWait _ _ => true
  | .claspTest _ _ => true
  | .claspInval _ => true
  | .claspReg _ _ _ => true
  | .claspUnreg _ => true
  | .attach _ _ _ => true
  | .detach _ => true
  | .yieldq _ => true
  | .count _ => true
  | .grow _ _ => true
  | .shrink _ _ => true
  | .who _ _ _ => true
  | .launch _ _ => true
  | .sget _ _ => true
  | .sset _ _ => true
  | .trap _ => true
  | .rft => true
  | .exit => true
  | .bkpt _ => true
  | .prog _ => true
  | .csrr _ _ => true
  | .csrw _ _ => true
  | .go _ => true
  | .cancel _ => true
  | .repeatGo _ => true
  | .shtCopyin _ _ _ => true
  | .shtCopyout _ _ _ => true
  | .shtGather _ _ _ => true
  | .shtStash _ _ _ => true
  | .shtUnstash _ _ _ => true
  | .shtFill _ _ _ => true
  | .tbegin _ _ => true
  | .tend _ => true
  | .tabort _ => true
  | .tserial _ _ => true
  | .iadd _ => true
  | .isub _ => true
  | .imul _ => true
  | .imulh _ => true
  | .imad _ => true
  | .imadw _ => true
  | .iand _ => true
  | .ior _ => true
  | .ixor _ => true
  | .tern _ => true
  | .shlL _ => true
  | .shrL _ => true
  | .sarL _ => true
  | .shf _ => true
  | .imin _ => true
  | .imax _ => true
  | .iabs _ => true
  | .icmp _ => true
  | .sel _ => true
  | .popcL _ => true
  | .clzL _ => true
  | .brevL _ => true
  | .bfeL _ => true
  | .bfiL _ => true
  | .prmt _ => true
  | .movL _ => true
  | .iaddc _ => true
  | .laneId _ => true
  | .fadd _ => true
  | .fmul _ => true
  | .ffma _ => true
  | .fmin _ => true
  | .fmax _ => true
  | .fcmp _ => true
  | .frnd _ => true
  | .fscl _ => true
  | .hadd2 _ => true
  | .hmul2 _ => true
  | .hfma2 _ => true
  | .rcp _ => true
  | .rsq _ => true
  | .sqrt _ => true
  | .exp2 _ => true
  | .log2 _ => true
  | .sin _ => true
  | .cos _ => true
  | .tanh _ => true
  | .cvt _ => true
  | .pack8 _ => true
  | .pack4 _ => true
  | .unpk _ => true
  | .dot8 _ => true
  | .dot4 _ => true
  | .idot4 _ => true
  | .idot8 _ => true
  | .doth2 _ => true
  | .shfl _ => true
  | .ballot _ => true
  | .redl _ => true
  | .scan _ => true
  | .v2s _ => true
  | .vote _ => true
  | .ld _ => true
  | .st _ => true
  | .ldsc _ => true
  | .stsc _ => true
  | .ldwn _ => true
  | .stwn _ => true
  | .atom _ => true
  | .atomsc _ => true
  | .red _ => true
  | .pref _ => true
  | .mma _ => true
  | .mopf _ => true
  | .mbatch _ => true
  | .mstore _ => true
  | .mzero _ => true
  | .lnop _ => true

end Sys2Proof
end

