-- ==== Sys2Proof/Decode.lean ====
section
/-!
DEFINITION. Decoding of the two streams, total and rejecting by name (spec/05 R136 to R151, spec/06), and the encoder.
A scalar instruction is one or two 32-bit words; a lane instruction is 96 bits with bits [31:0] at the lowest address.
-/
namespace Sys2Proof

/-- Why bits are no instruction of the part: each raises ILLEGAL precisely (R137, R142, R147, R148, R151). -/
inductive DecodeError where
  /-- An unassigned major or lane OP. -/
  | unassigned
  /-- An unassigned sub-op of an assigned major (R148). -/
  | unassignedSub
  /-- A non-zero reserved field (R3). -/
  | reserved
  /-- A field value the entry does not list, or a misaligned or absent register. -/
  | badField
  deriving DecidableEq, Repr

/-- A candidate instruction, kept when its reserved bits are zero and its fields are listed. -/
def accept (i : Instr) (zero : Bool) : Except DecodeError Instr :=
  if zero = false then .error .reserved else if i.wf then .ok i else .error .badField

/-- The sub-ops of BIT (R160), numbered as R148. -/
def decodeBit (w : Nat) : Except DecodeError Instr :=
  match fld w 20 6 with
  | 0 => accept (.popc (fld w 11 9) (fld w 2 9)) (fld w 0 2 == 0)
  | 1 => accept (.clz (fld w 11 9) (fld w 2 9)) (fld w 0 2 == 0)
  | 2 => accept (.ctz (fld w 11 9) (fld w 2 9)) (fld w 0 2 == 0)
  | 3 => accept (.brev (fld w 11 9) (fld w 2 9)) (fld w 0 2 == 0)
  | 4 => accept (.bfe (fld w 11 9) (fld w 0 11)) (true)
  | 5 => accept (.bfi (fld w 11 9) (fld w 2 9)) (fld w 0 2 == 0)
  | 6 => accept (.mov (fld w 11 9) (fld w 2 9)) (fld w 0 2 == 0)
  | 7 => accept (.not (fld w 11 9) (fld w 2 9)) (fld w 0 2 == 0)
  | 8 => accept (.sext8 (fld w 11 9) (fld w 2 9)) (fld w 0 2 == 0)
  | 9 => accept (.sext16 (fld w 11 9) (fld w 2 9)) (fld w 0 2 == 0)
  | _ => .error .unassignedSub

/-- The sub-ops of JX (R166), numbered as R148. -/
def decodeJx (w : Nat) : Except DecodeError Instr :=
  match fld w 20 6 with
  | 0 => accept .ret (fld w 0 20 == 0)
  | 1 => accept (.calli (fld w 11 9) (fld w 2 9)) (fld w 0 2 == 0)
  | 2 => accept (.jmpi (fld w 11 9) (fld w 2 9)) (fld w 0 2 == 0)
  | 3 => accept (.callv (fld w 11 9) (fld w 2 9)) (fld w 0 2 == 0)
  | 4 => accept (.jmpv (fld w 11 9) (fld w 2 9)) (fld w 0 2 == 0)
  | _ => .error .unassignedSub

/-- The sub-ops of MSK (R167 to R169), numbered as R148. -/
def decodeMsk (w w2 : Nat) : Except DecodeError Instr :=
  match fld w 20 6 with
  | 0 => accept (.msplit (fld w 11 9) (fld w 2 9) (fld w2 16 16) (fld w2 0 16)) (fld w 0 2 == 0)
  | 1 => accept (.mjoin (fld w 2 9)) (fld w 11 9 == 0 && fld w 0 2 == 0)
  | 2 => accept (.mset (fld w 2 9) (fld w 0 2)) (fld w 11 9 == 0)
  | 3 => accept (.mget (fld w 11 9) (fld w 2 9) (fld w 0 2)) (true)
  | 4 => accept (.mand (fld w 11 9) (fld w 2 9) (fld w 0 2)) (true)
  | 5 => accept (.mor (fld w 11 9) (fld w 2 9) (fld w 0 2)) (true)
  | 6 => accept (.mnot (fld w 11 9) (fld w 2 9) (fld w 0 2)) (true)
  | 7 => accept (.mpopc (fld w 11 9) (fld w 2 9) (fld w 0 2)) (true)
  | _ => .error .unassignedSub

/-- The sub-ops of LCTL (R172), numbered as R148. -/
def decodeLctl (w : Nat) : Except DecodeError Instr :=
  match fld w 20 6 with
  | 0 => accept (.lexit (fld w 11 9)) (fld w 0 11 == 0)
  | 1 => accept .lbrk (fld w 0 20 == 0)
  | 2 => accept (.rotset (fld w 11 9) (fld w 0 8)) (fld w 8 3 == 0)
  | 3 => accept (.skput (fld w 11 9) (fld w 2 9) (fld w 0 2)) (true)
  | 4 => accept (.ldepth (fld w 11 9)) (fld w 0 11 == 0)
  | _ => .error .unassignedSub

/-- The sub-ops of CLASP (R176), numbered as R148. -/
def decodeClasp (w : Nat) : Except DecodeError Instr :=
  match fld w 20 6 with
  | 0 => accept (.claspInit (fld w 11 9) (fld w 0 4)) (fld w 4 7 == 0)
  | 1 => accept (.claspArrive (fld w 11 9) (fld w 0 4)) (fld w 4 7 == 0)
  | 2 => accept (.claspArrivetx (fld w 11 9) (fld w 0 4)) (fld w 4 7 == 0)
  | 3 => accept (.claspWait (fld w 11 9) (fld w 0 4)) (fld w 4 7 == 0)
  | 4 => accept (.claspTest (fld w 11 9) (fld w 0 4)) (fld w 4 7 == 0)
  | 5 => accept (.claspInval (fld w 0 4)) (fld w 11 9 == 0 && fld w 4 7 == 0)
  | 6 => accept (.claspReg (fld w 11 9) (fld w 0 4) (fld w 4 1)) (fld w 5 6 == 0)
  | 7 => accept (.claspUnreg (fld w 0 4)) (fld w 11 9 == 0 && fld w 4 7 == 0)
  | _ => .error .unassignedSub

/-- The sub-ops of WEAVE (R178), numbered as R148. -/
def decodeWeave (w : Nat) : Except DecodeError Instr :=
  match fld w 20 6 with
  | 0 => accept (.attach (fld w 11 9) (fld w 0 9) (fld w 9 2)) (true)
  | 1 => accept (.detach (fld w 11 9)) (fld w 0 11 == 0)
  | 2 => accept (.yieldq (fld w 11 9)) (fld w 0 11 == 0)
  | 3 => accept (.count (fld w 11 9)) (fld w 0 11 == 0)
  | 4 => accept (.grow (fld w 11 9) (fld w 0 2)) (fld w 2 9 == 0)
  | 5 => accept (.shrink (fld w 11 9) (fld w 0 2)) (fld w 2 9 == 0)
  | 6 => accept (.who (fld w 11 9) (fld w 2 9) (fld w 0 2)) (true)
  | _ => .error .unassignedSub

/-- The sub-ops of SPR (R183), numbered as R148. -/
def decodeSpr (w : Nat) : Except DecodeError Instr :=
  match fld w 20 6 with
  | 0 => accept (.sget (fld w 11 9) (fld w 2 9)) (fld w 0 2 == 0)
  | 1 => accept (.sset (fld w 11 9) (fld w 2 9)) (fld w 0 2 == 0)
  | _ => .error .unassignedSub

/-- The sub-ops of SYS (R184), numbered as R148. -/
def decodeSys (w : Nat) : Except DecodeError Instr :=
  match fld w 20 6 with
  | 0 => accept (.trap (fld w 0 11)) (fld w 11 9 == 0)
  | 1 => accept .rft (fld w 0 20 == 0)
  | 2 => accept .exit (fld w 0 20 == 0)
  | 3 => accept (.bkpt (fld w 0 11)) (fld w 11 9 == 0)
  | 4 => accept (.prog (fld w 0 8)) (fld w 11 9 == 0 && fld w 8 3 == 0)
  | 5 => accept (.csrr (fld w 11 9) (fld w 2 9)) (fld w 0 2 == 0)
  | 6 => accept (.csrw (fld w 11 9) (fld w 2 9)) (fld w 0 2 == 0)
  | 7 => accept (.go (fld w 11 9)) (fld w 0 11 == 0)
  | 8 => accept (.cancel (fld w 11 9)) (fld w 0 11 == 0)
  | 9 => accept (.repeatGo (fld w 11 9)) (fld w 0 11 == 0)
  | _ => .error .unassignedSub

/-- The sub-ops of SHT (R186), numbered as R148. -/
def decodeSht (w : Nat) : Except DecodeError Instr :=
  match fld w 20 6 with
  | 0 => accept (.shtCopyin (fld w 11 9) (fld w 2 9) (fld w 0 1)) (fld w 1 1 == 0)
  | 1 => accept (.shtCopyout (fld w 11 9) (fld w 2 9) (fld w 0 1)) (fld w 1 1 == 0)
  | 2 => accept (.shtGather (fld w 11 9) (fld w 2 9) (fld w 0 1)) (fld w 1 1 == 0)
  | 3 => accept (.shtStash (fld w 11 9) (fld w 2 9) (fld w 0 1)) (fld w 1 1 == 0)
  | 4 => accept (.shtUnstash (fld w 11 9) (fld w 2 9) (fld w 0 1)) (fld w 1 1 == 0)
  | 5 => accept (.shtFill (fld w 11 9) (fld w 2 9) (fld w 0 1)) (fld w 1 1 == 0)
  | _ => .error .unassignedSub

/-- The sub-ops of TX (R189), numbered as R148. -/
def decodeTx (w w2 : Nat) : Except DecodeError Instr :=
  match fld w 20 6 with
  | 0 => accept (.tbegin (fld w2 16 16) (fld w2 0 16)) (fld w 0 20 == 0)
  | 1 => accept (.tend (fld w 11 9)) (fld w 0 11 == 0)
  | 2 => accept (.tabort (fld w 0 8)) (fld w 11 9 == 0 && fld w 8 3 == 0)
  | 3 => accept (.tserial (fld w2 16 16) (fld w2 0 16)) (fld w 0 20 == 0)
  | _ => .error .unassignedSub

/-- A scalar instruction of first word w and operand word w2 (R147). -/
def decodeScalar (w w2 : Nat) : Except DecodeError Instr :=
  match fld w 26 6 with
  | 1 => accept (.add (fld w 17 9) (fld w 8 9) (fld w 0 8)) (true)
  | 2 => accept (.sub (fld w 17 9) (fld w 8 9) (fld w 0 8)) (true)
  | 3 => accept (.mul (fld w 17 9) (fld w 8 9) (fld w 0 8)) (true)
  | 4 => accept (.mulh (fld w 17 9) (fld w 8 9) (fld w 0 8)) (true)
  | 5 => accept (.mulhu (fld w 17 9) (fld w 8 9) (fld w 0 8)) (true)
  | 6 => accept (.and (fld w 17 9) (fld w 8 9) (fld w 0 8)) (true)
  | 7 => accept (.or (fld w 17 9) (fld w 8 9) (fld w 0 8)) (true)
  | 8 => accept (.xor (fld w 17 9) (fld w 8 9) (fld w 0 8)) (true)
  | 9 => accept (.andn (fld w 17 9) (fld w 8 9) (fld w 0 8)) (true)
  | 10 => accept (.shl (fld w 17 9) (fld w 8 9) (fld w 0 8)) (true)
  | 11 => accept (.shr (fld w 17 9) (fld w 8 9) (fld w 0 8)) (true)
  | 12 => accept (.sar (fld w 17 9) (fld w 8 9) (fld w 0 8)) (true)
  | 13 => accept (.min (fld w 17 9) (fld w 8 9) (fld w 0 8)) (true)
  | 14 => accept (.max (fld w 17 9) (fld w 8 9) (fld w 0 8)) (true)
  | 15 => accept (.minu (fld w 17 9) (fld w 8 9) (fld w 0 8)) (true)
  | 16 => accept (.maxu (fld w 17 9) (fld w 8 9) (fld w 0 8)) (true)
  | 17 => accept (.seq (fld w 17 9) (fld w 8 9) (fld w 0 8)) (true)
  | 18 => accept (.sne (fld w 17 9) (fld w 8 9) (fld w 0 8)) (true)
  | 19 => accept (.slt (fld w 17 9) (fld w 8 9) (fld w 0 8)) (true)
  | 20 => accept (.sltu (fld w 17 9) (fld w 8 9) (fld w 0 8)) (true)
  | 21 => accept (.addi (fld w 17 9) (fld w 8 9) (fld w 0 8)) (true)
  | 22 => accept (.andi (fld w 17 9) (fld w 8 9) (fld w 0 8)) (true)
  | 23 => accept (.ori (fld w 17 9) (fld w 8 9) (fld w 0 8)) (true)
  | 24 => accept (.xori (fld w 17 9) (fld w 8 9) (fld w 0 8)) (true)
  | 25 => accept (.shli (fld w 17 9) (fld w 8 9) (fld w 0 5)) (fld w 5 3 == 0)
  | 26 => accept (.shri (fld w 17 9) (fld w 8 9) (fld w 0 5)) (fld w 5 3 == 0)
  | 27 => accept (.sari (fld w 17 9) (fld w 8 9) (fld w 0 5)) (fld w 5 3 == 0)
  | 28 => accept (.slti (fld w 17 9) (fld w 8 9) (fld w 0 8)) (true)
  | 29 => accept (.movi (fld w 17 9) (fld w 0 17)) (true)
  | 30 => accept (.movhi (fld w 17 9) (fld w 0 17)) (true)
  | 31 => decodeBit w
  | 32 => accept (.lds (fld w 17 9) (fld w 9 8) (fld w 8 1) (fld w 0 8)) (true)
  | 33 => accept (.lds2 (fld w 17 9) (fld w 9 8) (fld w 8 1) (fld w 0 8)) (true)
  | 34 => accept (.lds4 (fld w 17 9) (fld w 9 8) (fld w 8 1) (fld w 0 8)) (true)
  | 35 => accept (.sts (fld w 17 9) (fld w 9 8) (fld w 8 1) (fld w 0 8)) (true)
  | 36 => accept (.sts2 (fld w 17 9) (fld w 9 8) (fld w 8 1) (fld w 0 8)) (true)
  | 37 => accept (.atoms (fld w 17 9) (fld w 9 8) (fld w 8 1) (fld w 5 3) (fld w 3 2) (fld w 0 3)) (true)
  | 38 => accept (.bra (fld w 0 17) (fld w2 0 32)) (fld w 17 9 == 0)
  | 39 => accept (.bz (fld w 17 9) (fld w 0 17) (fld w2 0 32)) (true)
  | 40 => accept (.bnz (fld w 17 9) (fld w 0 17) (fld w2 0 32)) (true)
  | 41 => accept (.bexz (fld w 0 17) (fld w2 0 32)) (fld w 17 9 == 0)
  | 42 => accept (.call (fld w 0 17) (fld w2 0 32)) (fld w 17 9 == 0)
  | 43 => decodeJx w
  | 44 => decodeMsk w w2
  | 45 => accept (.loop (fld w 24 2) (fld w 15 9) (fld w 12 3) (fld w 11 1) (fld w 10 1) (fld w 0 8) (fld w2 16 16) (fld w2 0 16)) (fld w 8 2 == 0)
  | 46 => decodeLctl w
  | 47 => accept (.waitp (fld w 23 3) (fld w 22 1) (fld w 0 10)) (fld w 10 12 == 0)
  | 48 => accept (.fence (fld w 24 2) (fld w 21 3)) (fld w 0 21 == 0)
  | 49 => decodeClasp w
  | 50 => decodeWeave w
  | 51 => accept (.launch (fld w 17 9) (fld w 9 8)) (fld w 0 9 == 0)
  | 52 => decodeSpr w
  | 53 => decodeSys w
  | 54 => decodeSht w
  | 55 => decodeTx w w2
  | 63 => accept (.clauseHeader (fld w 14 12) (fld w 10 4) (fld w 6 4) (fld w 3 3) (fld w 0 3)) true
  | _ => .error .unassigned

/-- The words a first word announces: two for BRA to CALL, LOOP, MSPLIT, TBEGIN and TSERIAL (R138, R147). -/
def scalarWords (w : Nat) : Nat :=
  match fld w 26 6 with
  | 38 => 2 | 39 => 2 | 40 => 2 | 41 => 2 | 42 => 2 | 45 => 2
  | 44 => if fld w 20 6 = 0 then 2 else 1
  | 55 => if fld w 20 6 = 0 ∨ fld w 20 6 = 3 then 2 else 1
  | _ => 1

/-- The fields of a 96-bit lane instruction (R141). -/
def laneFields (w : Nat) : LaneF :=
  { vd := fld w 80 8, va := fld w 72 8, vb := fld w 64 8, vc := fld w 56 8, stg := fld w 53 3, fs := fld w 52 1,
    bsrc := fld w 50 2, rnd := fld w 48 2, sub := fld w 40 8, mod := fld w 32 8, imm := fld w 0 32 }

/-- The instruction an OP names (R150, R151). -/
def laneOp (op : Nat) (f : LaneF) : Option Instr :=
  match op with
  | 1 => some (.iadd f)
  | 2 => some (.isub f)
  | 3 => some (.imul f)
  | 4 => some (.imulh f)
  | 5 => some (.imad f)
  | 6 => some (.imadw f)
  | 7 => some (.iand f)
  | 8 => some (.ior f)
  | 9 => some (.ixor f)
  | 10 => some (.tern f)
  | 11 => some (.shlL f)
  | 12 => some (.shrL f)
  | 13 => some (.sarL f)
  | 14 => some (.shf f)
  | 15 => some (.imin f)
  | 16 => some (.imax f)
  | 17 => some (.iabs f)
  | 18 => some (.icmp f)
  | 19 => some (.sel f)
  | 20 => some (.popcL f)
  | 21 => some (.clzL f)
  | 22 => some (.brevL f)
  | 23 => some (.bfeL f)
  | 24 => some (.bfiL f)
  | 25 => some (.prmt f)
  | 26 => some (.movL f)
  | 27 => some (.iaddc f)
  | 28 => some (.laneId f)
  | 32 => some (.fadd f)
  | 33 => some (.fmul f)
  | 34 => some (.ffma f)
  | 35 => some (.fmin f)
  | 36 => some (.fmax f)
  | 37 => some (.fcmp f)
  | 38 => some (.frnd f)
  | 39 => some (.fscl f)
  | 40 => some (.hadd2 f)
  | 41 => some (.hmul2 f)
  | 42 => some (.hfma2 f)
  | 64 => some (.rcp f)
  | 65 => some (.rsq f)
  | 66 => some (.sqrt f)
  | 67 => some (.exp2 f)
  | 68 => some (.log2 f)
  | 69 => some (.sin f)
  | 70 => some (.cos f)
  | 71 => some (.tanh f)
  | 72 => some (.cvt f)
  | 73 => some (.pack8 f)
  | 74 => some (.pack4 f)
  | 75 => some (.unpk f)
  | 80 => some (.dot8 f)
  | 81 => some (.dot4 f)
  | 82 => some (.idot4 f)
  | 83 => some (.idot8 f)
  | 84 => some (.doth2 f)
  | 96 => some (.shfl f)
  | 97 => some (.ballot f)
  | 98 => some (.redl f)
  | 99 => some (.scan f)
  | 100 => some (.v2s f)
  | 101 => some (.vote f)
  | 112 => some (.ld f)
  | 113 => some (.st f)
  | 114 => some (.ldsc f)
  | 115 => some (.stsc f)
  | 116 => some (.ldwn f)
  | 117 => some (.stwn f)
  | 118 => some (.atom f)
  | 119 => some (.atomsc f)
  | 120 => some (.red f)
  | 121 => some (.pref f)
  | 144 => some (.mma f)
  | 145 => some (.mopf f)
  | 146 => some (.mbatch f)
  | 147 => some (.mstore f)
  | 148 => some (.mzero f)
  | 255 => some (.lnop f)
  | _ => none

/-- A lane instruction of 96 bits. -/
def decodeLane (w : Nat) : Except DecodeError Instr :=
  match laneOp (fld w 88 8) (laneFields w) with
  | none => .error .unassigned
  | some i => accept i true

/-! ## The encoder, from the same tables. -/

/-- The bits of a lane instruction's fields below its OP. -/
def LaneF.enc (f : LaneF) : Nat :=
  f.vd * 2 ^ 80 + f.va * 2 ^ 72 + f.vb * 2 ^ 64 + f.vc * 2 ^ 56 + f.stg * 2 ^ 53 + f.fs * 2 ^ 52 + f.bsrc * 2 ^ 50
    + f.rnd * 2 ^ 48 + f.sub * 2 ^ 40 + f.mod * 2 ^ 32 + f.imm

/-- How an instruction stands in memory: one scalar word, a scalar word and its operand word, or 96 bits. -/
inductive Enc where
  | one (w : Nat)
  | two (w w2 : Nat)
  | lane (w : Nat)
  deriving DecidableEq, Repr

/-- A lane instruction of an OP. -/
def laneEnc (op : Nat) (f : LaneF) : Option Enc := some (.lane (op * 2 ^ 88 + f.enc))
/-- A scalar word of major maj with a destination in [25:17] and the rest below it. -/
def sd (maj d rest : Nat) : Nat := maj * 2 ^ 26 + d * 2 ^ 17 + rest
/-- The pair, FS and offset fields of a scalar memory word (R161). -/
def pfo (p fs off : Nat) : Nat := p * 2 ^ 9 + fs * 2 ^ 8 + off
/-- Two 16-bit halves of an operand word. -/
def hl (hi lo : Nat) : Nat := hi * 2 ^ 16 + lo
/-- The fields of a clause header (R136), of ATOMS (R162), of LOOP (R170), and of WAITP (R173). -/
def headerEnc (wm sa sb nl ns : Nat) : Nat := 63 * 2 ^ 26 + wm * 2 ^ 14 + sa * 2 ^ 10 + sb * 2 ^ 6 + nl * 2 ^ 3 + ns
def atomsEnc (opc ord scope : Nat) : Nat := opc * 2 ^ 5 + ord * 2 ^ 3 + scope
def loopEnc (lvl cnt nstg rot item ireg : Nat) : Nat :=
  45 * 2 ^ 26 + lvl * 2 ^ 24 + cnt * 2 ^ 15 + nstg * 2 ^ 12 + rot * 2 ^ 11 + item * 2 ^ 10 + ireg
def waitpEnc (path i n : Nat) : Nat := 47 * 2 ^ 26 + path * 2 ^ 23 + i * 2 ^ 22 + n
def sxr (maj sub x y z : Nat) : Nat := maj * 2 ^ 26 + sub * 2 ^ 20 + x * 2 ^ 11 + y * 2 ^ 2 + z
def sxi (maj sub x m : Nat) : Nat := maj * 2 ^ 26 + sub * 2 ^ 20 + x * 2 ^ 11 + m
def s3 (maj d a b : Nat) : Nat := maj * 2 ^ 26 + d * 2 ^ 17 + a * 2 ^ 8 + b

/-- The words of an instruction of the two streams; an event has none. -/
def encode : Instr → Option Enc
  | .clauseHeader wm sa sb nl ns => some (.one (headerEnc wm sa sb nl ns))
  | .add d a b => some (.one (s3 1 d a b))
  | .sub d a b => some (.one (s3 2 d a b))
  | .mul d a b => some (.one (s3 3 d a b))
  | .mulh d a b => some (.one (s3 4 d a b))
  | .mulhu d a b => some (.one (s3 5 d a b))
  | .and d a b => some (.one (s3 6 d a b))
  | .or d a b => some (.one (s3 7 d a b))
  | .xor d a b => some (.one (s3 8 d a b))
  | .andn d a b => some (.one (s3 9 d a b))
  | .shl d a b => some (.one (s3 10 d a b))
  | .shr d a b => some (.one (s3 11 d a b))
  | .sar d a b => some (.one (s3 12 d a b))
  | .min d a b => some (.one (s3 13 d a b))
  | .max d a b => some (.one (s3 14 d a b))
  | .minu d a b => some (.one (s3 15 d a b))
  | .maxu d a b => some (.one (s3 16 d a b))
  | .seq d a b => some (.one (s3 17 d a b))
  | .sne d a b => some (.one (s3 18 d a b))
  | .slt d a b => some (.one (s3 19 d a b))
  | .sltu d a b => some (.one (s3 20 d a b))
  | .addi d a imm => some (.one (s3 21 d a imm))
  | .andi d a imm => some (.one (s3 22 d a imm))
  | .ori d a imm => some (.one (s3 23 d a imm))
  | .xori d a imm => some (.one (s3 24 d a imm))
  | .shli d a imm => some (.one (s3 25 d a imm))
  | .shri d a imm => some (.one (s3 26 d a imm))
  | .sari d a imm => some (.one (s3 27 d a imm))
  | .slti d a imm => some (.one (s3 28 d a imm))
  | .movi d imm => some (.one (sd 29 d imm))
  | .movhi d imm => some (.one (sd 30 d imm))
  | .popc d a => some (.one (sxr 31 0 d a 0))
  | .clz d a => some (.one (sxr 31 1 d a 0))
  | .ctz d a => some (.one (sxr 31 2 d a 0))
  | .brev d a => some (.one (sxr 31 3 d a 0))
  | .bfe d ctl => some (.one (sxi 31 4 d (ctl)))
  | .bfi d a => some (.one (sxr 31 5 d a 0))
  | .mov d a => some (.one (sxr 31 6 d a 0))
  | .not d a => some (.one (sxr 31 7 d a 0))
  | .sext8 d a => some (.one (sxr 31 8 d a 0))
  | .sext16 d a => some (.one (sxr 31 9 d a 0))
  | .lds d p fs off => some (.one (sd 32 d (pfo p fs off)))
  | .lds2 d p fs off => some (.one (sd 33 d (pfo p fs off)))
  | .lds4 d p fs off => some (.one (sd 34 d (pfo p fs off)))
  | .sts d p fs off => some (.one (sd 35 d (pfo p fs off)))
  | .sts2 d p fs off => some (.one (sd 36 d (pfo p fs off)))
  | .atoms d p fs opc ord scope => some (.one (sd 37 d (pfo p fs (atomsEnc opc ord scope))))
  | .retComplete _ _ => none
  | .srcComplete _ _ => none
  | .bra soff loff => some (.two (sd 38 0 soff) loff)
  | .bz r soff loff => some (.two (sd 39 r soff) loff)
  | .bnz r soff loff => some (.two (sd 40 r soff) loff)
  | .bexz soff loff => some (.two (sd 41 0 soff) loff)
  | .call soff loff => some (.two (sd 42 0 soff) loff)
  | .ret => some (.one (sxr 43 0 0 0 0))
  | .calli x y => some (.one (sxr 43 1 x y 0))
  | .jmpi x y => some (.one (sxr 43 2 x y 0))
  | .callv x y => some (.one (sxr 43 3 x y 0))
  | .jmpv x y => some (.one (sxr 43 4 x y 0))
  | .msplit c sv soff loff => some (.two (sxr 44 0 c sv 0) (hl soff loff))
  | .mjoin sv => some (.one (sxr 44 1 0 sv 0))
  | .mset y z => some (.one (sxr 44 2 0 y z))
  | .mget x y z => some (.one (sxr 44 3 x y z))
  | .mand x y z => some (.one (sxr 44 4 x y z))
  | .mor x y z => some (.one (sxr 44 5 x y z))
  | .mnot x y z => some (.one (sxr 44 6 x y z))
  | .mpopc x y z => some (.one (sxr 44 7 x y z))
  | .loop lvl cnt nstg rot item ireg send llen => some (.two (loopEnc lvl cnt nstg rot item ireg) (hl send llen))
  | .backEdge => none
  | .lexit x => some (.one (sxr 46 0 x 0 0))
  | .lbrk => some (.one (sxr 46 1 0 0 0))
  | .rotset base size => some (.one (sxi 46 2 base (size)))
  | .skput x y z => some (.one (sxr 46 3 x y z))
  | .ldepth x => some (.one (sxr 46 4 x 0 0))
  | .waitp path i n => some (.one (waitpEnc path i n))
  | .fence kind scope => some (.one (48 * 2 ^ 26 + kind * 2 ^ 24 + scope * 2 ^ 21))
  | .claspInit x h => some (.one (sxi 49 0 x (h)))
  | .claspArrive x h => some (.one (sxi 49 1 x (h)))
  | .claspArrivetx x h => some (.one (sxi 49 2 x (h)))
  | .heldArrival _ _ => none
  | .claspWait x h => some (.one (sxi 49 3 x (h)))
  | .claspTest x h => some (.one (sxi 49 4 x (h)))
  | .claspInval h => some (.one (sxi 49 5 0 (h)))
  | .claspReg x h bolt => some (.one (sxi 49 6 x (h + bolt * 2 ^ 4)))
  | .claspUnreg h => some (.one (sxi 49 7 0 (h)))
  | .attach x coord role => some (.one (sxi 50 0 x (coord + role * 2 ^ 9)))
  | .detach x => some (.one (sxr 50 1 x 0 0))
  | .departure _ => none
  | .yieldq x => some (.one (sxr 50 2 x 0 0))
  | .count x => some (.one (sxr 50 3 x 0 0))
  | .grow x role => some (.one (sxr 50 4 x 0 role))
  | .growDecided _ => none
  | .shrink x role => some (.one (sxr 50 5 x 0 role))
  | .who x y z => some (.one (sxr 50 6 x y z))
  | .launch d p => some (.one (sd 51 d (pfo p 0 0)))
  | .sget x y => some (.one (sxr 52 0 x y 0))
  | .sset x y => some (.one (sxr 52 1 x y 0))
  | .trap code => some (.one (sxi 53 0 0 (code)))
  | .rft => some (.one (sxr 53 1 0 0 0))
  | .exit => some (.one (sxr 53 2 0 0 0))
  | .bkpt id => some (.one (sxi 53 3 0 (id)))
  | .prog id => some (.one (sxi 53 4 0 (id)))
  | .csrr x y => some (.one (sxr 53 5 x y 0))
  | .csrw x y => some (.one (sxr 53 6 x y 0))
  | .go x => some (.one (sxr 53 7 x 0 0))
  | .cancel x => some (.one (sxr 53 8 x 0 0))
  | .repeatGo x => some (.one (sxr 53 9 x 0 0))
  | .shtCopyin x y fs => some (.one (sxr 54 0 x y fs))
  | .shtCopyout x y fs => some (.one (sxr 54 1 x y fs))
  | .shtGather x y fs => some (.one (sxr 54 2 x y fs))
  | .shtStash x y fs => some (.one (sxr 54 3 x y fs))
  | .shtUnstash x y fs => some (.one (sxr 54 4 x y fs))
  | .shtFill x y fs => some (.one (sxr 54 5 x y fs))
  | .shuttleComplete _ => none
  | .tbegin soff loff => some (.two (sxr 55 0 0 0 0) (hl soff loff))
  | .tend x => some (.one (sxr 55 1 x 0 0))
  | .tabort arg => some (.one (sxi 55 2 0 (arg)))
  | .tserial soff loff => some (.two (sxr 55 3 0 0 0) (hl soff loff))
  | .iadd f => laneEnc 1 f
  | .isub f => laneEnc 2 f
  | .imul f => laneEnc 3 f
  | .imulh f => laneEnc 4 f
  | .imad f => laneEnc 5 f
  | .imadw f => laneEnc 6 f
  | .iand f => laneEnc 7 f
  | .ior f => laneEnc 8 f
  | .ixor f => laneEnc 9 f
  | .tern f => laneEnc 10 f
  | .shlL f => laneEnc 11 f
  | .shrL f => laneEnc 12 f
  | .sarL f => laneEnc 13 f
  | .shf f => laneEnc 14 f
  | .imin f => laneEnc 15 f
  | .imax f => laneEnc 16 f
  | .iabs f => laneEnc 17 f
  | .icmp f => laneEnc 18 f
  | .sel f => laneEnc 19 f
  | .popcL f => laneEnc 20 f
  | .clzL f => laneEnc 21 f
  | .brevL f => laneEnc 22 f
  | .bfeL f => laneEnc 23 f
  | .bfiL f => laneEnc 24 f
  | .prmt f => laneEnc 25 f
  | .movL f => laneEnc 26 f
  | .iaddc f => laneEnc 27 f
  | .laneId f => laneEnc 28 f
  | .fadd f => laneEnc 32 f
  | .fmul f => laneEnc 33 f
  | .ffma f => laneEnc 34 f
  | .fmin f => laneEnc 35 f
  | .fmax f => laneEnc 36 f
  | .fcmp f => laneEnc 37 f
  | .frnd f => laneEnc 38 f
  | .fscl f => laneEnc 39 f
  | .hadd2 f => laneEnc 40 f
  | .hmul2 f => laneEnc 41 f
  | .hfma2 f => laneEnc 42 f
  | .rcp f => laneEnc 64 f
  | .rsq f => laneEnc 65 f
  | .sqrt f => laneEnc 66 f
  | .exp2 f => laneEnc 67 f
  | .log2 f => laneEnc 68 f
  | .sin f => laneEnc 69 f
  | .cos f => laneEnc 70 f
  | .tanh f => laneEnc 71 f
  | .cvt f => laneEnc 72 f
  | .pack8 f => laneEnc 73 f
  | .pack4 f => laneEnc 74 f
  | .unpk f => laneEnc 75 f
  | .dot8 f => laneEnc 80 f
  | .dot4 f => laneEnc 81 f
  | .idot4 f => laneEnc 82 f
  | .idot8 f => laneEnc 83 f
  | .doth2 f => laneEnc 84 f
  | .shfl f => laneEnc 96 f
  | .ballot f => laneEnc 97 f
  | .redl f => laneEnc 98 f
  | .scan f => laneEnc 99 f
  | .v2s f => laneEnc 100 f
  | .vote f => laneEnc 101 f
  | .ld f => laneEnc 112 f
  | .st f => laneEnc 113 f
  | .ldsc f => laneEnc 114 f
  | .stsc f => laneEnc 115 f
  | .ldwn f => laneEnc 116 f
  | .stwn f => laneEnc 117 f
  | .atom f => laneEnc 118 f
  | .atomsc f => laneEnc 119 f
  | .red f => laneEnc 120 f
  | .pref f => laneEnc 121 f
  | .mma f => laneEnc 144 f
  | .mmaMeet _ => none
  | .mopf f => laneEnc 145 f
  | .mbatch f => laneEnc 146 f
  | .batchRetire _ => none
  | .mstore f => laneEnc 147 f
  | .mzero f => laneEnc 148 f
  | .lnop f => laneEnc 255 f
  | .trapEntry _ => none
  | .weaveRetire _ => none
  | .boltComplete _ => none
  | .qwrWrite _ _ => none
  | .ccRound => none
  | .writeSignal _ => none
  | .waitSignal _ => none
  | .launchInd _ => none
  | .launchPacket _ => none
  | .copy _ => none
  | .copyComplete _ => none
  | .marker _ => none
  | .skip _ => none
  | .retry _ => none
  | .weaveAdmission _ _ _ => none
  | .controlBoundary _ => none
  | .railChange _ => none
  | .slewStep _ => none
  | .decision _ _ => none
  | .lcfgWrite _ _ => none
  | .lcfg2Write _ _ => none
  | .knobWrite _ _ _ => none
  | .periodicHallmark _ => none
  | .contextEndRequest _ _ => none
  | .contextEndHallmark _ _ => none
  | .anchorWrite _ => none
  | .orderlyShutdown => none
  | .coldBoot _ => none
  | .warmReset => none
  | .prstGo _ => none
  | .functionLevelReset _ => none
  | .hostCxlAccess _ _ _ _ => none
  | .linkDown => none
  | .completionTimeout _ _ => none
  | .poisonReceived _ _ => none
  | .sensorFault _ _ _ _ => none
  | .save _ _ => none
  | .restore _ _ => none
  | .kill _ _ => none
  | .timeout _ => none
  | .attrGo _ _ => none
  | .attrSignal _ => none
  | .pinClr _ _ => none
  | .halt _ => none
  | .resume _ => none
  | .stepOne _ => none
  | .stepHeader _ => none
  | .dstoprdWrite _ _ => none
  | .sample _ => none
  | .senWrite _ _ => none
  | .tenWrite _ _ => none
  | .tsync _ => none
  | .traceTimeout _ => none
  | .trdWrite _ _ => none
  | .dfreeze _ _ => none
  | .registerWrite _ _ _ => none
  | .linkUp => none
  | .coldPowerLoss => none
  | .eccError _ _ _ _ _ => none
  | .peerUio _ _ _ _ => none

/-- The instruction that encoded bits decode to. -/
def Enc.decode : Enc → Except DecodeError Instr
  | .one w => decodeScalar w 0
  | .two w w2 => decodeScalar w w2
  | .lane w => decodeLane w

/-- The instruction of table bits w, bit 0 the least significant of the first word: up to 32 bits a scalar word (a second
word of zero where it takes one), up to 64 two words, more a lane instruction whose bits [31:0] come first. -/
def decodeTableWord (nbits w : Nat) : Option Instr :=
  (if nbits ≤ 64 then decodeScalar (fld w 0 32) (fld w 32 32) else decodeLane (w % 2 ^ 96)).toOption

end Sys2Proof
end

