-- ==== Sys2Proof/Config.lean ====
section
/-!
DEFINITION. What an implementation fixes, and the values the manual leaves open (constants without a body).
-/
namespace Sys2Proof.Config

/-- IDENT1.STEP, the silicon stepping (spec/01 R26); DESIGN CHOICE, log 13. -/
def stepping : Nat := 1

/-- The spin detector's hash of the writes since the previous crossing (spec/02 R54: not specified); log 8. -/
opaque spinHash : List (Nat × List Word) → Word

/-- The result the part's stepping gives a special function (spec/07 R205, R206), by function 0 RCP, 1 RSQ, 3 EXP2,
4 LOG2, 5 SIN, 6 COS, 7 TANH, of the modified operand and FTZ; log 9. -/
opaque special : Nat → Word → Bool → Word

/-- Byte i of signature kind (0 SIGE, 1 SIGM; 2 and 3 those of an attestation report) of the signed bytes (spec/14 R285,
R289); log 10. -/
opaque signature : Nat → List Byte → Nat → Byte

/-- The certificate chain under which the metering key stands at boot n (spec/14 R289: not given); log 10. -/
opaque certChain : Nat → List Byte

/-- The L2 slice and set of a line (spec/03 R72: a hash the spec does not give); log 17. -/
opaque l2set : Nat → Nat

/-- Which of the ways open to it a line of the L2 takes (spec/03 R85: no replacement policy is given); log 17. -/
opaque l2way : Nat → Nat

/-- Which entry a full TLB or constant cache gives up, by its contents' size and device time (spec/03 R74, R83: not specified);
log 52. -/
opaque victim : Nat → Nat → Nat

/-- The router position whose near-DRAM channels hold an address, and the LPDDR6 channel that holds one (spec/03 R72, spec/15
R293: the maps are not given); log 53. -/
opaque nearRouter : Nat → Nat
opaque lpChannel : Nat → Nat

/-- What a cluster's predictor names before it has learnt anything (spec/15 R296: no reset value); log 54. -/
opaque predictor : Nat → Nat → Nat

/-- Byte `off` of the parts of save area n whose layout the spec does not give (spec/19 R334); log 11. -/
opaque saveByte : Nat → Nat → Byte

/-- What the sensors measure in the control interval that ends at a device time, where the plan brings nothing; log 5. -/
opaque measured : Nat → IntervalIn

/-- The learner's sensors of a partition at a device time, where the plan brings nothing; log 5. -/
opaque sensed : Nat → Nat → List (Nat × Nat)

/-- Word i of what a strand's loop registers hold for a frame that is not open, and of what its trap frame holds for return
entries above the stack, by weave, strand and count of LOOPs, MSPLITs and reloads (spec/05 R144, spec/19 R324: not specified); log 12. -/
opaque vacant : Nat → Nat → Nat → Nat → Word

/-- A fresh free value, by the counter State.free; log 11. -/
opaque freeValue : Nat → Word

end Sys2Proof.Config
end

