-- ==== Sys2Proof/Machine/Fp.lean ====
section
/-!
DEFINITION. Floating-point values, formats, rounding and the special functions (spec/04 R114 to R125, spec/07 R202 to
R205).  A finite value is exact: (-1)^neg x m x 2^e.
-/
namespace Sys2Proof

/-- An exact value: NaN, an infinity, or (-1)^neg m 2^e with m = 0 for a signed zero. -/
inductive FVal where
  | nan
  | inf (neg : Bool)
  | fin (neg : Bool) (m : Nat) (e : Int)
  deriving DecidableEq, Repr

/-- A floating-point format (R114): fraction bits, exponent bits, bias, magnitude of the largest finite value; `ieee` when
the all-ones exponent holds infinity and NaN. -/
structure FpFmt where
  mb : Nat
  eb : Nat
  bias : Nat
  maxFin : Nat
  ieee : Bool
  /-- Conversion code of R207. -/
  code : Nat
  deriving DecidableEq, Repr

def fp32 : FpFmt := ⟨23, 8, 127, 0x7F7FFFFF, true, 0⟩
def fp16 : FpFmt := ⟨10, 5, 15, 0x7BFF, true, 1⟩
def bf16 : FpFmt := ⟨7, 8, 127, 0x7F7F, true, 2⟩
def e4m3 : FpFmt := ⟨3, 4, 7, 0x7E, false, 3⟩
def e5m2 : FpFmt := ⟨2, 5, 15, 0x7B, true, 4⟩
def e2m1 : FpFmt := ⟨1, 2, 1, 0x7, false, 5⟩

/-- The format of a conversion code 0 to 5 (R207). -/
def fpOfCode (c : Nat) : FpFmt :=
  match c with | 0 => fp32 | 1 => fp16 | 2 => bf16 | 3 => e4m3 | 4 => e5m2 | _ => e2m1

/-- The format of an FMT code (R114, R119). -/
def fpOfFmt (c : Nat) : FpFmt :=
  match c with | 0 => bf16 | 1 => fp16 | 2 => e4m3 | 3 => e5m2 | _ => e2m1

namespace FpFmt

/-- The canonical NaN (R117); E2M1 has none and gives 0 (R124). -/
def qnan (f : FpFmt) : Nat := if f.code = 5 then 0 else if f.code = 3 then 0x7F else (2 ^ f.eb - 1) * 2 ^ f.mb + 2 ^ (f.mb - 1)

def infBits (f : FpFmt) (neg : Bool) : Nat := (2 ^ f.eb - 1) * 2 ^ f.mb + bitIf neg (f.eb + f.mb)
def maxBits (f : FpFmt) (neg : Bool) : Nat := f.maxFin + bitIf neg (f.eb + f.mb)

/-- The value of an encoding; with ftz, a subnormal counts as a zero of its sign (R114, R122). -/
def unpack (f : FpFmt) (ftz : Bool) (b : Nat) : FVal :=
  let m := b % 2 ^ f.mb
  let e := b / 2 ^ f.mb % 2 ^ f.eb
  let neg := b.testBit (f.eb + f.mb)
  if f.ieee ∧ e = 2 ^ f.eb - 1 then (if m = 0 then .inf neg else .nan)
  else if f.code = 3 ∧ e = 15 ∧ m = 7 then .nan
  else if e = 0 then (if ftz then .fin neg 0 0 else .fin neg m (1 - (f.bias : Int) - f.mb))
  else .fin neg (2 ^ f.mb + m) ((e : Int) - f.bias - f.mb)

/-- The unit of the last kept bit of m 2^e, m > 0, as though the exponent had no upper limit (R124). -/
def unit (f : FpFmt) (m : Nat) (e : Int) : Int :=
  max (e + (Nat.log2 m : Int) - f.mb) (1 - (f.bias : Int) - f.mb)

/-- The magnitude code of q 2^t, t the unit: exponent and fraction as one number, unbounded above. -/
def magCode (f : FpFmt) (q : Nat) (t : Int) : Nat :=
  if q < 2 ^ f.mb then q else (t + f.bias + f.mb).toNat * 2 ^ f.mb + (q - 2 ^ f.mb)

/-- Whether to round the magnitude q + r/2^d up (R121): 0 RNE, 1 RTZ, 2 RDN, 3 RUP. -/
def roundUp (mode : Nat) (neg : Bool) (q r d : Nat) : Bool :=
  match mode with
  | 0 => decide (2 ^ d < 2 * r) || (decide (2 * r = 2 ^ d) && q % 2 == 1)
  | 1 => false
  | 2 => neg && decide (0 < r)
  | _ => !neg && decide (0 < r)

/-- The rounded magnitude code of m 2^e (R121). -/
def roundMag (f : FpFmt) (mode : Nat) (neg : Bool) (m : Nat) (e : Int) : Nat :=
  if m = 0 then 0 else
  let t := f.unit m e
  if t ≤ e then f.magCode (m * 2 ^ (e - t).toNat) t
  else
    let d := (t - e).toNat
    let q := m / 2 ^ d
    f.magCode (if roundUp mode neg q (m % 2 ^ d) d then q + 1 else q) t

/-- The neighbour that stochastic rounding chooses with the draw rnd (R125). -/
def stochMag (f : FpFmt) (rnd : Nat) (m : Nat) (e : Int) : Nat :=
  if m = 0 then 0 else
  let t := f.unit m e
  if t ≤ e then f.magCode (m * 2 ^ (e - t).toNat) t
  else
    let d := (t - e).toNat
    let q := m / 2 ^ d
    let r := m % 2 ^ d
    f.magCode (if r ≠ 0 ∧ 0x10000 ≤ r * 0x10000 / 2 ^ d + rnd then q + 1 else q) t

/-- The overflow rule of R124 on a magnitude code, `away` when the outcome is directed away from zero. -/
def overflow (f : FpFmt) (away satf neg : Bool) (c : Nat) : Nat :=
  if c ≤ f.maxFin then c + bitIf neg (f.eb + f.mb)
  else if satf || f.code == 5 || !away then f.maxBits neg
  else if f.code = 3 then f.qnan else f.infBits neg

/-- The encoding of an infinite operand (R124). -/
def ofInf (f : FpFmt) (satf neg : Bool) : Nat :=
  if satf || f.code == 5 then f.maxBits neg else if f.code = 3 then f.qnan else f.infBits neg

/-- Rounds a value to the format, then the overflow rule (R121, R124); with ftz a subnormal result becomes a zero. -/
def pack (f : FpFmt) (mode : Nat) (satf ftz : Bool) : FVal → Nat
  | .nan => f.qnan
  | .inf neg => f.ofInf satf neg
  | .fin neg m e =>
    let c := f.roundMag mode neg m e
    let away := match mode with | 0 => true | 1 => false | 2 => neg | _ => !neg
    if ftz ∧ c < 2 ^ f.mb then bitIf neg (f.eb + f.mb) else f.overflow away satf neg c

/-- As pack, with stochastic rounding (R124, R125). -/
def packSr (f : FpFmt) (rnd : Nat) (satf ftz : Bool) : FVal → Nat
  | .nan => f.qnan
  | .inf neg => f.ofInf satf neg
  | .fin neg m e =>
    let c := f.stochMag rnd m e
    if ftz ∧ c < 2 ^ f.mb then bitIf neg (f.eb + f.mb) else f.overflow true satf neg c

end FpFmt

namespace FVal

def neg : FVal → FVal
  | .nan => .nan
  | .inf s => .inf (!s)
  | .fin s m e => .fin (!s) m e

def abs : FVal → FVal
  | .nan => .nan
  | .inf _ => .inf false
  | .fin _ m e => .fin false m e

def isNan : FVal → Bool | .nan => true | _ => false

/-- The signed integer of a finite value at unit 2^u, u at most its exponent. -/
def atUnit (u : Int) (s : Bool) (m : Nat) (e : Int) : Int := (if s then -1 else 1) * (m * 2 ^ (e - u).toNat : Nat)

/-- The exact value of an integer multiple of 2^u; a zero takes the sign z. -/
def ofInt (z : Bool) (u : Int) (i : Int) : FVal := if i = 0 then .fin z 0 0 else .fin (decide (i < 0)) i.natAbs u

/-- a + b; rdn when the rounding mode is RDN, which gives an exact zero sum its sign (R121). -/
def add (rdn : Bool) : FVal → FVal → FVal
  | .nan, _ => .nan
  | _, .nan => .nan
  | .inf s, .inf t => if s = t then .inf s else .nan
  | .inf s, .fin _ _ _ => .inf s
  | .fin _ _ _, .inf t => .inf t
  | .fin s m e, .fin t n g =>
    if m = 0 ∧ n = 0 then .fin (if s = t then s else rdn) 0 0
    else let u := min e g; ofInt rdn u (atUnit u s m e + atUnit u t n g)

def mul : FVal → FVal → FVal
  | .nan, _ => .nan
  | _, .nan => .nan
  | .inf s, .inf t => .inf (s != t)
  | .inf s, .fin t m _ => if m = 0 then .nan else .inf (s != t)
  | .fin s m _, .inf t => if m = 0 then .nan else .inf (s != t)
  | .fin s m e, .fin t n g => .fin (s != t) (m * n) (e + g)

/-- a x 2^k, exact. -/
def scale (k : Int) : FVal → FVal
  | .fin s m e => .fin s m (e + k)
  | v => v

/-- a < b for values that are not NaN; with `zeros`, -0 is below +0. -/
def lt (zeros : Bool) : FVal → FVal → Bool
  | .nan, _ => false
  | _, .nan => false
  | .inf s, .inf t => s && !t
  | .inf s, .fin _ _ _ => s
  | .fin _ _ _, .inf t => !t
  | .fin s m e, .fin t n g =>
    if m = 0 ∧ n = 0 then zeros && s && !t
    else let u := min e g; decide (atUnit u s m e < atUnit u t n g)

end FVal

/-- Minimum and maximum under R203. -/
def fminV (a b : FVal) : FVal := if a.isNan then b else if b.isNan then a else if FVal.lt true b a then b else a
def fmaxV (a b : FVal) : FVal := if a.isNan then b else if b.isNan then a else if FVal.lt true a b then b else a

/-- A word read as FP32 (R122). -/
def f32 (ftz : Bool) (w : Word) : FVal := fp32.unpack ftz w.toNat
/-- A value rounded to an FP32 word. -/
def toF32 (mode : Nat) (ftz : Bool) (v : FVal) : Word := BitVec.ofNat 32 (fp32.pack mode false ftz v)

/-- RoundRNE_FP32 with subnormals kept (R123). -/
def rneF32 (v : FVal) : Word := toF32 0 false v

/-- The 2^(e-127) of an E8M0 encoding, NaN for 0xFF (R115). -/
def e8m0 (e : Nat) : FVal := if e = 255 then .nan else .fin false 1 ((e : Int) - 127)

/-- The clamp of SAT on an FP32 or 16-bit result: to the range 0 to 1, NaN and -0 to +0 (R204). -/
def satF (f : FpFmt) (b : Nat) : Nat :=
  match f.unpack false b with
  | .nan => 0
  | .inf s => if s then 0 else f.bias * 2 ^ f.mb
  | .fin s m e => if s || m == 0 then 0 else if FVal.lt false (.fin false 1 0) (.fin s m e) then f.bias * 2 ^ f.mb else b

/-- The integer part of a finite value rounded by mode (R208, R121). -/
def roundInt (mode : Nat) (s : Bool) (m : Nat) (e : Int) : Int :=
  let k : Nat :=
    if 0 ≤ e then m * 2 ^ e.toNat
    else
      let d := (-e).toNat
      let q := m / 2 ^ d
      if FpFmt.roundUp mode s q (m % 2 ^ d) d then q + 1 else q
  if s then -(k : Int) else k

/-- FRND (R202). -/
def frndV (mode : Nat) : FVal → FVal
  | .fin s m e => if 0 ≤ e then .fin s m e else .fin s (roundInt mode s m e).natAbs 0
  | v => v

/-- The integer square root, bit by bit from bit n. -/
def isqrt (x : Nat) : Nat → Nat → Nat
  | 0, r => r
  | n + 1, r => let c := r + 2 ^ n; isqrt x n (if c * c ≤ x then c else r)

/-- A positive m 2^e's square root with 30 or more significant bits and a sticky last bit. -/
def sqrtV (m : Nat) (e : Int) : FVal :=
  let k : Nat := if e % 2 = 0 then 64 else 65
  let x := m * 2 ^ k
  let r := isqrt x ((Nat.log2 x) / 2 + 1) 0
  .fin false (2 * r + (if r * r = x then 0 else 1)) ((e - k) / 2 - 1)

/-- 1/(m 2^e) with a sticky last bit. -/
def recipV (s : Bool) (m : Nat) (e : Int) : FVal :=
  let k := Nat.log2 m + 64
  let q := 2 ^ k / m
  .fin s (2 * q + (if q * m = 2 ^ k then 0 else 1)) (-e - k - 1)

/-- a <= b for dyadic magnitudes m 2^e. -/
def dyLe (m : Nat) (e : Int) (n : Nat) (g : Int) : Bool :=
  let u := min e g
  decide (m * 2 ^ (e - u).toNat ≤ n * 2 ^ (g - u).toNat)

/-- Whether the finite magnitude r 2^g lies within one unit in the last place of 1/(m 2^e) (R205). -/
def rcpWithin (r : Nat) (g : Int) (m : Nat) (e : Int) : Bool :=
  let k := (Nat.log2 m : Int) + e
  let fl := if m = 2 ^ Nat.log2 m then -k else -k - 1
  let u := max (fl - 23) (-149)
  -- (r 2^g - 2^u) m 2^e <= 1 <= (r 2^g + 2^u) m 2^e
  let b := min g u
  let rr := r * 2 ^ (g - b).toNat
  let uu := 2 ^ (u - b).toNat
  dyLe ((rr - uu) * m) (b + e) 1 0 && dyLe 1 0 ((rr + uu) * m) (b + e)

/-- Whether r 2^g lies within one unit in the last place of 1/sqrt(m 2^e) (R205). -/
def rsqWithin (r : Nat) (g : Int) (m : Nat) (e : Int) : Bool :=
  let k := (Nat.log2 m : Int) + e
  let fl := if k % 2 = 0 then (if m = 2 ^ Nat.log2 m then -k / 2 else -k / 2 - 1) else -(k + 1) / 2
  let u := max (fl - 23) (-149)
  let b := min g u
  let rr := r * 2 ^ (g - b).toNat
  let uu := 2 ^ (u - b).toNat
  dyLe ((rr - uu) ^ 2 * m) (2 * b + e) 1 0 && dyLe 1 0 ((rr + uu) ^ 2 * m) (2 * b + e)

/-! Exact values to 100 fraction bits, for the bounds of R205. -/

/-- One, at 100 fraction bits. -/
def fix1 : Nat := 2 ^ 100
/-- A magnitude m 2^e at 100 fraction bits. -/
def fixOf (m : Nat) (e : Int) : Nat := if 0 ≤ e + 100 then m * 2 ^ (e + 100).toNat else m / 2 ^ (-(e + 100)).toNat
/-- 2^f for 0 <= f < 1, by the square roots of 2 that the bits of f select. -/
def exp2Go (f : Nat) : Nat → Nat → Nat → Nat
  | 0, _, acc => acc
  | n + 1, r, acc =>
    let r' := isqrt (r * fix1) 102 0
    exp2Go f n r' (if f.testBit n then acc * r' / fix1 else acc)
def exp2Fix (f : Nat) : Nat := exp2Go f 100 (2 * fix1) fix1
/-- log2 x for 1 <= x < 2, bit by bit. -/
def log2Go : Nat → Nat → Nat → Nat
  | 0, _, acc => acc
  | n + 1, x, acc =>
    let y := x * x / fix1
    if 2 * fix1 ≤ y then log2Go n (y / 2) (2 * acc + 1) else log2Go n y (2 * acc)
def log2Fix (x : Nat) : Nat := log2Go 70 x 0 * 2 ^ 30
/-- The terms of the series of sin (k odd) or cos (k even) from x^k/k!. -/
def trigGo (x : Int) : Nat → Nat → Int → Int → Int
  | 0, _, _, acc => acc
  | n + 1, k, term, acc => trigGo x n (k + 2) (-(term * x / fix1 * x / fix1) / ((k + 1) * (k + 2))) (acc + term)
def piFix : Nat := 3982441812995697363688351113952
def log2eFix : Nat := 1828833234529184422442202814989
/-- sin or cos of x at 100 fraction bits, the operand reduced to one turn. -/
def trigFix (cosine : Bool) (x : Int) : Int :=
  let y := x % (2 * piFix)
  let y := if (piFix : Int) < y then y - 2 * piFix else y
  if cosine then trigGo y 40 0 fix1 0 else trigGo y 40 1 y 0
/-- tanh of a magnitude below 10. -/
def tanhFix (x : Nat) : Nat :=
  let p := 2 * x * log2eFix / fix1
  let ee := exp2Fix (p % fix1) * 2 ^ (p / fix1)
  (ee - fix1) * fix1 / (ee + fix1)

/-- A signed number at 100 fraction bits, as an exact value scaled by 2^g. -/
def ofFix (x : Int) (g : Int) : FVal := .fin (decide (x < 0)) x.natAbs (g - 100)
/-- The free result where it lies within b of the exact value v (infinity standing at 2^128), else v rounded (log 9). -/
def keepWithin (raw : Word) (ftz : Bool) (v b : FVal) : Word :=
  let r : FVal := match f32 false raw with | .inf s => .fin s 1 128 | x => x
  let neg : FVal → FVal := fun x => match x with | .fin s m e => .fin (!s) m e | y => y
  let lo := FVal.add false v (neg b)
  let hi := FVal.add false v b
  if FVal.lt false r lo ∨ FVal.lt false hi r ∨ r = .nan then toF32 0 ftz v else toF32 1 ftz (f32 false raw)
/-- n units in the last place of a magnitude (R205), not below the least subnormal. -/
def ulps (n : Nat) (v : FVal) : FVal :=
  match v with
  | .fin _ m e => .fin false n (max ((Nat.log2 m : Int) + e - 23) (-149))
  | x => x

/-- A special function of a modified operand (R205): the stated special values, and elsewhere the free result of
Config.special kept inside the bound or range that the entry gives (log 9).  Functions are numbered from OP 0x40. -/
def specialV (fn mode : Nat) (ftz : Bool) (w : Word) : Word :=
  let a := f32 ftz w
  let raw := Config.special fn w ftz
  let rv := f32 false raw
  let flush (x : Word) : Word := toF32 1 ftz (f32 false x)
  let one : Word := 0x3F800000#32
  let inf : Word := 0x7F800000#32
  let nan : Word := 0x7FC00000#32
  match a with
  | .nan => nan
  | .inf s =>
    (match fn with
     | 0 => if s then 0x80000000#32 else 0#32
     | 1 => if s then nan else 0#32
     | 2 => if s then nan else inf
     | 3 => if s then 0#32 else inf
     | 4 => if s then nan else inf
     | 7 => if s then 0xBF800000#32 else one
     | _ => nan)
  | .fin s m e =>
    let zero : Word := if s then 0x80000000#32 else 0#32
    if m = 0 then
      (match fn with
       | 0 => if s then 0xFF800000#32 else inf
       | 1 => if s then 0xFF800000#32 else inf
       | 3 => one
       | 4 => 0xFF800000#32
       | 6 => one
       | _ => zero)
    else
      match fn with
      | 0 =>
        if dyLe m e 1 (-128) then (if s then 0xFF800000#32 else inf)
        else (match rv with
          | .fin rs r g => if rs = s ∧ rcpWithin r g m e then flush raw else toF32 0 ftz (recipV s m e)
          | _ => let c := toF32 0 ftz (recipV s m e)
                 if c = 0x7F800000#32 then 0x7F7FFFFF#32 else if c = 0xFF800000#32 then 0xFF7FFFFF#32 else c)
      | 1 =>
        if s then nan
        else (match rv with
          | .fin false r g => if rsqWithin r g m e then flush raw else
              (match sqrtV m e with | .fin _ q h => toF32 0 ftz (recipV false q h) | _ => nan)
          | _ => (match sqrtV m e with | .fin _ q h => toF32 0 ftz (recipV false q h) | _ => nan))
      | 2 => if s then nan else toF32 mode ftz (sqrtV m e)
      | 3 =>
        if dyLe 512 0 m e then (if s then keepWithin raw ftz (.fin false 1 (-512)) (.fin false 1 (-149)) else inf)
        else
          let x : Int := if s then -(fixOf m e : Int) else fixOf m e
          let i := x / fix1
          let v : FVal := .fin false (exp2Fix (x % fix1).toNat) (i - 100)
          keepWithin raw ftz v (if i < -126 then .fin false 1 (-149) else ulps 2 v)
      | 4 =>
        if s then nan
        else if FVal.lt false a (.fin false 1 0) = false ∧ FVal.lt false (.fin false 1 0) a = false then 0#32
        else
          let k := Nat.log2 m
          let v := ofFix (((k : Int) + e) * fix1 + log2Fix (fixOf m (-(k : Int)))) 0
          keepWithin raw ftz v (if dyLe 1 (-1) m e ∧ dyLe m e 2 0 then .fin false 1 (-22) else ulps 2 v)
      | 7 =>
        if dyLe 10 0 m e then (if s then 0xBF800000#32 else one)
        else
          let y := tanhFix (fixOf m e)
          keepWithin raw ftz (.fin s y (-100)) (.fin false 1 (-21))
      | _ =>
        if dyLe m e 1 15 then
          let x : Int := if s then -(fixOf m e : Int) else fixOf m e
          keepWithin raw ftz (ofFix (trigFix (fn == 6) x) 0) (.fin false 1 (-21))
        else (match rv with
          | .fin rs r g => if dyLe r g 1 0 then flush raw else if rs then 0xBF800000#32 else one
          | _ => 0#32)

end Sys2Proof
end

