-- ==== Sys2Proof/Machine/State.lean ====
section
/-!
DEFINITION. The state of the part, every piece of it plain data, and the state right after reset.
Sparse tables are AMaps in canonical form: an unlisted entry reads as its default (log 3 for memory).
-/
namespace Sys2Proof.Machine
open Sys2Proof

/-- Why the model itself stops. -/
inductive Fault where
  /-- The act of the plan names a strand that is not resident, or no strand is named where an item runs: raised by exec and
  by issuing; safe, the part has no such step. -/
  | noStrand
  deriving DecidableEq, Repr

/-- Why an instruction has no meaning in the model. -/
inductive Refusal where
  /-- Not modelled yet: raised by exec's arm; safe. -/
  | notModelled (mnemonic : String)
  deriving DecidableEq, Repr

/-- The in-flight paths (R37), coded 0 to 5 (R143). -/
inductive Path where
  | ld | st | sc | sh | mx | atm
  deriving DecidableEq, Repr

def Path.code : Path → Nat
  | .ld => 0 | .st => 1 | .sc => 2 | .sh => 3 | .mx => 4 | .atm => 5

/-- A destination of a returning operation. -/
inductive Dst where
  /-- Scalar register r. -/
  | s (r : Nat)
  /-- Lane l of vector register r, unrotated. -/
  | v (r l : Nat)
  deriving DecidableEq, Repr

/-- One element a returning operation delivers (R152): `done` once it has been delivered. -/
structure Land where
  dst : Dst
  val : Word
  done : Bool
  deriving DecidableEq, Repr

/-- A fault of an item (R328, R338): code, detail, argument, lanes; `next` when the resume item is the next one. -/
structure FaultInfo where
  code : Nat
  sub : Nat := 0
  arg : Nat := 0
  lanes : Mask := 0#128
  next : Bool := false
  deriving DecidableEq, Repr

/-- A trap waiting for entry (R323): the fault, the raising item (FSPC, FITEM), whether a transaction was aborted. -/
structure Pend where
  info : FaultInfo
  spc : DWord
  item : Nat
  txab : Bool
  /-- It halts the strand and enters no handler: under DBG (false), or as an error of R321 (true). -/
  halt : Option Bool := none
  deriving DecidableEq, Repr

/-- A shuttle command in flight (R186, R187): kind 0 to 5 as its sub-op, the shape and global quads, chunks done. -/
structure Sht where
  kind : Nat
  x : List Word
  y : List Word
  done : List Nat
  deriving DecidableEq, Repr

/-- An operation in flight (R36, R37): its place in issue order, path, flag, elements, and the error it has met (R341). -/
structure Op where
  id : Nat
  path : Path
  flag : Option Nat
  lands : List Land := []
  sht : Option Sht := none
  batch : Option Nat := none
  /-- The clasp a shuttle command is tagged for (R187). -/
  tag : Option Nat := none
  /-- A transactional access of the open transaction (R351). -/
  tx : Bool := false
  /-- Lanes and addresses of a returning access that lie in system space (R365). -/
  sys : List (Nat × Nat) := []
  err : Option FaultInfo := none
  spc : DWord := 0#64
  item : Nat := 0
  /-- Requests of the core that it occupies until it completes: one for each 256-byte line (R81, R219). -/
  reqs : Nat := 0
  /-- The first poisoned word that it met: address, and level of R344 (R348). -/
  pois : Option (Nat × Nat) := none
  deriving DecidableEq, Repr

/-- A held error (R341). -/
structure Held where
  op : Nat
  path : Path
  flag : Option Nat
  info : FaultInfo
  spc : DWord
  item : Nat
  /-- Trap entry, RFT or SAVE waited for it: it is raised before the item that resumes. -/
  due : Bool
  /-- It doomed a transaction: raised with TXAB (R351). -/
  txab : Bool
  /-- Operations issued after it on its path: the thresholds of WAITP that its completion serves (R341). -/
  later : Nat
  deriving DecidableEq, Repr

/-- A loop frame (R57, R144). -/
structure LoopFrame where
  startSpc : DWord
  endSpc : DWord
  startLpc : Word
  endLpc : Word
  trips : Word
  rot : Bool
  item : Bool
  stages : Nat
  depth : Nat
  ireg : Nat
  stage : BitVec 8
  entry : Mask
  lexit : Mask
  /-- When it was opened, against MSPLITs (R52's X; the model's own, log 16). -/
  seq : Nat
  deriving DecidableEq, Repr

/-- A return stack entry (R64). -/
structure RetEntry where
  spc : DWord
  lpc : Word
  loops : Nat
  deriving DecidableEq, Repr

/-- The spin detector (R54): writes since the last crossing by register number (vectors from 512, special registers from
1024), the previous crossing's hash, the crossing count, and whether anything was written, arrived or committed. -/
structure Spin where
  log : List (Nat × List Word)
  hash : Option Word
  count : Nat
  wrote : Bool
  deriving DecidableEq, Repr

/-- A transactional write of one lane: byte address, value, attribute and virtual address (R106). -/
structure TxWrite where
  lane : Nat
  addr : Nat
  val : Byte
  coh : Nat
  va : Nat
  deriving DecidableEq, Repr

/-- A transactional read of one lane: the byte address, the value it obtained and the attribute (R107, R108). -/
structure TxRead where
  lane : Nat
  addr : Nat
  val : Byte
  coh : Nat
  deriving DecidableEq, Repr

/-- A buffered RED of one lane (R228). -/
structure TxRed where
  lane : Nat
  addr : Nat
  opc : Nat
  val : Nat
  coh : Nat
  va : Nat
  deriving DecidableEq, Repr

/-- An open transaction (R70, R105 to R111). -/
structure Tx where
  failSpc : DWord
  failLpc : Word
  depth : Nat
  lanes : Mask
  /-- Aborted lanes with their codes. -/
  dead : AMap Nat
  /-- Lanes doomed by another agent (R107). -/
  doom : Mask
  reads : List TxRead
  writes : List TxWrite
  /-- Buffered RED updates, oldest first (R228). -/
  reds : List TxRed
  /-- Lines of the footprint. -/
  lines : List Nat
  serial : Bool
  /-- A system-scope annotation (R228). -/
  sys : Bool
  exec : Mask
  loops : List LoopFrame
  rot : Word
  stage : BitVec 8
  region : Word
  /-- A held error on a transactional access (R351). -/
  poisoned : Bool
  deriving DecidableEq, Repr

/-- A posted MMA (R232): instruction fields, FMT, rot and EXEC at posting, its batch and position, and the issuing item
(R341). -/
structure Posted where
  f : LaneF
  fmt : Word
  rot : Word
  exec : Mask
  batch : Nat
  pos : Nat
  spc : DWord
  item : Nat
  /-- Writes of elements that the engine may miss for it, oldest first: the element (as Mx.old numbers them), its value before, and
  whether the write came after the posting (R103, R104, log 51). -/
  miss : List (Nat × Word × Bool) := []
  deriving DecidableEq, Repr

/-- The member's matrix order (R231, R236). -/
inductive MxOp where
  | mma (p : Posted)
  | zero (regs : List Nat) (mask : Mask) (batch : Nat)
  deriving DecidableEq, Repr

/-- The matrix side of a strand: its quad (0: none), open batch, the operations counted in it, MMAs counted per batch, the
queue in matrix order, the operations MOPF waits for (those numbered below), and the batches with a discarded MMA that are
not closed, with the issuing item (R232 to R236, R341, R352). -/
structure Mx where
  quad : Nat
  batch : Nat
  opened : Nat
  counts : AMap Nat
  q : List MxOp
  mopf : Nat
  dis : List (Nat × DWord × Nat)
  /-- Writes of vector elements, and of words of scratch numbered from 2^20, that an MMA posted next may miss, oldest first: the value
  before, and 0 for a write that any MOPF has followed, one more than the number of the strand's operation that made it, or 2^64 for
  another agent's (R103, log 51). -/
  old : List (Nat × Word × Nat)
  /-- Accumulator elements that a partial accumulation has overwritten, with the value the MMA reads (R104, log 51). -/
  save : AMap Word
  deriving DecidableEq, Repr

/-- What a strand is doing under debug control (R305). -/
inductive Run where
  | going
  | halted
  /-- One item, then stop. -/
  | stepItem
  /-- Until the next header. -/
  | stepHeader
  deriving DecidableEq, Repr

/-- What kind of item a strand is held at, for samples and the watchdog (R306, R331). -/
inductive Wait where
  | none
  /-- In CLASP.WAIT on handle h, its token in S[x]. -/
  | clasp (h x : Nat)
  /-- A CLASP.WAIT that has been released with a status: the strand is ready; the acquire is at the scope (R102, R175 to R177). -/
  | woke (status scope : Nat)
  | grow
  | token
  | quad
  | path
  | flag
  /-- The word of its next item has not been fetched. -/
  | fetch
  /-- Any other hold: no reason of R306 names it. -/
  | other
  /-- An access waits for the memory arbiters of these units, or for the channels' allowance (R268, R277). -/
  | mem (units : List Nat)
  deriving DecidableEq, Repr

/-- A departure under way (R44, R45): by DETACH, or by an empty LIVE. -/
inductive Leave where
  | no
  | detach
  | retire
  deriving DecidableEq, Repr

/-- A strand's trace stream (R310, R317 to R320). -/
structure Trace where
  on : Bool
  bits : List Bool
  block : List Byte
  ts : Nat
  count : Nat
  lost : Nat
  /-- A block of the strand waits for the ring. -/
  holding : Bool
  /-- A SYNC is due at the next header, with this F. -/
  sync : Option Nat
  /-- The ring has freed: LOSS is due at the next header. -/
  freed : Bool
  /-- Device time of the last packet. -/
  last : Nat
  /-- TEN has fallen since: the stream ends at the next header (R311). -/
  off : Bool
  /-- The stream has written the STOP of a halt (R320). -/
  ended : Bool
  /-- The time that the last lost TIME would have carried (R317, R319). -/
  lostTs : Nat
  deriving DecidableEq, Repr

/-- The state of a strand (R29), or of a command-core lane (R248, log 7). -/
structure Strand where
  sid : Nat
  weave : Nat
  widx : Nat
  role : Nat
  core : Nat
  slot : Nat
  budget : Nat
  part : Nat
  ctx : Nat
  priv : Bool
  /-- Clause header address, first lane index, item index and the header's fields (R38, R136, R303). -/
  hspc : DWord
  first : Word
  item : Nat
  nl : Nat
  ns : Nat
  seta : Nat
  setb : Nat
  sbase : DWord
  lbase : DWord
  /-- Section bases of the trap handler (R325). -/
  hsbase : DWord
  hlbase : DWord
  s : AMap Word
  v : AMap Vec
  capS : AMap Word
  /-- CAPT of a trap frame (R324), in use after RFT or a restore until the clause ends. -/
  capt : List (List Word)
  /-- Lane items whose word could not be fetched at trap entry, and the scalars captured for them (R35, R324, log 56). -/
  noCap : List Nat
  capH : AMap Word
  /-- Scalars that were uncorrectable when the open clause captured them (R35, R346). -/
  capBad : List Nat
  /-- The header of the clause to resume in has not been read: it could not be fetched (R326, R328). -/
  lost : Bool
  exec : Mask
  live : Mask
  fmt : Word
  rot : Word
  stage : BitVec 8
  region : Word
  status : Word
  txstat : Word
  /-- Innermost first. -/
  loops : List LoopFrame
  /-- Bit L: loop frame L has been open at some time; the others still read as reset (R144). -/
  lfTop : Nat
  /-- Top first. -/
  rets : List RetEntry
  ops : List Op
  nextOp : Nat
  /-- Flags claimed by the clause that a trap interrupted. -/
  claims : List Nat
  /-- An acquire is pending: ld, sc and at operations below this number complete before the next header (R94, R97). -/
  acq : Nat
  lfsr : List Word
  spin : Spin
  tx : Option Tx
  hnd : Bool
  frame : Nat
  pend : Option Pend
  held : List Held
  run : Run
  clk : DWord
  csrLo : AMap Word
  csrHi : AMap Word
  mx : Mx
  leave : Leave
  wait : Wait
  since : Nat
  /-- Uncorrectable register elements: scalar r as r, lane l of vector r as 512 + 128 r + l (R346). -/
  bad : List Nat
  tr : Trace
  delay : Option Nat
  /-- A back edge is due (R58). -/
  edge : Bool
  /-- The next item passes its breakpoints, and its watchpoints: the stops that R305 puts before the one it resumes from (log 15). -/
  pass : Bool
  passW : Bool
  /-- The two for the item that a trap handler returns to. -/
  passH : Bool × Bool
  /-- Counts LOOPs and MSPLITs; when each save area was written; the order of the loops a trap interrupted (log 16). -/
  seqNo : Nat
  splits : AMap Nat
  /-- Outermost first. -/
  seqs : List Nat
  /-- The splits of the interrupted code, while its handler runs. -/
  splitsH : AMap Nat
  deriving DecidableEq, Repr

/-- A clasp binding (R176): bolt or scratch, address or offset. -/
structure Bind where
  bolt : Bool
  addr : Nat
  deriving DecidableEq, Repr

/-- A strand's record at a clasp (R175). -/
structure CRec where
  arrived : Bool
  early : Bool
  joins : Bool
  deriving DecidableEq, Repr

/-- A held arrival (R176): handle and object, token, strand, and the operations before it that are tagged. -/
structure HeldArr where
  h : Nat
  bind : Bind
  token : Nat
  widx : Nat
  upto : Nat
  deriving DecidableEq, Repr

/-- A launch descriptor as read (R252). -/
structure Desc where
  addr : Nat
  sbase : Nat
  lbase : Nat
  nweave : Nat
  wmin : Nat
  wmax : Nat
  priv : Bool
  sken : Bool
  sksel : Nat
  ncopy : Nat
  nmat : Nat
  nepi : Nat
  bcopy : Nat
  bmat : Nat
  bepi : Nat
  creg : Nat
  cscr : Nat
  scrw : Nat
  clasps : List Bind
  args : Nat
  sigaddr : Nat
  sigval : Nat
  enw : Nat
  ipk : Nat
  deriving DecidableEq, Repr

/-- A weave (R30, R41, R48). -/
structure Weave where
  wid : Nat
  bolt : Nat
  home : Nat
  part : Nat
  ctx : Nat
  wmin : Nat
  wmax : Nat
  y : Nat
  resv : List Nat
  attSeq : Nat
  binds : AMap Bind
  recs : AMap CRec
  helds : List HeldArr
  scr : AMap Byte
  scrLen : Nat
  scrPoison : List Nat
  children : Nat
  deriving DecidableEq, Repr

/-- One die's share of a bolt (R254, R257). -/
structure DieRange where
  die : Nat
  start : Nat
  next : Nat
  stop : Nat
  retired : Nat
  deriving DecidableEq, Repr

/-- A bolt (R31, R68). -/
structure Bolt where
  bid : Nat
  desc : Desc
  depth : Nat
  parent : Option Nat
  part : Nat
  ctx : Nat
  priv : Bool
  /-- Command-core lane of the queue that launched it. -/
  lane : Option Nat
  /-- Step 3 of R68 writes the signal (not under REPEAT). -/
  signal : Bool
  dies : List DieRange
  started : Bool
  time : Nat
  /-- Step 2 of R68 is done: its launch counts as complete (R246). -/
  shown : Bool := false
  deriving DecidableEq, Repr

/-- A 64-byte sector of an L1 on an SC or CP page (R81, R88). -/
structure Sector where
  data : List Word
  dirty : BitVec 16
  poison : BitVec 16
  coh : Nat
  ctx : Nat
  deriving DecidableEq, Repr

/-- 16 bytes of a scalar constant cache, and the strands that have written them since, which they no longer serve (R83, R91). -/
structure CcLine where
  words : List Word
  no : List Nat
  deriving DecidableEq, Repr

/-- A line of the L2 (R23, R84, R85): its owner, its way, and for each of its four sectors the valid and the dirty bit and
the word-write mask.  Its bytes are the home's, State.mem (log 14). -/
structure L2Line where
  part : Nat
  ctx : Nat
  way : Nat
  valid : BitVec 4
  dirty : BitVec 4
  mask : BitVec 64
  deriving DecidableEq, Repr

/-- An arbiter: of a spindle's issue, between its strands by slot (R32, R260, R268), or of a home slice or memory channel, between
contexts (R260, R268, R277). -/
structure Arb where
  /-- The last slot served of each context. -/
  last : AMap Nat
  deficit : AMap Nat
  /-- The weighted rotation: the last it served, whom it has served, and how many rotations the weights have let pass (log 60). -/
  turn : Nat
  left : Nat
  served : List Nat
  /-- The strand (SID) that the last grant served, and the device time of that grant (R306). -/
  now : Option Nat
  at_ : Nat
  /-- Of the decision interval: its cycles, and by context the cycles with a ready request and the grants, in bytes at a memory
  arbiter (R259). -/
  n : Nat
  rdy : AMap Nat
  got : AMap Nat
  deriving DecidableEq, Repr

/-- The L2 and the memory channels behind it: lines by partition and line number (R84), the bytes asked of each partition's
channels and not yet granted out of an earlier interval's allowance (R277), the bytes asked in this interval by
16 x partition + context (R268), and each partition's accesses and hits of the decision interval (R258). -/
structure L2 where
  lines : AMap L2Line
  chan : AMap Nat
  by_ : AMap Nat
  acc : AMap Nat
  hit : AMap Nat
  /-- Bytes that a partition's channels have moved since reset (R258). -/
  moved : AMap Nat
  /-- The memory arbiters, by partition and unit: a home slice, or a memory channel (R268). -/
  marb : AMap Arb
  deriving DecidableEq, Repr

/-- What a partition's utilisation is formed from (R258, R276), since reset: bytes moved at its channels, cycles of its spindles with a
resident strand, and issue cycles by context. -/
structure Util where
  bytes : Nat
  cycles : Nat
  issued : AMap Nat
  deriving DecidableEq, Repr

/-- A translation held by a TLB (R73, R74). -/
structure Tlb where
  base : Nat
  w : Bool
  x : Bool
  u : Bool
  /-- COH, and 4 more where the page lay in a peer window at the walk (R73, R299); so in a sector too. -/
  coh : Nat
  owner : Nat
  rof : Bool
  pinok : Bool
  dirty : Bool
  /-- The page lay in a peer window at the walk (R299). -/
  peer : Bool
  deriving DecidableEq, Repr

/-- A stash mapping (R79): weave, scratch page offset, physical page, line masks. -/
structure Stash where
  weave : Nat
  off : Nat
  page : Nat
  coh : Nat
  filled : BitVec 16
  /-- Lines filled at some time since the mapping (R80). -/
  ever : BitVec 16
  /-- Dirty lines with their 64-bit word masks. -/
  dirty : List (Nat × BitVec 64)
  deriving DecidableEq, Repr

/-- A core (R15, R16). -/
structure Cor where
  creg : Nat
  cscr : Nat
  lastCtx : Option Nat
  l1 : AMap Sector
  /-- By 16-byte unit. -/
  cc : AMap CcLine
  tlb : AMap Tlb
  stash : List Stash
  /-- Written stash lines (weave, scratch page, line), the least recently written first (R80). -/
  lru : List (Nat × Nat × Nat)
  sk0 : List Word
  sk1 : List Word
  cycles : Nat
  lastSlot : Nat
  /-- The arbiters of the four spindles. -/
  arb : AMap Arb
  deriving DecidableEq, Repr

/-- A combining-buffer line (R99): line number, words with operation and partial. -/
structure CombLine where
  line : Nat
  words : AMap (Nat × Nat)
  /-- The context of each word's last RED (R353). -/
  ctxs : AMap Nat
  deriving DecidableEq, Repr

/-- A cluster (R11, R18, R256, R273). -/
structure Clu where
  hi : Bool
  /-- The rail it changes to and when the change ends (R274). -/
  change : Option (Bool × Nat)
  active : Bool
  energy : Nat
  /-- Current held, by weave. -/
  held : List (Nat × Nat)
  comb : List CombLine
  /-- The cluster's TLB (R74). -/
  tlb : AMap Tlb
  /-- Words of read-only-forwardable lines: when each was filled, and its value (R82). -/
  ro : AMap (Nat × Word)
  /-- The predictor: cluster by line index (R296). -/
  pred : AMap Nat
  /-- Contexts that have had a strand resident since the last boundary (R281). -/
  ctxs : List Nat
  /-- Issue cycles times active lanes since the last boundary (R361). -/
  work : Nat
  deriving DecidableEq, Repr

/-- Where a queue's head packet stands (R245, R246, R355). -/
inductive QPhase where
  | idle
  /-- A prologue runs. -/
  | prologue
  /-- REPEAT waits for its bolt to complete (R251). -/
  | rerun (bolt : Nat)
  deriving DecidableEq, Repr

/-- A queue's inner state (R246, R249, R357). -/
structure Queue where
  phase : QPhase
  /-- Bolts launched and not complete, by key. -/
  bolts : List Nat
  /-- Copies issued and not complete: packet index, source, destination, bytes, and the chunks that have been copied. -/
  copies : List (Nat × Nat × Nat × Nat × List Nat)
  /-- Faults of copies, recorded at the next BAR packet: packet index, address, code, and the copy kept. -/
  failed : List (Nat × Nat × Nat × (Nat × Nat × Nat))
  /-- Words of the prologue, and of the present round. -/
  words : Nat
  round : Nat
  /-- The head packet's prologue address and ARG pointer. -/
  pro : Nat
  arg : Nat
  deriving DecidableEq, Repr

/-- The attribute-transition run in progress (R90, R343). -/
structure AttrRun where
  base : Nat
  len : Nat
  ctx : Nat
  attr : Nat
  owner : Nat
  sig : Nat
  deriving DecidableEq, Repr

/-- What a save area records of a core (R334). -/
structure SavedCore where
  core : Nat
  creg : Nat
  cscr : Nat
  sk0 : List Word
  sk1 : List Word
  deriving DecidableEq, Repr

/-- A saved context (R334) beside its bytes in memory, named by context and the device time of its header (log 41). -/
structure Saved where
  ctx : Nat
  time : Nat
  bolts : List (Nat × Bolt)
  weaves : List (Nat × Weave)
  strands : List (Nat × Strand)
  cores : List SavedCore
  stash : List (Nat × Stash)
  /-- Current that its strands and weaves hold: cluster, key, mA (R256). -/
  held : List (Nat × Nat × Nat)
  /-- Its bolts have not come back by a RESTORE (R358). -/
  out : Bool
  deriving DecidableEq, Repr

/-- What a decision interval has gathered so far (R258, R259): its start, the meters then, cluster-ns on the high rail,
strand-ns by context, waits and starts of weaves (the L2's counts stand in L2, those of issue in Arb). -/
structure Meas where
  start : Nat
  etot : Nat
  ecomp : Nat
  emem : Nat
  hi : Nat
  waitN : Nat
  wait : Nat
  thru : AMap Nat
  latN : AMap Nat
  lat : AMap Nat
  strands : AMap Nat
  /-- Contexts that had a strand, a queue or a launch. -/
  live : List Nat
  /-- The utilisation at its start. -/
  util : Util
  deriving DecidableEq, Repr

/-- Whose weighted turn admission at a die is, and the admissions left of it (R254, R260). -/
structure Adm where
  turn : Nat
  left : Nat
  deriving DecidableEq, Repr

/-- A partition (R292): its record, control block and engines. -/
structure Part where
  cfg : PartRec
  csr : AMap Word
  queues : AMap Queue
  havePrev : Bool
  prevS : Nat
  prevA : Nat
  anchor : Nat
  lastDec : Option Nat
  /-- Software knob values waiting for the boundary, and the learner's action (R261). -/
  knobSw : AMap Nat
  knobAct : Option Nat
  /-- The power registers 0x8000 and 0x8008 in effect since the last boundary (R278). -/
  pwr : Word × Word
  slewPtr : Nat
  meas : Meas
  adm : AMap Adm
  /-- The last write of LCFG2 that moved the boundaries (R265). -/
  reAnchor : Nat
  hmSeq : Nat
  hmEnd : Nat
  /-- KIND 2 is due: GSEQ and GTIME (R285, R287). -/
  hmFirst : Option (Nat × Nat)
  rem : AMap Nat
  ctxEnd : List Nat
  failed : List (Nat × Nat)
  degr : Bool
  attr : Option AttrRun
  saved : List Saved
  noAdmit : List Nat
  stopWait : List (List Byte × Nat)
  heldBlocks : List (Nat × List Byte)
  children : Nat
  /-- The serial numbers of TBASE and SBASE taken up (R311, R315). -/
  sRing : Nat × Nat
  tRing : Nat × Nat
  /-- Cycles of its spindles with a resident strand, and its issue cycles by context, since reset; the utilisation at the last
  control boundary (R258, R276). -/
  spun : Nat
  used : AMap Nat
  utilB : Util
  deriving DecidableEq, Repr

/-- A partition's share of an anchor (R287): meter words by offset, SEQ, TEND, remainders. -/
structure AnchorPart where
  part : Nat
  meters : AMap Word
  seq : Nat
  tend : Nat
  rem : AMap Nat
  deriving DecidableEq, Repr

/-- An anchor in module flash (R287, R362): its own SEQ, and per partition meters, SEQ, remainders, TEND. -/
structure Anchor where
  seq : Nat
  house : Nat
  pkg : Nat
  houseRem : AMap Nat
  parts : List AnchorPart
  /-- The slot's CRC-32 matches its contents (R362). -/
  crc : Bool
  deriving DecidableEq, Repr

/-- One act of the plan (log 1): which agent moves next, or what arrives from outside. -/
inductive Act where
  /-- The strand of key k runs its next item. -/
  | issue (k : Nat)
  /-- An event of the table happens. -/
  | event (i : Instr)
  /-- Device time advances by n ns. -/
  | tick (n : Nat)
  /-- Element e of operation id of strand k lands before the operation completes (R152, R101). -/
  | land (k id e : Nat)
  /-- A sector leaves the L1 of a core. -/
  | evictL1 (core sector : Nat)
  /-- A translation leaves the TLB of a core, or from 512 up of cluster core − 512. -/
  | evictTlb (core key : Nat)
  /-- A unit of 16 bytes leaves the constant cache of a core. -/
  | evictCc (core unit : Nat)
  /-- The oldest combining-buffer line of a cluster goes home. -/
  | evictComb (clu : Nat)
  /-- A line leaves the L2. -/
  | evictL2 (line : Nat)
  /-- A peer line leaves the home slices. -/
  | evictSlice (sector : Nat)
  /-- The strand of key k runs its next item; what it stores reaches other observers later (log 50). -/
  | issueLate (k : Nat)
  /-- Store i of State.lags reaches core o, or every observer. -/
  | show (i o : Nat)
  | home (i : Nat)
  /-- RED i of State.reds reaches its buffer; window store i of State.wins writes its element. -/
  | redIn (i : Nat)
  | winIn (i : Nat)
  /-- The strand of key k runs its next item, its read-only load served by the cluster that the predictor names (R82). -/
  | issueFwd (k : Nat)
  /-- The quad of strand k meets, its engine having missed the newest writes of the listed elements, one for each time that an element is
  listed, and come before the strand's own writes of those of `kept`: member, element (R103, R104). -/
  | meetOld (k : Nat) (els kept : List (Nat × Nat))
  /-- Element (row l, column n) of strand k's oldest MMA holds the sum of its first b blocks (R104). -/
  | partialMma (k l n b : Nat)
  /-- Chunk i of copy c of lane ln is copied before the copy completes (R247, R371). -/
  | copyIn (ln c i : Nat)
  /-- While BOOTSTAT.FWOK is 0 the host writes a new image, verified at the next warm reset (R364). -/
  | newImage (r : BootRec)
  /-- The host or a peer writes its own memory (R299 to R301). -/
  | farStore (pa size v : Nat)
  /-- The host reads the low word of a 64-bit register or meter: 65536 × partition + offset, partition 8 for the window (R283,
  R368). -/
  | winRead (off : Nat)
  deriving DecidableEq, Repr

/-- A store on its way to other observers, in the order of issue (R91 to R97, R113, log 50).  Memory holds the newest value. -/
inductive Lag where
  /-- One access's bytes from an address, as the cores that do not see the store yet still read them; the storing core; the cores
  that see it beside that one. -/
  | store (addr : Nat) (old : List Byte) (core : Nat) (seen : List Nat)
  /-- A release by a strand of a core at a scope: what is before it and its core sees comes before what follows. -/
  | rel (core scope : Nat)
  deriving DecidableEq, Repr

/-- A RED that has issued and not reached its cluster's buffer (R99, R240, log 50): strand, core, partition, context, address, OPC,
value. -/
structure LateRed where
  me : Nat
  core : Nat
  part : Nat
  ctx : Nat
  pa : Nat
  opc : Nat
  val : Nat
  deriving DecidableEq, Repr

/-- An element that a window store has not written yet (R78, log 50): the storing strand; the target's key, register and lane; byte,
size and value. -/
structure LateWin where
  me : Nat
  k : Nat
  r : Nat
  ln : Nat
  o : Nat
  n : Nat
  val : Nat
  deriving DecidableEq, Repr

/-- The whole part. -/
structure State where
  time : Nat
  /-- Device time of the last control interval boundary (R273). -/
  bound : Nat
  cur : Nat
  plan : List Act
  mem : AMap Byte
  poison : List Nat
  window : AMap Word
  winLo : AMap Word
  linkUp : Bool
  boot : Nat
  flash0 : Option Anchor
  flash1 : Option Anchor
  house : Nat
  pkg : Nat
  houseRem : AMap Nat
  /-- The calibration of the accepted record (R280, R288), and the digests that attestation reports carry (R289). -/
  calib : Calib
  fwDigest : Nat
  cfgDigest : Nat
  /-- The image that the host has written through the window since a boot without firmware (R364, log 43). -/
  image : Option BootRec
  /-- Anchored shares of partitions that the present record does not have (R279, R287). -/
  lost : List AnchorPart
  /-- Device time at which the next anchor is written (R287, R362). -/
  anchorDue : Nat
  l2 : L2
  /-- Peer lines that the home slices hold, by partition and sector (R300). -/
  slice : AMap Sector
  lags : List Lag
  /-- REDs and window stores on their way, in the order of issue; and whether those of the item that runs are to be (log 50). -/
  reds : List LateRed
  wins : List LateWin
  late : Bool
  /-- High words latched by the host's reads of low words, by 65536 × partition + offset (R185, R283). -/
  winHi : AMap Word
  /-- Pinned lines: line number and 16 x partition + context (R86). -/
  pins : AMap Nat
  parts : AMap Part
  clus : AMap Clu
  cores : AMap Cor
  bolts : AMap Bolt
  weaves : AMap Weave
  strands : AMap Strand
  nextKey : Nat
  free : Nat
  /-- The command core's round: its next group, the lanes that contributed, the lanes whose work is done (R248, R249). -/
  ccGroup : Nat
  ccElig : List Nat
  ccDone : List Nat
  deriving DecidableEq, Repr

/-- The byte an address reads as while nothing has written it (log 3). -/
def memDefault : Byte := 0#8

/-- The canonical form of memory: addresses strictly rising, no entry equal to what an unlisted address reads as. -/
abbrev Memory.wf (m : AMap Byte) : Bool := AMap.canon memDefault m

/-- The part right after reset: no configuration record accepted yet, no partition, no strand, nothing in memory
(log 2, log 13). -/
def State.reset : State :=
  { time := 0, bound := 0, cur := 0, plan := [], mem := [], poison := [], window := [], winLo := [], linkUp := true, boot := 0,
    flash0 := none, flash1 := none, house := 0, pkg := 0, houseRem := [],
    calib := { slice := 0, router := 0, port := 0, near := 0, lp := 0, wAcc := 0, wFlit := 0, lane := 0, eAcc := 0, eFlit := 0, eByte := 0 }, fwDigest := 0, cfgDigest := 0,
    image := none, lost := [], anchorDue := 10000000000, l2 := { lines := [], chan := [], by_ := [], acc := [], hit := [], moved := [], marb := [] }, slice := [], lags := [], reds := [], wins := [], late := false, winHi := [], pins := [], parts := [], clus := [],
    cores := [], bolts := [], weaves := [], strands := [], nextKey := 1, free := 0, ccGroup := 0,
    ccElig := [], ccDone := [] }

end Sys2Proof.Machine
end

