-- ==== Sys2Proof/Machine/Csr.lean ====
section
/-!
DEFINITION. The partition control block: reset values, reads and writes of its words, the event sequence, the logs
(spec/06 R185, spec/11 R243, spec/12 R269, spec/14 R278, R284, spec/16 R302, R304, spec/19 R330, R332, spec/20 R348).
-/
namespace Sys2Proof.Machine
open Sys2Proof

/-- Clusters of a partition (R292). -/
def nclu (c : PartRec) : Nat := popN c.dies 4 * (c.x1 + 1 - c.x0) * (c.y1 + 1 - c.y0)

/-- Whether a cluster index (R12) lies in the partition (R292, R293). -/
def ownsClu (c : PartRec) (clu : Nat) : Bool :=
  c.dies.testBit (clu / 32) && decide (c.x0 ≤ clu % 8) && decide (clu % 8 ≤ c.x1) && decide (c.y0 ≤ clu / 8 % 4)
    && decide (clu / 8 % 4 ≤ c.y1)

/-- The partition's clusters, ascending. -/
def partClusters (c : PartRec) : List Nat := (List.range 128).filter (ownsClu c)

/-- Whether a physical address lies in memory that the partition may use: near DRAM of its dies, in its own channels where it
has not the whole of a die, LPDDR6 in its LPMASK, and system space (R72, R293); which position or channel holds an address is
log 53. -/
def ownsPa (c : PartRec) (pa : Nat) : Bool :=
  if pa < 2 ^ 37 then
    c.dies.testBit (pa / 2 ^ 35) &&
      ((c.x0 == 0 && c.x1 == 7 && c.y0 == 0 && c.y1 == 3) || ownsClu c (pa / 2 ^ 35 * 32 + Config.nearRouter pa % 32))
  else if pa < 2 ^ 41 then c.lpmask % 2 ^ 48 == 2 ^ 48 - 1 || c.lpmask.testBit (Config.lpChannel pa % 48)
  else decide (2 ^ 51 ≤ pa)

/-- Word k of the geometry entry (R294). -/
def geomWord (c : PartRec) (k : Nat) : Word :=
  BitVec.ofNat 32 (match k with
    | 0 => 1 + c.dies % 16 * 2 + c.x0 % 8 * 32 + c.x1 % 8 * 256 + c.y0 % 4 * 2048 + c.y1 % 4 * 8192 + c.ioshare % 256 * 65536
    | 2 => c.lpmask % 2 ^ 32
    | 3 => c.lpmask / 2 ^ 32 % 2 ^ 16
    | _ => 0)

/-- Reset value of knob kid (R260). -/
def knobReset (c : PartRec) (kid : Nat) : Nat :=
  if kid < 64 then (match kid % 4 with | 0 => 8 | 1 => 64 | 2 => 12 | _ => 8)
  else if kid = 64 then nclu c else if kid = 65 then 64 else 192

/-- The reset value of the control word at a byte offset. -/
def csrReset (c : PartRec) (off : Nat) : Word :=
  if 0x80 ≤ off ∧ off < 0x90 then geomWord c ((off - 0x80) / 4)
  else if 0x800 ≤ off ∧ off < 0xA00 ∧ off % 0x40 = 8 then 0x100#32
  else if off = 0x4000 then 0x0D000010#32
  else if off = 0x4004 then 0x03E80000#32
  else if off = 0x4008 then 0x00010000#32
  else if off = 0x400C then 1#32
  else if 0x4100 ≤ off ∧ off < 0x4180 then 0x00FF00FF#32
  else if 0x4880 ≤ off ∧ off < 0x498C then BitVec.ofNat 32 (knobReset c ((off - 0x4880) / 4))
  else if off = 0x8000 then BitVec.ofNat 32 (c.pb + 4 * 65536 + 5 * 1048576)
  else if off = 0x8004 then 128#32
  else if off = 0x8008 then 20000#32
  else if off = 0x8018 then BitVec.ofNat 32 (1000 + 4 * 65536 + 1048576)
  else if off = 0xA000 then BitVec.ofNat 32 (4 * 16 + 1024 * 256)
  else if off = 0xA070 then 6#32
  else if 0xA180 ≤ off ∧ off < 0xA1C0 ∧ off % 16 = 0 then 0x200#32
  else 0#32

/-- The value of a control word. -/
def Part.rd (p : Part) (off : Nat) : Word := AMap.get p.csr off (csrReset p.cfg off)

/-- Hardware's own update of a control word. -/
def Part.wr (p : Part) (off : Nat) (v : Word) : Part := { p with csr := AMap.set p.csr off v (csrReset p.cfg off) }

/-- A 64-bit control register, low word first. -/
def Part.rd64 (p : Part) (off : Nat) : Nat := (pair (p.rd off) (p.rd (off + 4))).toNat

def Part.wr64 (p : Part) (off v : Nat) : Part := (p.wr off (BitVec.ofNat 32 v)).wr (off + 4) (BitVec.ofNat 32 (v / 2 ^ 32))

/-- Adds one to a counter that stops at its top (R348). -/
def Part.bump (p : Part) (off : Nat) : Part := if p.rd off = 0xFFFFFFFF#32 then p else p.wr off (p.rd off + 1)

/-- The event arbiter gives the next sequence number (R304, R302 ESEQ). -/
def Part.eseq (p : Part) : Word × Part := (p.rd 0xA0D4, p.wr 0xA0D4 (p.rd 0xA0D4 + 1))

/-- One entry of the non-fatal log (R330, R354). -/
def Part.logNf (p : Part) (kind ctx core slot arg : Nat) : Part :=
  let (e, p) := p.eseq
  let h := (p.rd 0xE20).toNat % 64
  let p := p.wr (0xC000 + 16 * h) (BitVec.ofNat 32 (kind + ctx * 16 + core * 256 + slot * 65536))
  let p := (p.wr (0xC004 + 16 * h) e).wr64 (0xC008 + 16 * h) arg
  (p.wr 0xE20 (BitVec.ofNat 32 ((h + 1) % 64))).wr 0xE24 (p.rd 0xE24 + 1)

/-- One entry of the memory error log (R348). -/
def Part.logMe (p : Part) (kind ctx core slot level arg : Nat) : Part :=
  let (e, p) := p.eseq
  let h := (p.rd 0xE28).toNat % 64
  let p := p.wr (0xC400 + 16 * h) (BitVec.ofNat 32 (kind + ctx * 16 + core * 256 + slot * 65536 + level * 8388608))
  let p := (p.wr (0xC404 + 16 * h) e).wr64 (0xC408 + 16 * h) arg
  (p.wr 0xE28 (BitVec.ofNat 32 ((h + 1) % 64))).wr 0xE2C (p.rd 0xE2C + 1)

/-- Sets or clears bit i of a control word. -/
def Part.setBit (p : Part) (off i : Nat) (b : Bool) : Part :=
  p.wr off (BitVec.ofNat 32 ((p.rd off).toNat - bitIf ((p.rd off).getLsbD i) i + bitIf b i))

/-- The value of knob kid in effect (R260). -/
def Part.knob (p : Part) (kid : Nat) : Nat := (p.rd (0x4880 + 4 * kid)).toNat

/-- Whether a way lies in a context's mask (R260, R85). -/
def inWays (p : Part) (c way : Nat) : Bool :=
  let base := ((List.range c).map (fun i => p.knob (4 * i + 2))).sum
  decide ((way + 12 * 16 - base % 12) % 12 < p.knob (4 * c + 2))

/-- Bytes that the partition's memory channels grant in a control interval (R277). -/
def Part.memAllowance (p : Part) : Nat :=
  fld p.pwr.1.toNat 0 16 * (256 - (p.rd 0x8004).toNat) * 2000000 / (256 * max 1 (fld p.pwr.1.toNat 20 8))

/-- The floor shares of context c at issue and at memory arbiters, and its weights there (R260, R268). -/
def Part.fi (p : Part) (c : Nat) : Nat := fld (p.rd (0x40A0 + 4 * c)).toNat 0 8
def Part.fb (p : Part) (c : Nat) : Nat := fld (p.rd (0x40A0 + 4 * c)).toNat 8 8
def Part.weight (p : Part) (c : Nat) : Nat := p.knob (4 * c)
def Part.bwshare (p : Part) (c : Nat) : Nat := p.knob (4 * c + 3)

/-- DBG (R302). -/
def Part.dbg (p : Part) : Bool := (p.rd 0xA0C0).getLsbD 0

namespace State
variable (s : State)

def part? (p : Nat) : Option Part := AMap.look s.parts p
def setPart (p : Nat) (x : Part) : State := { s with parts := AMap.put s.parts p x }
def updPart (p : Nat) (f : Part → Part) : State := { s with parts := AMap.upd s.parts p f }
/-- A control word of a partition, zero where there is no partition. -/
def csr (p off : Nat) : Word := match s.part? p with | some x => x.rd off | none => 0#32
def csr64 (p off : Nat) : Nat := match s.part? p with | some x => x.rd64 off | none => 0

/-- A core that nothing has run on, and a cluster that nothing runs on: idle (R275). -/
def coreDefault : Cor :=
  { creg := 0, cscr := 0, lastCtx := none, l1 := [], cc := [], tlb := [], stash := [], lru := [], sk0 := [], sk1 := [], cycles := 0,
    lastSlot := 95, arb := [] }
def cluDefault : Clu :=
  { hi := false, change := none, active := false, energy := 0, held := [], comb := [], tlb := [], ro := [], pred := [], ctxs := [], work := 0 }
def queueDefault : Queue :=
  { phase := .idle, bolts := [], copies := [], failed := [], words := 0, round := 0, pro := 0, arg := 0 }
def arbDefault : Arb :=
  { last := [], deficit := [], turn := 127, left := 0, served := [], now := none, at_ := 0, n := 0, rdy := [], got := [] }

def core (k : Nat) : Cor := AMap.get s.cores k coreDefault
def setCore (k : Nat) (c : Cor) : State := { s with cores := AMap.set s.cores k c coreDefault }
def clu (k : Nat) : Clu := AMap.get s.clus k cluDefault
def setClu (k : Nat) (c : Clu) : State := { s with clus := AMap.set s.clus k c cluDefault }

def strand? (k : Nat) : Option Strand := AMap.look s.strands k
def setStrand (k : Nat) (t : Strand) : State := { s with strands := AMap.put s.strands k t }
def updStrand (k : Nat) (f : Strand → Strand) : State := { s with strands := AMap.upd s.strands k f }
def setCur (t : Strand) : State := s.setStrand s.cur t
def weave? (k : Nat) : Option Weave := AMap.look s.weaves k
def setWeave (k : Nat) (w : Weave) : State := { s with weaves := AMap.put s.weaves k w }
def updWeave (k : Nat) (f : Weave → Weave) : State := { s with weaves := AMap.upd s.weaves k f }
def bolt? (k : Nat) : Option Bolt := AMap.look s.bolts k
def setBolt (k : Nat) (b : Bolt) : State := { s with bolts := AMap.put s.bolts k b }

/-- The partition a cluster belongs to. -/
def ownerOf (clu : Nat) : Option Nat := (s.parts.find? (fun e => ownsClu e.2.cfg clu)).map (·.1)

/-- The strands of a weave, with their keys, in key order. -/
def members (w : Nat) : List (Nat × Strand) := s.strands.filter (fun e => e.1 < 24576 && e.2.weave == w)

/-- A fresh free value of the model (log 11). -/
def fresh : Word × State := (Config.freeValue s.free, { s with free := s.free + 1 })

end State
end Sys2Proof.Machine
end

