-- ==== Sys2Proof/Machine/L2.lean ====
section
/-!
DEFINITION. Arbiters, and the L2: lines, ways, sectors and word-write masks, the home slices and the memory channels with their
arbiters (spec/01 R23, spec/03 R84 to R86, spec/12 R260, R268, spec/14 R277, spec/20 R350). Bytes stand at the home, State.mem (log 14).
-/
namespace Sys2Proof.Machine
open Sys2Proof

/-! ### Arbiters (R32, R260, R268, log 60)

A request is a pair of its place in the rotation and its context: of a strand its slot, at a memory arbiter the context itself. -/

/-- A deficit counter's bound (R268). -/
def deficitMax : Nat := 512

/-- The counters after a cycle in which the contexts of cs have a ready request and c is granted (R268): F added, `cost` taken for the
grant, no more than 256 left where the context has no ready request.  A counter does not fall below 0 (log 60). -/
def deficitNext (floor : Nat → Nat) (cs : List Nat) (c cost : Nat) (d : AMap Nat) : AMap Nat :=
  (List.range 16).foldl (fun d x =>
    let n := min deficitMax (AMap.get d x 0 + floor x)
    let n := if cs.contains x then n else min 256 n
    AMap.set d x (if x = c then n - cost else n) 0) d

/-- Of requests in ascending order, the first after place p, wrapping round. -/
def nextAfter (p : Nat) (es : List (Nat × Nat)) : Option (Nat × Nat) := (es.find? (fun e => decide (p < e.1))).orElse (fun _ => es.head?)

namespace Arb
variable (a : Arb)

/-- The arbiter at device time `now`, cyc of its cycles after its last grant: in those between no request was ready (R268, log 60). -/
def idle (floor : Nat → Nat) (now cyc : Nat) : Arb :=
  if cyc ≤ 1 then { a with at_ := now } else
    { a with at_ := now, n := a.n + (cyc - 1),
             deficit := (List.range 16).foldl (fun d c => AMap.set d c (min 256 (AMap.get d c 0 + floor c * (cyc - 1))) 0) a.deficit }

/-- A context whose floor entitles it to the next grant (R268). -/
def owes (floor : Nat → Nat) (c : Nat) : Bool := decide (256 ≤ min deficitMax (AMap.get a.deficit c 0 + floor c))

/-- The lowest context with a ready request whose floor entitles it (R268). -/
def owed (floor : Nat → Nat) (es : List (Nat × Nat)) : Option Nat := (List.range 16).find? (fun c => es.any (fun e => e.2 == c) && a.owes floor c)

/-- Requests of contexts that the weights still let take part in rotation i. -/
def openIn (weight : Nat → Nat) (i : Nat) (es : List (Nat × Nat)) : List (Nat × Nat) := es.filter (fun e => decide (i < weight e.2))

/-- The weighted choice: the next in the rotation that it has not served yet; else the next rotation begins (R32, R260, R268).  Beside the
request stand the rotation and whom it has served. -/
def rotate (weight : Nat → Nat) (es : List (Nat × Nat)) : Option ((Nat × Nat) × Nat × List Nat) :=
  match nextAfter a.turn ((openIn weight a.left es).filter (fun e => !a.served.contains e.1)) with
  | some e => some (e, a.left, a.served)
  | none =>
    let i := if openIn weight (a.left + 1) es = [] then 0 else a.left + 1
    (nextAfter a.turn (openIn weight i es)).map (fun e => (e, i, []))

/-- The choice among the requests of a context that its floor entitles: those that the rotation has not served first, after the last
of the context. -/
def inContext (c : Nat) (es : List (Nat × Nat)) : Option (Nat × Nat) :=
  let mine := es.filter (fun e => e.2 == c)
  (nextAfter (AMap.get a.last c 127) (mine.filter (fun e => !a.served.contains e.1))).orElse (fun _ => nextAfter (AMap.get a.last c 127) mine)

/-- The request that the arbiter grants of those that are ready, in ascending order (R32, R260, R268). -/
def pick (floor weight : Nat → Nat) (es : List (Nat × Nat)) : Option (Nat × Nat) :=
  match a.owed floor es with
  | some c => a.inContext c es
  | none => (a.rotate weight es).map (·.1)

/-- The arbiter after it grants request e, of the requests es, at a cost of `cost`, for what takes `cyc` of its cycles. -/
def grant (floor weight : Nat → Nat) (es : List (Nat × Nat)) (e : Nat × Nat) (cost cyc got : Nat) : Arb :=
  let cs := (es.map (·.2)).eraseDups
  let owed := (a.owed floor es).isSome
  let r := match a.rotate weight es with | some x => x.2 | none => (a.left, a.served)
  { last := AMap.put a.last e.2 e.1, deficit := deficitNext floor cs e.2 cost a.deficit, turn := if owed then a.turn else e.1,
    left := if owed then a.left else r.1, served := e.1 :: (if owed then a.served else r.2), now := a.now, at_ := a.at_, n := a.n + cyc,
    rdy := cs.foldl (fun m x => AMap.set m x (AMap.get m x 0 + cyc) 0) a.rdy, got := AMap.set a.got e.2 (AMap.get a.got e.2 0 + got) 0 }

end Arb

/-! ### The L2 -/

/-- Who asks the L2: device time, partition, context, and the requests that wait at memory arbiters, by unit and context. -/
structure Asker where
  now : Nat
  p : Part
  part : Nat
  ctx : Nat
  ws : List (Nat × Nat)

namespace L2
variable (m : L2)

/-- A line of a partition's slices. -/
def key (part line : Nat) : Nat := part * 2 ^ 44 + line

/-- The set of a line: 512 in each of the partition's slices, 16 slices at a position (R11, R23; R72's hash is not given, log 17). -/
def setOf (c : PartRec) (line : Nat) : Nat := Config.l2set line % (8192 * nclu c)

/-- Whether two lines of one partition stand in one set. -/
def sameSet (c : PartRec) (a b : Nat) : Bool := setOf c a == setOf c b

/-- The ways of a set that pinned lines of a partition hold, whichever context pinned them (R86). -/
def pinnedWays (pins : AMap Nat) (c : PartRec) (part line : Nat) : List Nat :=
  (pins.filter (fun e => e.2 / 16 == part)).filterMap (fun e =>
    match AMap.look m.lines (key part e.1) with
    | some l => if sameSet c e.1 line then some l.way else none
    | none => none)

/-- The ways a context may allocate a line in (R85, R86). -/
def room (pins : AMap Nat) (p : Part) (part ctx line : Nat) : List Nat :=
  (List.range 12).filter (fun w => inWays p ctx w && !(m.pinnedWays pins p.cfg part line).contains w)

/-! #### Units with an arbiter (R268) -/

/-- The home slice of an address. -/
def sliceUnit (c : PartRec) (pa : Nat) : Nat := setOf c (pa / 256) / 512

/-- The memory channel of an address of the part (R293, log 53). -/
def chanUnit (pa : Nat) : Nat :=
  if pa < 2 ^ 37 then 2 ^ 20 + pa / 2 ^ 35 * 32 + Config.nearRouter pa % 32 else 2 ^ 21 + Config.lpChannel pa % 48

/-- The arbiter of a unit as device time stands: 2.0 GHz cycles (R19). -/
def arbAt (q : Asker) (unit : Nat) : Arb :=
  let a := AMap.get m.marb (q.part * 2 ^ 24 + unit) State.arbDefault
  a.idle q.p.fb q.now (2 * (q.now - a.at_))

/-- The requests ready at a unit beside one of the asker's: in ascending order of contexts. -/
def asking (q : Asker) (unit : Nat) : List (Nat × Nat) :=
  ((List.range 16).filter (fun c => c == q.ctx || q.ws.contains (unit, c))).map (fun c => (c, c))

/-- A unit's arbiter grants the asker n bytes, 256 in a cycle (R268). -/
def grantAt (q : Asker) (unit n : Nat) : L2 :=
  if n = 0 then m else
    { m with
      marb := AMap.put m.marb (q.part * 2 ^ 24 + unit)
        ((m.arbAt q unit).grant q.p.fb q.p.bwshare (asking q unit) (q.ctx, q.ctx) n ((n + 255) / 256) n) }

/-- Bytes asked of a partition's channels by a context; system space is no channel of the part (R72, R277). -/
def ask (q : Asker) (pa n : Nat) : L2 :=
  if pa < 2 ^ 41 then
    { m.grantAt q (chanUnit pa) n with
      chan := AMap.set m.chan q.part (AMap.get m.chan q.part 0 + n) 0,
      by_ := AMap.set m.by_ (16 * q.part + q.ctx) (AMap.get m.by_ (16 * q.part + q.ctx) 0 + n) 0,
      moved := AMap.set m.moved q.part (AMap.get m.moved q.part 0 + n) 0 }
  else m

/-- Whether word w of a line is written back when the line leaves: every word of a dirty sector that is valid, the masked
words of one that is not (R84). -/
def dirtyWord (l : L2Line) (w : Nat) : Bool := l.dirty.getLsbD (w / 16) && (l.valid.getLsbD (w / 16) || l.mask.getLsbD w)

/-- A line leaves: its dirty words go to memory (R84). -/
def evict (q : Asker) (k : Nat) : L2 :=
  match AMap.look m.lines k with
  | none => m
  | some l =>
    ({ m with lines := AMap.del m.lines k }).ask { q with ctx := l.ctx } (k % 2 ^ 44 * 256) (4 * ((List.range 64).filter (dirtyWord l)).length)

/-- The lines of a partition that stand in the set of a line. -/
def setLines (q : Asker) (line : Nat) : List (Nat × L2Line) := m.lines.filter (fun e => e.2.part == q.part && sameSet q.p.cfg (e.1 % 2 ^ 44) line)

/-- A line is allocated in one of the context's ways: one that is free; with none free, the line that holds the way leaves first
(log 17). With no way open the access bypasses the L2 (R85). -/
def alloc (pins : AMap Nat) (q : Asker) (line : Nat) : L2 :=
  let ws := m.room pins q.p q.part q.ctx line
  if ws = [] then m else
    let free := ws.filter (fun w => (m.setLines q line).all (fun e => e.2.way != w))
    let spare := decide (m.lines.length < ws.length) || decide (free ≠ [])
    let from_ := if spare then free else ws
    let w := from_.getD (Config.l2way line % from_.length) 0
    let m := if spare then m else ((m.setLines q line).filter (fun e => e.2.way == w)).foldl (fun (m : L2) e => m.evict q e.1) m
    { m with lines := AMap.put m.lines (key q.part line) { part := q.part, ctx := q.ctx, way := w, valid := 0#4, dirty := 0#4, mask := 0#64 } }

/-- An access of a partition is counted, with a hit where the line is listed (R258). -/
def tally (part line : Nat) : L2 :=
  { m with acc := AMap.set m.acc part (AMap.get m.acc part 0 + 1) 0,
           hit := if (AMap.look m.lines (key part line)).isSome then AMap.set m.hit part (AMap.get m.hit part 0 + 1) 0 else m.hit }

/-- The sector of pa is read: filled from memory unless it is valid (R84). -/
def fill (q : Asker) (pa : Nat) : L2 :=
  match AMap.look m.lines (key q.part (pa / 256)) with
  | none => m.ask q pa 64
  | some l =>
    if l.valid.getLsbD (pa / 64 % 4) then m else
      ({ m with lines := AMap.put m.lines (key q.part (pa / 256)) { l with valid := l.valid ||| (1#4 <<< (pa / 64 % 4)) } }).ask q pa
        (64 - 4 * (popN (l.mask.toNat / 2 ^ (16 * (pa / 64 % 4))) 16))

/-- A context reads the sector of pa: it hits in any way, and allocates in its own (R84, R85); its home slice grants it (R268). -/
def read (pins : AMap Nat) (q : Asker) (pa : Nat) : L2 :=
  let m := (m.tally q.part (pa / 256)).grantAt q (sliceUnit q.p.cfg pa) 64
  let m := if (AMap.look m.lines (key q.part (pa / 256))).isSome then m else m.alloc pins q (pa / 256)
  m.fill q pa

/-- Words wa to wb of a listed line are written: the sectors dirty, the words of the mask set where the sector is not valid
(R84); a store of part of a word makes its sector valid first (DEDUCED, log 17). -/
def mark (q : Asker) (pa n : Nat) : L2 :=
  let at_ := fun (m : L2) => AMap.look m.lines (key q.part (pa / 256))
  let m := match at_ m with | some l => if pa % 4 != 0 || n % 4 != 0 then m.fill { q with ctx := l.ctx } pa else m | none => m
  match at_ m with
  | none => m
  | some l =>
    let ws := (List.range ((pa % 4 + n + 3) / 4)).map (fun i => pa % 256 / 4 + i)
    let dirty := ws.foldl (fun d w => d ||| (1#4 <<< (w / 16))) l.dirty
    let mask := ws.foldl (fun d w => if l.valid.getLsbD (w / 16) then d else d ||| (1#64 <<< w)) l.mask
    { m with lines := AMap.put m.lines (key q.part (pa / 256)) { l with dirty := dirty, mask := mask } }

/-- A context writes n bytes from pa: allocated in its ways unless listed; with no way the bytes go on to memory (R84, R85); its home
slice grants it (R268). -/
def write (pins : AMap Nat) (q : Asker) (pa n : Nat) : L2 :=
  let m := (m.tally q.part (pa / 256)).grantAt q (sliceUnit q.p.cfg pa) n
  let m := if (AMap.look m.lines (key q.part (pa / 256))).isSome then m else m.alloc pins q (pa / 256)
  if (AMap.look m.lines (key q.part (pa / 256))).isSome then m.mark q pa n else m.ask q pa n

end L2

namespace State
variable (s : State)

/-- The partition whose L2 slices serve a core; of the command core's own reads and writes none is allocated (log 17). -/
def l2Part (core : Nat) : Option (Nat × Part) :=
  if 256 ≤ core then none else
  match s.ownerOf (core / 2) with
  | some p => (s.part? p).map (fun x => (p, x))
  | none => none

/-- A strand's request to memory waits for its arbiters, and would be served if they chose it: the strand may issue. -/
def asks (t : Strand) : List Nat :=
  match t.wait with
  | .mem us => if t.run != .halted && t.leave == .no && t.pend.isNone && (s.clu (t.core / 2)).change.isNone then us else []
  | _ => []

/-- A context's floor share of the bytes that the channels grant in an interval (R268, R277). -/
def memShare (p : Part) (c : Nat) : Nat := p.memAllowance * p.fb c / 256

/-- Contexts of a partition with a strand that waits for memory. -/
def memWaiters (part : Nat) : List Nat :=
  ((s.strands.filter (fun e => e.2.part == part && s.asks e.2 != [])).map (·.2.ctx)).eraseDups

/-- A context's request waits for the next interval: the partition's memory channels have been asked for the bytes they grant in this
one, or what is left of them belongs to the floors of other contexts that wait (R268, R277). -/
def chanSpent (part ctx : Nat) : Bool :=
  match s.part? part with
  | some p =>
    decide (p.memAllowance ≤ AMap.get s.l2.chan part 0
      + (((s.memWaiters part).filter (· != ctx)).map (fun c => memShare p c - AMap.get s.l2.by_ (16 * part + c) 0)).sum)
  | none => false

/-- The requests that wait at the memory arbiters of a partition, within the interval's bytes: unit and context. -/
def memAsks (part : Nat) : List (Nat × Nat) :=
  ((s.strands.filter (fun e => e.2.part == part && s.asks e.2 != [] && !s.chanSpent part e.2.ctx)).flatMap (fun e => (s.asks e.2).map (fun u => (u, e.2.ctx)))).eraseDups

/-- A context of a partition as the L2 meets it. -/
def asker (part : Nat) (p : Part) (ctx : Nat) : Asker := { now := s.time, p := p, part := part, ctx := ctx, ws := s.memAsks part }

/-- A core reads the sector of pa through the L2 for a context (R84, R85). -/
def l2Read (core ctx pa : Nat) : State :=
  { s with l2 := match s.l2Part core with | some p => s.l2.read s.pins (s.asker p.1 p.2 ctx) pa | none => s.l2 }

/-- A core writes n bytes through the L2 for a context (R84, R85). -/
def l2Write (core ctx pa n : Nat) : State :=
  { s with l2 := match s.l2Part core with | some p => s.l2.write s.pins (s.asker p.1 p.2 ctx) pa n | none => s.l2 }

/-- Other writes at the home mark the lines that are listed: an access hits in any way (R85). -/
def l2Mark (pa n : Nat) : State :=
  { s with l2 := (List.range ((pa % 256 + n + 255) / 256)).foldl (fun (m : L2) i =>
      let a := max pa (pa / 256 * 256 + 256 * i)
      s.parts.foldl (fun (m : L2) e => m.mark (s.asker e.1 e.2 0) a (min (pa + n) (a / 256 * 256 + 256) - a)) m) s.l2 }

/-- The line of pa leaves the L2 of every partition that is not frozen (R353). -/
def l2Evict (line : Nat) : State :=
  { s with l2 := s.parts.foldl (fun (m : L2) e =>
      if (e.2.rd 0xE30).getLsbD 0 then m else m.evict (s.asker e.1 e.2 0) (L2.key e.1 line)) s.l2 }

/-- n bytes at pa that the front end moves for a context are granted by the home slice and the channel, which hold no line of theirs
(R277, log 17). -/
def l2Move (part ctx pa n : Nat) : State :=
  match s.part? part with
  | some p => { s with l2 := (s.l2.grantAt (s.asker part p ctx) (L2.sliceUnit p.cfg pa) n).ask (s.asker part p ctx) pa n }
  | none => s

/-- An access to the sector of pa needs a memory channel: the L2 has not what it reads, or no line for what it writes (R84). -/
def needsChan (part pa : Nat) (rd : Bool) : Bool :=
  decide (pa < 2 ^ 41) && (match AMap.look s.l2.lines (L2.key part (pa / 256)) with
    | some l => rd && !l.valid.getLsbD (pa / 64 % 4)
    | none => true)

/-- The units whose arbiters an access to pa meets. -/
def unitsOf (part pa : Nat) (rd : Bool) : List Nat :=
  match s.part? part with
  | some p => L2.sliceUnit p.cfg pa :: (if s.needsChan part pa rd then [L2.chanUnit pa] else [])
  | none => []

/-- An access of a context to these units waits: of those at which another context's request waits, the arbiter of the lowest serves
that one first (R268). -/
def outbid (part ctx : Nat) (units : List Nat) : Bool :=
  match s.part? part with
  | none => false
  | some p =>
    let q := s.asker part p ctx
    if !q.ws.any (fun w => w.2 != ctx) then false else
    match (units.filter (fun u => q.ws.any (fun w => w.1 == u && w.2 != ctx))).min? with
    | none => false
    | some u => (s.l2.arbAt q u).pick p.fb p.bwshare (L2.asking q u) != some (ctx, ctx)

end State
end Sys2Proof.Machine
end

