-- ==== Sys2Proof/Machine/Mem.lean ====
section
/-!
DEFINITION. Memory: the home (near DRAM, LPDDR6, system space behind the L2, log 14), the combining buffers, the L1
sectors of SC and CP pages, the constant cache, translation, and the maintenance that fences carry
(spec/03 R71 to R100, spec/20 R338, R345).
-/
namespace Sys2Proof.Machine
open Sys2Proof

/-- Why an access does not proceed: a fault of the item, or it waits (R90, R111). -/
inductive Stop where
  | fault (f : FaultInfo)
  | wait
  deriving DecidableEq, Repr

/-- New value of an atomic or reduction by OPC (R224): old, v, w as Nats of the operation's width. -/
def atomOp (opc old v w : Nat) : Nat :=
  let o : Word := BitVec.ofNat 32 old
  let x : Word := BitVec.ofNat 32 v
  match opc with
  | 0 => (o + x).toNat
  | 1 => if x.toInt < o.toInt then v else old
  | 2 => if o.toInt < x.toInt then v else old
  | 3 => min old v
  | 4 => max old v
  | 5 => (o &&& x).toNat
  | 6 => (o ||| x).toNat
  | 7 => (o ^^^ x).toNat
  | 8 => v
  | 9 => if old = v then w else old
  | 10 => (rneF32 (FVal.add false (f32 false o) (f32 false x))).toNat
  | 11 => (rneF32 (fminV (f32 false o) (f32 false x))).toNat
  | 12 => (rneF32 (fmaxV (f32 false o) (f32 false x))).toNat
  | 13 => (old + v) % 2 ^ 64
  | 14 => v
  | _ => if old = v then w else old

/-- Bytes of an operation (R224). -/
def atomSize (opc : Nat) : Nat := if 13 ≤ opc then 8 else 4

/-- Physical addresses that hold something (R72). -/
def physOk (pa : Nat) : Bool :=
  decide (pa < 2 ^ 37) || (decide (2 ^ 40 ≤ pa) && decide (pa < 2 ^ 40 + 768 * 2 ^ 30)) || (decide (2 ^ 51 ≤ pa) && decide (pa < 2 ^ 52))

def isSys (pa : Nat) : Bool := decide (2 ^ 51 ≤ pa)

/-- An agent that is no strand: an engine of the part, the front end, the host (R107, R111). -/
abbrev hwAgent : Nat := 1000000

namespace State
variable (s : State)

/-- A word of the management and debug window that is stored. -/
def win (off : Nat) : Word := AMap.get s.window off 0#32
def setWin (off : Nat) (v : Word) : State := { s with window := AMap.set s.window off v 0#32 }

/-- DFREEZE of a partition reads 1: it writes nothing back, combines nothing and evicts nothing (R353). -/
def frozenAt (part : Nat) : Bool := (s.csr part 0xE30).getLsbD 0

/-- The partition of a cluster is frozen (R353). -/
def frozenClu (c : Nat) : Bool := match s.ownerOf c with | some p => s.frozenAt p | none => false

/-- The partition that a core serves: 256 + 2p is partition p's command core, 257 + 2p its front end. -/
def homePart (core : Nat) : Nat := if core < 256 then (s.ownerOf (core / 2)).getD 0 else (core - 256) / 2

/-- A peer address: in system space, inside an enabled peer window (R299). -/
def isPeer (pa : Nat) : Bool :=
  isSys pa && (List.range 16).any (fun w =>
    let b := 0x300 + 16 * w
    let base := (pair (s.win b) (s.win (b + 4))).toNat / 4096 % 2 ^ 40
    let lim := (pair (s.win (b + 8)) (s.win (b + 12))).toNat / 4096 % 2 ^ 40
    (s.win b).getLsbD 0 && decide (base ≤ pa / 4096) && decide (pa / 4096 ≤ lim))

/-- One byte at the home. -/
def homeByte (pa : Nat) : Byte := AMap.get s.mem pa memDefault

/-- n bytes at the home, lowest first. -/
def homeBytes (pa n : Nat) : List Byte := (List.range n).map (fun i => s.homeByte (pa + i))

def homeRead (pa n : Nat) : Nat := natOf (s.homeBytes pa n)

/-- Bytes written from pa up. -/
def writeBytes (m : AMap Byte) (pa : Nat) : List Byte → AMap Byte
  | [] => m
  | b :: bs => writeBytes (AMap.set m pa b memDefault) (pa + 1) bs

def isPoison (pa : Nat) : Bool := s.poison.contains (pa / 4)
def setPoison (pa : Nat) : State := if s.poison.contains (pa / 4) then s else { s with poison := (pa / 4) :: s.poison }

/-- The words that n bytes at pa cover whole. -/
def wholeWords (pa n : Nat) : List Nat :=
  ((List.range (n / 4 + 1)).map (fun i => pa / 4 + i)).filter (fun w => decide (pa ≤ 4 * w) && decide (4 * w + 4 ≤ pa + n))

/-- The 16 words at the home of a sector. -/
def homeWords (sec : Nat) : List Word := (List.range 16).map (fun i => BitVec.ofNat 32 (s.homeRead (sec * 64 + 4 * i) 4))

/-- Those of them that are poisoned. -/
def homePoison (sec : Nat) : BitVec 16 := BitVec.ofNat 16 ((List.range 16).foldl (fun a i => a + bitIf (s.isPoison (sec * 64 + 4 * i)) i) 0)

/-- A store at the home: bytes land, whole words lose their poison (R345), a listed line is marked (R84, R85); to system space it is
dropped while the link is down (R365). -/
def homeStore (pa : Nat) (bs : List Byte) : State :=
  if isSys pa ∧ s.linkUp = false then
    s.setWin 0x28 (if s.win 0x28 = 0xFFFFFFFF#32 then s.win 0x28 else s.win 0x28 + 1)
  else
    { s.l2Mark pa bs.length with
      mem := writeBytes s.mem pa bs, poison := s.poison.filter (fun w => !(wholeWords pa bs.length).contains w) }

/-! ### Sectors: bytes read and written in one -/

/-- n bytes at pa of a sector. -/
def sectorRead (x : Sector) (pa n : Nat) : Nat :=
  natOf ((List.range n).map (fun i => byteAt ((x.data.getD ((pa + i) / 4 % 16) 0#32).toNat) ((pa + i) % 4)))

/-- A sector with bytes written at pa: its words dirty, whole ones without poison (R345). -/
def sectorWrite (x : Sector) (pa : Nat) (bs : List Byte) : Sector :=
  let put := fun (d : List Word) (i : Nat) =>
    let a := pa + i
    d.set (a / 4 % 16) (setElem (d.getD (a / 4 % 16) 0#32) (a % 4) 8 (bs.getD i 0#8).toNat)
  { x with
    data := (List.range bs.length).foldl put x.data,
    dirty := x.dirty ||| BitVec.ofNat 16 (((List.range bs.length).map (fun i => (pa + i) / 4 % 16)).eraseDups.foldl (fun a w => a + 2 ^ w) 0),
    poison := (wholeWords pa bs.length).foldl (fun p w => p &&& ~~~ (1#16 <<< (w % 16))) x.poison }

/-! ### Peer lines in the home slices (R300)

State.mem holds the peer's own memory.  A listed sector is the copy that the home slices of a partition hold of it; its dirty words
those that the part has written and not yet written back. -/

def sliceKey (part pa : Nat) : Nat := part * 2 ^ 46 + pa / 64

/-- The home slices of a partition hold the sector of pa. -/
def sliceFill (part pa : Nat) : State :=
  if (AMap.look s.slice (sliceKey part pa)).isSome then s else
    { s with
      slice := AMap.put s.slice (sliceKey part pa)
        { data := s.homeWords (pa / 64), dirty := 0#16, poison := s.homePoison (pa / 64), coh := 5, ctx := part } }

/-- Dirty words of a sector of the home slices go to the peer. -/
def sliceBack (k : Nat) (x : Sector) : State :=
  (List.range 16).foldl (fun s i =>
    if x.dirty.getLsbD i then
      let s := s.homeStore (k % 2 ^ 46 * 64 + 4 * i) (bytesOf (x.data.getD i 0#32).toNat 4)
      if x.poison.getLsbD i then s.setPoison (k % 2 ^ 46 * 64 + 4 * i) else s
    else s) s

/-- A peer line leaves the home slices of a partition, its dirty words going to the peer; while the partition is frozen none does
(R353). -/
def sliceEvict (part pa : Nat) : State :=
  match AMap.look s.slice (sliceKey part pa) with
  | none => s
  | some x => if s.frozenAt part then s else
    let s := s.sliceBack (sliceKey part pa) x
    { s with slice := AMap.del s.slice (sliceKey part pa) }

/-- The peer lines that a partition's home slices hold. -/
def slicesOf (part : Nat) : AMap Sector := s.slice.filter (fun e => e.1 / 2 ^ 46 == part)

/-- Dirty peer lines of a partition are written back to the peer (R300). -/
def sliceClean (part : Nat) : State :=
  ((s.slicesOf part).filter (fun e => e.2.dirty != 0#16)).foldl (fun (s : State) e =>
    let s := s.sliceBack e.1 e.2
    { s with slice := AMap.put s.slice e.1 { e.2 with dirty := 0#16 } }) s

/-- The peer lines of a partition's home slices are invalidated; dirty words go to the peer first (R300). -/
def sliceDrop (part : Nat) : State := (s.slicesOf part).foldl (fun (s : State) e => s.sliceEvict part (e.1 % 2 ^ 46 * 64)) s

/-- n bytes at pa as the home slices of a partition hold them, through attribute coh. -/
def nearRead (part pa n coh : Nat) : Nat :=
  if coh < 4 then s.homeRead pa n else
  match AMap.look s.slice (sliceKey part pa) with
  | some x => sectorRead x pa n
  | none => s.homeRead pa n

def nearPoison (part pa coh : Nat) : Bool :=
  if coh < 4 then s.isPoison pa else
  match AMap.look s.slice (sliceKey part pa) with
  | some x => x.poison.getLsbD (pa / 4 % 16)
  | none => s.isPoison pa

/-- Bytes written at the home slices of a partition, through attribute coh: those of a peer stay dirty there (R300). -/
def nearStore (part pa coh : Nat) (bs : List Byte) : State :=
  if coh < 4 then s.homeStore pa bs else
    let s := s.sliceFill part pa
    { s with slice := AMap.upd s.slice (sliceKey part pa) (fun x => sectorWrite x pa bs) }

/-- One partial result reaches the home (R99, R224); poison on any of its words drops it (R345). -/
def combineWord (wa opc v : Nat) : State :=
  if s.isPoison wa || s.isPoison (wa + atomSize opc - 1) then s
  else s.homeStore wa (bytesOf (atomOp opc (s.homeRead wa (atomSize opc)) v 0) (atomSize opc))

def combineLineAt (c : Nat) (l : CombLine) : State :=
  let s := s.setClu c { s.clu c with comb := (s.clu c).comb.filter (fun x => x.line != l.line) }
  l.words.foldl (fun s e => s.combineWord e.1 e.2.1 e.2.2) s

/-- The home combines every buffered copy of the line of pa, from every cluster that is not frozen (R99, R353). -/
def combine (pa : Nat) : State :=
  (s.clus.map (fun e => e.1)).foldl (fun s c =>
    match (s.clu c).comb.find? (fun l => l.line == pa / 256) with
    | some l => if s.frozenClu c then s else s.combineLineAt c l
    | none => s) s

/-- A line of a cluster's buffer goes home, which combines the other clusters' copies before it (R99); none of a frozen partition's
(R353). -/
def sendLine (c : Nat) (l : CombLine) : State :=
  if s.frozenClu c then s else
  (((s.clus.map (fun e => e.1)).filter (· != c)).foldl (fun s d =>
    match (s.clu d).comb.find? (fun x => x.line == l.line) with
    | some x => s.combineLineAt d x
    | none => s) s).combineLineAt c l

/-- Every line of a cluster's buffer goes home, oldest first (R100). -/
def combineClu (c : Nat) : State := (s.clu c).comb.foldl (fun s l => s.sendLine c l) s

/-! ### Transactions of others (R107, R111) -/

/-- Lanes of an open transaction that touch the sector of pa: by any access when the other writes, by a write otherwise. -/
def txHits (t : Tx) (pa : Nat) (wr : Bool) : Mask :=
  maskOfLanes ((t.writes.filter (fun w => w.addr / 64 == pa / 64)).map (·.lane)
    ++ (t.reds.filter (fun r => r.addr / 64 == pa / 64)).map (·.lane)
    ++ (if wr then (t.reads.filter (fun w => w.addr / 64 == pa / 64)).map (·.lane) else []))

/-- A serial transaction of another strand holds the sector (R111). -/
def serialHolds (me pa : Nat) (wr : Bool) : Bool :=
  s.strands.any (fun e => e.1 != me && (match e.2.tx with | some t => t.serial && txHits t pa wr != 0#128 | none => false))

/-- A serial transaction of another strand than me has a byte of n from pa in its footprint (R111). -/
def serialRange (me pa n : Nat) : Bool :=
  let in_ := fun (a : Nat) => decide (pa / 64 ≤ a / 64) && decide (a < (pa + n + 63) / 64 * 64)
  s.strands.any (fun e => e.1 != me && (match e.2.tx with
    | some t => t.serial && (t.writes.any (fun w => in_ w.addr) || t.reads.any (fun r => in_ r.addr) || t.reds.any (fun r => in_ r.addr))
    | none => false))

/-- An access of an agent dooms the lanes of transactions whose footprint it meets, but for the strands that are that agent
(R107). -/
def doomBut (own : Nat → Strand → Bool) (pa : Nat) (wr : Bool) : State :=
  { s with strands := s.strands.map (fun e =>
      if own e.1 e.2 then e else
      match e.2.tx with
      | some t => if t.serial then e else (e.1, { e.2 with tx := some { t with doom := t.doom ||| txHits t pa wr } })
      | none => e) }

/-- The access is that of strand me. -/
def doom (me pa : Nat) (wr : Bool) : State := s.doomBut (fun k _ => k == me) pa wr

/-- The sectors that n bytes from pa touch. -/
def sectorsOf (pa n : Nat) : List Nat := (List.range ((pa % 64 + n + 63) / 64)).map (fun i => pa / 64 * 64 + 64 * i)

/-- A serial transaction of another strand holds one of the sectors of n bytes (R111). -/
def serialMeets (me pa n : Nat) (wr : Bool) : Bool := (sectorsOf pa n).any (fun a => s.serialHolds me a wr)

/-- Agent me writes n bytes from pa at the home: every buffered copy combined first, transactions doomed (R99, R107). -/
def farWrite (me pa : Nat) (bs : List Byte) : State :=
  ((sectorsOf pa bs.length).foldl (fun (s : State) (a : Nat) => (s.combine a).doom me a true) s).homeStore pa bs

/-- Bytes that an engine of the part writes at the home: a ring, a record, an image. -/
def hwWrite (pa : Nat) (bs : List Byte) : State := s.farWrite hwAgent pa bs

/-! ### L1 sectors of SC and CP pages (R81, R88) -/

/-- The sector of pa as the home slices of a core's partition hold it. -/
def sectorOfHome (core pa coh ctx : Nat) : Sector :=
  match (if coh < 4 then none else AMap.look s.slice (sliceKey (s.homePart core) pa)) with
  | some x => { x with dirty := 0#16, coh := coh, ctx := ctx }
  | none => { data := s.homeWords (pa / 64), dirty := 0#16, poison := s.homePoison (pa / 64), coh := coh, ctx := ctx }

/-- The home slices have the sector of pa ready: buffered copies combined, a peer's fetched (R99, R300), the L2 asked. -/
def homePrep (core pa coh ctx : Nat) : State :=
  let s := s.combine pa
  (if coh < 4 then s else s.sliceFill (s.homePart core) pa).l2Read core ctx pa

/-- The dirty words of a sector of a core's L1 reach the home, poison with them (R84, R350); to strands of other cores that is
the write (R107). -/
def sectorHome (core sec : Nat) (x : Sector) : State :=
  let s := if x.dirty = 0#16 then s else s.l2Write core x.ctx (sec * 64) 0
  (List.range 16).foldl (fun s i =>
    if x.dirty.getLsbD i then
      let s := (s.combine (sec * 64)).nearStore (s.homePart core) (sec * 64 + 4 * i) x.coh (bytesOf ((x.data.getD i 0#32).toNat) 4)
      let s := s.doomBut (fun _ t => t.core == core) (sec * 64 + 4 * i) true
      if !x.poison.getLsbD i then s
      else if x.coh < 4 then s.setPoison (sec * 64 + 4 * i)
      else { s with slice := AMap.upd s.slice (sliceKey (s.homePart core) (sec * 64)) (fun y => { y with poison := y.poison ||| (1#16 <<< i) }) }
    else s) s

/-- A sector is written back when dirty, and dropped when `drop`, in one core; while its partition is frozen nothing is (R353). -/
def l1Clean (core sec : Nat) (drop : Bool) : State :=
  match AMap.look (s.core core).l1 sec with
  | none => s
  | some x => if s.frozenClu (core / 2) then s else
    let s := s.sectorHome core sec x
    let l1 := (s.core core).l1
    s.setCore core { s.core core with
      l1 := if drop then AMap.del l1 sec else AMap.put l1 sec { x with dirty := 0#16 } }

/-- Sectors of the core chosen by p are written back, and dropped when `drop`. -/
def l1CleanAll (core : Nat) (p : Sector → Bool) (drop : Bool) : State :=
  ((s.core core).l1.filter (fun e => p e.2)).foldl (fun s e => s.l1Clean core e.1 drop) s

/-- Lines of 256 bytes that the L1 of a core has room for: what its carves leave of 4096 KiB (R16, R81). -/
def l1Lines (c : Cor) : Nat := (4096 - 64 * (c.creg + c.cscr)) * 4

/-- The L1 makes room for a line: when it is full another leaves, none of a serial transaction's footprint (R16, R111, log 52). -/
def l1Room (core line : Nat) : State :=
  let ls := ((s.core core).l1.map (fun e => e.1 / 4)).eraseDups
  if ls.contains line || decide (ls.length < l1Lines (s.core core)) then s else
  let v := Config.victim ls.length s.time % ls.length
  match (ls.drop v ++ ls.take v).find? (fun x => !(List.range 4).any (fun i =>
      match AMap.look (s.core core).l1 (4 * x + i) with
      | some y => y.dirty != 0#16 && s.serialHolds hwAgent (64 * (4 * x + i)) true
      | none => false)) with
  | some x => (List.range 4).foldl (fun (s : State) i => s.l1Clean core (4 * x + i) true) s
  | none => s

/-- The core's L1 holds the sector of pa: filled from the home on a miss. -/
def l1Fill (core pa coh ctx : Nat) : State :=
  match AMap.look (s.core core).l1 (pa / 64) with
  | some _ => s
  | none =>
    let s := (s.l1Room core (pa / 256)).homePrep core pa coh ctx
    s.setCore core { s.core core with l1 := AMap.put (s.core core).l1 (pa / 64) (s.sectorOfHome core pa coh ctx) }

/-- Of a sector that is partly dirty, the clean words come from the home again: they are invalid, as the clean sectors are (R88, R94,
log 55). -/
def l1Refresh (core sec : Nat) (x : Sector) : State :=
  let s := (s.homePrep core (sec * 64) x.coh x.ctx).doomBut (fun _ t => t.core == core) (sec * 64) false
  let h := s.sectorOfHome core (sec * 64) x.coh x.ctx
  s.setCore core { s.core core with l1 := AMap.put (s.core core).l1 sec { x with
    data := (List.range 16).map (fun i => if x.dirty.getLsbD i then x.data.getD i 0#32 else h.data.getD i 0#32),
    poison := (x.poison &&& x.dirty) ||| (h.poison &&& ~~~ x.dirty) } }

/-- The clean words of the sectors chosen by p are dropped: whole sectors where none is dirty (R88, R94). -/
def l1DropClean (core : Nat) (p : Sector → Bool) : State :=
  let c := s.core core
  let s := s.setCore core { c with l1 := c.l1.filter (fun e => !(p e.2 && e.2.dirty == 0#16)) }
  ((s.core core).l1.filter (fun e => p e.2 && e.2.dirty != 0xFFFF#16)).foldl (fun (s : State) e => s.l1Refresh core e.1 e.2) s

/-- A sector of an SC page. -/
def isSc (x : Sector) : Bool := x.coh % 4 == 1

/-! ### Plain accesses of a core to physical memory, by attribute -/

/-- An access performed at the home: HC, or by the command core and the front end, which have no L1 (R16, R81, log 45). -/
def atHome (core coh : Nat) : Bool := coh == 0 || decide (256 ≤ core)

/-- Whether the word of pa reads as poison through attribute coh (R345, R365). -/
def readPoison (core pa coh : Nat) : Bool :=
  (isSys pa && !s.linkUp) ||
  (if atHome core coh then s.nearPoison (s.homePart core) pa coh
   else match AMap.look (s.core core).l1 (pa / 64) with
     | some x => x.poison.getLsbD (pa / 4 % 16)
     | none => s.nearPoison (s.homePart core) pa coh)

/-- n bytes at pa as the core sees them; HC at the home, SC and CP through the L1 (fill first). -/
def coreRead (core pa n coh : Nat) : Nat :=
  if atHome core coh then s.nearRead (s.homePart core) pa n coh
  else match AMap.look (s.core core).l1 (pa / 64) with
    | some x => sectorRead x pa n
    | none => s.nearRead (s.homePart core) pa n coh

/-- What a load does to the caches before its value is read. -/
def readPrep (core pa coh ctx : Nat) : State := if atHome core coh then s.homePrep core pa coh ctx else s.l1Fill core pa coh ctx

/-- A store by a core: HC through to the home, SC and CP into the L1, dirty (R81). -/
def coreWrite (core pa coh ctx : Nat) (bs : List Byte) : State :=
  if atHome core coh then ((s.combine pa).l2Write core ctx pa bs.length).nearStore (s.homePart core) pa coh bs
  else
    let s := s.l1Fill core pa coh ctx
    match AMap.look (s.core core).l1 (pa / 64) with
    | none => s
    | some x => s.setCore core { s.core core with l1 := AMap.put (s.core core).l1 (pa / 64) (sectorWrite x pa bs) }

/-- The word of pa is poisoned where the core holds it (R345). -/
def corePoison (core pa coh : Nat) : State :=
  let at_ := fun (x : Sector) => { x with poison := x.poison ||| (1#16 <<< (pa / 4 % 16)) : Sector }
  if atHome core coh then
    (if coh < 4 then s.setPoison pa else { s with slice := AMap.upd s.slice (sliceKey (s.homePart core) pa) at_ })
  else
  match AMap.look (s.core core).l1 (pa / 64) with
  | none => s.setPoison pa
  | some x => s.setCore core { s.core core with l1 := AMap.put (s.core core).l1 (pa / 64) (at_ x) }

/-! ### Stash write-back and the maintenance of fences (R80, R83, R88, R100, R174) -/

/-- Masked words of one stash line reach the global page through the home core's L1, poison with them (R80, R345); agent me writes them
back (R107). -/
def stashLineHome (me core : Nat) (m : Stash) (line : Nat) (mask : BitVec 64) : State :=
  match s.weave? m.weave with
  | none => s
  | some w =>
    (List.range 64).foldl (fun s i =>
      if mask.getLsbD i then
        let off := m.off + 256 * line + 4 * i
        let s := (s.doom me (m.page + 256 * line + 4 * i) true).coreWrite core (m.page + 256 * line + 4 * i) m.coh w.ctx ((List.range 4).map (fun j => AMap.get w.scr (off + j) 0#8))
        if w.scrPoison.contains (off / 4) then s.corePoison core (m.page + 256 * line + 4 * i) m.coh else s
      else s) s

/-- Every dirty stash line of the core is written back by agent me; with `unfill` its lines become unfilled (R80). -/
def stashClean (me core : Nat) (unfill : Bool) (p : Stash → Bool) : State :=
  let ms := (s.core core).stash
  let s := (ms.filter p).foldl (fun s m => m.dirty.foldl (fun s d => s.stashLineHome me core m d.1 d.2) s) s
  s.setCore core { s.core core with
    stash := ms.map (fun m => if p m then { m with dirty := [], filled := if unfill then 0#16 else m.filled } else m) }

/-- The scope a strand's weave-scope rule acts at (R89): cluster when its weave is on both cores. -/
def scopeOf (t : Strand) (scope : Nat) : Nat :=
  if scope = 1 ∧ (s.members t.weave).any (fun e => e.2.core != t.core) then 2 else scope

/-- Dirty stash lines of a core lie in the footprint of a serial transaction of another strand than me (R111). -/
def stashHeld (me core : Nat) : Bool := (s.core core).stash.any (fun m => m.dirty.any (fun d => s.serialMeets me (m.page + 256 * d.1) 256 true))

/-- A release must wait: what it writes back or combines lies in the footprint of a serial transaction of another strand (R111). -/
def releaseWaits (me : Nat) (t : Strand) (scope : Nat) : Bool :=
  let sc := s.scopeOf t scope
  (decide (1 ≤ sc) && s.stashHeld me t.core)
    || (decide (2 ≤ sc) && (s.core t.core).l1.any (fun e => isSc e.2 && e.2.dirty != 0#16 && s.serialHolds me (64 * e.1) true))
    || (decide (3 ≤ sc) && (s.clu (t.core / 2)).comb.any (fun l => s.serialMeets me (256 * l.line) 256 true))

/-- An acquire must wait: what it writes back, or reads again, lies in the footprint of a serial transaction of another strand (R111). -/
def acquireWaits (me : Nat) (t : Strand) (scope : Nat) : Bool :=
  let sc := s.scopeOf t scope
  (decide (1 ≤ sc) && s.stashHeld me t.core)
    || (decide (2 ≤ sc) && (s.core t.core).l1.any (fun e => isSc e.2 && e.2.dirty != 0#16 && s.serialHolds me (64 * e.1) false))

/-- The maintenance of a release at a scope (R80, R88, R100, R300). -/
def releaseAt (me : Nat) (t : Strand) (scope : Nat) : State :=
  let sc := s.scopeOf t scope
  let s := if 1 ≤ sc then s.stashClean me t.core false (fun _ => true) else s
  let s := if 2 ≤ sc then s.l1CleanAll t.core isSc false else s
  let s := if 3 ≤ sc then s.combineClu (t.core / 2) else s
  if 5 ≤ sc then s.sliceClean t.part else s

/-- The maintenance of an acquire at a scope (R80, R83, R88, R300). -/
def acquireAt (me : Nat) (t : Strand) (scope : Nat) : State :=
  let sc := s.scopeOf t scope
  let s := if 1 ≤ sc then
      let s := s.stashClean me t.core true (fun _ => true)
      s.setCore t.core { s.core t.core with cc := [] }
    else s
  let s := if 5 ≤ sc then s.sliceDrop t.part else s
  if 2 ≤ sc then s.l1DropClean t.core isSc else s

/-! ### Translation (R73 to R75, R338) -/

/-- Bit i of a table entry. -/
def pte (e i : Nat) : Bool := e.testBit i

/-- A line that a partition may use (R72, R293). -/
def usable (part pa : Nat) : Bool := physOk pa && (match s.part? part with | some p => ownsPa p.cfg pa | none => false)

/-- What an entry says at level lv: whether it is a leaf, and whether a reserved field is set (R73). -/
def pteLeaf (lv e : Nat) : Bool := lv == 0 || ((lv == 1 || lv == 2) && pte e 10)
def pteBad (lv e : Nat) : Bool :=
  pte e 11 || decide (2 ^ 60 ≤ e) || (lv == 3 && pte e 10) || (pteLeaf lv e && e / 4096 % 2 ^ 40 % 2 ^ (9 * lv) != 0)

/-- The address of the entry of va in the table at tab, lv levels above the leaf. -/
def entryAt (va lv tab : Nat) : Nat := tab + 8 * (va / 2 ^ (12 + 9 * lv) % 512)

/-- The walk of a table: `lv` levels left, permissions so far. Answers the leaf with the entry address, or the SUB of XLATE; a table
outside the memory that the partition may use is SUB 5, like a page there (R73, R293, R338). -/
def walk (part : Nat) (va : Nat) : (lv : Nat) → (tab : Nat) → (w x u : Bool) → Except Nat (Tlb × Nat)
  | 0, _, _, _, _ => .error 0
  | lv + 1, tab, w, x, u =>
    let ea := entryAt va lv tab
    if !s.usable part ea then .error 5 else
    let e := (s.combine ea).homeRead ea 8
    let w := w && pte e 1
    let x := x && pte e 2
    let u := u && pte e 3
    let pfn := e / 4096 % 2 ^ 40
    let base := (pfn + va / 4096 % 2 ^ (9 * lv)) * 4096
    if !pte e 0 then .error 0
    else if pteBad lv e then .error 5
    else if pteLeaf lv e then
      .ok ({ base := base, w := w, x := x, u := u, coh := e / 16 % 4 + (if s.isPeer base then 4 else 0),
             owner := e / 2 ^ 52 % 256, rof := pte e 6, pinok := pte e 7, dirty := pte e 9, peer := s.isPeer base }, ea)
    else walk part va lv (pfn * 4096) w x u

/-- The entries that the walk reads. -/
def walkReads (part va : Nat) : (lv : Nat) → (tab : Nat) → List Nat
  | 0, _ => []
  | lv + 1, tab =>
    let ea := entryAt va lv tab
    if !s.usable part ea then [] else
    let e := (s.combine ea).homeRead ea 8
    ea :: (if !pte e 0 || pteBad lv e || pteLeaf lv e then [] else walkReads part va lv (e / 4096 % 2 ^ 40 * 4096))

/-- How an access uses a page. -/
inductive Use where
  | read | write | fetch
  deriving DecidableEq, Repr

def tlbKey (part ctx va : Nat) : Nat := (part * 16 + ctx) * 2 ^ 36 + va / 4096 % 2 ^ 36

/-- A TLB of `cap` entries takes a translation; when it is full one leaves (R74, log 52). -/
def tlbIns (cap now : Nat) (m : AMap Tlb) (k : Nat) (e : Tlb) : AMap Tlb :=
  if (AMap.look m k).isSome || decide (m.length < cap) then AMap.put m k e
  else AMap.put (m.eraseIdx (Config.victim m.length now % m.length)) k e

/-- A translation enters the core's TLB of 128 entries and its cluster's of 4096 (R74). -/
def tlbPut (core k : Nat) (e : Tlb) : State :=
  let s := s.setClu (core / 2) { s.clu (core / 2) with tlb := tlbIns 4096 s.time (s.clu (core / 2)).tlb k e }
  s.setCore core { s.core core with tlb := tlbIns 128 s.time (s.core core).tlb k e }

/-- The root of a context's table (R75). -/
def rootOf (part ctx : Nat) : Nat := s.csr64 part (0x200 + 8 * ctx) / 4096 % 2 ^ 40 * 4096

/-- A translation that a TLB of the core or of its cluster holds (R74). -/
def tlbHit (part ctx core va : Nat) : Option Tlb :=
  (AMap.look (s.core core).tlb (tlbKey part ctx va)).orElse (fun _ => AMap.look (s.clu (core / 2)).tlb (tlbKey part ctx va))

/-- The translation of a virtual address: from the core's TLB, from the cluster's, or by a walk; the entry address is given
when the walk must update it.  An address that does not exist, or that is another partition's, is SUB 5 (R293, log 53). -/
def lookup (part ctx core va : Nat) : Except Nat (Tlb × Option Nat) :=
  if sextI (va / 2 ^ 47) 17 ≠ 0 ∧ sextI (va / 2 ^ 47) 17 ≠ -1 then .error 3
  else if s.csr64 part (0x200 + 8 * ctx) % 2 = 0 then .error 4
  else match s.tlbHit part ctx core va with
    | some e => if s.usable part (e.base + va % 4096) then .ok (e, none) else .error 5
    | none =>
      match s.walk part va 4 (s.rootOf part ctx) true true true with
      | .error k => .error k
      | .ok (e, ea) => if s.usable part (e.base + va % 4096) then .ok (e, some ea) else .error 5

/-- The walker waits for a serial transaction of another strand than me: it reads an entry that the transaction has written, or must
update one in its footprint (R74, R111). -/
def walkWaits (me part ctx core va : Nat) (wr : Bool) : Bool :=
  if !s.strands.any (fun e => e.2.tx.any (·.serial)) then false else
  let es := s.walkReads part va 4 (s.rootOf part ctx)
  let upd := match es.getLast? with
    | some ea => let e := s.homeRead ea 8; (!pte e 8 || (wr && !pte e 9)) && s.serialHolds me ea true
    | none => false
  match s.tlbHit part ctx core va with
  | some e => wr && !e.dirty && upd
  | none => es.any (fun ea => s.serialHolds me ea false) || upd

/-- A page under an attribute transition (R90 step 1). -/
def inTransition (part ctx va : Nat) : Bool :=
  match s.part? part with
  | some p => (match p.attr with
    | some r => r.ctx == ctx && decide (r.base ≤ va / 4096 % 2 ^ 36) && decide (va / 4096 % 2 ^ 36 < r.base + r.len)
    | none => false)
  | none => false

/-- The check of one access (R73, R88, R300, R338): the translation, or the stop. The front end reads and writes CP pages at the home
(R81, log 45). -/
def xlate (part ctx core va : Nat) (priv : Bool) (use : Use) : Except Stop Tlb :=
  let flt (code sub : Nat) : Except Stop Tlb := .error (.fault { code := code, sub := sub, arg := va })
  if s.inTransition part ctx va || s.walkWaits (if core < 256 then s.cur else hwAgent) part ctx core va (use == .write) then .error .wait else
  match s.lookup part ctx core va with
  | .error 0 => if use = .fetch then flt 4 2 else flt 4 (if use = .write then 1 else 0)
  | .error k => flt 4 k
  | .ok (e, _) =>
    if !e.u && !priv then flt 5 1
    else if use = .fetch ∧ !e.x then flt 5 2
    else if use = .write ∧ !e.w then flt 5 0
    else if e.coh % 4 = 3 then flt 6 4
    else if e.coh % 4 = 2 ∧ e.owner ≠ core ∧ (core < 256 ∨ core % 2 = 0) then flt 6 0
    else if e.peer ∧ e.coh % 4 ≠ 1 then flt 6 3
    else .ok e

/-- The atomic update of a table entry at its home slice: A, and D on a write; a write of the walker to transactions (R74,
R107). -/
def setAD (ea : Nat) (wr : Bool) : State :=
  let s := s.combine ea
  let v := s.homeRead ea 8
  let v1 := if pte v 8 then v else v + 256
  let v2 := if wr && !pte v1 9 then v1 + 512 else v1
  if v2 = v then s else (s.doomBut (fun _ _ => false) ea true).homeStore ea (bytesOf v2 8)

/-- The walker reads the entries of a walk through the L2, as an agent of its own (R74, R107). -/
def walkRead (part ctx core va : Nat) : State :=
  (s.walkReads part va 4 (s.rootOf part ctx)).foldl (fun (s : State) ea => (s.l2Read core ctx ea).doomBut (fun _ _ => false) ea false) s

/-- The walker's update of A and, on a write, D, before the access (R74), and the TLBs' new entry. -/
def touch (part ctx core va : Nat) (wr : Bool) : State :=
  match s.lookup part ctx core va with
  | .error _ => s
  | .ok (e, some ea) => ((s.walkRead part ctx core va).setAD ea wr).tlbPut core (tlbKey part ctx va) { e with dirty := e.dirty || wr }
  | .ok (e, none) =>
    if wr && !e.dirty then
      match s.walk part va 4 (s.rootOf part ctx) true true true with
      | .ok (_, ea) => (s.setAD ea true).tlbPut core (tlbKey part ctx va) { e with dirty := true }
      | .error _ => s
    else if (AMap.look (s.core core).tlb (tlbKey part ctx va)).isSome then s
    else s.setCore core { s.core core with tlb := tlbIns 128 s.time (s.core core).tlb (tlbKey part ctx va) e }

/-- The physical address under a translation. -/
def physOf (e : Tlb) (va : Nat) : Nat := e.base + va % 4096

end State
end Sys2Proof.Machine
end

