-- ==== Sys2Proof/Machine/Ops.lean ====
section
/-!
DEFINITION. The named operations over a strand: registers, items and clauses, branches and the spin detector, loops,
transactions' abort, stops, taking an exception and returning from one
(spec/02 R28 to R65, spec/16 R303, R305, spec/19 R321 to R328, spec/20 R341).
-/
namespace Sys2Proof.Machine
open Sys2Proof

/-- Command-core lanes are strands from this key up (log 7). -/
def ccBase : Nat := 24576

namespace Strand
variable (t : Strand)

/-! ### Registers -/

/-- S[r] (R29). -/
def getS (r : Nat) : Word := AMap.get t.s r 0#32
/-- S[r] as trap entry and SAVE read it: 0 when it is uncorrectable (R346). -/
def frameS (r : Nat) : Word := if t.bad.contains r then 0#32 else t.getS r
/-- S[r] := v, with the write that the spin detector sees (R54). -/
def setS (r : Nat) (v : Word) : Strand :=
  { t with s := AMap.set t.s r v 0#32, bad := t.bad.filter (· != r), spin := { t.spin with log := t.spin.log ++ [(r, [v])] } }
/-- S[r] := v by an engine, not a write of the strand (R54). -/
def putS (r : Nat) (v : Word) : Strand := { t with s := AMap.set t.s r v 0#32, bad := t.bad.filter (· != r) }
/-- S[r+1]:S[r]. -/
def getPair (r : Nat) : DWord := pair (t.getS r) (t.getS (r + 1))
/-- Q[q] (R156). -/
def getQ (q : Nat) : Mask := quadMask (t.getS q) (t.getS (q + 1)) (t.getS (q + 2)) (t.getS (q + 3))
def setQ (q : Nat) (m : Mask) : Strand :=
  (((t.setS q (maskW m 0)).setS (q + 1) (maskW m 1)).setS (q + 2) (maskW m 2)).setS (q + 3) (maskW m 3)

def zeroVec : Vec := List.replicate 128 0#32
/-- Vector register r, unrotated. -/
def getV (r : Nat) : Vec := AMap.get t.v r zeroVec
/-- V[r] := x by an engine or another strand, not a write of the strand (R54). -/
def putV (r : Nat) (x : Vec) : Strand := { t with v := AMap.set t.v r x zeroVec }
/-- The lanes m of V[r] := those of x, with the write that the spin detector sees (R54). -/
def setV (r : Nat) (m : Mask) (x : Vec) : Strand :=
  if m = 0#128 then t else
  let old := t.getV r
  { t with
    v := AMap.set t.v r ((List.range 128).map (fun l => if m.getLsbD l then Vec.lane x l else Vec.lane old l)) zeroVec,
    bad := t.bad.filter (fun b => !((lanesOf m).map (fun l => 512 + 128 * r + l)).contains b),
    spin := { t.spin with
      log := t.spin.log ++ [(512 + r, [maskW m 0, maskW m 1, maskW m 2, maskW m 3] ++ (lanesOf m).map (Vec.lane x))] } }
/-- V[r][l] := x. -/
def setV1 (r l : Nat) (x : Word) : Strand := t.setV r (1#128 <<< l) (Vec.ofFn (fun _ => x))

/-- rot.BASE, SIZE, RB (R63). -/
def rotBase : Nat := fld t.rot.toNat 0 8
def rotSize : Nat := fld t.rot.toNat 8 8
def rotRb : Nat := fld t.rot.toNat 16 7
/-- Rot(k) under a rotating set-up (R63). -/
def rotOf (rot : Word) (k : Nat) : Nat :=
  let b := fld rot.toNat 0 8; let z := fld rot.toNat 8 8; let rb := fld rot.toNat 16 7
  if z ≠ 0 ∧ b ≤ k ∧ k < b + z then b + (k - b + rb) % z else k
def rotN (k : Nat) : Nat := rotOf t.rot k
/-- RB := (RB - 1) mod size (R58). -/
def stepRb : Strand :=
  let z := t.rotSize
  if z = 0 then t else { t with rot := BitVec.ofNat 32 (t.rotBase + z * 256 + ((t.rotRb + z - 1) % z) * 65536) }

/-! ### Items, addresses, flags and paths -/

/-- The byte address of the present scalar word, or of the header at item 0 (R38, R303). -/
def itemAddr : DWord := if t.item ≤ t.nl then t.hspc else t.hspc + BitVec.ofNat 64 (4 * (t.item - t.nl))
/-- LPC by the rule of R303. -/
def lpc : Word := t.first + BitVec.ofNat 32 (min t.item t.nl)
/-- Scalar and lane section bases in use (R51, R325, R326). -/
def secBase : DWord := if t.hnd then t.hsbase else t.sbase
def laneBase : DWord := if t.hnd then t.hlbase else t.lbase
/-- The flag that FS selects, if the clause names one (R136). -/
def flagOf (fs : Nat) : Option Nat := let a := if fs = 0 then t.seta else t.setb; if a = 15 then none else some a
/-- Flag b_i is busy: named by the open clause, or assigned to an operation in flight (R36). -/
def busy (i : Nat) : Bool :=
  (decide (0 < t.item) && (t.seta == i || t.setb == i)) || t.claims.contains i || t.ops.any (fun o => o.flag == some i)
/-- A path counter (R37). -/
def count (p : Path) : Nat := (t.ops.filter (fun o => o.path == p)).length
/-- The ld, sc and at counters are zero (R323, R326). -/
def drained3 : Bool := t.count .ld == 0 && t.count .sc == 0 && t.count .atm == 0
def drained : Bool := t.ops.isEmpty
/-- The held errors that may be raised at an item: in a handler not those that trap entry's wait let fall due (R323, R341). -/
def openHeld : List Held := t.held.filter (fun h => !(t.hnd && h.due))
/-- The strand is ready to issue: not halted, leaving, or waiting (R32, R275). -/
def ready : Bool := t.run != .halted && t.leave == .no && t.pend.isNone && (match t.wait with | .none => true | .woke _ _ => true | _ => false)
/-- A new operation in flight, issued by the present item. -/
def issueOp (o : Op) : Strand :=
  { t with ops := t.ops ++ [{ o with id := t.nextOp, spc := (if t.item ≤ t.nl then t.hspc else t.itemAddr), item := t.item }],
           nextOp := t.nextOp + 1,
           held := t.held.map (fun h => if h.path = o.path then { h with later := h.later + 1 } else h) }
/-- A write to memory, an arrival or a commit, for the spin detector (R54). -/
def noteWrite : Strand := { t with spin := { t.spin with wrote := true } }

/-- Continues at a clause header with its first lane index (R163). -/
def jump (spc : DWord) (lpc : Word) : Strand :=
  { t with hspc := spc, first := lpc, item := 0, nl := 0, ns := 0, seta := 15, setb := 15, capt := [], lost := false }

/-- A back edge is due at final word fw (R58). -/
def edgeAt (fw : DWord) : Bool :=
  match t.loops with
  | l :: _ => l.endSpc == fw && l.depth == t.rets.length
  | [] => false

/-- Past an item of n words: the next item of the clause, or the next header, where a back edge may be due (R34, R58). -/
def advance (n : Nat) : Strand :=
  if t.item + n ≤ t.nl + t.ns then { t with item := t.item + n }
  else
    let fw := if t.ns = 0 then t.hspc else t.itemAddr
    let edge := t.edgeAt fw
    { t.jump (t.hspc + BitVec.ofNat 64 (4 * (t.ns + 1))) (t.first + BitVec.ofNat 32 t.nl) with edge := edge }

/-! ### The spin detector (R54, R55) -/

def regionOpen : Bool := t.region.getLsbD 9
def regionBase : Nat := fld t.region.toNat 0 9

/-- The region pointer changes: the crossing count returns to 0 (R54). -/
def setRegion (w : Word) : Strand :=
  if t.region = w then t else { t with region := w, spin := { t.spin with count := 0 } }

/-- The demotion of the current path (R55): the paths swap, EXEC whole, FMT with them, DEMOTED is set, SPINDEM counts.  A word 5
that software has made no multiple of 4 is continued at as it stands (log 57). -/
def demote : Strand :=
  let b := t.regionBase
  let w7 := t.getS (b + 7)
  let pend := t.getQ (b + 8)
  let newSpc := t.secBase + (t.getS (b + 5)).setWidth 64
  let newLpc := t.getS (b + 6)
  let dem := w7.getLsbD 11
  let dfmt := w7.extractLsb' 16 16
  let fmt : Word := if dem then t.fmt.extractLsb' 16 16 ++ dfmt else t.getS (b + 4)
  let w7' : Word := (t.fmt.extractLsb' 0 16) ++ (w7.extractLsb' 0 16 ||| 0x800#16)
  let t1 := (t.putS (b + 5) (loW (t.hspc - t.secBase))).putS (b + 6) t.first
  let t2 := (((t1.putS (b + 8) (maskW t.exec 0)).putS (b + 9) (maskW t.exec 1)).putS (b + 10) (maskW t.exec 2)).putS (b + 11) (maskW t.exec 3)
  let n := fld t.status.toNat 8 16
  { (t2.putS (b + 7) w7').jump newSpc newLpc with
    exec := pend, fmt := fmt, spin := { t.spin with count := 0 },
    status := if n = 0xFFFF then t.status else t.status + 0x100#32 }

/-- A crossing, after its transfer (R54): counts it, and demotes the path at the 64th (R55). -/
def cross : Strand :=
  let h := Config.spinHash t.spin.log
  let watch := t.regionOpen && (t.getS (t.regionBase + 7)).getLsbD 10
  let n := if t.spin.wrote ∨ t.spin.hash ≠ some h then 1 else t.spin.count + 1
  let t1 := { t with spin := { log := [], hash := some h, count := if watch then n else 0, wrote := false } }
  if watch ∧ 64 ≤ n then t1.demote else t1

/-- A crossing when the transfer's target lies below the word at `addr` (R54). -/
def crossIf (addr target : DWord) : Strand := if target.toNat < addr.toNat then t.cross else t

/-! ### Loops (R60, R165) -/

/-- The innermost frame ends: EXEC and STAGE as the frame gives (R60). -/
def popLoop : Strand :=
  match t.loops with
  | l :: ls => { t with loops := ls, exec := l.entry &&& t.live, stage := l.stage }
  | [] => t

/-- A taken branch to spc ends the loops it leaves (R165), n frames at most. -/
def leaveLoops (spc : DWord) : Nat → Strand → Strand
  | 0, t => t
  | n + 1, t =>
    match t.loops with
    | l :: _ =>
      if l.depth = t.rets.length ∧ (spc.toNat < l.startSpc.toNat ∨ l.endSpc.toNat < spc.toNat) then leaveLoops spc n t.popLoop
      else t
    | [] => t

/-! ### Transactions (R109, R110) -/

def retryCode (c : Nat) : Bool := c == 1 || c == 2 || c == 6

/-- txstat of an abort (R110). -/
def abortStat (x : Tx) (code arg : Nat) : Word :=
  let c := if x.poisoned then 7 else match lowest x.lanes with
    | some l => AMap.get x.dead l code
    | none => code
  BitVec.ofNat 32 (c + (if c = 4 then arg else 0) * 16 + bitIf (retryCode c) 12)

/-- The open transaction ends for all lanes: its writes are discarded, R70's state returns (of rot its RB alone), and the strand
is at the fail target (R70, R109). -/
def abortTx (code arg : Nat) : Strand :=
  match t.tx with
  | none => t
  | some x =>
    { (t.jump x.failSpc x.failLpc).setRegion x.region with
      exec := x.exec &&& t.live, loops := x.loops, rot := (t.rot &&& 0xFF80FFFF#32) ||| (x.rot &&& 0x7F0000#32), stage := x.stage, tx := none, ops := t.ops.map (fun o => { o with tx := false }),
      txstat := abortStat x (if x.poisoned then 7 else code) arg, edge := false }

end Strand

/-! ### Words of the frame and of event records -/

def loopWord (l : LoopFrame) (w : Nat) : Word :=
  match w with
  | 0 => loW l.startSpc | 1 => hiW l.startSpc | 2 => loW l.endSpc | 3 => hiW l.endSpc | 4 => l.startLpc | 5 => l.endLpc
  | 6 => l.trips
  | 7 => BitVec.ofNat 32 (bitIf l.rot 0 + bitIf l.item 1 + 4 + l.stages * 8 + l.depth * 64 + l.ireg * 65536 + l.stage.toNat * 16777216)
  | 8 => maskW l.entry 0 | 9 => maskW l.entry 1 | 10 => maskW l.entry 2 | 11 => maskW l.entry 3
  | 12 => maskW l.lexit 0 | 13 => maskW l.lexit 1 | 14 => maskW l.lexit 2 | _ => maskW l.lexit 3

/-- Word i of frames and entries that are not open: free (log 12). -/
def Strand.vacant (t : Strand) (i : Nat) : Word := Config.vacant t.weave t.sid t.seqNo i

/-- Word w of loop frame L. A frame that has never been open reads 0, one that is no longer open a free value, its OPEN and
reserved bits 0 (R144, R3, log 12). -/
def Strand.loopReg (t : Strand) (L w : Nat) : Word :=
  if L < t.loops.length then (match t.loops[t.loops.length - 1 - L]? with | some l => loopWord l w | none => 0#32)
  else if !t.lfTop.testBit L then 0#32
  else if w = 7 then t.vacant (16 * L + w) &&& 0xFFFF07FB#32 else t.vacant (16 * L + w)

def loopOfWords (f : Nat → Word) : LoopFrame :=
  let c := (f 7).toNat
  { startSpc := pair (f 0) (f 1), endSpc := pair (f 2) (f 3), startLpc := f 4, endLpc := f 5, trips := f 6,
    rot := c.testBit 0, item := c.testBit 1, stages := fld c 3 3, depth := fld c 6 5, ireg := fld c 16 8,
    stage := BitVec.ofNat 8 (fld c 24 8), entry := quadMask (f 8) (f 9) (f 10) (f 11),
    lexit := quadMask (f 12) (f 13) (f 14) (f 15), seq := 0 }

namespace State
variable (s : State)

/-- Instruction bytes at a virtual address as the strand's core sees them (R73): n bytes, or the stop.  A word that is poisoned, or
whose link has failed, is no instruction: ECC_UNCORR at the item that it would be (R345, R365, log 40). -/
def fetch (t : Strand) (va n : Nat) : Except Stop Nat :=
  match s.xlate t.part t.ctx t.core va t.priv .fetch with
  | .error e => .error e
  | .ok e =>
    if s.readPoison t.core (physOf e va) e.coh then .error (.fault { code := 0x15, sub := if isSys (physOf e va) then 7 else 2, arg := va })
    else .ok (s.coreRead t.core (physOf e va) n e.coh)

/-- The word at a virtual address, 0 when it cannot be fetched. -/
def wordAt (t : Strand) (va : DWord) : Nat := match s.fetch t va.toNat 4 with | .ok w => w | .error _ => 0

/-- The lane instruction of index i, or the stop of its fetch (R140, R141); it may span two pages. -/
def fetchLane (t : Strand) (i : Word) : Except Stop Nat :=
  let va := t.laneBase.toNat + 12 * i.toNat
  match s.fetch t va 4, s.fetch t (va + 4) 4, s.fetch t (va + 8) 4 with
  | .ok a, .ok b, .ok c => .ok (a + b * 2 ^ 32 + c * 2 ^ 64)
  | .error e, _, _ => .error e
  | _, .error e, _ => .error e
  | _, _, .error e => .error e

/-- The header after the end clause whose final word is at `fw` (R57, R60). -/
def afterEnd (t : Strand) (fw : DWord) : DWord := fw + BitVec.ofNat 64 (4 * scalarWords (s.wordAt t fw))

/-- Takes an index from skein k of a core (R62). -/
def popSkein (core k : Nat) : Option Word × State :=
  let c := s.core core
  match (if k = 0 then c.sk0 else c.sk1) with
  | [] => (none, s)
  | x :: xs => (some x, s.setCore core (if k = 0 then { c with sk0 := xs } else { c with sk1 := xs }))

/-- The skein of a strand's weave (R62), if it has the attribute. -/
def skeinOf (t : Strand) : Option Nat :=
  match s.weave? t.weave with
  | some w => (match s.bolt? w.bolt with | some b => if b.desc.sken then some b.desc.sksel else none | none => none)
  | none => none

/-- Offers skein k to lanes in ascending order: the strand with their indices in register r, and the lanes refilled. -/
def refill (k r : Nat) : List Nat → State → Strand → State × Strand × List Nat
  | [], s, t => (s, t, [])
  | l :: ls, s, t =>
    match s.popSkein t.core k with
    | (none, _) => (s, t, [])
    | (some x, s') =>
      let (s2, t2, got) := refill k r ls s' (t.setV1 r l x)
      (s2, t2, l :: got)

/-- The back edge of the innermost loop, and outwards while the enclosing loop ends there too (R58, R60, R62); the strand
stands at the header after the end clause. -/
def backEdgeGo (fw : DWord) : Nat → State → Strand → State × Strand
  | 0, s, t => (s, t)
  | n + 1, s, t =>
    match t.loops with
    | [] => (s, t)
    | l :: ls =>
      let exit := fun (s : State) (t : Strand) =>
        let t := { (t.popLoop).jump (s.afterEnd t fw) l.endLpc with edge := false }
        if t.edgeAt fw then backEdgeGo fw n s t else (s, t)
      let unbounded := l.item && l.trips == 0xFFFFFFFF#32
      if unbounded ∨ 1 < l.trips.toNat then
        let c := if unbounded then l.trips else l.trips - 1
        let t := if l.rot then t.stepRb else t
        let stage := (t.stage <<< 1) ||| (if l.stages - 1 < c.toNat then 1#8 else 0#8)
        let l' := { l with trips := c }
        if l.item then
          let (s, t, got) := match s.skeinOf t with
            | some k => refill k (t.rotN l.ireg) (lanesOf (l.lexit &&& t.live)) s t
            | none => (s, t, [])
          let m := maskOfLanes got
          let t := { t with exec := t.exec ||| m, stage := stage, loops := { l' with lexit := l.lexit &&& ~~~ m } :: ls }
          if t.exec = 0#128 then exit s t else (s, ({ t.jump l.startSpc l.startLpc with edge := false }).cross)
        else (s, ({ t.jump l.startSpc l.startLpc with edge := false, stage := stage, loops := l' :: ls }).cross)
      else exit s t

/-- The back edge that is due (R58). -/
def backEdge (t : Strand) : State × Strand :=
  match t.loops with
  | l :: _ => if t.edge then backEdgeGo l.endSpc 5 s t else (s, t)
  | [] => (s, { t with edge := false })

/-- After an item of n words: the next item, a due back edge run (where a stop must fall between items, R38). -/
def afterItem (t : Strand) (n : Nat) : State × Strand := s.backEdge (t.advance n)

/-! ### Event records and the stop queue (R303, R305) -/

/-- The 16 words of an event record (R303). -/
def eventRecord (kind reason : Nat) (t : Strand) (eseq : Word) (code arg : Nat) : List Word :=
  [BitVec.ofNat 32 (kind + reason * 16 + t.core * 256 + t.slot * 65536 + t.ctx * 16777216 + t.item * 268435456), eseq,
   BitVec.ofNat 32 s.time, BitVec.ofNat 32 (s.time / 2 ^ 32), loW t.itemAddr, hiW t.itemAddr, t.lpc, BitVec.ofNat 32 t.sid,
   maskW t.exec 0, maskW t.exec 1, maskW t.exec 2, maskW t.exec 3, BitVec.ofNat 32 code, 0#32, BitVec.ofNat 32 arg,
   BitVec.ofNat 32 (arg / 2 ^ 32)]

def bytesOfWords (ws : List Word) : List Byte := ws.flatMap (fun w => bytesOf w.toNat 4)
def wordOfBytes (bs : List Byte) (i : Nat) : Word := BitVec.ofNat 32 (natOf ((bs.drop (4 * i)).take 4))

/-- A record enters the stop queue when it has room (R305). -/
def putStop (p : Part) (bs : List Byte) : Part :=
  let n := (p.rd 0xA0CC).toNat
  let p := (List.range 16).foldl (fun p i => p.wr (0xA800 + 64 * (n % 16) + 4 * i) (wordOfBytes bs i)) p
  p.wr 0xA0CC (BitVec.ofNat 32 (n + 1))

def stopRoom (p : Part) : Bool := decide ((p.rd 0xA0CC - p.rd 0xA0D0).toNat < 16)

/-- A strand halts with a stop record, which waits when the queue is full (R305); ARG only of BKPT and WATCH (R303). -/
def stopStrand (k : Nat) (t : Strand) (code arg : Nat) : State :=
  match s.part? t.part with
  | none => s.setStrand k { t with run := .halted }
  | some p =>
    let (e, p) := p.eseq
    let bs := bytesOfWords (s.eventRecord 2 0 t e code (if code = 0x11 ∨ code = 0x12 then arg else 0))
    let p := if stopRoom p && p.stopWait.isEmpty then putStop p bs else { p with stopWait := p.stopWait ++ [(bs, e.toNat)] }
    (s.setPart t.part p).setStrand k { t with run := .halted }

/-- Waiting records enter as entries free (R305). -/
def drainStops (p : Part) : List (List Byte × Nat) → Part
  | [] => { p with stopWait := [] }
  | r :: rs => if stopRoom p then drainStops (putStop p r.1) rs else { p with stopWait := r :: rs }

/-! ### Taking an exception (R321 to R325) -/

/-- Whether the captured operand of a lane instruction is a pair (R217, R199, R238). -/
def capPair (i : Instr) : Bool :=
  match i with
  | .iaddc _ => true | .ld _ => true | .st _ => true | .atom _ => true | .red _ => true | .pref _ => true | .mstore _ => true
  | _ => false

/-- CAPT of the open clause (R324): 0 for a scalar that could not be corrected (R346). -/
def captWords (t : Strand) : List (List Word) :=
  (List.range 7).map (fun j =>
    let zero := List.replicate 8 0#32
    if t.capt.getD j [] ≠ [] then t.capt.getD j []
    else if t.item = 0 ∨ t.nl ≤ j ∨ t.lost then zero else
    match s.fetchLane t (t.first + BitVec.ofNat 32 j) with
    | .error _ => zero
    | .ok w =>
      let f := laneFields w
      let c := fun r => if t.capBad.contains r then 0#32 else AMap.get t.capS r 0#32
      let i := f.imm % 512
      match decodeLane w with
      | .error _ => zero
      | .ok (.sel g) =>
        [if f.bsrc = 1 then c i else 0#32, 0#32, 0#32, 0#32, c (4 * g.vc), c (4 * g.vc + 1), c (4 * g.vc + 2), c (4 * g.vc + 3)]
      | .ok ins =>
        if f.bsrc = 1 then [c i, if capPair ins then c (i + 1) else 0#32, 0#32, 0#32, 0#32, 0#32, 0#32, 0#32] else zero)

/-- The uncorrectable scalars that CAPT shows as 0 (R346). -/
def captBad (t : Strand) : List Nat :=
  if t.capBad = [] then [] else
  ((List.range 7).filter (fun j => (t.capt.getD j []).isEmpty && t.item != 0 && decide (j < t.nl) && !t.lost)).flatMap (fun j =>
    match s.fetchLane t (t.first + BitVec.ofNat 32 j) with
    | .error _ => []
    | .ok w =>
      let f := laneFields w
      let one := if f.bsrc = 1 then [f.imm % 512] else []
      (match decodeLane w with
        | .error _ => []
        | .ok (.sel g) => one ++ (List.range 4).map (4 * g.vc + ·)
        | .ok ins => one ++ (if f.bsrc = 1 ∧ capPair ins then [f.imm % 512 + 1] else [])).filter (fun r => t.capBad.contains r))

/-- The lane items of the open clause whose captured operands the frame cannot name, their word not being fetched (R324). -/
def captMissing (t : Strand) : List Nat :=
  (List.range 7).filter (fun j => t.item != 0 && decide (j < t.nl) && (t.capt.getD j []).isEmpty
    && (t.lost || match s.fetchLane t (t.first + BitVec.ofNat 32 j) with | .error _ => true | .ok _ => false))

/-- The 512 words of a trap frame or strand record (R324). -/
def frameWords (t : Strand) (code sub arg : Nat) (txab : Bool) (lanes : Mask) (fspc : DWord) (fitem : Nat) (eseq : Word) : List Word :=
  let ret := fun e => t.rets.reverse[e]?
  [BitVec.ofNat 32 (code + sub * 256 + bitIf txab 16 + t.item * 268435456), BitVec.ofNat 32 t.sid, loW t.itemAddr, hiW t.itemAddr,
   t.lpc, eseq, BitVec.ofNat 32 arg, BitVec.ofNat 32 (arg / 2 ^ 32), loW fspc, hiW fspc,
   BitVec.ofNat 32 s.time, BitVec.ofNat 32 (s.time / 2 ^ 32)]
  ++ (List.range 4).map (maskW t.exec) ++ (List.range 4).map (maskW t.live) ++ (List.range 4).map (maskW lanes)
  ++ [t.fmt, t.rot, t.stage.setWidth 32, t.region, t.status, t.txstat,
      BitVec.ofNat 32 (t.rets.length + t.loops.length * 32 + fitem * 256), 0#32]
  ++ (List.range 64).map (fun i => t.loopReg (i / 16) (i % 16))
  ++ (List.range 64).map (fun i => match ret (i / 4) with
      | none => if i % 4 = 3 then t.vacant (64 + i) &&& 0x1F#32 else t.vacant (64 + i)
      | some r => match i % 4 with | 0 => loW r.spc | 1 => hiW r.spc | 2 => r.lpc | _ => BitVec.ofNat 32 r.loops)
  ++ (List.range 32).map t.frameS
  ++ (s.captWords t).flatten ++ List.replicate 8 0#32
  ++ t.lfsr ++ List.replicate 128 0#32

/-- The frame address of a strand (R322). -/
def frameAddr (t : Strand) : Nat :=
  (s.csr64 t.part (0xC00 + 32 * t.ctx + 0x18) / 4096 % 2 ^ 40) * 4096 + 2048 * (96 * t.core + t.slot)

/-- A double fault or a fault without a handler: CTXERR bit, stop record, halt (R321). -/
def haltErr (k : Nat) (t : Strand) (code arg : Nat) : State :=
  (s.updPart t.part (fun p => p.setBit 0xE18 t.ctx true)).stopStrand k { t with pend := none } code arg

/-- An uncorrectable register element that a frame or a save area holds as 0 is named in the memory error log (R346, log 40). -/
def logElement (t : Strand) (e : Nat) : State :=
  s.updPart t.part (fun p => p.logMe 2 t.ctx t.core t.slot (if e < 512 then 0 else 1) e)

/-- The constant cache of a core keeps no copy of n words from word w: the frame's stores are ordered before every item of the
handler, scalar loads among them (R323 step 3, R83). -/
def dropCc (core w n : Nat) : State :=
  s.setCore core { s.core core with cc := (s.core core).cc.filter (fun e => !(decide (w < 4 * e.1 + 4) && decide (4 * e.1 < w + n))) }

/-- The frame of a pending trap cannot be written yet: its page is in transition (R90), or a serial transaction holds it (R111). -/
def entryWaits (k : Nat) (t : Strand) : Bool :=
  match s.xlate t.part t.ctx t.core (s.frameAddr t) t.priv .write with
  | .error .wait => true
  | .error _ => false
  | .ok tr => tr.coh == 0 && s.serialMeets k (physOf tr (s.frameAddr t)) 2048 true

/-- The trap frame is written and the handler entered (R323 to R325); the frame's own fault is a double fault. -/
def enterTrap (k : Nat) (t : Strand) (pe : Pend) : State :=
  let fa := s.frameAddr t
  let (e, s) := match s.part? t.part with
    | some p => (p.eseq.1, s.setPart t.part p.eseq.2)
    | none => (0#32, s)
  let bad := fun (code : Nat) => s.haltErr k t code fa
  match s.xlate t.part t.ctx t.core fa t.priv .write with
  | .error (.fault f) => bad f.code
  | .error .wait => s.setStrand k { t with pend := some pe }
  | .ok tr =>
    if tr.coh ≠ 0 then bad 6
    else if !(List.range 8).all (fun i => s.usable t.part (physOf tr fa + 256 * i)) then bad 4
    else if s.serialMeets k (physOf tr fa) 2048 true then s.setStrand k { t with pend := some pe } else
    let s := ((t.bad.filter (· < 32) ++ s.captBad t).eraseDups).foldl (fun (s : State) (r : Nat) => s.logElement t r) s
    let t0 := t
    let t := { t with held := t.held.map (fun h => if h.path = .ld ∨ h.path = .sc ∨ h.path = .atm then { h with due := true } else h) }
    let ws := s.frameWords t pe.info.code pe.info.sub pe.info.arg pe.txab pe.info.lanes pe.spc pe.item e
    let s := s.touch t.part t.ctx t.core fa true
    let s := (List.range 8).foldl (fun (s : State) i => s.l2Write t.core t.ctx (physOf tr fa + 256 * i) 256) s
    let s := s.farWrite k (physOf tr fa) (bytesOfWords ws)
    let s := s.dropCc t.core (physOf tr fa / 4) 512
    let b := 0xC00 + 32 * t.ctx
    let hspc := BitVec.ofNat 64 (s.csr64 t.part b / 4 * 4)
    let harg := s.csr64 t.part (b + 16)
    let claims := if 0 < t.item then (t.claims ++ [t.seta, t.setb]).filter (· != 15) else t.claims
    let t := ((((((t.putS 0 (BitVec.ofNat 32 fa)).putS 1 (BitVec.ofNat 32 (fa / 2 ^ 32))).putS 2 (ws.getD 0 0#32)).putS 3
      (BitVec.ofNat 32 pe.info.arg)).putS 4 (BitVec.ofNat 32 harg)).putS 5 (BitVec.ofNat 32 (harg / 2 ^ 32))).setRegion 0#32
    let miss := s.captMissing t0
    s.setStrand k { t.jump hspc 0#32 with
      noCap := miss, capH := if miss.isEmpty then [] else t.capS.filter (fun e => !t.capBad.contains e.1), hsbase := hspc, hlbase := BitVec.ofNat 64 (s.csr64 t.part (b + 8) / 64 * 64), exec := t.live, fmt := 0#32, rot := 0#32,
      stage := 0#8, seqs := (t.loops.map (·.seq)).reverse, splitsH := t.splits, loops := [], rets := [], hnd := true, frame := fa, pend := none, claims := claims, edge := false,
      pass := false, passW := false, passH := (t0.pass, t0.passW) }

/-- A pending trap is taken when no rail change runs (R274): it halts the strand (R321), or enters the handler once the ld, sc
and at counters are zero (R323 step 2). -/
def tryEnter (k : Nat) : State :=
  match s.strand? k with
  | none => s
  | some t =>
    match t.pend with
    | none => s
    | some pe =>
      if t.run = .halted ∨ (s.clu (t.core / 2)).change.isSome then s else
      match pe.halt with
      | some false => s.stopStrand k { t with pend := none } pe.info.code pe.info.arg
      | some true => s.haltErr k t pe.info.code pe.info.arg
      | none => if t.drained3 then s.enterTrap k t pe else s

/-- A queue's fault (R355, R357): CODE, FCODE, QIDX, QADDR, and the kind-6 log entry. -/
def queueFault (lane code fcode qidx qaddr : Nat) : State :=
  let p := lane / 8
  let b := 0x800 + 0x40 * (lane % 8)
  s.updPart p (fun x =>
    let x := x.wr (b + 0x18) (BitVec.ofNat 32 (code + fcode * 256))
    let x := ((x.wr (b + 0x1C) (BitVec.ofNat 32 qidx)).wr64 (b + 0x20) qaddr).wr (b + 0x14) 0#32
    let x := { x with queues := AMap.set x.queues (lane % 8) { AMap.get x.queues (lane % 8) queueDefault with phase := .idle } queueDefault }
    x.logNf 6 (fld (x.rd (b + 8)).toNat 1 4) 0 0 (qidx + (lane % 8) * 2 ^ 32))

/-- A fault at the present item of strand k, routed (R321, R323, R351, R356); the item has taken no effect.  FSPC and FITEM
name the item given: the present one, or the one that issued a held error (R341). -/
def raiseFrom (k : Nat) (t : Strand) (f : FaultInfo) (spc : DWord) (item : Nat) (txab : Bool) : State :=
  if ccBase ≤ k then
    (s.setStrand k t).queueFault (k - ccBase) 6 f.code (s.csr ((k - ccBase) / 8) (0x800 + 0x40 * ((k - ccBase) % 8) + 0xC)).toNat t.itemAddr.toNat
  else
    let txab := txab || t.tx.isSome
    let t := { t with delay := none, pass := t.tx.isNone && !f.next && f.code != 0x13, passW := t.tx.isNone && !f.next && f.code != 0x13 && f.code != 0x11 }
    let (s, t) := if t.tx.isSome then (s, t.abortTx 7 0) else if f.next then s.afterItem t 1 else (s, t)
    let dbg := match s.part? t.part with | some p => p.dbg | none => true
    let en := (s.csr t.part (0xC00 + 32 * t.ctx + 0x18)).getLsbD 0
    let halt := if dbg then some false else if t.hnd || !en then some true else none
    (s.setStrand k { t with pend := some { info := f, spc := spc, item := item, txab := txab, halt := halt } }).tryEnter k

/-- A fault of the present item of strand k. -/
def raiseAt (k : Nat) (t : Strand) (f : FaultInfo) : State := s.raiseFrom k t f t.itemAddr t.item false

/-- A fault of the present item of the running strand. -/
def raise (t : Strand) (f : FaultInfo) : Host.Outcome State Fault Refusal := .next (s.raiseAt s.cur t f)

/-! ### Returning from a trap (R326) -/

/-- The clauses that the word at spc may belong to with an item `item`: header, its word, spc's distance in words; and the stop of a
fetch among the words that could be the header. -/
def clauseHeads (t : Strand) (spc : DWord) (item : Nat) : List (DWord × Nat × Nat) × Option Stop :=
  (List.range 8).foldl (fun r k =>
    let h := spc - BitVec.ofNat 64 (4 * k)
    match s.fetch t h.toNat 4 with
    | .ok w =>
      if fld w 26 6 == 63 && decide (k ≤ fld w 0 3) && decide (item ≤ fld w 3 3 + fld w 0 3) then (r.1 ++ [(h, w, k)], r.2) else r
    | .error e => (r.1, r.2.orElse (fun _ => some e))) ([], none)

/-- The clause of a resume point: header address and word, for SPC and ITEM as R303 gives them, or as the frame's writer put
them: SPC a header or a scalar word of its clause, ITEM at most NL + NS (R326).  Where a word that could be its header cannot be
fetched, the stop of that fetch, which is then the item's own; at item 0 the header is fetched by the item itself (log 58). -/
def clauseOf (t : Strand) (spc : DWord) (item : Nat) : Except Stop (Option (DWord × Nat)) :=
  if spc.toNat % 4 ≠ 0 then .ok none else
  let hs := s.clauseHeads t spc item
  if item = 0 then
    (match hs with
    | ([], none) => .ok none
    | _ => .ok (some (spc, 0)))
  else match hs.1.find? (fun e => if e.2.2 = 0 then decide (item ≤ fld e.2.1 3 3) else item == fld e.2.1 3 3 + e.2.2) with
    | some e => .ok (some (e.1, e.2.1))
    | none => match hs.2 with
      | some e => .error e
      | none => .ok (hs.1.head?.map (fun e => (e.1, e.2.1)))

/-- A strand placed at an item of a clause of which h is the header and w its word; `lpc` by the rule of R303. -/
def placeAt (t : Strand) (h : DWord) (w : Nat) (lpc : Word) (item : Nat) : Strand :=
  { t with hspc := h, first := lpc - BitVec.ofNat 32 (min item (fld w 3 3)), item := item, nl := if item = 0 then 0 else fld w 3 3,
           ns := if item = 0 then 0 else fld w 0 3, seta := if item = 0 then 15 else fld w 10 4, setb := if item = 0 then 15 else fld w 6 4,
           lost := false }

/-- A strand whose clause's header has not been read, placed now that it can be; or the stop of its next item (R326, R328). -/
def relocate (t : Strand) : Except Stop Strand :=
  if !t.lost then .ok t else
  match s.clauseOf t t.hspc t.item with
  | .error e => .error e
  | .ok none => .error (.fault { code := 1, arg := s.wordAt t t.hspc })
  | .ok (some (h, w)) => .ok (placeAt t h w t.lpc t.item)

/-- The state of frame words f reloaded into a strand (R324, R326), with the words of frames that are not open as the frame
may have left them (log 12) and the splits of the interrupted code (R52, log 16); none when a check of R326 fails. -/
def reload (t : Strand) (f : Nat → Word) : Option Strand :=
  let item := fld (f 0).toNat 28 4
  let spc := pair (f 2) (f 3)
  let rsd := fld (f 30).toNat 0 5
  let ldep := fld (f 30).toNat 5 3
  let opens := (List.range 4).all (fun L => (f (39 + 16 * L)).getLsbD 2 == decide (L < ldep))
  if 16 < rsd ∨ 4 < ldep ∨ opens = false then none else
  let put := fun (t : Strand) =>
    { t.setRegion (BitVec.ofNat 32 (fld (f 27).toNat 0 10)) with
      exec := quadMask (f 12) (f 13) (f 14) (f 15) &&& t.live, fmt := f 24, rot := f 25 &&& 0x7FFFFF#32, stage := (f 26).extractLsb' 0 8,
      loops := (((List.range ldep).map (fun L => { loopOfWords (fun j => f (32 + 16 * L + j)) with seq := t.seqs.getD L 0 })).reverse),
      rets := ((List.range rsd).map (fun e =>
        { spc := pair (f (96 + 4 * e)) (f (97 + 4 * e)), lpc := f (98 + 4 * e), loops := fld (f (99 + 4 * e)).toNat 0 5 : RetEntry })).reverse,
      s := (List.range 32).foldl (fun m i => AMap.set m i (f (160 + i)) 0#32) t.s,
      capt := if item = 0 then [] else (List.range 7).map (fun j =>
        let ws := (List.range 8).map (fun i => f (192 + 8 * j + i))
        if t.noCap.contains j && ws.all (· == 0#32) then [] else ws),
      capS := t.capH, noCap := [], capH := [], capBad := [],
      lfTop := ((List.range 4).map (fun L =>
        bitIf (decide (L < ldep) || (List.range 16).any (fun i => f (32 + 16 * L + i) != 0#32)) L)).sum,
      bad := t.bad.filter (fun b => decide (32 ≤ b)),
      splits := t.splitsH.filter (fun e => decide (e.1 < 32)) ++ t.splits.filter (fun e => decide (32 ≤ e.1)), splitsH := [],
      lfsr := (List.range 128).map (fun l => f (256 + l)), hnd := false, claims := [], edge := false, pass := t.passH.1, passW := t.passH.2, seqNo := t.seqNo + 1 }
  match s.clauseOf t spc item with
  | .ok none => none
  | .ok (some (h, w)) => some (placeAt (put t) h w (f 4) item)
  | .error _ => some { put t with hspc := spc, first := f 4 - BitVec.ofNat 32 item, item := item, nl := item, ns := 0, seta := 15, setb := 15, lost := true }

end State

/-- The strand whose item runs. -/
def State.run (s : State) (f : Strand → Host.Outcome State Fault Refusal) : Host.Outcome State Fault Refusal :=
  match s.strand? s.cur with
  | some t => f t
  | none => .fault .noStrand

/-- The item is done: the strand goes on past its n words (R34). -/
def State.finish (s : State) (t : Strand) (n : Nat) : Host.Outcome State Fault Refusal := .next (s.setCur (t.advance n))

/-- The item waits: nothing has happened (R36, R173). -/
def State.hold (s : State) (t : Strand) (w : Wait) : Host.Outcome State Fault Refusal :=
  .next (s.setCur (if t.wait = w then t else { t with wait := w, since := s.time }))

end Sys2Proof.Machine
end

