-- ==== Sys2Proof/Machine/Operands.lean ====
section
/-!
DEFINITION. Every operand form: captured scalars, the B operand, the per-lane frame, rounding mode, budget and FMT checks,
addresses of the global, scratch and window spaces, and the checked accesses of scalar and lane memory items
(spec/05 R141, R142, R155; spec/08 R216 to R228; spec/20 R338, R339).
-/
namespace Sys2Proof.Machine
open Sys2Proof

namespace Strand
variable (t : Strand)

/-- Cap: word k of the scalars captured for this lane item: 0, 1 the register or pair of IMM[8:0]; 4 to 7 SEL's quad
(R35, R324, R326). -/
def cap (f : LaneF) (k : Nat) : Word :=
  match t.capt.getD (t.item - 1) [] with
  | [] => AMap.get t.capS (if k < 4 then f.imm % 512 + k else 4 * f.vc + (k - 4)) 0#32
  | ws => ws.getD k 0#32

/-- A stage predicate suppresses the instruction (R59). -/
def suppressed (f : LaneF) : Bool := f.stg != 0 && !t.stage.getLsbD (f.stg - 1)

def opA (f : LaneF) (l : Nat) : Word := Vec.lane (t.getV (t.rotN f.va)) l
def opC (f : LaneF) (l : Nat) : Word := Vec.lane (t.getV (t.rotN f.vc)) l
/-- The B operand by BSRC (R141, R155). -/
def opB (f : LaneF) (l : Nat) : Word :=
  match f.bsrc with
  | 0 => Vec.lane (t.getV (t.rotN f.vb)) l
  | 1 => t.cap f 0
  | _ => BitVec.ofNat 32 f.imm

/-- The pairs A+1:A, C+1:C, and IADDC's B64 (R199). -/
def pairV (r l : Nat) : DWord := pair (Vec.lane (t.getV (t.rotN r)) l) (Vec.lane (t.getV (t.rotN (r + 1))) l)

/-- Writes val l to each active lane of register r (R50, R63, R155). -/
def writeLanes (r : Nat) (val : Nat → Word) : Strand := t.setV (t.rotN r) t.exec (Vec.ofFn val)

/-! ### FMT (R119, R121) -/
def aFmt : Nat := fld t.fmt.toNat 0 3
def bFmt : Nat := fld t.fmt.toNat 3 3
def rndFmt : Nat := fld t.fmt.toNat 6 2
def ftz : Bool := t.fmt.getLsbD 8
def satf : Bool := t.fmt.getLsbD 9
def srOn : Bool := t.fmt.getLsbD 10
def accFmt : Nat := fld t.fmt.toNat 11 3
def scaleFmt : Nat := fld t.fmt.toNat 14 2
/-- A reserved field or code is set (R119). -/
def fmtBad : Bool :=
  t.aFmt == 7 || t.bFmt == 7 || decide (2 ≤ t.accFmt) || t.scaleFmt == 3 || decide (2 ^ 16 ≤ t.fmt.toNat)
/-- The rounding mode: the override, or FMT.RND (R121). -/
def mode (f : LaneF) : Nat := if f.rnd = 0 then t.rndFmt else f.rnd - 1

/-- The first register name at or beyond the budget (R142). -/
def overBudget (rs : List Nat) : Option Nat := rs.find? (fun r => decide (t.budget ≤ r))

/-- One step of a Galois LFSR (R125). -/
def lfsrStep (x : Word) : Word := if x.getLsbD 0 then (x >>> 1) ^^^ 0x80200003#32 else x >>> 1

/-- The lane LFSRs as srseed leaves them (R126). -/
def lfsrSeed (v : Word) : List Word :=
  (List.range 128).map (fun l => let x := v ^^^ BitVec.ofNat 32 (l * 0x01000193); if x = 0#32 then 1#32 else x)

end Strand

namespace State
variable (s : State)

/-- A lane item inside the frame of R155: suppressed by its stage predicate, or its checks and body. -/
def laneItem (f : LaneF) (body : Strand → Host.Outcome State Fault Refusal) : Host.Outcome State Fault Refusal :=
  s.run (fun t => if t.suppressed f then s.finish t 1 else body t)

/-- The lane instructions that write lanes or scalars alone: FORMAT where the entry reads FMT, REG_BOUND, then the effect
(R119, R142, R196, R327). -/
def laneOp (f : LaneF) (readsFmt : Bool) (regs : List Nat) (eff : Strand → Strand) : Host.Outcome State Fault Refusal :=
  s.laneItem f (fun t =>
    if readsFmt && t.fmtBad then s.raise t { code := 0x17, arg := t.fmt.toNat, lanes := t.exec }
    else match t.overBudget regs with
      | some r => s.raise t { code := 8, arg := r, lanes := t.exec }
      | none => s.finish (eff t) 1)

end State

/-- One access of an item: lane (0 for scalar), address, bytes, and its directions. -/
structure Acc where
  lane : Nat
  va : Nat
  size : Nat
  rd : Bool
  wr : Bool
  deriving DecidableEq, Repr

/-- The place of a fault code in R327. -/
def faultRank (c : Nat) : Nat := ([1, 2, 0x17, 8, 0x15, 0xB, 3, 4, 5, 6, 7, 0xC, 9, 0xA, 0xF, 0xE, 0x14, 0xD, 0x16].findIdx? (· == c)).getD 99

namespace State
variable (s : State)

/-- The byte of a range that a watchpoint watches and an access touches (R305). -/
def watchHit (t : Strand) (a : Acc) : Option Nat :=
  if t.passW then none else
  (List.range 4).findSome? (fun i =>
    let w := (s.csr t.part (0xA180 + 16 * i)).toNat
    let n := 2 ^ fld w 8 5
    let base := s.csr64 t.part (0xA188 + 16 * i) / n * n
    if w.testBit 0 && ((w.testBit 1 && a.rd) || (w.testBit 2 && a.wr)) && (!w.testBit 3 || fld w 4 4 == t.ctx)
        && decide (base < a.va + a.size) && decide (a.va < base + n)
    then some (max base a.va) else none)

/-- A lane of an item acts inside the open transaction: it opened it (R105, R112). -/
def inTx (t : Strand) (l : Nat) : Bool := match t.tx with | some x => x.lanes.getLsbD l | none => false

/-- The fault of one access, its translation, or a wait: an access outside the strand's own transaction waits for another's serial
one (R71, R106, R111, R338). -/
def checkAcc (me : Nat) (t : Strand) (a : Acc) (scalar : Bool) : Except Stop Tlb :=
  if a.va % a.size ≠ 0 then .error (.fault { code := 3, arg := a.va })
  else match s.xlate t.part t.ctx t.core a.va t.priv (if a.wr then .write else .read) with
    | .error e => .error e
    | .ok e => if (scalar || !inTx t a.lane) && s.serialHolds me (physOf e a.va) a.wr then .error .wait else .ok e

/-- The watch stop of an item's accesses, with the lanes that raise it (R305, R327). -/
def watchStop (t : Strand) (accs : List Acc) (scalar : Bool) : Option FaultInfo :=
  (accs.findSome? (s.watchHit t)).map (fun b =>
    { code := 0x12, arg := b, lanes := if scalar then 0#128 else maskOfLanes ((accs.filter (fun a => (s.watchHit t a).isSome)).map (·.lane)) })

/-- Every access of an item is checked before any is performed (R155, R219): watchpoints first (R305), then the fault of
R327, on the page of the lowest faulting lane (R339). -/
def checkAccs (me : Nat) (t : Strand) (accs : List Acc) (scalar : Bool) : Except Stop (List (Acc × Tlb)) :=
  match s.watchStop t accs scalar with
  | some f => .error (.fault f)
  | none =>
    let rs := accs.map (fun a => (a, s.checkAcc me t a scalar))
    let flts := rs.filterMap (fun r => match r.2 with | .error (.fault f) => some (r.1, f) | _ => none)
    match flts with
    | [] =>
      if rs.any (fun r => match r.2 with | .error _ => true | .ok _ => false) then .error .wait
      else .ok (rs.filterMap (fun r => match r.2 with | .ok e => some (r.1, e) | .error _ => none))
    | f0 :: _ =>
      let best := flts.foldl (fun (b : Acc × FaultInfo) x => if faultRank x.2.code < faultRank b.2.code then x else b) f0
      let page := best.1.va / 4096
      let lanes := (flts.filter (fun x => x.2.code == best.2.code && x.1.va / 4096 == page)).map (·.1.lane)
      .error (.fault { best.2 with lanes := if scalar then 0#128 else maskOfLanes lanes })

/-- Where a bound clasp stands: its scratch offset, or its physical address. -/
def claspAt (w : Weave) (b : Bind) : Option Nat :=
  if !b.bolt then some b.addr else
  match s.lookup w.part w.ctx w.home b.addr with | .ok e => some (e.1.base + b.addr % 4096) | .error _ => none

/-- A plain store to a word of a registered clasp is logged (R329, R330): `at` is its physical address, or its scratch offset. -/
def claspStore (t : Strand) (bolt : Bool) (addr size at_ : Nat) : State :=
  let hit := s.weaves.any (fun e => (bolt || e.1 == t.weave) && e.2.binds.any (fun b => b.2.bolt == bolt
    && (s.claspAt e.2 b.2).any (fun c => decide (c < at_ + size) && decide (at_ < c + 32))))
  if hit then s.updPart t.part (fun p => p.logNf 1 t.ctx t.core t.slot (addr / 4 * 4)) else s

/-- The words that n bytes at pa touch, each with whether it reads as poison. -/
def poisonWords (core pa n coh : Nat) : List Bool := (List.range ((n + 3) / 4)).map (fun i => s.readPoison core (pa + 4 * i) coh)

/-- A value with its poisoned words as 0 (R345). -/
def maskPoison (v : Nat) (ps : List Bool) : Nat :=
  ((List.range ps.length).map (fun i => if ps.getD i false then 0 else fld v (32 * i) 32 * 2 ^ (32 * i))).sum

/-- The level of R344 at which a core meets the poison of pa: its L1, the L2 where the line is listed, else memory. -/
def poisonLevel (part core pa coh : Nat) : Nat :=
  if !atHome core coh && (AMap.look (s.core core).l1 (pa / 64)).isSome then 3
  else if (AMap.look s.l2.lines (L2.key part (pa / 256))).isSome then 5 else 6

/-- One global read of a core outside transactions: the state after, the value with poisoned words 0, and whether a word
was poisoned. -/
def loadAcc (me : Nat) (t : Strand) (a : Acc) (e : Tlb) : State × Nat × Bool :=
  let pa := physOf e a.va
  let s := s.touch t.part t.ctx t.core a.va false
  let s := (s.readPrep t.core pa e.coh t.ctx).doom me pa false
  let ps := s.poisonWords t.core pa a.size e.coh
  (s, maskPoison (s.coreRead t.core pa a.size e.coh) ps, ps.any id)

/-- The constant cache no longer serves the words of n bytes at pa to strand me, which has written them (R91). -/
def ccNote (me core pa n : Nat) : State :=
  match AMap.look (s.core core).cc (pa / 16) with
  | none => s
  | some x => if n = 0 || x.no.contains me then s else
      s.setCore core { s.core core with cc := AMap.put (s.core core).cc (pa / 16) { x with no := x.no ++ [me] } }

/-- One global write of a core outside transactions. -/
def storeAcc (me : Nat) (t : Strand) (a : Acc) (e : Tlb) (v : Nat) : State :=
  let pa := physOf e a.va
  let s := s.touch t.part t.ctx t.core a.va true
  (((s.doom me pa true).coreWrite t.core pa e.coh t.ctx (bytesOf v a.size)).ccNote me t.core pa a.size).claspStore t true a.va a.size pa

/-- The word of pa stands at the home alone: an SC page's sector has left the core's L1, a peer's line the home slices, for the peer's
own (R225, R226, R300). -/
def atHomeOnly (t : Strand) (pa : Nat) (e : Tlb) : State :=
  let s := if e.coh % 4 = 1 then s.l1Clean t.core (pa / 64) true else s
  if e.peer then s.sliceEvict t.part pa else s

/-- One read-modify-write of a core, where R225 and R300 perform it: the state, the old value, poison (R345). -/
def rmwAcc (me : Nat) (t : Strand) (a : Acc) (e : Tlb) (opc v w : Nat) : State × Nat × Bool :=
  let pa := physOf e a.va
  let s := s.touch t.part t.ctx t.core a.va true
  let s := s.doom me pa true
  let s := s.atHomeOnly t pa e
  let coh := if e.coh = 2 then 2 else 0
  let s := s.readPrep t.core pa coh t.ctx
  let poisoned := (List.range (a.size / 4)).any (fun i => s.readPoison t.core (pa + 4 * i) coh)
  if poisoned then (s, 0, true)
  else
    let old := s.coreRead t.core pa a.size coh
    (((s.coreWrite t.core pa coh t.ctx (bytesOf (atomOp opc old v w) a.size)).ccNote me t.core pa a.size).claspStore t true a.va a.size pa,
      old, false)

/-- A reduction enters its cluster's combining buffer (R99): HC and SC words, whose sectors have left the cluster's L1s. -/
def redIn (x : LateRed) : State :=
  let c := x.core / 2
  let line := x.pa / 256
  let s := [0, 1, 2, 3].foldl (fun (s : State) i => (s.l1Clean (2 * c) (4 * line + i) true).l1Clean (2 * c + 1) (4 * line + i) true) s
  let cl := s.clu c
  let new : CombLine := { line := line, words := [(x.pa, x.opc, x.val)], ctxs := [(x.pa, x.ctx)] }
  match cl.comb.find? (fun l => l.line == line) with
  | some l =>
    let clash := l.words.any (fun y => (y.2.1 != x.opc || y.1 != x.pa) && decide (y.1 < x.pa + atomSize x.opc) && decide (x.pa < y.1 + atomSize y.2.1))
    if clash then
      let s := s.sendLine c l
      s.setClu c { s.clu c with comb := (s.clu c).comb ++ [new] }
    else
      let v' := match AMap.look l.words x.pa with | some y => atomOp x.opc y.2 x.val 0 | none => x.val
      s.setClu c { cl with comb := cl.comb.map (fun y => if y.line = line then
        { y with words := AMap.put y.words x.pa (x.opc, v'), ctxs := AMap.put y.ctxs x.pa x.ctx } else y) }
  | none =>
    let s := match cl.comb with
      | l :: _ => if 64 ≤ cl.comb.length then s.sendLine c l else s
      | [] => s
    s.setClu c { s.clu c with comb := (s.clu c).comb ++ [new] }

/-- One reduction into the cluster's combining buffer, or where R226 and R300 perform it; on its way to the buffer where the plan has
it late (log 50). -/
def redAcc (me : Nat) (t : Strand) (a : Acc) (e : Tlb) (opc v : Nat) : State :=
  let pa := physOf e a.va
  let s := s.touch t.part t.ctx t.core a.va true
  let s := s.doom me pa true
  if e.coh = 2 ∨ e.peer then
    let s := s.atHomeOnly t pa e
    let coh := if e.coh = 2 then 2 else 0
    let s := s.readPrep t.core pa coh t.ctx
    if (s.poisonWords t.core pa a.size coh).any id then s
    else (s.coreWrite t.core pa coh t.ctx (bytesOf (atomOp opc (s.coreRead t.core pa a.size coh) v 0) a.size)).ccNote me t.core pa a.size
  else
    let s := s.ccNote me t.core pa a.size
    let x : LateRed := { me := me, core := t.core, part := t.part, ctx := t.ctx, pa := pa, opc := opc, val := v }
    if s.late then { s with reds := s.reds ++ [x] } else s.redIn x

/-! ### Addresses (R217) -/

/-- The global address of lane l. -/
def gAddr (t : Strand) (f : LaneF) (l : Nat) : Nat :=
  if f.bsrc = 0 then (t.pairV f.va l + sextD f.imm 32).toNat
  else (pair (t.cap f 0) (t.cap f 1) + (t.opA f l).setWidth 64 + sextD (f.imm / 512) 23).toNat

/-- The scratch or window offset of lane l. -/
def lAddr (t : Strand) (f : LaneF) (l : Nat) : Nat :=
  if f.bsrc = 0 then (t.opA f l + BitVec.ofNat 32 f.imm).toNat
  else (t.cap f 0 + t.opA f l + sextW (f.imm / 512) 23).toNat

/-- Registers that the address names (R217, R142). -/
def gRegs (f : LaneF) : List Nat := if f.bsrc = 0 then [f.va, f.va + 1] else [f.va]

/-! ### Scratch and stash (R76, R79, R345) -/

/-- The stash mapping of a scratch offset, held by the home core of the weave. -/
def stashOf (w : Weave) (wk off : Nat) : Option Stash :=
  (s.core w.home).stash.find? (fun m => m.weave == wk && m.off == off / 4096 * 4096)

/-- An access to a stash line waits while filling it would meet a serial transaction of another strand (R111). -/
def stashWaits (me wk off : Nat) : Bool :=
  match s.weave? wk with
  | none => false
  | some w =>
    match s.stashOf w wk off with
    | none => false
    | some m => !m.filled.getLsbD (off / 256 % 16) && s.serialMeets me (m.page + off / 256 % 16 * 256) 256 false

/-- An access of agent me to a stash line fills it first (R79); to other strands' transactions the fill is a read (R107). -/
def stashFill (me wk off : Nat) : State :=
  match s.weave? wk with
  | none => s
  | some w =>
    match s.stashOf w wk off with
    | none => s
    | some m =>
      let line := off / 256 % 16
      if m.filled.getLsbD line then s
      else
        let s := (List.range 4).foldl (fun s i =>
          (s.doom me (m.page + 256 * line + 64 * i) false).readPrep w.home (m.page + 256 * line + 64 * i) m.coh w.ctx) s
        let base := off / 256 * 256
        let bs := (List.range 256).map (fun i => byteAt (s.coreRead w.home (m.page + 256 * line + i) 1 m.coh) 0)
        let pz := ((List.range 64).filter (fun i => s.readPoison w.home (m.page + 256 * line + 4 * i) m.coh)).map (fun i => base / 4 + i)
        let s := s.updWeave wk (fun w => { w with
          scr := (List.range 256).foldl (fun a i => AMap.set a (base + i) (bs.getD i 0#8) 0#8) w.scr,
          scrPoison := w.scrPoison.filter (fun x => x / 64 != base / 256) ++ pz })
        let c := s.core w.home
        s.setCore w.home { c with stash := c.stash.map (fun x => if x.weave = wk ∧ x.off = m.off then
          { x with filled := x.filled ||| (1#16 <<< line), ever := x.ever ||| (1#16 <<< line) } else x) }

/-- The dirty line of a core that was written least recently (R80). -/
def stashOldest (c : Cor) : Option (Stash × Nat × BitVec 64) :=
  c.lru.findSome? (fun k => (c.stash.find? (fun x => x.weave == k.1 && x.off == k.2.1)).bind (fun x =>
    (x.dirty.find? (fun d => d.1 == k.2.2)).map (fun d => (x, d))))

/-- A line's write-back: its dirty words go home, its mask is clear (R80). -/
def stashEvict (me core : Nat) (x : Stash) (line : Nat) (mask : BitVec 64) : State :=
  let s := s.stashLineHome me core x line mask
  let c := s.core core
  s.setCore core { c with stash := c.stash.map (fun y => if y.weave = x.weave ∧ y.off = x.off then
    { y with dirty := y.dirty.filter (fun d => d.1 != line) } else y) }

/-- A write to a stash line marks its words dirty; at 64 dirty lines the least recently written goes back (R80). -/
def stashDirty (me wk off n : Nat) : State :=
  match s.weave? wk with
  | none => s
  | some w =>
    match s.stashOf w wk off with
    | none => s
    | some m =>
      let line := off / 256 % 16
      let bits : BitVec 64 := BitVec.ofNat 64 (((List.range ((off % 4 + n + 3) / 4)).map (fun i => 2 ^ (off / 4 % 64 + i))).sum)
      let old := match m.dirty.find? (fun d => d.1 == line) with | some d => d.2 | none => 0#64
      let c := s.core w.home
      let s := s.setCore w.home { c with
        stash := c.stash.map (fun x => if x.weave = wk ∧ x.off = m.off then
          { x with dirty := x.dirty.filter (fun d => d.1 != line) ++ [(line, old ||| bits)] } else x),
        lru := c.lru.filter (fun k => k != (wk, m.off, line)) ++ [(wk, m.off, line)] }
      if 64 ≤ ((s.core w.home).stash.map (fun x => x.dirty.length)).sum then
        match stashOldest (s.core w.home) with
        | some x => s.stashEvict me w.home x.1 x.2.1 x.2.2
        | none => s
      else s

/-- Bytes of a weave's scratch region. -/
def scrRead (wk off n : Nat) : Nat :=
  match s.weave? wk with
  | some w => natOf ((List.range n).map (fun i => AMap.get w.scr (off + i) 0#8))
  | none => 0
def scrPoisoned (wk off n : Nat) : Bool :=
  match s.weave? wk with
  | some w => (List.range ((off % 4 + n + 3) / 4)).any (fun i => w.scrPoison.contains (off / 4 + i))
  | none => false
/-- A scratch write of agent me, with the stash's part (R76, R79). -/
def scrWrite (me wk off : Nat) (bs : List Byte) : State :=
  let s := s.stashFill me wk off
  let s := s.updWeave wk (fun w => { w with
    scr := (List.range bs.length).foldl (fun a i => AMap.set a (off + i) (bs.getD i 0#8) 0#8) w.scr,
    scrPoison := w.scrPoison.filter (fun x => !(wholeWords off bs.length).contains x) })
  s.stashDirty me wk off bs.length

def scrLen (wk : Nat) : Nat := match s.weave? wk with | some w => w.scrLen | none => 0

/-! ### The register window (R77, R223) -/

/-- The strand and register a window offset names, or its fault. -/
def winTarget (t : Strand) (o : Nat) : Except FaultInfo (Nat × Nat × Nat) :=
  let slot := fld o 17 7
  let core := if o.testBit 24 then t.core ^^^ 1 else t.core
  if 2 ^ 25 ≤ o then .error { code := 5, sub := 3, arg := o }
  else match s.strands.find? (fun e => decide (e.1 < ccBase) && e.2.core == core && e.2.slot == slot && e.2.weave == t.weave) with
    | none => .error { code := 5, sub := 3, arg := o }
    | some (k, x) => if x.budget ≤ fld o 9 8 then .error { code := 8, sub := 1, arg := o } else .ok (k, fld o 9 8, fld o 2 7)

end State
end Sys2Proof.Machine
end

