-- ==== Sys2Proof/Machine/Flags.lean ====
section
/-!
DEFINITION. Comparisons and saturations.  The part keeps no arithmetic flags (spec/06 R157, spec/07 R199): what other
hardware holds in flags are here the results of compares and the clamps of SAT.
-/
namespace Sys2Proof.Machine
open Sys2Proof

/-- 1 or 0 as a word. -/
def boolW (b : Bool) : Word := if b then 1#32 else 0#32

def ltS (a b : Word) : Bool := decide (a.toInt < b.toInt)
def ltU (a b : Word) : Bool := decide (a.toNat < b.toNat)

/-- ICMP's condition (R200): 0 EQ, 1 NE, 2 LT, 3 LE, 4 GT, 5 GE. -/
def icmpCond (cond : Nat) (u : Bool) (a b : Word) : Bool :=
  let lt := fun x y => if u then ltU x y else ltS x y
  match cond with
  | 0 => a == b | 1 => a != b | 2 => lt a b | 3 => !lt b a | 4 => lt b a | _ => !lt a b

/-- FCMP's condition (R203): 0 EQ, 1 NE, 2 LT, 3 LE, 4 GT, 5 GE, 6 ORD, 7 UNO. -/
def fcmpCond (cond : Nat) (a b : FVal) : Bool :=
  let un := a.isNan || b.isNan
  let lt := FVal.lt false
  match cond with
  | 0 => !un && !lt a b && !lt b a
  | 1 => un || lt a b || lt b a
  | 2 => lt a b
  | 3 => !un && !lt b a
  | 4 => lt b a
  | 5 => !un && !lt a b
  | 6 => !un
  | _ => un

/-- The clamp of SAT to the signed or unsigned 32-bit range (R199). -/
def clampW (u : Bool) (r : Int) : Word :=
  let lo : Int := if u then 0 else -(2 ^ 31)
  let hi : Int := if u then 2 ^ 32 - 1 else 2 ^ 31 - 1
  BitVec.ofInt 32 (if r < lo then lo else if hi < r then hi else r)

/-- A word as an exact integer, signed or unsigned. -/
def intOf (u : Bool) (w : Word) : Int := if u then w.toNat else w.toInt

end Sys2Proof.Machine
end

