-- ==== Sys2Proof/Machine/Scalar.lean ====
section
/-!
DEFINITION. The scalar arithmetic and bit words (spec/06 R157 to R160).
-/
namespace Sys2Proof.Machine
open Sys2Proof

/-- S[d] := v of the strand, and the next item. -/
def setReg (d : Nat) (v : Strand → Word) (s : State) : Host.Outcome State Fault Refusal :=
  s.run (fun t => s.finish (t.setS d (v t)) 1)

/-- The signed and unsigned high words of a product (R157). -/
def mulHi (u : Bool) (a b : Word) : Word := BitVec.ofInt 32 ((intOf u a * intOf u b) / 2 ^ 32)

/-- The w-bit field of x at p, bits above 31 read as 0 (R160). -/
def bfeW (x : Word) (p w : Nat) (signed : Bool) : Word :=
  let f := fld x.toNat p w
  if signed then sextW f (min w (32 - p)) else BitVec.ofNat 32 f

/-- Field insert (R160): the low w bits of v at p of d. -/
def bfiW (d v : Word) (p w : Nat) : Word :=
  let m : Word := BitVec.ofNat 32 ((2 ^ w - 1) * 2 ^ p)
  (d &&& ~~~ m) ||| ((v <<< p) &&& m)

/-- ADD's result (R157). -/
def addW (a b : Word) : Word := a + b

/-- ADD (R157). -/
def execAdd (d a b : Nat) (s : State) : Host.Outcome State Fault Refusal :=
  setReg d (fun t => addW (t.getS a) (t.getS b)) s

/-- SUB's result (R157). -/
def subW (a b : Word) : Word := a - b

/-- SUB (R157). -/
def execSub (d a b : Nat) (s : State) : Host.Outcome State Fault Refusal :=
  setReg d (fun t => subW (t.getS a) (t.getS b)) s

/-- MUL's result (R157). -/
def mulW (a b : Word) : Word := a * b

/-- MUL (R157). -/
def execMul (d a b : Nat) (s : State) : Host.Outcome State Fault Refusal :=
  setReg d (fun t => mulW (t.getS a) (t.getS b)) s

/-- MULH's result (R157). -/
def mulhW (a b : Word) : Word := mulHi false a b

/-- MULH (R157). -/
def execMulh (d a b : Nat) (s : State) : Host.Outcome State Fault Refusal :=
  setReg d (fun t => mulhW (t.getS a) (t.getS b)) s

/-- MULHU's result (R157). -/
def mulhuW (a b : Word) : Word := mulHi true a b

/-- MULHU (R157). -/
def execMulhu (d a b : Nat) (s : State) : Host.Outcome State Fault Refusal :=
  setReg d (fun t => mulhuW (t.getS a) (t.getS b)) s

/-- AND's result (R157). -/
def andW (a b : Word) : Word := a &&& b

/-- AND (R157). -/
def execAnd (d a b : Nat) (s : State) : Host.Outcome State Fault Refusal :=
  setReg d (fun t => andW (t.getS a) (t.getS b)) s

/-- OR's result (R157). -/
def orW (a b : Word) : Word := a ||| b

/-- OR (R157). -/
def execOr (d a b : Nat) (s : State) : Host.Outcome State Fault Refusal :=
  setReg d (fun t => orW (t.getS a) (t.getS b)) s

/-- XOR's result (R157). -/
def xorW (a b : Word) : Word := a ^^^ b

/-- XOR (R157). -/
def execXor (d a b : Nat) (s : State) : Host.Outcome State Fault Refusal :=
  setReg d (fun t => xorW (t.getS a) (t.getS b)) s

/-- ANDN's result (R157). -/
def andnW (a b : Word) : Word := a &&& ~~~ b

/-- ANDN (R157). -/
def execAndn (d a b : Nat) (s : State) : Host.Outcome State Fault Refusal :=
  setReg d (fun t => andnW (t.getS a) (t.getS b)) s

/-- SHL's result (R157). -/
def shlW (a b : Word) : Word := a <<< (b.toNat % 32)

/-- SHL (R157). -/
def execShl (d a b : Nat) (s : State) : Host.Outcome State Fault Refusal :=
  setReg d (fun t => shlW (t.getS a) (t.getS b)) s

/-- SHR's result (R157). -/
def shrW (a b : Word) : Word := a >>> (b.toNat % 32)

/-- SHR (R157). -/
def execShr (d a b : Nat) (s : State) : Host.Outcome State Fault Refusal :=
  setReg d (fun t => shrW (t.getS a) (t.getS b)) s

/-- SAR's result (R157). -/
def sarW (a b : Word) : Word := a.sshiftRight (b.toNat % 32)

/-- SAR (R157). -/
def execSar (d a b : Nat) (s : State) : Host.Outcome State Fault Refusal :=
  setReg d (fun t => sarW (t.getS a) (t.getS b)) s

/-- MIN's result (R157). -/
def minW (a b : Word) : Word := if ltS b a then b else a

/-- MIN (R157). -/
def execMin (d a b : Nat) (s : State) : Host.Outcome State Fault Refusal :=
  setReg d (fun t => minW (t.getS a) (t.getS b)) s

/-- MAX's result (R157). -/
def maxW (a b : Word) : Word := if ltS a b then b else a

/-- MAX (R157). -/
def execMax (d a b : Nat) (s : State) : Host.Outcome State Fault Refusal :=
  setReg d (fun t => maxW (t.getS a) (t.getS b)) s

/-- MINU's result (R157). -/
def minuW (a b : Word) : Word := if ltU b a then b else a

/-- MINU (R157). -/
def execMinu (d a b : Nat) (s : State) : Host.Outcome State Fault Refusal :=
  setReg d (fun t => minuW (t.getS a) (t.getS b)) s

/-- MAXU's result (R157). -/
def maxuW (a b : Word) : Word := if ltU a b then b else a

/-- MAXU (R157). -/
def execMaxu (d a b : Nat) (s : State) : Host.Outcome State Fault Refusal :=
  setReg d (fun t => maxuW (t.getS a) (t.getS b)) s

/-- SEQ's result (R157). -/
def seqW (a b : Word) : Word := boolW (a == b)

/-- SEQ (R157). -/
def execSeq (d a b : Nat) (s : State) : Host.Outcome State Fault Refusal :=
  setReg d (fun t => seqW (t.getS a) (t.getS b)) s

/-- SNE's result (R157). -/
def sneW (a b : Word) : Word := boolW (a != b)

/-- SNE (R157). -/
def execSne (d a b : Nat) (s : State) : Host.Outcome State Fault Refusal :=
  setReg d (fun t => sneW (t.getS a) (t.getS b)) s

/-- SLT's result (R157). -/
def sltW (a b : Word) : Word := boolW (ltS a b)

/-- SLT (R157). -/
def execSlt (d a b : Nat) (s : State) : Host.Outcome State Fault Refusal :=
  setReg d (fun t => sltW (t.getS a) (t.getS b)) s

/-- SLTU's result (R157). -/
def sltuW (a b : Word) : Word := boolW (ltU a b)

/-- SLTU (R157). -/
def execSltu (d a b : Nat) (s : State) : Host.Outcome State Fault Refusal :=
  setReg d (fun t => sltuW (t.getS a) (t.getS b)) s

/-- ADDI (R158). -/
def execAddi (d a imm : Nat) (s : State) : Host.Outcome State Fault Refusal :=
  setReg d (fun t => addW (t.getS a) (sextW imm 8)) s

/-- ANDI (R158). -/
def execAndi (d a imm : Nat) (s : State) : Host.Outcome State Fault Refusal :=
  setReg d (fun t => andW (t.getS a) (BitVec.ofNat 32 imm)) s

/-- ORI (R158). -/
def execOri (d a imm : Nat) (s : State) : Host.Outcome State Fault Refusal :=
  setReg d (fun t => orW (t.getS a) (BitVec.ofNat 32 imm)) s

/-- XORI (R158). -/
def execXori (d a imm : Nat) (s : State) : Host.Outcome State Fault Refusal :=
  setReg d (fun t => xorW (t.getS a) (BitVec.ofNat 32 imm)) s

/-- SHLI (R158). -/
def execShli (d a imm : Nat) (s : State) : Host.Outcome State Fault Refusal :=
  setReg d (fun t => shlW (t.getS a) (BitVec.ofNat 32 imm)) s

/-- SHRI (R158). -/
def execShri (d a imm : Nat) (s : State) : Host.Outcome State Fault Refusal :=
  setReg d (fun t => shrW (t.getS a) (BitVec.ofNat 32 imm)) s

/-- SARI (R158). -/
def execSari (d a imm : Nat) (s : State) : Host.Outcome State Fault Refusal :=
  setReg d (fun t => sarW (t.getS a) (BitVec.ofNat 32 imm)) s

/-- SLTI (R158). -/
def execSlti (d a imm : Nat) (s : State) : Host.Outcome State Fault Refusal :=
  setReg d (fun t => sltW (t.getS a) (sextW imm 8)) s

/-- MOVI (R159). -/
def execMovi (d imm : Nat) (s : State) : Host.Outcome State Fault Refusal := setReg d (fun _ => sextW imm 17) s

/-- MOVHI (R159): bits [31:15] from imm17, bits [14:0] kept. -/
def execMovhi (d imm : Nat) (s : State) : Host.Outcome State Fault Refusal :=
  setReg d (fun t => BitVec.ofNat 32 (imm * 2 ^ 15) ||| (t.getS d &&& 0x7FFF#32)) s

/-- POPC (R160). -/
def execPopc (d a : Nat) (s : State) : Host.Outcome State Fault Refusal := setReg d (fun t => pop32 (t.getS a)) s

/-- CLZ (R160). -/
def execClz (d a : Nat) (s : State) : Host.Outcome State Fault Refusal := setReg d (fun t => clz32 (t.getS a)) s

/-- CTZ (R160). -/
def execCtz (d a : Nat) (s : State) : Host.Outcome State Fault Refusal := setReg d (fun t => ctz32 (t.getS a)) s

/-- BREV (R160). -/
def execBrev (d a : Nat) (s : State) : Host.Outcome State Fault Refusal := setReg d (fun t => brev32 (t.getS a)) s

/-- MOV (R160). -/
def execMov (d a : Nat) (s : State) : Host.Outcome State Fault Refusal := setReg d (fun t => t.getS a) s

/-- NOT (R160). -/
def execNot (d a : Nat) (s : State) : Host.Outcome State Fault Refusal := setReg d (fun t => ~~~ t.getS a) s

/-- SEXT8 (R160). -/
def execSext8 (d a : Nat) (s : State) : Host.Outcome State Fault Refusal := setReg d (fun t => sextW (t.getS a).toNat 8) s

/-- SEXT16 (R160). -/
def execSext16 (d a : Nat) (s : State) : Host.Outcome State Fault Refusal := setReg d (fun t => sextW (t.getS a).toNat 16) s

/-- BFE (R160): in place, control [4:0] position, [9:5] width - 1, [10] signed. -/
def execBfe (d ctl : Nat) (s : State) : Host.Outcome State Fault Refusal :=
  setReg d (fun t => bfeW (t.getS d) (fld ctl 0 5) (fld ctl 5 5 + 1) (ctl.testBit 10)) s

/-- BFI (R160): S[a] inserted under the control of S[a+1]. -/
def execBfi (d a : Nat) (s : State) : Host.Outcome State Fault Refusal :=
  setReg d (fun t =>
    let c := (t.getS (a + 1)).toNat
    bfiW (t.getS d) (t.getS a) (fld c 0 5) (fld c 5 5 + 1)) s

end Sys2Proof.Machine
end

