-- ==== Sys2Proof/Machine/ScalarMem.lean ====
section
/-!
DEFINITION. Scalar memory words and the completion of operations on the paths (spec/06 R161, R162, spec/02 R36, R37,
spec/03 R83, spec/20 R341).
-/
namespace Sys2Proof.Machine
open Sys2Proof

/-- Pair(p) + 4 off8 (R161). -/
def smAddr (t : Strand) (p off : Nat) : Nat := (t.getPair (2 * p) + BitVec.ofNat 64 (4 * off)).toNat

/-- A stop of an access: the fault taken, or the item waits. -/
def State.stopped (s : State) (t : Strand) : Stop → Host.Outcome State Fault Refusal
  | .fault f => s.raise t f
  | .wait => s.hold t .path

/-- A counter at 1023: the issue waits (R173). -/
def pathFull (t : Strand) (p : Path) : Bool := decide (1023 ≤ t.count p)

/-- Requests that the strands of a core have outstanding (R81). -/
def State.coreReqs (s : State) (core : Nat) : Nat :=
  ((s.strands.filter (fun e => e.2.core == core)).map (fun e => (e.2.ops.map (·.reqs)).sum)).sum

/-- The requests of an item: one for each 256-byte line (R219). -/
def reqLines (accs : List (Acc × Tlb)) : Nat := (accs.map (fun a => a.1.va / 256)).eraseDups.length

/-- The units of memory that an item's accesses meet (R268). -/
def State.unitsOfAll (s : State) (t : Strand) (accs : List (Acc × Tlb)) : List Nat :=
  (accs.flatMap (fun a => s.unitsOf t.part (State.physOf a.2 a.1.va) a.1.rd)).eraseDups

/-- An item's accesses wait for memory: for the next interval's bytes (R277), or for an arbiter (R268). -/
def State.memWaits (s : State) (t : Strand) (accs : List (Acc × Tlb)) : Bool :=
  (s.chanSpent t.part t.ctx && accs.any (fun a => s.needsChan t.part (State.physOf a.2 a.1.va) a.1.rd))
    || s.outbid t.part t.ctx (s.unitsOfAll t accs)

/-- An item waits for anything but memory: its path counter is at 1023 (R173), the core's 1024 requests would not suffice (R81), or the
release at scope sc or the acquire at scope ac that it is waits (R111). -/
def State.pathWaits (s : State) (t : Strand) (p : Path) (accs : List (Acc × Tlb)) (sc ac : Nat) : Bool :=
  pathFull t p || decide (1024 < s.coreReqs t.core + reqLines accs) || s.releaseWaits s.cur t sc || s.acquireWaits s.cur t ac

/-- An item waits (R81, R111, R173, R268, R277). -/
def State.mustWait (s : State) (t : Strand) (p : Path) (accs : List (Acc × Tlb)) (sc ac : Nat) : Bool :=
  s.pathWaits t p accs sc ac || s.memWaits t accs

/-- What an item that waits is held at. -/
def State.waitKind (s : State) (t : Strand) (p : Path) (accs : List (Acc × Tlb)) (sc ac : Nat) : Wait :=
  if s.pathWaits t p accs sc ac then .path else .mem (s.unitsOfAll t accs)

/-- The strand holds its next header until the ld, sc and at operations issued so far are complete: an acquire (R94, R97). -/
def Strand.acquired (t : Strand) (b : Bool) : Strand := if b then { t with acq := t.nextOp } else t

/-- The error a returning access holds for a poisoned word (R338, R345, R365). -/
def poisonErr (s : State) (addr pa : Nat) (lanes : Mask) : FaultInfo :=
  { code := 0x15, sub := if isSys pa && !s.linkUp then 7 else 2, arg := addr, lanes := lanes }

/-- The word at which poisoned accesses are logged, the first of the lowest lane's, and its level (R348). -/
def State.poisonSpot (s : State) (t : Strand) (rs : List (Acc × Tlb)) : Nat × Nat :=
  let ws := rs.flatMap (fun a => (List.range ((a.1.size + 3) / 4)).map (fun i => (State.physOf a.2 a.1.va / 4 * 4 + 4 * i, a.2.coh)))
  match ws.find? (fun w => s.readPoison t.core w.1 w.2) with
  | some w => (w.1, s.poisonLevel t.part t.core w.1 w.2)
  | none => (0, 6)

/-- The accesses of an item that lie in system space, by lane and address (R365). -/
def sysAccs (rs : List (Acc × Tlb)) : List (Nat × Nat) :=
  rs.filterMap (fun a => if isSys (State.physOf a.2 a.1.va) then some (a.1.lane, a.1.va) else none)

/-- The 16 bytes of pa enter the core's scalar constant cache of 64 KiB from the L1, unless a word of them is poisoned (R83, R345,
log 52). -/
def State.ccFill (s : State) (core pa coh : Nat) : State :=
  let c := s.core core
  let u := pa / 16
  if (s.poisonWords core (16 * u) 16 coh).any id then s.setCore core { c with cc := AMap.del c.cc u } else
  let x : CcLine := { words := (List.range 4).map (fun i => BitVec.ofNat 32 (s.coreRead core (16 * u + 4 * i) 4 coh)), no := [] }
  let cc := if (AMap.look c.cc u).isSome || decide (c.cc.length < 4096) then c.cc else c.cc.eraseIdx (Config.victim c.cc.length s.time % c.cc.length)
  s.setCore core { c with cc := AMap.put cc u x }

/-- n words at pa read by strand me through the scalar constant cache (R83): its copy, whole, where it has one that the strand has
not written since (R91); else the L1's value, v, which it then keeps. The command core has none (log 45). -/
def State.ccRead (s : State) (me : Nat) (t : Strand) (pa n coh v : Nat) : List Word × State :=
  let fresh := (List.range n).map (fun i => BitVec.ofNat 32 (v / 2 ^ (32 * i)))
  if 256 ≤ t.core then (fresh, s) else
  match AMap.look (s.core t.core).cc (pa / 16) with
  | some x => if x.no.contains me then (fresh, s.ccFill t.core pa coh) else ((List.range n).map (fun i => x.words.getD (pa / 4 % 4 + i) 0#32), s)
  | none => (fresh, s.ccFill t.core pa coh)

/-- LDS, LDS2, LDS4: n words to S[d..] on the ld path (R161). -/
def ldsGo (n d p fs off : Nat) (s : State) : Host.Outcome State Fault Refusal :=
  s.run (fun t =>
    let a : Acc := { lane := 0, va := smAddr t p off, size := 4 * n, rd := true, wr := false }
    match s.checkAccs s.cur t [a] true with
    | .error e => s.stopped t e
    | .ok rs =>
      match rs with
      | (a, e) :: _ =>
        if s.mustWait t .ld [(a, e)] 0 0 then s.hold t (s.waitKind t .ld [(a, e)] 0 0) else
        let (s1, v, pz) := s.loadAcc s.cur t a e
        let (ws, s2) := s1.ccRead s.cur t (State.physOf e a.va) n e.coh v
        let lands := (List.range n).map (fun i => { dst := .s (d + i), val := if pz then BitVec.ofNat 32 (fld v (32 * i) 32) else ws.getD i 0#32, done := false : Land })
        let err := if pz then some (poisonErr s a.va (State.physOf e a.va) 0#128) else none
        s2.finish (t.issueOp { id := 0, path := .ld, flag := t.flagOf fs, lands := lands, err := err, sys := sysAccs [(a, e)], reqs := 1, pois := if pz then some (s1.poisonSpot t [(a, e)]) else none }) 1
      | [] => s.finish t 1)

/-- STS, STS2: n words from S[d..] on the st path (R161). -/
def stsGo (n d p fs off : Nat) (s : State) : Host.Outcome State Fault Refusal :=
  s.run (fun t =>
    let a : Acc := { lane := 0, va := smAddr t p off, size := 4 * n, rd := false, wr := true }
    match s.checkAccs s.cur t [a] true with
    | .error e => s.stopped t e
    | .ok rs =>
      match rs with
      | (a, e) :: _ =>
        if s.mustWait t .st [(a, e)] 0 0 then s.hold t (s.waitKind t .st [(a, e)] 0 0) else
        let v := if n = 1 then (t.getS d).toNat else (t.getPair d).toNat
        (s.storeAcc s.cur t a e v).finish ((t.issueOp { id := 0, path := .st, flag := t.flagOf fs, reqs := 1 }).noteWrite) 1
      | [] => s.finish t 1)

/-- LDS (R161). -/
def execLds (d p fs off : Nat) (s : State) : Host.Outcome State Fault Refusal := ldsGo 1 d p fs off s
/-- LDS2 (R161). -/
def execLds2 (d p fs off : Nat) (s : State) : Host.Outcome State Fault Refusal := ldsGo 2 d p fs off s
/-- LDS4 (R161). -/
def execLds4 (d p fs off : Nat) (s : State) : Host.Outcome State Fault Refusal := ldsGo 4 d p fs off s
/-- STS (R161). -/
def execSts (d p fs off : Nat) (s : State) : Host.Outcome State Fault Refusal := stsGo 1 d p fs off s
/-- STS2 (R161). -/
def execSts2 (d p fs off : Nat) (s : State) : Host.Outcome State Fault Refusal := stsGo 2 d p fs off s

/-- The operation of R224 that an OPC of ATOMS names (R162). -/
def atomsOpc (opc : Nat) : Nat := match opc with | 0 => 0 | 1 => 1 | 2 => 2 | 3 => 3 | 4 => 4 | 5 => 8 | _ => 9

/-- ATOMS (R162): one read-modify-write, the old value to S[d] on the at path; release before, acquire after. -/
def execAtoms (d p fs opc ord scope : Nat) (s : State) : Host.Outcome State Fault Refusal :=
  s.run (fun t =>
    let a : Acc := { lane := 0, va := smAddr t p 0, size := 4, rd := true, wr := true }
    match s.checkAccs s.cur t [a] true with
    | .error e => s.stopped t e
    | .ok rs =>
      match rs with
      | (a, e) :: _ =>
        let sc := if 2 ≤ ord then scope else 0
        let ac := if ord % 2 = 1 then scope else 0
        if s.mustWait t .atm [(a, e)] sc ac then s.hold t (s.waitKind t .atm [(a, e)] sc ac) else
        let s1 := if 2 ≤ ord then s.releaseAt s.cur t scope else s
        let (s2, old, pz) := s1.rmwAcc s.cur t a e (atomsOpc opc) (t.getS d).toNat (t.getS (d + 1)).toNat
        let s3 := if ord % 2 = 1 then s2.acquireAt s.cur t scope else s2
        let err := if pz then some (poisonErr s a.va (State.physOf e a.va) 0#128) else none
        let o : Op := { id := 0, path := .atm, flag := t.flagOf fs, err := err, sys := sysAccs [(a, e)], reqs := 1, pois := if pz then some (s2.poisonSpot t [(a, e)]) else none,
                        lands := [{ dst := .s d, val := BitVec.ofNat 32 old, done := false }] }
        s3.finish (((t.issueOp o).noteWrite).acquired (ord % 2 == 1)) 1
      | [] => s.finish t 1)

/-! ### Completion (R36, R37, R152) -/

/-- A path by its code (R143). -/
def pathOf (c : Nat) : Path := match c with | 0 => .ld | 1 => .st | 2 => .sc | 3 => .sh | 4 => .mx | _ => .atm

/-- One element lands: a write of the strand's returning load or atomic (R54, R152). -/
def Strand.land1 (t : Strand) (x : Land) : Strand :=
  if x.done then t else
  match x.dst with
  | .s r => t.setS r x.val
  | .v r l => t.setV1 r l x.val

/-- Several elements land; lanes of one register together. -/
def Strand.landAll (t : Strand) (xs : List Land) : Strand := xs.foldl (fun t x => t.land1 x) t

/-- Element e of operation id lands early (R152). -/
def Strand.landEarly (t : Strand) (id e : Nat) : Strand :=
  match t.ops.find? (fun o => o.id == id) with
  | none => t
  | some o =>
    match o.lands[e]? with
    | none => t
    | some x =>
      { t.land1 x with ops := t.ops.map (fun y => if y.id = id then { y with lands := y.lands.set e { x with done := true } } else y) }

/-- An operation completes: its elements land, its path counter falls, its error is held (R37, R341). -/
def Strand.complete (t : Strand) (o : Op) : Strand :=
  let t := t.landAll o.lands
  let t := { t with ops := t.ops.filter (fun x => x.id != o.id) }
  match o.err with
  | none => t
  | some f =>
    let h : Held := { op := o.id, path := o.path, flag := o.flag, info := f, spc := o.spc, item := o.item, due := false, txab := false,
                       later := (t.ops.filter (fun x => x.path == o.path)).length }
    match t.tx with
    | some x =>
      if o.tx then { t with tx := some { x with doom := x.doom ||| (f.lanes &&& x.lanes), poisoned := true }, held := t.held ++ [{ h with txab := true }] }
      else { t with held := t.held ++ [h] }
    | none => { t with held := t.held ++ [h] }

/-- The oldest operation of strand k on a path (operations on one path return in issue order). -/
def State.oldest (s : State) (k : Nat) (p : Path) : Option (Strand × Op) :=
  match s.strand? k with
  | none => none
  | some t => (match t.ops.find? (fun o => o.path == p) with | some o => some (t, o) | none => none)

/-- A poisoned return is logged (R348 kind 3): the word's physical address, or its scratch offset, and where it stood. -/
def State.logPoison (s : State) (t : Strand) (o : Op) : State :=
  match o.err, o.pois with
  | some _, some w => s.updPart t.part (fun p => p.logMe 3 t.ctx (if 5 ≤ w.2 then 0 else t.core) t.slot w.2 w.1)
  | _, _ => s

/-- The oldest operation of a path completes, and a trap that waited for it may be entered (R37, R323). -/
def State.completeOp (s : State) (k : Nat) (p : Path) : State :=
  match s.oldest k p with
  | none => s
  | some (t, o) => ((s.logPoison t o).setStrand k (t.complete o)).tryEnter k

/-- RETURNING_ACCESS_COMPLETE (R37, R152): the oldest ld, sc or at operation of strand k. -/
def execRetComplete (k path : Nat) (s : State) : Host.Outcome State Fault Refusal :=
  .next (match pathOf path with | .ld => s.completeOp k .ld | .sc => s.completeOp k .sc | .atm => s.completeOp k .atm | _ => s)

/-- SOURCING_ACCESS_COMPLETE (R37): the oldest st or sc operation of strand k, or a prefetch on ld (R227). -/
def execSrcComplete (k path : Nat) (s : State) : Host.Outcome State Fault Refusal :=
  .next (match pathOf path with | .st => s.completeOp k .st | .sc => s.completeOp k .sc | .ld => s.completeOp k .ld | _ => s)

end Sys2Proof.Machine
end

