-- ==== Sys2Proof/Machine/Control.lean ====
section
/-!
DEFINITION. Clause headers, branches, calls, masks and loops (spec/05 R136, spec/06 R163 to R172, spec/02 R50 to R64).
-/
namespace Sys2Proof.Machine
open Sys2Proof

/-- An acquire holds the next header: an ld, sc or at operation issued before it is in flight (R94, R97). -/
def acqBusy (t : Strand) : Bool := t.ops.any (fun o => decide (o.id < t.acq) && (o.path == .ld || o.path == .sc || o.path == .atm))

/-- A header issues when every flag of its wait mask is clear and no acquire holds it; it captures the scalars and opens its
clause (R34 to R36, R97); which of the scalars are uncorrectable is captured with them (R346). -/
def execClauseHeader (wm sa sb nl ns : Nat) (s : State) : Host.Outcome State Fault Refusal :=
  s.run (fun t =>
    if (List.range 12).any (fun i => wm.testBit i && t.busy i) then s.hold t .flag
    else if acqBusy t then s.hold t .path
    else s.finish { t with capS := t.s, capBad := t.bad.filter (fun b => decide (b < 512)), capt := [], nl := nl, ns := ns, seta := sa, setb := sb,
                           claims := t.claims.filter (fun c => c != sa && c != sb) } 1)

/-- A continuation address that ALIGN refuses: not a multiple of 4, or not canonical (R166, R328). -/
def badTarget (a : DWord) : Bool := a.toNat % 4 != 0 || (sextI (a.toNat / 2 ^ 47) 17 != 0 && sextI (a.toNat / 2 ^ 47) 17 != -1)

/-- The target of a two-word branch (R163, R140). -/
def brTarget (t : Strand) (soff : Nat) : DWord := t.itemAddr + sextD soff 17 * 4#64
def brLpc (t : Strand) (loff : Nat) : Word := t.first + BitVec.ofNat 32 t.nl + BitVec.ofNat 32 loff

/-- A taken transfer (R163 to R166): loops it leaves close when `close`, a backward one is a crossing. -/
def Strand.transfer (t : Strand) (spc : DWord) (lpc : Word) (close : Bool) : Strand :=
  let addr := t.itemAddr
  let t := if close then Strand.leaveLoops spc 4 t else t
  (t.jump spc lpc).crossIf addr spc

/-- A direct branch with its condition (R163). -/
def branch (cond : Strand → Bool) (soff loff : Nat) (s : State) : Host.Outcome State Fault Refusal :=
  s.run (fun t =>
    if ccBase ≤ s.cur ∧ loff ≠ 0 then s.raise t { code := 1 }
    else if cond t then
      if badTarget (brTarget t soff) then s.raise t { code := 3, sub := 1, arg := (brTarget t soff).toNat }
      else .next (s.setCur (t.transfer (brTarget t soff) (brLpc t loff) true))
    else s.finish t 2)

/-- BRA (R163). -/
def execBra (soff loff : Nat) (s : State) : Host.Outcome State Fault Refusal := branch (fun _ => true) soff loff s
/-- BZ (R163). -/
def execBz (r soff loff : Nat) (s : State) : Host.Outcome State Fault Refusal := branch (fun t => t.getS r == 0#32) soff loff s
/-- BNZ (R163). -/
def execBnz (r soff loff : Nat) (s : State) : Host.Outcome State Fault Refusal := branch (fun t => t.getS r != 0#32) soff loff s
/-- BEXZ (R163, R50). -/
def execBexz (soff loff : Nat) (s : State) : Host.Outcome State Fault Refusal := branch (fun t => t.exec == 0#128) soff loff s

/-- A call to spc, lpc from an item of n words: pushes, closes no loop (R164, R64). -/
def callGo (t : Strand) (n : Nat) (spc : DWord) (lpc : Word) (s : State) : Host.Outcome State Fault Refusal :=
  if badTarget spc then s.raise t { code := 3, sub := 1, arg := spc.toNat }
  else if 16 ≤ t.rets.length then s.raise t { code := 0xA, sub := 1, arg := 16 }
  else
    let e : RetEntry := { spc := t.itemAddr + BitVec.ofNat 64 (4 * n), lpc := t.first + BitVec.ofNat 32 t.nl, loops := t.loops.length }
    .next (s.setCur ({ t with rets := e :: t.rets }.transfer spc lpc false))

/-- CALL (R163, R164). -/
def execCall (soff loff : Nat) (s : State) : Host.Outcome State Fault Refusal :=
  s.run (fun t =>
    if ccBase ≤ s.cur ∧ loff ≠ 0 then s.raise t { code := 1 }
    else callGo t 2 (brTarget t soff) (brLpc t loff) s)

/-- RET (R166, R64). -/
def execRet (s : State) : Host.Outcome State Fault Refusal :=
  s.run (fun t =>
    match t.rets with
    | [] => s.raise t { code := 0xA, sub := 2 }
    | e :: es =>
      if badTarget e.spc then s.raise t { code := 3, sub := 1, arg := e.spc.toNat }
      else if e.loops < t.loops.length then s.raise t { code := 9, sub := 3, arg := t.loops.length }
      else .next (s.setCur ({ t with rets := es }.transfer e.spc e.lpc false)))

/-- CALLI (R166). -/
def execCalli (x y : Nat) (s : State) : Host.Outcome State Fault Refusal :=
  s.run (fun t => callGo t 1 (t.getPair x) (t.getS y) s)

/-- JMPI (R166). -/
def execJmpi (x y : Nat) (s : State) : Host.Outcome State Fault Refusal :=
  s.run (fun t =>
    if badTarget (t.getPair x) then s.raise t { code := 3, sub := 1, arg := (t.getPair x).toNat }
    else .next (s.setCur (t.transfer (t.getPair x) (t.getS y) true)))

/-- The pair of values the active lanes hold (R166): none with EXEC zero; the lanes that differ from the lowest. -/
def vecTarget (t : Strand) (x y : Nat) : Option (Nat × Word × Word × Mask) :=
  match lowest t.exec with
  | none => none
  | some l0 =>
    let a := fun l => Vec.lane (t.getV (t.rotN x)) l
    let b := fun l => Vec.lane (t.getV (t.rotN y)) l
    some (l0, a l0, b l0, maskOf (fun l => t.exec.getLsbD l && (a l != a l0 || b l != b l0)))

/-- CALLV and JMPV up to the transfer (R166).  A register at or beyond the budget is REG_BOUND with EXEC zero too, before the word is
let through (DEDUCED, log 22). -/
def vecJump (x y : Nat) (go : Strand → DWord → Word → Host.Outcome State Fault Refusal) (s : State) : Host.Outcome State Fault Refusal :=
  s.run (fun t =>
    match t.overBudget [x, y] with
    | some r => s.raise t { code := 8, arg := r }
    | none =>
      match vecTarget t x y with
      | none => s.finish t 1
      | some (l0, a, b, diff) =>
        if diff ≠ 0#128 then s.raise t { code := 0xB, arg := l0, lanes := diff }
        else go t (t.secBase + a.setWidth 64) b)

/-- CALLV (R166). -/
def execCallv (x y : Nat) (s : State) : Host.Outcome State Fault Refusal := vecJump x y (fun t a b => callGo t 1 a b s) s

/-- JMPV (R166). -/
def execJmpv (x y : Nat) (s : State) : Host.Outcome State Fault Refusal :=
  vecJump x y (fun t a b =>
    if badTarget a then s.raise t { code := 3, sub := 1, arg := a.toNat }
    else .next (s.setCur (t.transfer a b true))) s

/-! ### Masks (R51, R52, R167 to R169) -/

/-- The region word that MSPLIT writes (R51, R167). -/
def regionWord (t : Strand) (pend : Mask) : Word :=
  BitVec.ofNat 32 ((if t.regionOpen then t.regionBase else 0x1FF) + 0x200 + bitIf (pend != 0#128) 10)

/-- The strand after MSPLIT's effect (R51). -/
def Strand.split (t : Strand) (c sv soff loff : Nat) : Strand :=
  let cm := t.getQ c
  let pend := t.exec &&& ~~~ cm
  let spc := t.itemAddr + sextD soff 16 * 4#64
  let lpc := t.first + BitVec.ofNat 32 t.nl + sextW loff 16
  let t1 := (((((t.setQ sv t.exec).setS (sv + 4) t.fmt).setS (sv + 5) (loW (spc - t.secBase))).setS (sv + 6) lpc).setS
    (sv + 7) (regionWord t pend)).setQ (sv + 8) pend
  { t1.setRegion (BitVec.ofNat 32 (sv + 0x200)) with
    exec := t.exec &&& cm, seqNo := t.seqNo + 1, splits := AMap.put t.splits sv t.seqNo }

/-- MSPLIT (R51, R167). -/
def execMsplit (c sv soff loff : Nat) (s : State) : Host.Outcome State Fault Refusal :=
  s.run (fun t => s.finish (t.split c sv soff loff) 2)

/-- The LEXIT mask that a closing MJOIN excludes (R52): of the innermost open loop if it was opened before the MSPLIT. -/
def joinExclude (t : Strand) (sv : Nat) : Mask :=
  match t.loops with
  | l :: _ => if l.seq < AMap.get t.splits sv 0 then l.lexit else 0#128
  | [] => 0#128

/-- MJOIN (R52, R168).  Where it continues at a pending entry it takes no back edge, though it be the end word of a loop, and an
entry that software has made no multiple of 4 is continued at as it stands (log 57). -/
def execMjoin (sv : Nat) (s : State) : Host.Outcome State Fault Refusal :=
  s.run (fun t =>
    let w7 := t.getS (sv + 7)
    if w7.getLsbD 9 = false then s.finish t 1
    else if w7.getLsbD 10 then
      let fmt := if w7.getLsbD 11 then (w7.extractLsb' 16 16).setWidth 32 else t.getS (sv + 4)
      let m := t.getQ (sv + 8) &&& t.live
      let spc := t.secBase + (t.getS (sv + 5)).setWidth 64
      let lpc := t.getS (sv + 6)
      .next (s.setCur { ((t.setS (sv + 7) (w7 &&& ~~~ 0x400#32)).jump spc lpc) with exec := m, fmt := fmt })
    else
      let outer := fld w7.toNat 0 9
      let m := t.getQ sv &&& t.live &&& ~~~ joinExclude t sv
      let t1 := (t.setS (sv + 7) (w7 &&& ~~~ 0x200#32)).setRegion (BitVec.ofNat 32 (if outer = 0x1FF then 0x1FF else outer + 0x200))
      s.finish { t1 with exec := m, fmt := t.getS (sv + 4) } 1)

/-- The second operand of the MSK sub-ops (R169). -/
def maskOp (t : Strand) (y z : Nat) : Mask := match z with | 0 => t.getQ y | 1 => t.exec | _ => t.live

/-- MSET (R169). -/
def execMset (y z : Nat) (s : State) : Host.Outcome State Fault Refusal :=
  s.run (fun t => s.finish { t with exec := maskOp t y z &&& t.live } 1)
/-- MGET (R169). -/
def execMget (x y z : Nat) (s : State) : Host.Outcome State Fault Refusal := s.run (fun t => s.finish (t.setQ x (maskOp t y z)) 1)
/-- MAND (R169). -/
def execMand (x y z : Nat) (s : State) : Host.Outcome State Fault Refusal :=
  s.run (fun t => s.finish (t.setQ x (t.getQ x &&& maskOp t y z)) 1)
/-- MOR (R169). -/
def execMor (x y z : Nat) (s : State) : Host.Outcome State Fault Refusal :=
  s.run (fun t => s.finish (t.setQ x (t.getQ x ||| maskOp t y z)) 1)
/-- MNOT (R169). -/
def execMnot (x y z : Nat) (s : State) : Host.Outcome State Fault Refusal := s.run (fun t => s.finish (t.setQ x (~~~ maskOp t y z)) 1)
/-- MPOPC (R169). -/
def execMpopc (x y z : Nat) (s : State) : Host.Outcome State Fault Refusal :=
  s.run (fun t => s.finish (t.setS x (BitVec.ofNat 32 (popN (maskOp t y z).toNat 128))) 1)

/-! ### Loops (R57 to R62, R170 to R172) -/

/-- The trip count of R57: n + s - 1 without wrapping. -/
def tripCount (n : Word) (stages : Nat) : Word := BitVec.ofNat 32 (min n.toNat (0xFFFFFFFF - (stages - 1)) + (stages - 1))

/-- The frame that LOOP opens (R57, R170). -/
def loopFrame (t : Strand) (cnt nstg rot item ireg send llen : Nat) : LoopFrame :=
  let lpc := t.first + BitVec.ofNat 32 t.nl
  { startSpc := t.hspc + BitVec.ofNat 64 (4 * (t.ns + 1)), endSpc := t.itemAddr + BitVec.ofNat 64 (4 * send), startLpc := lpc,
    endLpc := lpc + BitVec.ofNat 32 llen, trips := tripCount (t.getS cnt) nstg, rot := rot == 1, item := item == 1, stages := nstg,
    depth := t.rets.length, ireg := ireg, stage := t.stage, entry := t.exec, lexit := 0#128, seq := t.seqNo }

/-- The loop is skipped (R57). -/
def State.skipLoop (s : State) (t : Strand) (l : LoopFrame) : Host.Outcome State Fault Refusal :=
  .next (s.setCur (t.jump (s.afterEnd t l.endSpc) l.endLpc))

/-- The loop opens (R57). -/
def State.openLoop (s : State) (t : Strand) (l : LoopFrame) (exec : Mask) : Host.Outcome State Fault Refusal :=
  s.finish { t with loops := l :: t.loops, stage := 1#8, exec := exec, seqNo := t.seqNo + 1, lfTop := t.lfTop ||| 2 ^ t.loops.length } 2

/-- LOOP (R57, R170, R171). -/
def execLoop (lvl cnt nstg rot item ireg send llen : Nat) (s : State) : Host.Outcome State Fault Refusal :=
  s.run (fun t =>
    let l := loopFrame t cnt nstg rot item ireg send llen
    if item = 1 ∧ t.budget ≤ ireg then s.raise t { code := 8, arg := ireg }
    else if 4 ≤ t.loops.length then s.raise t { code := 9, sub := 2, arg := 4 }
    else if lvl ≠ t.loops.length then s.raise t { code := 9, sub := 1, arg := t.loops.length }
    else if item = 0 then (if t.getS cnt = 0#32 then s.skipLoop t l else s.openLoop t l t.exec)
    else match s.skeinOf t with
      | none => s.raise t { code := 0xF, sub := 4 }
      | some k =>
        if t.getS cnt = 0#32 then s.skipLoop t l else
        let (s1, t1, got) := State.refill k (t.rotN ireg) (lanesOf t.exec) s t
        let m := maskOfLanes got
        if m = 0#128 then s1.skipLoop t1 l else s1.openLoop t1 { l with lexit := t.exec &&& ~~~ m } m)

/-- BACK_EDGE (R58): the back edge that is due. -/
def execBackEdge (s : State) : Host.Outcome State Fault Refusal :=
  s.run (fun t => let r := s.backEdge t; .next (r.1.setCur r.2))

/-- The lanes m leave the innermost loop and empty EXEC, so that it, or the trip of an ITEM loop, ends at once (R61). -/
def lexitFires (m : Mask) (t : Strand) : Bool := !t.loops.isEmpty && t.exec != 0#128 && t.exec &&& ~~~ m == 0#128

/-- LEXIT and LBRK (R61): lanes leave; when EXEC becomes zero the loop, or the trip of an ITEM loop, ends at once, at whatever
call depth (log 57). -/
def lexitGo (m : Strand → Mask) (s : State) : Host.Outcome State Fault Refusal :=
  s.run (fun t =>
    match t.loops with
    | [] => s.raise t { code := 9, sub := 4 }
    | l :: ls =>
      let e := t.exec &&& ~~~ m t
      let l' := { l with lexit := l.lexit ||| m t }
      let t1 := { t with exec := e, loops := l' :: ls }
      if t.exec = 0#128 ∨ e ≠ 0#128 then s.finish t1 1
      else if l.item then let r := State.backEdgeGo l.endSpc 5 s t1; .next (r.1.setCur r.2)
      else
        let t2 := t1.popLoop.jump (s.afterEnd t1 l.endSpc) l.endLpc
        if t2.edgeAt l.endSpc then let r := State.backEdgeGo l.endSpc 4 s t2; .next (r.1.setCur r.2)
        else .next (s.setCur t2))

/-- LEXIT (R61, R172). -/
def execLexit (x : Nat) (s : State) : Host.Outcome State Fault Refusal := lexitGo (fun t => t.getQ x) s
/-- LBRK (R61, R172). -/
def execLbrk (s : State) : Host.Outcome State Fault Refusal := lexitGo (fun t => t.exec) s

/-- ROTSET (R63, R172). -/
def execRotset (base size : Nat) (s : State) : Host.Outcome State Fault Refusal :=
  s.run (fun t =>
    if t.budget < base + size then s.raise t { code := 8, arg := base + size - 1 }
    else s.finish { t with rot := BitVec.ofNat 32 (base + size * 256) } 1)

/-- SKPUT (R62, R172): appends as many indices as fit, in one step. -/
def execSkput (x y z : Nat) (s : State) : Host.Outcome State Fault Refusal :=
  s.run (fun t =>
    match s.skeinOf t with
    | none => s.raise t { code := 0xF, sub := 4 }
    | some _ =>
      let c := s.core t.core
      let q := if z = 0 then c.sk0 else c.sk1
      let n := min (t.getS y).toNat (4096 - q.length)
      let q' := q ++ (List.range n).map (fun i => t.getS x + BitVec.ofNat 32 i)
      (s.setCore t.core (if z = 0 then { c with sk0 := q' } else { c with sk1 := q' })).finish (t.setS y (BitVec.ofNat 32 n)) 1)

/-- LDEPTH (R172). -/
def execLdepth (x : Nat) (s : State) : Host.Outcome State Fault Refusal :=
  setReg x (fun t => BitVec.ofNat 32 (t.loops.length + t.rets.length * 8)) s

end Sys2Proof.Machine
end

