-- ==== Sys2Proof/Machine/LaneInt.lean ====
section
/-!
DEFINITION. The integer lane instructions (spec/07 R198 to R201).
-/
namespace Sys2Proof.Machine
open Sys2Proof

/-- The vector registers that a three-operand lane instruction names: D, A, B when it is a register, C (R142). -/
def laneRegs (f : LaneF) (a b c : Bool) : List Nat :=
  [f.vd] ++ (if a then [f.va] else []) ++ (if b && f.bsrc == 0 then [f.vb] else []) ++ (if c then [f.vc] else [])

/-- An integer lane instruction with one 32-bit result per active lane (R155, R198). -/
def laneInt (f : LaneF) (a b c : Bool) (val : Strand → Nat → Word) (s : State) : Host.Outcome State Fault Refusal :=
  s.laneOp f false (laneRegs f a b c) (fun t => t.writeLanes f.vd (val t))

/-- Bit 0 of MOD, SAT (R193), and of SUB. -/
def satOn (f : LaneF) : Bool := f.mod.testBit 0
def sub0 (f : LaneF) : Bool := f.sub.testBit 0

/-- An exact result wrapped, or clamped under SAT (R199). -/
def satW (f : LaneF) (r : Int) : Word := if satOn f then clampW (sub0 f) r else BitVec.ofInt 32 r

/-- The shift count of R199. -/
def shN (f : LaneF) (b : Word) : Nat := if (sub0 f) then b.toNat % 256 else b.toNat % 32

/-- TERN's bit (R198): bit a + 2b + 4c of the table. -/
def ternBit (tab : Nat) (a b c : Bool) : Bool := tab.testBit (bitIf a 0 + bitIf b 1 + bitIf c 2)
def ternW (tab : Nat) (a b c : Word) : Word :=
  BitVec.ofNat 32 ((List.range 32).foldl (fun x i => x + bitIf (ternBit tab (a.getLsbD i) (b.getLsbD i) (c.getLsbD i)) i) 0)

/-- SHF (R199): the funnel shift of c:a. -/
def shfW (left : Bool) (a c : Word) (n : Nat) : Word :=
  let x : DWord := pair a c
  if left then hiW (x <<< n) else loW (x >>> n)

def absW (sat : Bool) (a : Word) : Word := if a = 0x80000000#32 then (if sat then 0x7FFFFFFF#32 else a) else if a.msb then 0#32 - a else a

/-- PRMT (R199). -/
def prmtW (a b c : Word) : Word :=
  let y := (pair a b).toNat
  BitVec.ofNat 32 (natOf ((List.range 4).map (fun i =>
    let sel := fld c.toNat (4 * i) 4
    let x := byteAt y (sel % 8)
    if 8 ≤ sel then (if x.msb then 0xFF#8 else 0#8) else x)))

/-- IADD (R198). -/
def execIadd (f : LaneF) (s : State) : Host.Outcome State Fault Refusal :=
  laneInt f true true false (fun t l => satW f (intOf (sub0 f) (t.opA f l) + intOf (sub0 f) (t.opB f l))) s

/-- ISUB (R198). -/
def execIsub (f : LaneF) (s : State) : Host.Outcome State Fault Refusal :=
  laneInt f true true false (fun t l => satW f (intOf (sub0 f) (t.opA f l) - intOf (sub0 f) (t.opB f l))) s

/-- IMUL (R198). -/
def execImul (f : LaneF) (s : State) : Host.Outcome State Fault Refusal :=
  laneInt f true true false (fun t l => t.opA f l * t.opB f l) s

/-- IMULH (R198). -/
def execImulh (f : LaneF) (s : State) : Host.Outcome State Fault Refusal :=
  laneInt f true true false (fun t l => mulHi (sub0 f) (t.opA f l) (t.opB f l)) s

/-- IMAD (R198). -/
def execImad (f : LaneF) (s : State) : Host.Outcome State Fault Refusal :=
  laneInt f true true true (fun t l => satW f (intOf (sub0 f) (t.opA f l) * intOf (sub0 f) (t.opB f l) + intOf (sub0 f) (t.opC f l))) s

/-- A pair result per active lane into D+1:D (R199). -/
def Strand.writePair (t : Strand) (r : Nat) (val : Nat → DWord) : Strand :=
  (t.writeLanes r (fun l => loW (val l))).writeLanes (r + 1) (fun l => hiW (val l))

/-- IMADW's product plus C+1:C (R199). -/
def imadwD (u : Bool) (a b : Word) (c : DWord) : DWord := BitVec.ofInt 64 (intOf u a * intOf u b) + c

/-- IMADW (R198, R199). -/
def execImadw (f : LaneF) (s : State) : Host.Outcome State Fault Refusal :=
  s.laneOp f false (laneRegs f true true true ++ [f.vd + 1, f.vc + 1])
    (fun t => t.writePair f.vd (fun l => imadwD (sub0 f) (t.opA f l) (t.opB f l) (t.pairV f.vc l)))

/-- IAND (R198). -/
def execIand (f : LaneF) (s : State) : Host.Outcome State Fault Refusal :=
  laneInt f true true false (fun t l => t.opA f l &&& t.opB f l) s

/-- IOR (R198). -/
def execIor (f : LaneF) (s : State) : Host.Outcome State Fault Refusal :=
  laneInt f true true false (fun t l => t.opA f l ||| t.opB f l) s

/-- IXOR (R198). -/
def execIxor (f : LaneF) (s : State) : Host.Outcome State Fault Refusal :=
  laneInt f true true false (fun t l => t.opA f l ^^^ t.opB f l) s

/-- TERN (R198). -/
def execTern (f : LaneF) (s : State) : Host.Outcome State Fault Refusal :=
  laneInt f true true true (fun t l => ternW f.sub (t.opA f l) (t.opB f l) (t.opC f l)) s

/-- SHL (R199). -/
def execShlL (f : LaneF) (s : State) : Host.Outcome State Fault Refusal :=
  laneInt f true true false (fun t l => t.opA f l <<< shN f (t.opB f l)) s

/-- SHR (R199). -/
def execShrL (f : LaneF) (s : State) : Host.Outcome State Fault Refusal :=
  laneInt f true true false (fun t l => t.opA f l >>> shN f (t.opB f l)) s

/-- SAR (R199). -/
def execSarL (f : LaneF) (s : State) : Host.Outcome State Fault Refusal :=
  laneInt f true true false (fun t l => BitVec.sshiftRight (t.opA f l) (shN f (t.opB f l))) s

/-- SHF (R199). -/
def execShf (f : LaneF) (s : State) : Host.Outcome State Fault Refusal :=
  laneInt f true true true (fun t l => shfW (sub0 f) (t.opA f l) (t.opC f l) ((t.opB f l).toNat % 32)) s

/-- IMIN (R198). -/
def execImin (f : LaneF) (s : State) : Host.Outcome State Fault Refusal :=
  laneInt f true true false (fun t l => if intOf (sub0 f) (t.opB f l) < intOf (sub0 f) (t.opA f l) then t.opB f l else t.opA f l) s

/-- IMAX (R198). -/
def execImax (f : LaneF) (s : State) : Host.Outcome State Fault Refusal :=
  laneInt f true true false (fun t l => if intOf (sub0 f) (t.opA f l) < intOf (sub0 f) (t.opB f l) then t.opB f l else t.opA f l) s

/-- IABS (R199). -/
def execIabs (f : LaneF) (s : State) : Host.Outcome State Fault Refusal :=
  laneInt f true false false (fun t l => absW (satOn f) (t.opA f l)) s

/-- The mask quad that a compare writes (R194, R200): 0 for inactive lanes. -/
def cmpQuad (t : Strand) (c : Nat → Bool) : Mask := maskOf (fun l => t.exec.getLsbD l && c l)

/-- ICMP (R200). -/
def execIcmp (f : LaneF) (s : State) : Host.Outcome State Fault Refusal :=
  s.laneOp f false (if f.bsrc = 0 then [f.va, f.vb] else [f.va])
    (fun t => t.setQ (4 * f.vd) (cmpQuad t (fun l => icmpCond (f.sub % 8) (f.sub.testBit 3) (t.opA f l) (t.opB f l))))

/-- SEL's quad, as captured at the header (R200). -/
def selQuad (t : Strand) (f : LaneF) : Mask := quadMask (t.cap f 4) (t.cap f 5) (t.cap f 6) (t.cap f 7)

/-- SEL (R200). -/
def execSel (f : LaneF) (s : State) : Host.Outcome State Fault Refusal :=
  laneInt f true true false (fun t l => if (selQuad t f).getLsbD l then t.opA f l else t.opB f l) s

/-- POPC (R198). -/
def execPopcL (f : LaneF) (s : State) : Host.Outcome State Fault Refusal :=
  laneInt f true false false (fun t l => pop32 (t.opA f l)) s

/-- CLZ (R198). -/
def execClzL (f : LaneF) (s : State) : Host.Outcome State Fault Refusal :=
  laneInt f true false false (fun t l => clz32 (t.opA f l)) s

/-- BREV (R198). -/
def execBrevL (f : LaneF) (s : State) : Host.Outcome State Fault Refusal :=
  laneInt f true false false (fun t l => brev32 (t.opA f l)) s

/-- BFE (R199). -/
def execBfeL (f : LaneF) (s : State) : Host.Outcome State Fault Refusal :=
  laneInt f true true false (fun t l => bfeW (t.opA f l) ((t.opB f l).toNat % 32) (fld (t.opB f l).toNat 5 5 + 1) (sub0 f)) s

/-- BFI (R199). -/
def execBfiL (f : LaneF) (s : State) : Host.Outcome State Fault Refusal :=
  laneInt f true true true (fun t l => bfiW (t.opC f l) (t.opA f l) ((t.opB f l).toNat % 32) (fld (t.opB f l).toNat 5 5 + 1)) s

/-- PRMT (R199). -/
def execPrmt (f : LaneF) (s : State) : Host.Outcome State Fault Refusal :=
  laneInt f true true true (fun t l => prmtW (t.opA f l) (t.opB f l) (t.opC f l)) s

/-- MOV (R201). -/
def execMovL (f : LaneF) (s : State) : Host.Outcome State Fault Refusal :=
  laneInt f false true false (fun t l => t.opB f l) s

/-- IADDC's B64 (R199). -/
def b64 (t : Strand) (f : LaneF) (l : Nat) : DWord :=
  match f.bsrc with
  | 0 => t.pairV f.vb l
  | 1 => pair (t.cap f 0) (t.cap f 1)
  | _ => sextD f.imm 32

/-- IADDC (R199). -/
def execIaddc (f : LaneF) (s : State) : Host.Outcome State Fault Refusal :=
  s.laneOp f false ([f.vd, f.vd + 1, f.va, f.va + 1] ++ (if f.bsrc = 0 then [f.vb, f.vb + 1] else []))
    (fun t => t.writePair f.vd (fun l => t.pairV f.va l + b64 t f l))

/-- LANE (R201). -/
def execLaneId (f : LaneF) (s : State) : Host.Outcome State Fault Refusal :=
  laneInt f false false false (fun t l => BitVec.ofNat 32 (if (sub0 f) then 128 * t.widx + l else l)) s

/-- LNOP (R151): no effect, suppressed or not. -/
def execLnop (_f : LaneF) (s : State) : Host.Outcome State Fault Refusal := s.run (fun t => s.finish t 1)

end Sys2Proof.Machine
end

