-- ==== Sys2Proof/Machine/LaneFp.lean ====
section
/-!
DEFINITION. The FP32, packed-half and special-function lane instructions (spec/07 R202 to R206, spec/04 R117, R121, R122).
-/
namespace Sys2Proof.Machine
open Sys2Proof

/-- A floating-point operand with its absolute-value and negate bits applied to its sign bit (R193); h is the sign's
weight. -/
def modBits (h : Nat) (neg abs : Bool) (x : Nat) : Nat :=
  let y := if abs then x % h else x
  if neg then (if y / h % 2 = 1 then y - h else y + h) else y

/-- A, B and C of an FP32 instruction, modified (R193). -/
def fA (t : Strand) (f : LaneF) (l : Nat) : Word :=
  BitVec.ofNat 32 (modBits (2 ^ 31) (f.mod.testBit 1) (f.mod.testBit 4) (t.opA f l).toNat)
def fB (t : Strand) (f : LaneF) (l : Nat) : Word :=
  BitVec.ofNat 32 (modBits (2 ^ 31) (f.mod.testBit 2) (f.mod.testBit 5) (t.opB f l).toNat)
def fC (t : Strand) (f : LaneF) (l : Nat) : Word := BitVec.ofNat 32 (modBits (2 ^ 31) (f.mod.testBit 3) false (t.opC f l).toNat)

/-- An FP32 result: rounded once, flushed, then clamped under SAT (R121, R122, R204). -/
def fRes (t : Strand) (f : LaneF) (v : FVal) : Word :=
  let x := toF32 (t.mode f) t.ftz v
  if satOn f then BitVec.ofNat 32 (satF fp32 x.toNat) else x

/-- A floating-point lane instruction with one result per active lane. -/
def laneFp (f : LaneF) (a b c : Bool) (val : Strand → Nat → Word) (s : State) : Host.Outcome State Fault Refusal :=
  s.laneOp f true (laneRegs f a b c) (fun t => t.writeLanes f.vd (val t))

/-- RDN is the rounding mode (R121). -/
def rdn (t : Strand) (f : LaneF) : Bool := t.mode f == 2

/-- FADD (R202). -/
def execFadd (f : LaneF) (s : State) : Host.Outcome State Fault Refusal :=
  laneFp f true true false (fun t l => fRes t f (FVal.add (rdn t f) (f32 t.ftz (fA t f l)) (f32 t.ftz (fB t f l)))) s

/-- FMUL (R202). -/
def execFmul (f : LaneF) (s : State) : Host.Outcome State Fault Refusal :=
  laneFp f true true false (fun t l => fRes t f (FVal.mul (f32 t.ftz (fA t f l)) (f32 t.ftz (fB t f l)))) s

/-- FFMA (R132, R202). -/
def execFfma (f : LaneF) (s : State) : Host.Outcome State Fault Refusal :=
  laneFp f true true true (fun t l => fRes t f (FVal.add (rdn t f) (FVal.mul (f32 t.ftz (fA t f l)) (f32 t.ftz (fB t f l))) (f32 t.ftz (fC t f l)))) s

/-- FMIN (R203). -/
def execFmin (f : LaneF) (s : State) : Host.Outcome State Fault Refusal :=
  laneFp f true true false (fun t l => toF32 1 t.ftz (fminV (f32 t.ftz (fA t f l)) (f32 t.ftz (fB t f l)))) s

/-- FMAX (R203). -/
def execFmax (f : LaneF) (s : State) : Host.Outcome State Fault Refusal :=
  laneFp f true true false (fun t l => toF32 1 t.ftz (fmaxV (f32 t.ftz (fA t f l)) (f32 t.ftz (fB t f l)))) s

/-- FCMP (R203). -/
def execFcmp (f : LaneF) (s : State) : Host.Outcome State Fault Refusal :=
  s.laneOp f true (if f.bsrc = 0 then [f.va, f.vb] else [f.va])
    (fun t => t.setQ (4 * f.vd) (cmpQuad t (fun l => fcmpCond f.sub (f32 t.ftz (fA t f l)) (f32 t.ftz (fB t f l)))))

/-- FRND (R202). -/
def execFrnd (f : LaneF) (s : State) : Host.Outcome State Fault Refusal :=
  laneFp f true false false (fun t l => fRes t f (frndV (t.mode f) (f32 t.ftz (fA t f l)))) s

/-- FSCL's value (R202): a x 2^(e - 127), NaN for e = 0xFF. -/
def fsclV (a : FVal) (e : Nat) : FVal := FVal.mul a (e8m0 e)

/-- FSCL (R202). -/
def execFscl (f : LaneF) (s : State) : Host.Outcome State Fault Refusal :=
  laneFp f true true false (fun t l => fRes t f (fsclV (f32 t.ftz (fA t f l)) (elem (t.opB f l) (f.sub % 4) 8))) s

/-- The packed-half format of SUB[0] (R202). -/
def halfFmt (f : LaneF) : FpFmt := if (sub0 f) then bf16 else fp16

/-- Element i of a packed-half operand with its negate bit (R202). -/
def halfV (t : Strand) (f : LaneF) (neg : Bool) (x : Word) (i : Nat) : FVal :=
  (halfFmt f).unpack t.ftz (modBits (2 ^ 15) neg false (elem x i 16))

/-- Both elements rounded, flushed, and clamped under SAT (R202, R204). -/
def halfRes (t : Strand) (f : LaneF) (v : Nat → FVal) : Word :=
  let e := fun i =>
    let x := (halfFmt f).pack (t.mode f) false t.ftz (v i)
    if satOn f then satF (halfFmt f) x else x
  BitVec.ofNat 32 (e 0 + e 1 * 2 ^ 16)

/-- HADD2 (R202). -/
def execHadd2 (f : LaneF) (s : State) : Host.Outcome State Fault Refusal :=
  laneFp f true true false (fun t l => halfRes t f (fun i => FVal.add (rdn t f) (halfV t f (f.mod.testBit 1) (t.opA f l) i) (halfV t f (f.mod.testBit 2) (t.opB f l) i))) s

/-- HMUL2 (R202). -/
def execHmul2 (f : LaneF) (s : State) : Host.Outcome State Fault Refusal :=
  laneFp f true true false (fun t l => halfRes t f (fun i => FVal.mul (halfV t f (f.mod.testBit 1) (t.opA f l) i) (halfV t f (f.mod.testBit 2) (t.opB f l) i))) s

/-- HFMA2 (R132, R202). -/
def execHfma2 (f : LaneF) (s : State) : Host.Outcome State Fault Refusal :=
  laneFp f true true true (fun t l => halfRes t f (fun i => FVal.add (rdn t f) (FVal.mul (halfV t f (f.mod.testBit 1) (t.opA f l) i) (halfV t f (f.mod.testBit 2) (t.opB f l) i)) (halfV t f (f.mod.testBit 3) (t.opC f l) i))) s

/-- RCP (R205, R206). -/
def execRcp (f : LaneF) (s : State) : Host.Outcome State Fault Refusal :=
  laneFp f true false false (fun t l => specialV 0 (t.mode f) t.ftz (fA t f l)) s

/-- RSQ (R205, R206). -/
def execRsq (f : LaneF) (s : State) : Host.Outcome State Fault Refusal :=
  laneFp f true false false (fun t l => specialV 1 (t.mode f) t.ftz (fA t f l)) s

/-- SQRT (R205, R206). -/
def execSqrt (f : LaneF) (s : State) : Host.Outcome State Fault Refusal :=
  laneFp f true false false (fun t l => specialV 2 (t.mode f) t.ftz (fA t f l)) s

/-- EXP2 (R205, R206). -/
def execExp2 (f : LaneF) (s : State) : Host.Outcome State Fault Refusal :=
  laneFp f true false false (fun t l => specialV 3 (t.mode f) t.ftz (fA t f l)) s

/-- LOG2 (R205, R206). -/
def execLog2 (f : LaneF) (s : State) : Host.Outcome State Fault Refusal :=
  laneFp f true false false (fun t l => specialV 4 (t.mode f) t.ftz (fA t f l)) s

/-- SIN (R205, R206). -/
def execSin (f : LaneF) (s : State) : Host.Outcome State Fault Refusal :=
  laneFp f true false false (fun t l => specialV 5 (t.mode f) t.ftz (fA t f l)) s

/-- COS (R205, R206). -/
def execCos (f : LaneF) (s : State) : Host.Outcome State Fault Refusal :=
  laneFp f true false false (fun t l => specialV 6 (t.mode f) t.ftz (fA t f l)) s

/-- TANH (R205, R206). -/
def execTanh (f : LaneF) (s : State) : Host.Outcome State Fault Refusal :=
  laneFp f true false false (fun t l => specialV 7 (t.mode f) t.ftz (fA t f l)) s

end Sys2Proof.Machine
end

