-- ==== Sys2Proof/Machine/LaneConv.lean ====
section
/-!
DEFINITION. Conversion and packing (spec/07 R207 to R209, spec/04 R124, R125).
-/
namespace Sys2Proof.Machine
open Sys2Proof

/-- An element as CVT reads it: an exact integer or a floating-point value (R207, R208). -/
inductive CVal where
  | int (i : Int)
  | flt (v : FVal)
  deriving DecidableEq, Repr

/-- Element width of a conversion code (R207). -/
def cvtW (c : Nat) : Nat := 32 / cvtN c

/-- The integer codes that are signed (R207). -/
def cvtSigned (c : Nat) : Bool := c % 2 == 0

/-- An encoding read in the format of code c (R208); 14 is E8M0. -/
def cvtRead (c : Nat) (ftz : Bool) (b : Nat) : CVal :=
  if cvtIsFloat c then .flt ((fpOfCode c).unpack ftz b)
  else if c = 14 then .flt (e8m0 b)
  else .int (if cvtSigned c then sextI b (cvtW c) else (b : Int))

/-- The range of an integer code and the clamp to it (R124, R208). -/
def cvtClamp (c : Nat) (r : Int) : Int :=
  let w := cvtW c
  let lo : Int := if cvtSigned c then -(2 ^ (w - 1)) else 0
  let hi : Int := if cvtSigned c then 2 ^ (w - 1) - 1 else 2 ^ w - 1
  if r < lo then lo else if hi < r then hi else r

/-- floor(log2 |x|) + 127, clamped (R208, any to E8M0). -/
def toE8m0 : FVal → Nat
  | .nan => 255
  | .inf _ => 255
  | .fin _ m e => if m = 0 then 0 else let k : Int := (Nat.log2 m : Int) + e + 127; if k < 0 then 0 else if 254 < k then 254 else k.toNat

/-- The conversion is to a wider or equal-range float (R208): exact, SATF plays no part (R124). -/
def cvtWider (src dst : Nat) : Bool :=
  cvtIsFloat src && (dst == 0 || (decide (3 ≤ src) && (dst == 1 || dst == 2)) || (src == 5 && (dst == 3 || dst == 4)))

/-- What a conversion needs of FMT and the override (R121, R122, R124, R125). -/
structure CvtMode where
  rnd : Nat
  ftz : Bool
  satf : Bool
  sr : Bool
  deriving DecidableEq, Repr

/-- Conversions that draw from the lane LFSR (R125). -/
def cvtDraws (m : CvtMode) (dst : Nat) : Bool := m.sr && decide (1 ≤ dst) && decide (dst ≤ 5)

def CVal.toF : CVal → FVal
  | .int i => FVal.ofInt false 0 i
  | .flt v => v

/-- Convert of R208 with the draw rnd: the encoding in the destination format. -/
def convert (m : CvtMode) (src dst : Nat) (rnd : Nat) (x : CVal) : Nat :=
  if cvtIsFloat dst then
    let satf := m.satf && !cvtWider src dst
    if cvtDraws m dst then (fpOfCode dst).packSr rnd satf m.ftz x.toF else (fpOfCode dst).pack m.rnd satf m.ftz x.toF
  else if dst = 14 then toE8m0 x.toF
  else
    let i : Int := match x with
      | .int i => if cvtW src < cvtW dst then i else cvtClamp dst i
      | .flt .nan => 0
      | .flt (.inf s) => cvtClamp dst (if s then -(2 ^ 33) else 2 ^ 33)
      | .flt (.fin s k e) => cvtClamp dst (roundInt m.rnd s k e)
    (i % (2 ^ cvtW dst : Nat)).toNat

/-- The conversion mode of an instruction: FTZ applies between FP32, FP16 and BF16 alone (R122). -/
def cvtMode (t : Strand) (f : LaneF) (src dst : Nat) : CvtMode :=
  { rnd := t.mode f, ftz := t.ftz && decide (src ≤ 2) && decide (dst ≤ 2), satf := t.satf, sr := t.srOn && f.rnd == 0 }

/-- Element k of a lane's conversion: the LFSR draw of the k-th element (R125). -/
def lfsrAt (t : Strand) (l : Nat) : Nat → Word
  | 0 => t.lfsr.getD l 0#32
  | n + 1 => Strand.lfsrStep (lfsrAt t l n)
def draw (t : Strand) (l k : Nat) : Nat := fld (lfsrAt t l k).toNat 16 16

/-- Active lanes step their LFSR n times (R125). -/
def Strand.stepLfsr (t : Strand) (n : Nat) : Strand :=
  { t with lfsr := (List.range 128).map (fun l => if t.exec.getLsbD l then lfsrAt t l n else t.lfsr.getD l 0#32) }

/-- The source element of CVT, modified (R208, R193). -/
def cvtSrc (t : Strand) (f : LaneF) (l : Nat) : CVal :=
  let src := f.sub / 16; let dst := f.sub % 16
  let m := cvtMode t f src dst
  let b := elem (t.opA f l) (f.imm % 8) (cvtW src)
  cvtRead src m.ftz (if cvtIsFloat src then modBits (2 ^ (cvtW src - 1)) (f.mod.testBit 1) (f.mod.testBit 4) b else b)

/-- CVT's result for lane l: the element written into the old word (R208). -/
def cvtLane (t : Strand) (f : LaneF) (l : Nat) : Word :=
  let src := f.sub / 16; let dst := f.sub % 16
  let r := convert (cvtMode t f src dst) src dst (draw t l 0) (cvtSrc t f l)
  setElem (Vec.lane (t.getV (t.rotN f.vd)) l) (f.imm / 16 % 8) (cvtW dst) r

/-- CVT (R208). -/
def execCvt (f : LaneF) (s : State) : Host.Outcome State Fault Refusal :=
  s.laneOp f true [f.vd, f.va] (fun t =>
    let t1 := if cvtDraws (cvtMode t f (f.sub / 16) (f.sub % 16)) (f.sub % 16) then t.stepLfsr 1 else t
    t1.writeLanes f.vd (cvtLane t f))

/-- A pack scale (R209): x 2^k for the byte e, k = 127 - e in PACK8 and PACK4, where e = 0xFF makes the source NaN, and e - 127 in
UNPK, which knows no such case. -/
def packScale (on inv : Bool) (e : Nat) (v : CVal) : CVal :=
  if on = false then v else
  match v with
  | .int i => .int i
  | .flt x => if inv && e == 255 then .flt .nan else .flt (FVal.scale (if inv then 127 - (e : Int) else (e : Int) - 127) x)

/-- The n sources of PACK8 and PACK4, narrowed into one word (R209). -/
def packLane (t : Strand) (f : LaneF) (n l : Nat) : Word :=
  let dst := f.sub % 16
  let src := if cvtIsFloat dst then 0 else 6
  let m := cvtMode t f src dst
  BitVec.ofNat 32 ((List.range n).foldl (fun acc i =>
    let x := cvtRead src false (Vec.lane (t.getV (t.rotN (f.va + i))) l).toNat
    acc + convert m src dst (draw t l i) (packScale (decide (128 ≤ f.sub)) true (elem (t.opB f l) 0 8) x) * 2 ^ (32 / n * i)) 0)

/-- PACK8 and PACK4 (R209). -/
def packGo (n : Nat) (f : LaneF) (s : State) : Host.Outcome State Fault Refusal :=
  s.laneOp f true ([f.vd] ++ (List.range n).map (f.va + ·) ++ (if 128 ≤ f.sub ∧ f.bsrc = 0 then [f.vb] else [])) (fun t =>
    let t1 := if cvtDraws (cvtMode t f 0 (f.sub % 16)) (f.sub % 16) then t.stepLfsr n else t
    t1.writeLanes f.vd (packLane t f n))

/-- PACK8 (R209). -/
def execPack8 (f : LaneF) (s : State) : Host.Outcome State Fault Refusal := packGo 4 f s
/-- PACK4 (R209). -/
def execPack4 (f : LaneF) (s : State) : Host.Outcome State Fault Refusal := packGo 8 f s

/-- Element i of UNPK's source, widened (R209). -/
def unpkLane (t : Strand) (f : LaneF) (i l : Nat) : Word :=
  let src := f.sub % 16
  let dst := if cvtIsFloat src then 0 else 6
  let m := cvtMode t f src dst
  let x := cvtRead src m.ftz (elem (t.opA f l) i (cvtW src))
  let y := packScale (decide (128 ≤ f.sub)) false (elem (t.opB f l) 0 8) x
  match y with
  | .int k => BitVec.ofInt 32 k
  | .flt v => toF32 m.rnd m.ftz v

/-- The results of several registers, each from the state before (R197). -/
def writeGroup (t0 : Strand) (vd : Nat) (val : Nat → Nat → Word) : List Nat → Strand → Strand
  | [], t => t
  | i :: is, t => writeGroup t0 vd val is (t.setV (t0.rotN (vd + i)) t0.exec (Vec.ofFn (val i)))

/-- UNPK (R209). -/
def execUnpk (f : LaneF) (s : State) : Host.Outcome State Fault Refusal :=
  s.laneOp f true ((List.range (cvtN (f.sub % 16))).map (f.vd + ·) ++ [f.va] ++ (if 128 ≤ f.sub ∧ f.bsrc = 0 then [f.vb] else [])) (fun t =>
    writeGroup t f.vd (unpkLane t f) (List.range (cvtN (f.sub % 16))) t)

end Sys2Proof.Machine
end

