-- ==== Sys2Proof/Machine/LaneDot.lean ====
section
/-!
DEFINITION. The dot instructions (spec/07 R210, R211, spec/04 R120, R131).
-/
namespace Sys2Proof.Machine
open Sys2Proof

/-- The classes of R120: 0 16-bit float, 1 8-bit float, 2 8-bit integer, 3 4-bit float, 4 4-bit integer. -/
def fmtClass (t : Strand) : Option Nat :=
  let a := t.aFmt; let b := t.bFmt
  if a ≤ 1 ∧ b ≤ 1 ∧ t.accFmt = 0 ∧ t.scaleFmt ≠ 1 then some 0
  else if (a = 2 ∨ a = 3) ∧ (b = 2 ∨ b = 3) ∧ t.accFmt = 0 then some 1
  else if a = 5 ∧ b = 5 ∧ t.accFmt = 1 then some 2
  else if a = 4 ∧ b = 4 ∧ t.accFmt = 0 then some 3
  else if a = 6 ∧ b = 6 ∧ t.accFmt = 1 ∧ t.scaleFmt ≠ 1 then some 4
  else none

/-- ILLEGAL of a lane instruction, with its bits [95:64] (R328). -/
def illegalLane (op : Nat) (f : LaneF) (t : Strand) : FaultInfo :=
  { code := 1, arg := op * 2 ^ 24 + f.vd * 2 ^ 16 + f.va * 2 ^ 8 + f.vb, lanes := t.exec }

/-- The scale bytes of a dot instruction: 127 when FMT.SCALE is none (R211). -/
def dotScale (t : Strand) (f : LaneF) (hi : Nat) : Nat := if t.scaleFmt = 0 then 127 else fld f.imm (8 * hi) 8

/-- The exact sum of products, the first product taken as it is (R131). -/
def fdotSum : List FVal → FVal
  | [] => .fin false 0 0
  | p :: ps => ps.foldl (FVal.add false) p

/-- One block added to an FP32 accumulator with one RNE rounding (R131, R123). -/
def blockAdd (d : Word) (s : FVal) (ea eb : Nat) (scaled : Bool) : Word :=
  rneF32 (FVal.add false (f32 false d) (if scaled then FVal.mul (FVal.mul s (e8m0 ea)) (e8m0 eb) else s))

/-- DOT8, DOT4 and DOTH2 for one lane. -/
def fdotLane (t : Strand) (f : LaneF) (w l : Nat) : Word :=
  let fa := fpOfFmt t.aFmt; let fb := fpOfFmt t.bFmt
  let ps := (List.range (32 / w)).map (fun i =>
    FVal.mul (fa.unpack false (elem (t.opA f l) i w)) (fb.unpack false (elem (t.opB f l) i w)))
  blockAdd (t.opC f l) (fdotSum ps) (dotScale t f 0) (dotScale t f 1) (t.scaleFmt != 0)

/-- An exact shift of a block sum by k, truncated towards zero (R131). -/
def shiftInt (s : Int) (k : Int) : Int := if 0 ≤ k then s * 2 ^ k.toNat else Int.tdiv s (2 ^ (-k).toNat)

/-- IDOT4 and IDOT8 for one lane (R210, R211). -/
def idotLane (t : Strand) (f : LaneF) (w l : Nat) : Word :=
  let ai := fun i => let x := elem (t.opA f l) i w; if f.sub.testBit 0 then (x : Int) else sextI x w
  let bi := fun i => let x := elem (t.opB f l) i w; if f.sub.testBit 1 then (x : Int) else sextI x w
  let sum := ((List.range (32 / w)).map (fun i => ai i * bi i)).foldl (· + ·) 0
  let r := (t.opC f l).toInt + shiftInt sum ((dotScale t f 0 : Int) + dotScale t f 1 - 254)
  if satOn f then clampW false r else BitVec.ofInt 32 r

/-- A dot instruction: ILLEGAL by the scale mode, FORMAT by class and NaN scales, REG_BOUND, then the lanes (R210, R211). -/
def dotGo (op cls : Nat) (int : Bool) (val : Strand → Nat → Word) (f : LaneF) (s : State) : Host.Outcome State Fault Refusal :=
  s.laneItem f (fun t =>
    if (if t.scaleFmt = 0 then f.bsrc == 0 && f.imm != 0 else f.bsrc != 0) then s.raise t (illegalLane op f t)
    else if t.fmtBad || fmtClass t != some cls || (int && (dotScale t f 0 == 255 || dotScale t f 1 == 255)) then
      s.raise t { code := 0x17, arg := t.fmt.toNat, lanes := t.exec }
    else match t.overBudget (laneRegs f true true true) with
      | some r => s.raise t { code := 8, arg := r, lanes := t.exec }
      | none => s.finish (t.writeLanes f.vd (val t)) 1)

/-- DOT8 (R210). -/
def execDot8 (f : LaneF) (s : State) : Host.Outcome State Fault Refusal := dotGo 0x50 1 false (fun t => fdotLane t f 8) f s
/-- DOT4 (R210). -/
def execDot4 (f : LaneF) (s : State) : Host.Outcome State Fault Refusal := dotGo 0x51 3 false (fun t => fdotLane t f 4) f s
/-- IDOT4 (R210). -/
def execIdot4 (f : LaneF) (s : State) : Host.Outcome State Fault Refusal := dotGo 0x52 4 true (fun t => idotLane t f 4) f s
/-- IDOT8 (R210). -/
def execIdot8 (f : LaneF) (s : State) : Host.Outcome State Fault Refusal := dotGo 0x53 2 true (fun t => idotLane t f 8) f s
/-- DOTH2 (R210). -/
def execDoth2 (f : LaneF) (s : State) : Host.Outcome State Fault Refusal := dotGo 0x54 0 false (fun t => fdotLane t f 16) f s

end Sys2Proof.Machine
end

