-- ==== Sys2Proof/Machine/LaneCross.lean ====
section
/-!
DEFINITION. The cross-lane instructions (spec/07 R212 to R214, spec/04 R133, R134).
-/
namespace Sys2Proof.Machine
open Sys2Proof

/-- SHFL's value for lane l: all lanes are read as they stand before it (R212). -/
def shflLane (t : Strand) (f : LaneF) (l : Nat) : Word :=
  let z : Nat := 128 / 2 ^ (f.sub / 4)
  let base : Nat := l - l % z
  let k := (t.opB f l).toNat % 128
  let j : Option Nat := match f.sub % 4 with
    | 0 => some (base + k % z)
    | 1 => if k ≤ l then some (l - k) else none
    | 2 => some (l + k)
    | _ => some (l ^^^ (k % z))
  match j with
  | some j => if base ≤ j ∧ j < base + z then t.opA f j else t.opA f l
  | none => t.opA f l

/-- SHFL (R212). -/
def execShfl (f : LaneF) (s : State) : Host.Outcome State Fault Refusal := laneInt f true true false (fun t => shflLane t f) s

/-- A cross-lane instruction that writes scalars of its strand (R194): no FMT, the budget of A alone. -/
def laneScalar (f : LaneF) (eff : Strand → Strand) (s : State) : Host.Outcome State Fault Refusal := s.laneOp f false [f.va] eff

/-- BALLOT (R213). -/
def execBallot (f : LaneF) (s : State) : Host.Outcome State Fault Refusal :=
  laneScalar f (fun t => t.setQ (4 * f.vd) (maskOf (fun l => t.exec.getLsbD l && t.opA f l != 0#32))) s

/-- The identity of an operation code (R214). -/
def redIdent (code : Nat) : Word :=
  match code with
  | 0 => 0x80000000#32 | 1 => 0x7F800000#32 | 2 => 0xFF800000#32 | 4 => 0xFFFFFFFF#32 | 7 => 0x7FFFFFFF#32
  | 8 => 0x80000000#32 | 9 => 0xFFFFFFFF#32 | _ => 0#32

/-- One application of an operation code (R214). -/
def redOp (mode : Nat) (ftz : Bool) (code : Nat) (x y : Word) : Word :=
  match code with
  | 0 => toF32 mode ftz (FVal.add (mode == 2) (f32 ftz x) (f32 ftz y))
  | 1 => toF32 1 ftz (fminV (f32 ftz x) (f32 ftz y))
  | 2 => toF32 1 ftz (fmaxV (f32 ftz x) (f32 ftz y))
  | 3 => x + y
  | 4 => x &&& y
  | 5 => x ||| y
  | 6 => x ^^^ y
  | 7 => if ltS y x then y else x
  | 8 => if ltS x y then y else x
  | 9 => if ltU y x then y else x
  | _ => if ltU x y then y else x

/-- The lane values, the identity for inactive lanes (R133). -/
def redIn (t : Strand) (f : LaneF) (code : Nat) : List Word :=
  (List.range 128).map (fun l => if t.exec.getLsbD l then t.opA f l else redIdent code)

/-- One level of the pairwise tree: neighbours combine (R133). -/
def treeLevel (op : Word → Word → Word) : List Word → List Word
  | x :: y :: xs => op x y :: treeLevel op xs
  | xs => xs

/-- The tree of R133 over 128 values: seven levels. -/
def redTree (op : Word → Word → Word) : Nat → List Word → Word
  | 0, xs => xs.headD 0#32
  | n + 1, xs => redTree op n (treeLevel op xs)

/-- REDL's FMT reading is that of the floating-point operations alone (R196). -/
def execRedl (f : LaneF) (s : State) : Host.Outcome State Fault Refusal :=
  s.laneOp f (decide (f.sub ≤ 2)) [f.va]
    (fun t => t.setS f.sdest (redTree (redOp (t.mode f) t.ftz f.sub) 7 (redIn t f f.sub)))

/-- The steps of R134: distances 1, 2, 4 to 64. -/
def scanSteps (op : Word → Word → Word) : Nat → Nat → List Word → List Word
  | 0, _, xs => xs
  | n + 1, d, xs => scanSteps op n (2 * d) ((List.range 128).map (fun l =>
      if d ≤ l then op (xs.getD (l - d) 0#32) (xs.getD l 0#32) else xs.getD l 0#32))

/-- SCAN's prefixes, exclusive with SUB[4] (R134, R214). -/
def scanVals (t : Strand) (f : LaneF) : List Word :=
  let code := f.sub % 16
  let xs := scanSteps (redOp (t.mode f) t.ftz code) 7 1 (redIn t f code)
  if f.sub.testBit 4 then redIdent code :: xs.take 127 else xs

/-- SCAN (R214). -/
def execScan (f : LaneF) (s : State) : Host.Outcome State Fault Refusal :=
  s.laneOp f (decide (f.sub % 16 ≤ 2)) [f.vd, f.va] (fun t => let xs := scanVals t f; t.writeLanes f.vd (fun l => xs.getD l 0#32))

/-- V2S (R213). -/
def execV2s (f : LaneF) (s : State) : Host.Outcome State Fault Refusal :=
  laneScalar f (fun t => t.setS f.sdest
    (if f.sub = 0 then t.opA f ((t.opB f 0).toNat % 128)
     else match lowest t.exec with | some l => t.opA f l | none => 0#32)) s

/-- VOTE's answer over the active lanes (R213). -/
def voteW (t : Strand) (f : LaneF) : Word :=
  let xs := (lanesOf t.exec).map (t.opA f)
  match f.sub with
  | 0 => boolW (xs.all (· != 0#32))
  | 1 => boolW (xs.any (· != 0#32))
  | 2 => boolW (xs.all (· == xs.headD 0#32))
  | _ => BitVec.ofNat 32 (xs.filter (· != 0#32)).length

/-- VOTE (R213). -/
def execVote (f : LaneF) (s : State) : Host.Outcome State Fault Refusal := laneScalar f (fun t => t.setS f.sdest (voteW t f)) s

end Sys2Proof.Machine
end

