-- ==== Sys2Proof/Machine/TxOps.lean ====
section
/-!
DEFINITION. The view of an open transaction: transactional loads, stores, atomics and reductions of lanes, and the checks
that end it (spec/03 R105 to R112, spec/08 R228).
-/
namespace Sys2Proof.Machine
open Sys2Proof

namespace Tx
variable (x : Tx)

/-- The lane's own buffered byte. -/
def own (lane addr : Nat) : Option Byte := (x.writes.find? (fun w => w.lane == lane && w.addr == addr)).map (·.val)

/-- The lane has written every byte of a word: it reads its own (R106, R345). -/
def covers (lane w : Nat) : Bool := (List.range 4).all (fun i => (x.own lane (4 * w + i)).isSome)

/-- Bytes stored by a lane: buffered, the newest first (R106). -/
def store (lane pa coh va : Nat) (bs : List Byte) : Tx :=
  let new := (List.range bs.length).map (fun i => { lane := lane, addr := pa + i, val := bs.getD i 0#8, coh := coh, va := va + i : TxWrite })
  { x with writes := new ++ x.writes.filter (fun w => !(w.lane == lane && decide (pa ≤ w.addr) && decide (w.addr < pa + bs.length))) }

/-- A lane's load over memory bytes `base`: its own writes stand first; the bytes read from memory are recorded (R106, R108). -/
def loadRaw (lane pa coh : Nat) (base : List Byte) : Tx × List Byte :=
  let v := (List.range base.length).map (fun i => (x.own lane (pa + i)).getD (base.getD i 0#8))
  let rd := ((List.range base.length).filter (fun i => (x.own lane (pa + i)).isNone)).map (fun i =>
    { lane := lane, addr := pa + i, val := base.getD i 0#8, coh := coh : TxRead })
  ({ x with reads := rd ++ x.reads }, v)

/-- The lane's buffered REDs that meet n bytes at pa. -/
def redsOf (lane pa n : Nat) : List TxRed :=
  x.reds.filter (fun r => r.lane == lane && decide (r.addr < pa + n) && decide (pa < r.addr + atomSize r.opc))

/-- Those REDs become read-modify-writes of the lane, in order (R228). -/
def materialise (mem : Nat → Byte) (lane pa n : Nat) : Tx :=
  let rs := x.redsOf lane pa n
  rs.foldl (fun x r =>
    let (x1, bs) := x.loadRaw lane r.addr r.coh ((List.range (atomSize r.opc)).map (fun i => mem (r.addr + i)))
    x1.store lane r.addr r.coh r.va (bytesOf (atomOp r.opc (natOf bs) r.val 0) (atomSize r.opc)))
    { x with reds := x.reds.filter (fun r => !rs.contains r) }

/-- A lane's transactional load. -/
def load (mem : Nat → Byte) (lane pa n coh : Nat) : Tx × Nat :=
  let (x, bs) := (x.materialise mem lane pa n).loadRaw lane pa coh ((List.range n).map (fun i => mem (pa + i)))
  (x, natOf bs)

/-- A lane's transactional read-modify-write: the old value (R228). -/
def rmw (mem : Nat → Byte) (lane pa n coh va opc v w : Nat) : Tx × Nat :=
  let (x, old) := x.load mem lane pa n coh
  (x.store lane pa coh va (bytesOf (atomOp opc old v w) n), old)

/-- A lane's transactional RED: buffered, or applied to the lane's own write (R228). -/
def red (mem : Nat → Byte) (lane pa n coh va opc v : Nat) : Tx :=
  if x.writes.any (fun w => w.lane == lane && decide (pa ≤ w.addr) && decide (w.addr < pa + n)) then (x.rmw mem lane pa n coh va opc v 0).1
  else { x with reds := x.reds ++ [{ lane := lane, addr := pa, opc := opc, val := v, coh := coh, va := va }] }

end Tx

namespace State
variable (s : State)

/-- Memory as the transaction's core sees it. -/
def txMem (core coh : Nat) (a : Nat) : Byte := BitVec.ofNat 8 (s.coreRead core a 1 coh)

/-- The abort that a transactional item meets before it acts: a peer address, or the 65th line (CAPACITY), a conflict with
a serial transaction (SERIAL) (R87, R106, R111). -/
def txStop (me : Nat) (t : Strand) (accs : List (Acc × Tlb)) : Option Nat :=
  match t.tx with
  | none => none
  | some x =>
    let tx := accs.filter (fun a => inTx t a.1.lane)
    let lines := (x.lines ++ tx.map (fun a => physOf a.2 a.1.va / 256)).eraseDups
    if tx.any (fun a => a.2.peer) || decide (64 < lines.length) then some 3
    else if !x.serial && tx.any (fun a => s.serialHolds me (physOf a.2 a.1.va) a.1.wr) then some 6
    else none

/-- Other strands' transactions meet this item's transactional accesses (R107, R111); a serial one reads no stale SC copy. -/
def txMeet (me : Nat) (t : Strand) (accs : List (Acc × Tlb)) : State :=
  match t.tx with
  | none => s
  | some x =>
    (accs.filter (fun a => inTx t a.1.lane)).foldl (fun s a =>
      let pa := physOf a.2 a.1.va
      let s := s.touch t.part t.ctx t.core a.1.va a.1.wr
      let s := if x.serial && a.2.coh % 4 == 1 then s.l1Clean t.core (pa / 64) true else s
      let s := s.readPrep t.core pa a.2.coh t.ctx
      if x.serial then
        { s with strands := s.strands.map (fun e =>
            if e.1 = me then e else
            match e.2.tx with
            | some y => if txHits y pa a.1.wr ≠ 0#128 ∧ y.serial = false then (e.1, e.2.abortTx 6 0) else e
            | none => e) }
      else s.doom me pa a.1.wr) s

/-- The footprint grows by the lines of the item; a system annotation is kept for the commit (R106, R228). -/
def txGrow (t : Strand) (accs : List (Acc × Tlb)) (sys : Bool) : Strand :=
  match t.tx with
  | none => t
  | some x =>
    let tx := accs.filter (fun a => inTx t a.1.lane)
    { t with tx := some { x with lines := (x.lines ++ tx.map (fun a => physOf a.2 a.1.va / 256)).eraseDups, sys := x.sys || (sys && !tx.isEmpty) } }

/-- A global lane item, a release at scope sc before it and an acquire at scope ac after it: every access checked, what it waits for,
the transaction's own stops, then the accesses (R155, R219, R106). -/
def laneGlobal (t : Strand) (p : Path) (accs : List Acc) (sys : Bool) (sc ac : Nat)
    (go : State → Strand → List (Acc × Tlb) → Host.Outcome State Fault Refusal) : Host.Outcome State Fault Refusal :=
  match s.checkAccs s.cur t accs false with
  | .error e => s.stopped t e
  | .ok rs =>
    if s.mustWait t p rs sc ac then s.hold t (s.waitKind t p rs sc ac) else
    match s.txStop s.cur t rs with
    | some c => .next (s.setCur (t.abortTx c 0))
    | none => go (s.txMeet s.cur t rs) (txGrow t rs sys) rs

/-- Which words of n bytes at pa a lane reads as poison inside the transaction: those of memory that it has not written whole (R345). -/
def txPoison (x : Tx) (core lane pa n coh : Nat) : List Bool :=
  (s.poisonWords core pa n coh).zipIdx.map (fun p => p.1 && !x.covers lane (pa / 4 + p.2))

/-- One lane's global read: inside the transaction, or plain. -/
def laneRead (me : Nat) (t : Strand) (a : Acc) (e : Tlb) : State × Strand × Nat × Bool :=
  let pa := physOf e a.va
  match t.tx with
  | some x =>
    if inTx t a.lane then
      let ps := s.txPoison x t.core a.lane pa a.size e.coh
      let (x, v) := x.load (s.txMem t.core e.coh) a.lane pa a.size e.coh
      (s, { t with tx := some x }, maskPoison v ps, ps.any id)
    else let (s, v, pz) := s.loadAcc me t a e; (s, t, v, pz)
  | none => let (s, v, pz) := s.loadAcc me t a e; (s, t, v, pz)

/-- One lane's global write. -/
def laneWrite (me : Nat) (t : Strand) (a : Acc) (e : Tlb) (v : Nat) : State × Strand :=
  match t.tx with
  | some x =>
    if inTx t a.lane then
      let x := (x.materialise (s.txMem t.core e.coh) a.lane (physOf e a.va) a.size).store a.lane (physOf e a.va) e.coh a.va (bytesOf v a.size)
      (s, { t with tx := some x })
    else (s.storeAcc me t a e v, t)
  | none => (s.storeAcc me t a e v, t)

/-- One lane's global atomic: the old value, and poison. -/
def laneAtom (me : Nat) (t : Strand) (a : Acc) (e : Tlb) (opc v w : Nat) : State × Strand × Nat × Bool :=
  match t.tx with
  | some x =>
    if inTx t a.lane then
      let ps := s.txPoison x t.core a.lane (physOf e a.va) a.size e.coh
      if ps.any id then (s, t, 0, true) else
      let (x, old) := x.rmw (s.txMem t.core e.coh) a.lane (physOf e a.va) a.size e.coh a.va opc v w
      (s, { t with tx := some x }, old, false)
    else let (s, v, pz) := s.rmwAcc me t a e opc v w; (s, t, v, pz)
  | none => let (s, v, pz) := s.rmwAcc me t a e opc v w; (s, t, v, pz)

/-- One lane's global reduction. -/
def laneRed (me : Nat) (t : Strand) (a : Acc) (e : Tlb) (opc v : Nat) : State × Strand :=
  match t.tx with
  | some x =>
    if inTx t a.lane then (s, { t with tx := some (x.red (s.txMem t.core e.coh) a.lane (physOf e a.va) a.size e.coh a.va opc v) })
    else (s.redAcc me t a e opc v, t)
  | none => (s.redAcc me t a e opc v, t)

end State
end Sys2Proof.Machine
end

