-- ==== Sys2Proof/Machine/LaneMem.lean ====
section
/-!
DEFINITION. Lane loads, stores, atomics, reductions and prefetch in the global, scratch and window spaces (spec/08 R216 to
R228, spec/03 R76 to R78, R86, R98, R99).
-/
namespace Sys2Proof.Machine
open Sys2Proof

/-- Bytes of a SIZE code, and registers of its group (R216, R218). -/
def sizeBytes (z : Nat) : Nat := match z with | 0 => 1 | 1 => 1 | 2 => 2 | 3 => 2 | 4 => 4 | 5 => 8 | _ => 16
def sizeRegs (z : Nat) : Nat := match z with | 5 => 2 | 6 => 4 | _ => 1

/-- The words a loaded value gives its group (R218). -/
def extend (z v : Nat) : List Word :=
  match z with
  | 1 => [sextW v 8]
  | 3 => [sextW v 16]
  | 5 => [BitVec.ofNat 32 v, BitVec.ofNat 32 (v / 2 ^ 32)]
  | 6 => (List.range 4).map (fun i => BitVec.ofNat 32 (v / 2 ^ (32 * i)))
  | _ => [BitVec.ofNat 32 v]

/-- The registers of a group from r. -/
def group (r n : Nat) : List Nat := (List.range n).map (r + ·)

/-- The destinations of lane l in the group of VD, mapped as the strand issues (R63, R218). -/
def landsOf (t : Strand) (vd l : Nat) (ws : List Word) : List Land :=
  (List.range ws.length).map (fun i => { dst := .v (t.rotN (vd + i)) l, val := ws.getD i 0#32, done := false })

/-- The value of a store group of lane l: n words, lowest register first (R218). -/
def groupVal (t : Strand) (vc n l : Nat) : Nat :=
  ((List.range n).map (fun i => (Vec.lane (t.getV (t.rotN (vc + i))) l).toNat * 2 ^ (32 * i))).sum

/-- The landings of a pin quad (R222). -/
def quadLands (q : Nat) (m : Mask) : List Land := (List.range 4).map (fun w => { dst := .s (4 * q + w), val := maskW m w, done := false })

/-- The registers a memory lane item names, checked against the budget (R142); with no active lane there is no fault (R241). -/
def State.budgeted (s : State) (f : LaneF) (regs : List Nat) (body : Strand → Host.Outcome State Fault Refusal) :
    Host.Outcome State Fault Refusal :=
  s.laneItem f (fun t => if t.exec = 0#128 then body t else match t.overBudget regs with
    | some r => s.raise t { code := 8, arg := r, lanes := t.exec }
    | none => body t)

/-- The same of a global access, whose watch stop stands before REG_BOUND where its address registers are within the budget (R305, R327). -/
def State.budgetedG (s : State) (f : LaneF) (regs : List Nat) (accs : Strand → List Acc) (body : Strand → Host.Outcome State Fault Refusal) :
    Host.Outcome State Fault Refusal :=
  s.laneItem f (fun t => if t.exec = 0#128 then body t else match t.overBudget (State.gRegs f ++ regs) with
    | some r => (match (if (t.overBudget (State.gRegs f)).isNone then s.watchStop t (accs t) false else none) with
      | some w => s.raise t w
      | none => s.raise t { code := 8, arg := r, lanes := t.exec })
    | none => body t)

/-- The accesses of the active lanes. -/
def laneAccs (t : Strand) (addr : Nat → Nat) (n : Nat) (rd wr : Bool) : List Acc :=
  (lanesOf t.exec).map (fun l => { lane := l, va := addr l, size := n, rd := rd, wr := wr })

namespace State
variable (s : State)

/-! ### Pins (R86, R349) -/

/-- Pins the line of pa for a context, filled again where another lane's has taken its way: whether it is pinned now, by this access
or earlier (R86, R222); refused beyond the quota, and where no way of the context's would stay unpinned in the set, whoever pinned
it. -/
def pinLine (part ctx pa : Nat) (e : Tlb) : State × Bool :=
  let line := pa / 256
  if e.pinok = false then (s, false)
  else match AMap.look s.pins line with
    | some o => (s, o / 16 == part)
    | none =>
      let used := (s.csr part (0x604 + 8 * ctx)).toNat % 2 ^ 24
      let m := match s.part? part, AMap.look s.l2.lines (L2.key part line) with
        | some p, none => (s.l2.alloc s.pins (s.asker part p ctx) line).fill (s.asker part p ctx) pa
        | _, _ => s.l2
      let open_ := match s.part? part, AMap.look m.lines (L2.key part line) with
        | some p, some l => (m.room s.pins p part ctx line).any (· != l.way)
        | _, _ => false
      if (s.csr part (0x600 + 8 * ctx)).toNat % 2 ^ 24 ≤ used ∨ open_ = false then (s, false)
      else
        ({ s with l2 := m, pins := AMap.put s.pins line (16 * part + ctx) }.updPart part
          (fun p => p.wr (0x604 + 8 * ctx) (BitVec.ofNat 32 (used + 1))), true)

/-- The lanes whose line is pinned, each line asked for in lane order. -/
def pinLanes (part ctx : Nat) : List (Nat × Nat × Tlb) → State → Mask × State
  | [], s => (0#128, s)
  | (l, pa, e) :: xs, s =>
    let (s, ok) := s.pinLine part ctx pa e
    let (m, s) := pinLanes part ctx xs s
    (if ok then m ||| (1#128 <<< l) else m, s)

/-- Lines that read-only loads fill, with their attribute, stand in the cluster as read-only-forwardable copies (R82, R222). -/
def markRo (core : Nat) (lines : List (Nat × Nat)) : State :=
  lines.foldl (fun (s : State) x => s.setClu (core / 2) { s.clu (core / 2) with
    ro := (List.range 64).foldl (fun m i =>
      let a := 256 * x.1 + 4 * i
      if s.isPoison a then m else AMap.put m (a / 4) (s.time, BitVec.ofNat 32 (s.coreRead core a 4 x.2))) (s.clu (core / 2)).ro }) s

/-- The lines that accesses touch as read-only: by the hint, or by their page (R82); none of system space. -/
def roLines (hint : Bool) (accs : List (Nat × Tlb)) : List (Nat × Nat) :=
  ((accs.filter (fun a => (hint || a.2.rof) && !isSys a.1)).map (fun a => (a.1 / 256, a.2.coh))).eraseDups

/-! ### The lane loops -/

/-- What a run of lane accesses gathers: the state, the strand, the landings and the lanes that met poison. -/
structure Gather where
  s : State
  t : Strand
  lands : List Land
  bad : List (Nat × Nat × Nat)

/-- Loads of the lanes in ascending order (R220). -/
def loadLanes (me : Nat) (f : LaneF) (accs : List (Acc × Tlb)) (g : Gather) : Gather :=
  accs.foldl (fun g a =>
    let (s, t, v, pz) := g.s.laneRead me g.t a.1 a.2
    { s := s, t := t, lands := g.lands ++ landsOf t f.vd a.1.lane (extend (f.sub % 8) v),
      bad := if pz then g.bad ++ [(a.1.lane, a.1.va, physOf a.2 a.1.va)] else g.bad }) g

/-- The held error of the lanes that met poison: the lowest lane's address (R338, R339). -/
def laneErr (bad : List (Nat × Nat × Nat)) : Option FaultInfo :=
  match bad with
  | [] => none
  | b :: _ => some (poisonErr s b.2.1 b.2.2 (maskOfLanes (bad.map (·.1))))

/-- Where the poison that lanes met is logged (R348): the first such word of the lowest of them. -/
def lanePois (t : Strand) (rs : List (Acc × Tlb)) (bad : List (Nat × Nat × Nat)) : Option (Nat × Nat) :=
  match bad with
  | [] => none
  | b :: _ => some (s.poisonSpot t (rs.filter (fun a => a.1.lane == b.1)))

/-- The same of scratch offsets: level 2 of R344. -/
def scrPois (wk : Nat) (bad : List (Nat × Nat × Nat)) : Option (Nat × Nat) :=
  match bad with
  | [] => none
  | b :: _ => some (((List.range 4).map (fun i => b.2.1 / 4 * 4 + 4 * i)).find? (fun o => s.scrPoisoned wk o 4) |>.getD b.2.1, 2)

/-- Whether any lane of an item acts in the transaction. -/
def anyTx (t : Strand) (accs : List (Acc × Tlb)) : Bool := accs.any (fun a => inTx t a.1.lane)

end State

/-- The scope of a lane item's release, 0 where it is none: inside a transaction the commit is the fence (R108, R228). -/
def relScope (t : Strand) (rel : Bool) (f : LaneF) : Nat := if rel && t.tx.isNone then f.mod % 8 else 0

/-- LD (R220 to R222). -/
def execLd (f : LaneF) (s : State) : Host.Outcome State Fault Refusal :=
  s.budgetedG f (group f.vd (sizeRegs (f.sub % 8))) (fun t => laneAccs t (State.gAddr t f) (sizeBytes (f.sub % 8)) true false) (fun t =>
    s.laneGlobal t .ld (laneAccs t (State.gAddr t f) (sizeBytes (f.sub % 8)) true false) (f.sub / 8 == 1 && f.mod % 8 == 5)
      0 (relScope t (f.sub / 8 == 1) f) (fun s1 t1 rs =>
      let g := State.loadLanes s.cur f rs { s := s1, t := t1, lands := [], bad := [] }
      let (m, s2) := if f.mod.testBit 4 then
          State.pinLanes t.part t.ctx (rs.map (fun a => (a.1.lane, State.physOf a.2 a.1.va, a.2))) g.s else (0#128, g.s)
      let s2 := s2.markRo t.core (State.roLines (f.mod.testBit 3) (rs.map (fun a => (State.physOf a.2 a.1.va, a.2))))
      let s3 := if f.sub / 8 = 1 && !(State.anyTx t rs) then s2.acquireAt s.cur t (f.mod % 8) else s2
      let lands := g.lands ++ (if f.mod.testBit 4 then quadLands f.vc m else [])
      let o : Op := { id := 0, path := .ld, flag := t.flagOf f.fs, lands := lands, err := s.laneErr g.bad, tx := State.anyTx t rs, sys := sysAccs rs,
                      reqs := reqLines rs, pois := g.s.lanePois t rs g.bad }
      s3.finish ((g.t.issueOp o).acquired (f.sub / 8 == 1 && !(State.anyTx t rs))) 1))

/-- ST (R220, R221): address and data at issue, lanes in ascending order. -/
def execSt (f : LaneF) (s : State) : Host.Outcome State Fault Refusal :=
  s.budgetedG f (group f.vc (sizeRegs (f.sub % 8))) (fun t => laneAccs t (State.gAddr t f) (sizeBytes (f.sub % 8)) false true) (fun t =>
    s.laneGlobal t .st (laneAccs t (State.gAddr t f) (sizeBytes (f.sub % 8)) false true) (f.sub / 8 == 2 && f.mod % 8 == 5)
      (relScope t (f.sub / 8 == 2) f) 0 (fun s1 t1 rs =>
      let s1 := if f.sub / 8 = 2 && !(State.anyTx t rs) then s1.releaseAt s.cur t (f.mod % 8) else s1
      let r := rs.foldl (fun (r : State × Strand) a => r.1.laneWrite s.cur r.2 a.1 a.2 (groupVal t f.vc (sizeRegs (f.sub % 8)) a.1.lane)) (s1, t1)
      r.1.finish ((r.2.issueOp { id := 0, path := .st, flag := t.flagOf f.fs, reqs := reqLines rs }).noteWrite) 1))

/-! ### Scratch (R76, R220) -/

/-- The fault of a lane scratch access: ALIGN before SCRATCH_BOUND (R327, R338). -/
def scrFault (len off n : Nat) : Option FaultInfo :=
  if off % n ≠ 0 then some { code := 3, arg := off } else if len < off + n then some { code := 7, arg := off } else none

/-- The place in R327 of a fault of an item of scratch or window accesses: a window register past its target's budget is found by reading
the item's own registers, so an uncorrectable element stands before it. -/
def spaceRank (f : FaultInfo) : Nat := if f.code = 8 ∧ f.sub = 1 then 2 * faultRank 0x15 + 1 else 2 * faultRank f.code

/-- The fault an item of scratch or window accesses reports: the first of R327, with every lane that raises it. -/
def worstFault (fs : List (Nat × FaultInfo)) : Option FaultInfo :=
  match fs with
  | [] => none
  | f0 :: _ =>
    let best := fs.foldl (fun (b : Nat × FaultInfo) x => if spaceRank x.2 < spaceRank b.2 then x else b) f0
    some { best.2 with lanes := maskOfLanes ((fs.filter (fun x => x.2.code == best.2.code)).map (·.1)) }

/-- A lane item in scratch, a release at scope sc before it and an acquire at scope ac after it: checked whole, then done (R155). -/
def State.laneScratch (s : State) (f : LaneF) (p : Path) (regs : List Nat) (n sc ac : Nat) (go : Strand → Host.Outcome State Fault Refusal) :
    Host.Outcome State Fault Refusal :=
  s.budgeted f (regs ++ [f.va]) (fun t =>
    match worstFault ((lanesOf t.exec).filterMap (fun l => (scrFault (s.scrLen t.weave) (State.lAddr t f l) n).map (fun e => (l, e)))) with
    | some e => s.raise t e
    | none =>
      if s.mustWait t p [] sc ac || (lanesOf t.exec).any (fun l => s.stashWaits s.cur t.weave (State.lAddr t f l)) then s.hold t .path else go t)

/-- One lane's scratch read by agent me: filled, read, poisoned words 0 (R79, R345). -/
def scrLoad (me wk off n : Nat) (s : State) : State × Nat × Bool :=
  let s := s.stashFill me wk off
  let ps := (List.range ((n + 3) / 4)).map (fun i => s.scrPoisoned wk (off / 4 * 4 + 4 * i) 4)
  (s, State.maskPoison (s.scrRead wk off n) ps, ps.any id)

/-- A plain scratch store of agent me, with the log of a clasp word (R329). -/
def scrStore (me : Nat) (t : Strand) (off : Nat) (bs : List Byte) (s : State) : State :=
  (s.scrWrite me t.weave off bs).claspStore t false off bs.length off

/-- LDSC (R220). -/
def execLdsc (f : LaneF) (s : State) : Host.Outcome State Fault Refusal :=
  s.laneScratch f .sc (group f.vd (sizeRegs (f.sub % 8))) (sizeBytes (f.sub % 8)) 0
      (if f.sub / 8 = 1 then f.mod % 8 else 0) (fun t =>
    let g := (lanesOf t.exec).foldl (fun (g : State.Gather) l =>
      let (s', v, pz) := scrLoad s.cur t.weave (State.lAddr t f l) (sizeBytes (f.sub % 8)) g.s
      { g with s := s', lands := g.lands ++ landsOf t f.vd l (extend (f.sub % 8) v),
               bad := if pz then g.bad ++ [(l, State.lAddr t f l, 0)] else g.bad }) { s := s, t := t, lands := [], bad := [] }
    let s2 := if f.sub / 8 = 1 then g.s.acquireAt s.cur t (f.mod % 8) else g.s
    s2.finish ((t.issueOp { id := 0, path := .sc, flag := t.flagOf f.fs, lands := g.lands, err := s.laneErr g.bad, pois := g.s.scrPois t.weave g.bad }).acquired (f.sub / 8 == 1)) 1)

/-- STSC (R220). -/
def execStsc (f : LaneF) (s : State) : Host.Outcome State Fault Refusal :=
  s.laneScratch f .sc (group f.vc (sizeRegs (f.sub % 8))) (sizeBytes (f.sub % 8))
      (if f.sub / 8 = 2 then f.mod % 8 else 0) 0 (fun t =>
    let s1 := if f.sub / 8 = 2 then s.releaseAt s.cur t (f.mod % 8) else s
    let n := sizeBytes (f.sub % 8)
    let s2 := (lanesOf t.exec).foldl (fun s' l => scrStore s.cur t (State.lAddr t f l) (bytesOf (groupVal t f.vc (sizeRegs (f.sub % 8)) l) n) s') s1
    s2.finish ((t.issueOp { id := 0, path := .sc, flag := t.flagOf f.fs }).noteWrite) 1)

/-! ### The register window (R77, R78, R223) -/

/-- What a window access of one lane meets: its target, or the first in R327 of the cases of R223, an uncorrectable element that
it reads (R346), and misalignment. -/
def State.winCheck (s : State) (t : Strand) (o n : Nat) (rd : Bool) : Except FaultInfo (Nat × Nat × Nat) :=
  let mis : FaultInfo := { code := 3, arg := o }
  match s.winTarget t o with
  | .error e => .error (if o % n ≠ 0 ∧ e.code ≠ 8 then mis else e)
  | .ok (k, r, l) =>
    let bad := rd && (match s.strand? k with | some x => x.bad.contains (512 + 128 * r + l) | none => false)
    if bad then .error { code := 0x15, sub := 1, arg := r + l * 256 } else if o % n ≠ 0 then .error mis else .ok (k, r, l)

/-- The element that an access to the window reads holds 0 with fresh check bits (R346). -/
def State.winClear (s : State) (t : Strand) (o : Nat) : State :=
  match s.winTarget t o with
  | .ok (k, r, l) => s.updStrand k (fun x => { x.putV r ((x.getV r).set l 0#32) with bad := x.bad.filter (· != 512 + 128 * r + l) })
  | .error _ => s

/-- A lane item in the window, a release at scope sc before it and an acquire at scope ac after it: every lane checked, then the accesses with their targets. -/
def State.laneWindow (s : State) (f : LaneF) (regs : List Nat) (n : Nat) (rd : Bool) (sc ac : Nat)
    (go : Strand → List (Nat × Nat × Nat × Nat × Nat) → Host.Outcome State Fault Refusal) : Host.Outcome State Fault Refusal :=
  s.budgeted f (regs ++ [f.va]) (fun t =>
    let rs := (lanesOf t.exec).map (fun l =>
      let o := State.lAddr t f l
      (l, o, s.winCheck t o n rd))
    match worstFault (rs.filterMap (fun r => match r.2.2 with | .error e => some (r.1, e) | .ok _ => none)) with
    | some e =>
      if e.code = 0x15 then
        let o := (rs.find? (fun r => match r.2.2 with | .error x => x.code == 0x15 | .ok _ => false)).map (·.2.1)
        let s := match o with | some o => s.winClear t o | none => s
        s.run (fun t => s.raise t { e with lanes := 0#128 })
      else s.raise t e
    | none =>
      if s.mustWait t .sc [] sc ac then s.hold t .path else
      go t (rs.filterMap (fun r => match r.2.2 with | .ok x => some (r.1, r.2.1, x.1, x.2.1, x.2.2) | .error _ => none)))

/-- LDWN (R220, R223). -/
def execLdwn (f : LaneF) (s : State) : Host.Outcome State Fault Refusal :=
  s.laneWindow f [f.vd] (sizeBytes (f.sub % 8)) true 0 (if f.sub / 8 = 1 then f.mod % 8 else 0) (fun t rs =>
    let lands := rs.flatMap (fun (l, o, k, r, ln) =>
      let w := match s.strand? k with | some x => Vec.lane (x.getV r) ln | none => 0#32
      landsOf t f.vd l (extend (f.sub % 8) (fld w.toNat (8 * (o % 4)) (8 * sizeBytes (f.sub % 8)))))
    let s1 := if f.sub / 8 = 1 then s.acquireAt s.cur t (f.mod % 8) else s
    s1.finish ((t.issueOp { id := 0, path := .sc, flag := t.flagOf f.fs, lands := lands }).acquired (f.sub / 8 == 1)) 1)

/-- One element of a target's register written through the window.  An uncorrectable element stays so after
a write of part of it (R346, DEDUCED, log 40). -/
def winLand (k r ln o n v : Nat) (s : State) : State :=
  s.updStrand k (fun x =>
    let e := 512 + 128 * r + ln
    let w := Vec.lane (x.getV r) ln
    { x.putV r (Vec.ofFn (fun i => if i = ln then setElem w (o % 4 / n) (8 * n) v else Vec.lane (x.getV r) i)) with
      bad := if n = 4 then x.bad.filter (· != e) else x.bad })

/-- A window store of strand me: written at once, or on its way where the plan has it late and the register is another's (R78, log 50). -/
def winStore (me k r ln o n v : Nat) (s : State) : State :=
  if s.late && k != me then { s with wins := s.wins ++ [{ me := me, k := k, r := r, ln := ln, o := o, n := n, val := v }] }
  else winLand k r ln o n v s

/-- STWN (R220, R223): a write to the strand's own slot is its own. -/
def execStwn (f : LaneF) (s : State) : Host.Outcome State Fault Refusal :=
  s.laneWindow f [f.vc] (sizeBytes (f.sub % 8)) false (if f.sub / 8 = 2 then f.mod % 8 else 0) 0 (fun t rs =>
    let s1 := if f.sub / 8 = 2 then s.releaseAt s.cur t (f.mod % 8) else s
    let t1 := (t.issueOp { id := 0, path := .sc, flag := t.flagOf f.fs }).noteWrite
    let s2 := rs.foldl (fun s' (l, o, k, r, ln) => winStore s.cur k r ln o (sizeBytes (f.sub % 8)) (Vec.lane (t.getV (t.rotN f.vc)) l).toNat s') (s1.setCur t1)
    s2.run (fun t2 => s2.finish t2 1))

/-! ### Atomics, reductions and prefetch (R224 to R227) -/

/-- Registers of the v and w operands of an OPC (R224). -/
def atomRegs (opc : Nat) : Nat := match opc with | 9 => 2 | 13 => 2 | 14 => 2 | 15 => 4 | _ => 1

/-- v and w of lane l (R224). -/
def atomV (t : Strand) (f : LaneF) (opc l : Nat) : Nat := groupVal t f.vc (atomSize opc / 4) l
def atomW (t : Strand) (f : LaneF) (opc l : Nat) : Nat :=
  if opc = 9 then groupVal t (f.vc + 1) 1 l else if opc = 15 then groupVal t (f.vc + 2) 2 l else 0

/-- The words an atomic returns. -/
def atomLand (opc old : Nat) : List Word :=
  if 13 ≤ opc then [BitVec.ofNat 32 old, BitVec.ofNat 32 (old / 2 ^ 32)] else [BitVec.ofNat 32 old]

/-- ATOM (R224, R225). -/
def execAtom (f : LaneF) (s : State) : Host.Outcome State Fault Refusal :=
  let opc := f.sub % 16; let ord := f.sub / 16
  s.budgetedG f (group f.vd (atomSize opc / 4) ++ group f.vc (atomRegs opc)) (fun t => laneAccs t (State.gAddr t f) (atomSize opc) true true) (fun t =>
    s.laneGlobal t .atm (laneAccs t (State.gAddr t f) (atomSize opc) true true) (ord != 0 && f.mod % 8 == 5)
      (relScope t (decide (2 ≤ ord)) f) (relScope t (ord % 2 == 1) f) (fun s1 t1 rs =>
      let plain := !(State.anyTx t rs)
      let s1 := if 2 ≤ ord && plain then s1.releaseAt s.cur t (f.mod % 8) else s1
      let g := rs.foldl (fun (g : State.Gather) a =>
        let (s, t', old, pz) := g.s.laneAtom s.cur g.t a.1 a.2 opc (atomV t f opc a.1.lane) (atomW t f opc a.1.lane)
        { s := s, t := t', lands := g.lands ++ landsOf t f.vd a.1.lane (atomLand opc old),
          bad := if pz then g.bad ++ [(a.1.lane, a.1.va, State.physOf a.2 a.1.va)] else g.bad }) { s := s1, t := t1, lands := [], bad := [] }
      let s2 := if ord % 2 = 1 && plain then g.s.acquireAt s.cur t (f.mod % 8) else g.s
      let o : Op := { id := 0, path := .atm, flag := t.flagOf f.fs, lands := g.lands, err := s.laneErr g.bad, tx := !plain, sys := sysAccs rs,
                      reqs := reqLines rs, pois := g.s.lanePois t rs g.bad }
      s2.finish (((g.t.issueOp o).noteWrite).acquired (ord % 2 == 1 && plain)) 1))

/-- ATOMSC (R224, R225): at the home core's scratch. -/
def execAtomsc (f : LaneF) (s : State) : Host.Outcome State Fault Refusal :=
  let opc := f.sub % 16; let ord := f.sub / 16; let n := atomSize opc
  s.laneScratch f .atm (group f.vd (n / 4) ++ group f.vc (atomRegs opc)) n (if 2 ≤ ord then f.mod % 8 else 0)
      (if ord % 2 = 1 then f.mod % 8 else 0) (fun t =>
    let s1 := if 2 ≤ ord then s.releaseAt s.cur t (f.mod % 8) else s
    let g := (lanesOf t.exec).foldl (fun (g : State.Gather) l =>
      let off := State.lAddr t f l
      let (s', old, pz) := scrLoad s.cur t.weave off n g.s
      let old := if pz then 0 else old
      let s' := if pz then s' else scrStore s.cur t off (bytesOf (atomOp opc old (atomV t f opc l) (atomW t f opc l)) n) s'
      { g with s := s', lands := g.lands ++ landsOf t f.vd l (atomLand opc old), bad := if pz then g.bad ++ [(l, off, 0)] else g.bad })
      { s := s1, t := t, lands := [], bad := [] }
    let s2 := if ord % 2 = 1 then g.s.acquireAt s.cur t (f.mod % 8) else g.s
    s2.finish (((t.issueOp { id := 0, path := .atm, flag := t.flagOf f.fs, lands := g.lands, err := s.laneErr g.bad, pois := g.s.scrPois t.weave g.bad }).noteWrite).acquired (ord % 2 == 1)) 1)

/-- RED (R226): address and operand at issue, into the combining buffer or where R226 says. -/
def execRed (f : LaneF) (s : State) : Host.Outcome State Fault Refusal :=
  let opc := f.sub % 16; let ord := f.sub / 16
  s.budgetedG f (group f.vc (atomRegs opc)) (fun t => laneAccs t (State.gAddr t f) (atomSize opc) true true) (fun t =>
    s.laneGlobal t .st (laneAccs t (State.gAddr t f) (atomSize opc) true true) (ord == 2 && f.mod % 8 == 5)
      (relScope t (ord == 2) f) 0 (fun s1 t1 rs =>
      let s1 := if ord = 2 && !(State.anyTx t rs) then s1.releaseAt s.cur t (f.mod % 8) else s1
      let r := rs.foldl (fun (r : State × Strand) a => r.1.laneRed s.cur r.2 a.1 a.2 opc (atomV t f opc a.1.lane)) (s1, t1)
      r.1.finish ((r.2.issueOp { id := 0, path := .st, flag := t.flagOf f.fs, reqs := reqLines rs }).noteWrite) 1))

/-- One lane of PREF: a lane whose address would fault fetches nothing (R227). -/
def prefLane (f : LaneF) (t : Strand) (l : Nat) (s : State) : State × Option (Nat × Nat × Tlb) :=
  let va := State.gAddr t f l
  match s.xlate t.part t.ctx t.core va t.priv .read with
  | .error _ => (s, none)
  | .ok e =>
    let s := s.touch t.part t.ctx t.core va false
    let pa := State.physOf e va
    let s := if f.sub.testBit 0 then (s.combine pa).l2Read t.core t.ctx pa else s.readPrep t.core pa e.coh t.ctx
    (s, some (l, pa, e))

/-- The fetches of PREF: those of the lanes whose address does not fault (R227). -/
def prefAccs (f : LaneF) (t : Strand) (s : State) : List (Acc × Tlb) :=
  (lanesOf t.exec).filterMap (fun l =>
    match s.xlate t.part t.ctx t.core (State.gAddr t f l) t.priv .read with
    | .ok e => some ({ lane := l, va := State.gAddr t f l, size := 1, rd := true, wr := false }, e)
    | .error _ => none)

/-- PREF (R227): it waits where the core's requests or the memory arbiters make it (R81, R219, R268). -/
def execPref (f : LaneF) (s : State) : Host.Outcome State Fault Refusal :=
  s.budgeted f (State.gRegs f) (fun t =>
    if s.mustWait t .ld (prefAccs f t s) 0 0 then s.hold t (s.waitKind t .ld (prefAccs f t s) 0 0) else
    let r := (lanesOf t.exec).foldl (fun (r : State × List (Nat × Nat × Tlb)) l =>
      let (s, o) := prefLane f t l r.1
      (s, r.2 ++ o.toList)) (s, [])
    let (m, s2) := if f.mod.testBit 4 then State.pinLanes t.part t.ctx r.2 r.1 else (0#128, r.1)
    let s2 := if f.sub.testBit 0 then s2 else s2.markRo t.core (State.roLines (f.mod.testBit 3) (r.2.map (fun x => x.2)))
    s2.finish (t.issueOp { id := 0, path := .ld, flag := t.flagOf f.fs, lands := if f.mod.testBit 4 then quadLands f.vd m else [], reqs := (r.2.map (fun x => x.2.1 / 256)).eraseDups.length }) 1)

end Sys2Proof.Machine
end

