-- ==== Sys2Proof/Machine/Clasp.lean ====
section
/-!
DEFINITION. Clasps: the object, arrivals, phases, waits and membership (spec/06 R175 to R177, spec/02 R41, R43, R44, R46,
spec/03 R101, R102).
-/
namespace Sys2Proof.Machine
open Sys2Proof

/-- The words of a clasp object (R175); counts are 32-bit words, SEQ 16 bits. -/
structure Clasp where
  w0 : Word
  e : Word
  a : Word
  j : Word
  early : Word
  held : Word
  deriving DecidableEq, Repr

namespace Clasp
variable (c : Clasp)
def seq : Nat := fld c.w0.toNat 0 16
def inv : Bool := c.w0.getLsbD 16
def waiters : Bool := c.w0.getLsbD 17
def setSeq (v : Nat) : Clasp := { c with w0 := (c.w0 &&& 0xFFFF0000#32) ||| BitVec.ofNat 32 (v % 65536) }
def setBit (i : Nat) (b : Bool) : Clasp := { c with w0 := if b then c.w0 ||| (1#32 <<< i) else c.w0 &&& ~~~ (1#32 <<< i) }
/-- A token's phase has completed (R176). -/
def done (t : Nat) : Bool := let d := (c.seq + 65536 - t % 65536) % 65536; decide (1 ≤ d) && decide (d ≤ 0x7FFF)
end Clasp

/-- The place of an object: scratch of a weave, or a physical address (R175). -/
inductive CPlace where
  | scr (wk off : Nat)
  | mem (pa : Nat)
  deriving DecidableEq, Repr

namespace State
variable (s : State)

/-- The words of an object. -/
def claspRead (p : CPlace) : Clasp :=
  let w := fun i => match p with
    | .scr wk off => BitVec.ofNat 32 ((s.stashFill hwAgent wk off).scrRead wk (off + 4 * i) 4)
    | .mem pa => BitVec.ofNat 32 ((s.combine pa).homeRead (pa + 4 * i) 4)
  { w0 := w 0, e := w 1, a := w 2, j := w 3, early := w 4, held := w 5 }

/-- The words of an object that read as poison, by number (R345). -/
def claspPoison (p : CPlace) : List Nat :=
  (List.range 6).filter (fun i => match p with
    | .scr wk off => (s.stashFill hwAgent wk off).scrPoisoned wk (off + 4 * i) 4
    | .mem pa => s.readPoison 256 (pa + 4 * i) 0)

/-- Agent me reaches an object: its stash line is filled, its buffered copies combined; to other strands' transactions that is a read
(R79, R99, R107). -/
def claspPrep (me : Nat) (p : CPlace) : State :=
  match p with
  | .scr wk off => s.stashFill me wk off
  | .mem pa => (s.combine pa).doom me pa false

/-- The object's words written by agent me, in one step (R175). -/
def claspWrite (me : Nat) (p : CPlace) (c : Clasp) : State :=
  let bs := bytesOfWords [c.w0, c.e, c.a, c.j, c.early, c.held]
  match p with
  | .scr wk off => s.scrWrite me wk off bs
  | .mem pa => ((s.combine pa).doom me pa true).homeStore pa bs

/-- The scope of a clasp's releases and acquires (R102). -/
def claspScope (b : Bind) : Nat := if b.bolt then 4 else 1

/-- A strand waits in CLASP.WAIT on the object at `p`: the register of its token, and the scope. -/
def waitsOn (t : Strand) (p : CPlace) : Option (Nat × Nat) :=
  match t.wait, s.weave? t.weave with
  | .clasp h x, some w =>
    (match AMap.look w.binds h, p with
     | some b, .scr wk off => if b.bolt = false ∧ t.weave = wk ∧ b.addr = off then some (x, claspScope b) else none
     | some b, .mem pa => if b.bolt ∧ s.claspAt w b = some pa then some (x, claspScope b) else none
     | none, _ => none)
  | _, _ => none

/-- Waiters on the object at `p` whose token reads completed are released with status 0, all others with status 1 once INV is
set, in the step in which agent me changes the object; WAITERS stays set while one still waits (R175, R176, R177, R329). -/
def wakeClasp (me : Nat) (p : CPlace) : State :=
  let c := s.claspRead p
  let s1 := { s with strands := s.strands.map (fun e =>
    match s.waitsOn e.2 p with
    | none => e
    | some x => if c.done (fld (e.2.getS x.1).toNat 0 16) then (e.1, { e.2 with wait := .woke 0 x.2 })
                else if c.inv then (e.1, { e.2 with wait := .woke 1 x.2 }) else e) }
  let left := s1.strands.any (fun e => (s1.waitsOn e.2 p).isSome)
  if c.waiters = left then s1 else s1.claspWrite me p (c.setBit 17 left)

/-- The record of strand widx at handle h is kept under the lowest handle of the weave that is bound alike (R175); two handles that reach
one object by different addresses keep records of their own (log 18). -/
def canonH (w : Weave) (h : Nat) : Nat :=
  match AMap.look w.binds h with
  | none => h
  | some b => (match w.binds.find? (fun x => x.2 == b) with | some x => x.1 | none => h)
def recKey (w : Weave) (h widx : Nat) : Nat := 64 * canonH w h + widx
def member : CRec := { arrived := false, early := false, joins := false }

/-- Whether handle x of weave k, w, is bound to the object at `p`: to the scratch offset, or to the physical address (R175). -/
def sameObj (p : CPlace) (k : Nat) (w : Weave) (x : Nat × Bind) : Bool :=
  match p with
  | .scr wk off => k == wk && !x.2.bolt && x.2.addr == off
  | .mem pa => x.2.bolt && s.claspAt w x.2 == some pa

/-- A new phase begins: early arrivals become arrivals, joiners are members (R175, R43). -/
def shiftRecs (p : CPlace) : State :=
  { s with weaves := s.weaves.map (fun e =>
      let hs := (e.2.binds.filter (s.sameObj p e.1 e.2)).map (·.1)
      (e.1, { e.2 with recs := e.2.recs.map (fun r =>
        if hs.contains (r.1 / 64) then (r.1, { arrived := r.2.early, early := false, joins := false }) else r) })) }

/-- A phase completes, and the next as well while its new A equals a non-zero E (R175). -/
def completePhase (me : Nat) (p : CPlace) : Nat → Clasp → State → State
  | 0, c, s => (s.claspWrite me p c).wakeClasp me p
  | n + 1, c, s =>
    let c1 := { (c.setSeq (c.seq + 1)) with e := c.e + c.j, j := 0#32, a := c.early, early := 0#32 }
    let s1 := s.shiftRecs p
    if c1.a = c1.e ∧ c1.e ≠ 0#32 then completePhase me p n c1 s1 else (s1.claspWrite me p c1).wakeClasp me p

/-- The object a strand reaches through handle h, with its faults (R177, R327); it waits where its stash line must be filled and a serial
transaction holds that (R111). -/
def claspObj (me : Nat) (t : Strand) (h : Nat) (wr : Bool) : Except Stop (Weave × Bind × CPlace) :=
  match s.weave? t.weave with
  | none => .error (.fault { code := 0xE, sub := 1, arg := h })
  | some w =>
    match AMap.look w.binds h with
    | none => .error (.fault { code := 0xE, sub := 1, arg := h })
    | some b =>
      if b.bolt then
        match s.checkAcc me t { lane := 0, va := b.addr, size := 32, rd := true, wr := wr } true with
        | .error e => .error e
        | .ok e => if e.coh ≠ 0 then .error (.fault { code := 6, sub := 2, arg := b.addr }) else .ok (w, b, .mem (physOf e b.addr))
      else if b.addr % 32 ≠ 0 then .error (.fault { code := 3, arg := b.addr })
      else if w.scrLen < b.addr + 32 then .error (.fault { code := 7, sub := 2, arg := b.addr })
      else if s.stashWaits me t.weave b.addr then .error .wait
      else .ok (w, b, .scr t.weave b.addr)

/-- The object as an engine reaches it at a membership change.  A change leaves it as it is where the handle is bound to what no CLASP word
would reach: a misaligned object, a scratch offset outside the region, a bolt clasp on a page that is not mapped, not permitted or not
HC, or a poisoned object (DESIGN CHOICE, log 18: R43, R44 and R242 do not say). -/
def claspPlace (t : Strand) (w : Weave) (b : Bind) : Option CPlace :=
  let p := if b.bolt then
      match s.xlate t.part t.ctx t.core b.addr t.priv .write with
      | .error _ => none
      | .ok e => if e.coh ≠ 0 ∨ b.addr % 32 ≠ 0 then none else some (CPlace.mem (physOf e b.addr))
    else if b.addr % 32 ≠ 0 ∨ w.scrLen < b.addr + 32 then none else some (CPlace.scr t.weave b.addr)
  p.filter (fun p => (s.claspPoison p).isEmpty)

/-- The tail of an arrival: its count, and the phase's completion (R176). -/
def countArrival (me : Nat) (p : CPlace) (tok : Nat) (c : Clasp) : State :=
  if tok = c.seq then
    let c := { c with a := c.a + 1 }
    if c.a = c.e then completePhase me p 4 c s else s.claspWrite me p c
  else s.claspWrite me p { c with early := c.early + 1 }

/-- Strand k waits at its clasp no more, and has not been released: WAITERS falls where no other strand waits there (R175). -/
def claspUnwait (k : Nat) : State :=
  match s.strand? k with
  | none => s
  | some t =>
    let s1 := s.setStrand k { t with wait := .none }
    match t.wait, s.weave? t.weave with
    | .clasp h _, some w =>
      (match (AMap.look w.binds h).bind (s.claspPlace t w) with
      | some p =>
        let c := s.claspRead p
        if c.waiters && !s1.strands.any (fun e => (s1.waitsOn e.2 p).isSome) then s1.claspWrite k p (c.setBit 17 false) else s1
      | none => s1)
    | _, _ => s1

/-- The stop of a CLASP word whose object holds poison in one of the words `ws`: it is raised at the word, the object unchanged (R345,
DEDUCED, log 40). -/
def claspErr (b : Bind) (p : CPlace) (ws : List Nat) : Option FaultInfo :=
  ((s.claspPoison p).filter (ws.contains ·)).head?.map (fun i =>
    poisonErr s (b.addr + 4 * i) (match p with | .mem pa => pa | .scr _ _ => 0) 0#128)

end State

/-- A CLASP word: the object reached, or its stop; then the body, in the state that reaching it leaves.  `ws` are the words of the object
that it reads. -/
def claspGo (h : Nat) (wr : Bool) (ws : List Nat) (body : State → Strand → Weave → Bind → CPlace → Host.Outcome State Fault Refusal) (s : State) :
    Host.Outcome State Fault Refusal :=
  s.run (fun t => match s.claspObj s.cur t h wr with
    | .error e => s.stopped t e
    | .ok (w, b, p) => match s.claspErr b p ws with
      | some f => s.raise t f
      | none => let s := s.claspPrep s.cur p; s.run (fun t => body s t w b p))

/-- A bolt clasp's page is walked, as an access of the strand (R74). -/
def State.claspTouch (s : State) (t : Strand) (b : Bind) (wr : Bool) : State :=
  if b.bolt then s.touch t.part t.ctx t.core b.addr wr else s

/-- CLASP.INIT (R176, R177). -/
def execClaspInit (x h : Nat) (s : State) : Host.Outcome State Fault Refusal :=
  claspGo h true [0, 5] (fun s t w b p =>
    let c := s.claspRead p
    if c.waiters || c.held != 0#32 then s.raise t { code := 0xE, sub := 2, arg := h } else
    let c1 : Clasp := { w0 := c.w0 &&& 0xFFFE0000#32, e := t.getS x, a := 0#32, j := 0#32, early := 0#32, held := c.held }
    let recs := (s.members t.weave).foldl (fun r e => AMap.put r (State.recKey w h e.2.widx) State.member) w.recs
    (((s.claspTouch t b true).claspWrite s.cur p c1).updWeave t.weave (fun w => { w with recs := recs })).finish t 1) s

/-- CLASP.ARRIVE and ARRIVETX (R176).  One that waits on the strand's own early arrival tests INV again when it goes on, and
returns SEQ where it has been set meanwhile (log 18). -/
def arriveGo (tx : Bool) (x h : Nat) (s : State) : Host.Outcome State Fault Refusal :=
  claspGo h true (List.range 6) (fun s t w b p =>
    let c := s.claspRead p
    if c.inv then s.finish ((t.setS x (BitVec.ofNat 32 c.seq)).noteWrite) 1 else
    let key := State.recKey w h t.widx
    let r := AMap.get w.recs key State.member
    let next := r.joins || r.arrived
    if next && r.early then s.hold t .other
    else if s.releaseWaits s.cur t (State.claspScope b) then s.hold t .path else
    let tok := if next then (c.seq + 1) % 65536 else c.seq
    let w1 := { w with recs := AMap.put w.recs key (if next then { r with early := true } else { r with arrived := true }) }
    let t1 := (t.setS x (BitVec.ofNat 32 tok)).noteWrite
    let s1 := s.claspTouch t b true
    if tx && t.ops.any (fun o => o.tag == some h) then
      ((s1.claspWrite s.cur p { c with held := c.held + 1 }).updWeave t.weave (fun w2 =>
        { w2 with recs := w1.recs, helds := w1.helds ++ [{ h := h, bind := b, token := tok, widx := t.widx, upto := t.nextOp }] })).finish t1 1
    else
      let s2 := s1.releaseAt s.cur t (State.claspScope b)
      match s2.weave? t.weave with
      | none => s.finish t 1
      | some w2 => ((s2.setWeave t.weave { w2 with recs := w1.recs }).countArrival s.cur p tok (s2.claspRead p)).finish t1 1) s

/-- CLASP.ARRIVE (R176). -/
def execClaspArrive (x h : Nat) (s : State) : Host.Outcome State Fault Refusal := arriveGo false x h s
/-- CLASP.ARRIVETX (R176). -/
def execClaspArrivetx (x h : Nat) (s : State) : Host.Outcome State Fault Refusal := arriveGo true x h s

/-- A held arrival of strand k on handle h is ready: none of its tagged commands is outstanding (R176). -/
def heldReady (t : Strand) (a : HeldArr) : Bool := a.widx == t.widx && !t.ops.any (fun o => o.tag == some a.h && decide (o.id < a.upto))

/-- It takes effect now: neither its clasp's page is in transition (R90), nor must its release wait (R111). -/
def State.arrivalDue (s : State) (k : Nat) (t : Strand) (a : HeldArr) : Bool :=
  heldReady t a && !(a.bind.bolt && s.inTransition t.part t.ctx a.bind.addr) && !s.releaseWaits k t (State.claspScope a.bind)

/-- HELD_ARRIVAL_TAKES_EFFECT (R176, R101): a release, then the count, unless INV is set, at the object that the handle named when
ARRIVETX issued.  Where the object can no longer be reached the arrival is dropped and HELD stays (log 18). -/
def State.heldArrival (s : State) (k h : Nat) : State :=
  match s.strand? k with
  | none => s
  | some t =>
    match s.weave? t.weave with
    | none => s
    | some w =>
      match w.helds.find? (fun a => a.h == h && s.arrivalDue k t a) with
      | some a =>
        let b := a.bind
        let drop := fun (s : State) => s.updWeave t.weave (fun w => { w with helds := w.helds.erase a })
        (match s.claspPlace t w b with
         | none => drop s
         | some p =>
           let s1 := ((drop s).releaseAt k t (State.claspScope b)).claspPrep k p
           let c := s1.claspRead p
           let c := { c with held := c.held - 1 }
           if c.inv then s1.claspWrite k p c else s1.countArrival k p a.token c)
      | none => s

/-- HELD_ARRIVAL_TAKES_EFFECT (R176). -/
def execHeldArrival (k h : Nat) (s : State) : Host.Outcome State Fault Refusal := .next (s.heldArrival k h)

/-- A CLASP word that finds its token's phase complete: an acquire, which may have to wait (R102, R111, R176). -/
def State.claspAcquired (s : State) (t : Strand) (x scope : Nat) (v : Word) : Host.Outcome State Fault Refusal :=
  if s.acquireWaits s.cur t scope then s.hold t .path else (s.acquireAt s.cur t scope).finish (t.setS x v) 1

/-- CLASP.WAIT (R176): status 0 as an acquire, 1 when invalidated; a blocked wait sets WAITERS, and is released as wakeClasp says.
Its access to a bolt clasp is checked as a write, whether or not it comes to set WAITERS (log 18).  A wait that has been released ends with
its status whatever the handle names by then; one that has not resolves its handle again at each of its turns, so that after an UNREG it
raises CLASP, and after a REG it waits on the new object (DESIGN CHOICE, log 18: R177 does not say). -/
def execClaspWait (x h : Nat) (s : State) : Host.Outcome State Fault Refusal :=
  s.run (fun t0 => match t0.wait with
    | .woke 0 scope =>
      if s.acquireWaits s.cur t0 scope then .next s
      else (s.acquireAt s.cur t0 scope).finish { t0.setS x 0#32 with wait := .none } 1
    | .woke _ _ => s.finish { t0.setS x 1#32 with wait := .none } 1
    | _ => claspGo h true [0] (fun s t _ b p =>
        let c := s.claspRead p
        if c.done (fld (t.getS x).toNat 0 16) then (s.claspTouch t b true).claspAcquired t x (State.claspScope b) 0#32
        else if c.inv then (s.claspTouch t b true).finish (t.setS x 1#32) 1
        else ((s.claspTouch t b true).claspWrite s.cur p (c.setBit 17 true)).hold t (.clasp h x)) s)

/-- CLASP.TEST (R176): where the token's phase has completed it reports that, though INV be set (DEDUCED, log 27). -/
def execClaspTest (x h : Nat) (s : State) : Host.Outcome State Fault Refusal :=
  claspGo h false [0] (fun s t _ b p =>
    let c := s.claspRead p
    let s1 := s.claspTouch t b false
    if c.done (fld (t.getS x).toNat 0 16) then s1.claspAcquired t x (State.claspScope b) 1#32
    else s1.finish (t.setS x (if c.inv then 2#32 else 0#32)) 1) s

/-- INV set by agent me, waiters released with status 1 in the same step (R177). -/
def State.invalidate (me : Nat) (s : State) (p : CPlace) : State := (s.claspWrite me p ((s.claspRead p).setBit 16 true)).wakeClasp me p

/-- CLASP.INVAL (R177). -/
def execClaspInval (h : Nat) (s : State) : Host.Outcome State Fault Refusal :=
  claspGo h true (List.range 6) (fun s t _ b p => (State.invalidate s.cur (s.claspTouch t b true) p).finish t 1) s

/-- A handle unbound: its records go, or pass to another handle of the object (R177); arrivals that ARRIVETX holds still take
effect at the object (R176). -/
def unbind (w : Weave) (h : Nat) : Weave :=
  let c := State.canonH w h
  let w1 := { w with binds := AMap.del w.binds h }
  if c ≠ h then w1 else
  match AMap.look w.binds h with
  | none => w1
  | some b =>
    let mine := w.recs.filter (fun r => r.1 / 64 == h)
    let rest := w.recs.filter (fun r => r.1 / 64 != h)
    match w1.binds.find? (fun x => x.2 == b) with
    | some x => { w1 with recs := mine.foldl (fun m r => AMap.put m (64 * x.1 + r.1 % 64) r.2) rest }
    | none => { w1 with recs := rest }

/-- A handle bound: every strand listed is a member of the current phase (R177). -/
def bindTo (w : Weave) (h : Nat) (b : Bind) (idxs : List Nat) : Weave :=
  let w1 := unbind w h
  let w2 := { w1 with binds := AMap.put w1.binds h b }
  { w2 with recs := idxs.foldl (fun r i => AMap.put r (State.recKey w2 h i) State.member) w2.recs }

/-- CLASP.REG (R177): reads and writes no object. -/
def execClaspReg (x h bolt : Nat) (s : State) : Host.Outcome State Fault Refusal :=
  s.run (fun t =>
    let b : Bind := { bolt := bolt == 1, addr := if bolt = 1 then (t.getPair x).toNat else (t.getS x).toNat }
    (s.updWeave t.weave (fun w => bindTo w h b ((s.members t.weave).map (·.2.widx)))).finish t 1)

/-- CLASP.UNREG (R177). -/
def execClaspUnreg (h : Nat) (s : State) : Host.Outcome State Fault Refusal :=
  s.run (fun t =>
    match s.weave? t.weave with
    | none => s.raise t { code := 0xE, sub := 1, arg := h }
    | some w =>
      match AMap.look w.binds h with
      | none => s.raise t { code := 0xE, sub := 1, arg := h }
      | some _ => (s.setWeave t.weave (unbind w h)).finish t 1)

/-! ### Membership changes (R43, R44, R46) -/

/-- The bound handles of a weave, one for each object. -/
def claspHandles (w : Weave) : List (Nat × Bind) := w.binds.filter (fun x => State.canonH w x.1 == x.1)

/-- k strands of indices idxs join, attached by strand me: J rises by k at each clasp; they are members from the next phase (R43, R46). -/
def State.claspJoin (me : Nat) (s : State) (t : Strand) (idxs : List Nat) : State :=
  match s.weave? t.weave with
  | none => s
  | some w =>
    (claspHandles w).foldl (fun s (h, b) =>
      let s := s.releaseAt me t (State.claspScope b)
      let s := match s.claspPlace t w b with
        | none => s
        | some p => let s := s.claspPrep me p; let c := s.claspRead p; s.claspWrite me p { c with j := c.j + BitVec.ofNat 32 idxs.length }
      s.updWeave t.weave (fun w => { w with
        recs := idxs.foldl (fun r i => AMap.put r (64 * h + i) { State.member with joins := true }) w.recs })) s

/-- Strand me leaves every clasp of its weave, one atomic step each (R44, R45, R46). -/
def State.claspLeave (me : Nat) (s : State) (t : Strand) : State :=
  match s.weave? t.weave with
  | none => s
  | some w =>
    (claspHandles w).foldl (fun s (h, b) =>
      let r := AMap.get w.recs (64 * h + t.widx) State.member
      let s := (s.releaseAt me t (State.claspScope b)).updWeave t.weave (fun w => { w with recs := AMap.del w.recs (64 * h + t.widx) })
      match s.claspPlace t w b with
      | none => s
      | some p =>
        let s := s.claspPrep me p
        let c := s.claspRead p
        let c := if r.joins || r.arrived then { c with j := c.j - 1, early := if r.early then c.early - 1 else c.early }
                 else { c with e := c.e - 1 }
        if c.a = c.e then State.completePhase me p 4 c s else s.claspWrite me p c) s

end Sys2Proof.Machine
end

