-- ==== Sys2Proof/Machine/Place.lean ====
section
/-!
DEFINITION. Where strands go and what they hold when they are placed: carves, free slots and register room, reservations,
the admission budget, strand ids, resources that change owner (spec/01 R16, R17, spec/02 R42, R69, spec/11 R253, R255, R256,
R372, R373, spec/14 R277, spec/17 R313).
-/
namespace Sys2Proof.Machine
open Sys2Proof

namespace Desc
variable (d : Desc)
/-- Vector registers of a role (R252). -/
def budget (role : Nat) : Nat := 8 * ((match role with | 0 => d.bcopy | 1 => d.bmat | _ => d.bepi) + 1)
/-- Strands of a role launched per weave (R252). -/
def launched (role : Nat) : Nat := match role with | 0 => d.ncopy | 1 => d.nmat | _ => d.nepi
/-- L of R256. -/
def size : Nat := d.ncopy + d.nmat + d.nepi
end Desc

/-- A spindle as placement sees it: free slots ascending, vector registers left in its quarter, resident strands. -/
structure Spindle where
  free : List Nat
  room : Nat
  res : Nat
  deriving DecidableEq, Repr

/-- A strand of budget b fits the spindle. -/
def Spindle.fits (b : Nat) (x : Spindle) : Bool := !x.free.isEmpty && decide (b ≤ x.room)

/-- The spindle after a strand of budget b takes its lowest free slot. -/
def Spindle.take (b : Nat) (x : Spindle) : Spindle := { free := x.free.drop 1, room := x.room - b, res := x.res + 1 }

/-- The spindle a copy or epilogue strand goes on: the lowest that fits (R313), or the fewest resident of those (R42). -/
def pickSpindle (least : Bool) (b : Nat) (xs : List Spindle) : Option Nat :=
  let ok := (List.range xs.length).filter (fun i => match xs[i]? with | some x => x.fits b | none => false)
  match ok with
  | [] => none
  | i :: is => if least then some (is.foldl (fun m j =>
      if ((xs[j]?).map (·.res)).getD 0 < ((xs[m]?).map (·.res)).getD 0 then j else m) i) else some i

/-- One strand placed: its slot. -/
def place1 (least : Bool) (b : Nat) (xs : List Spindle) : Option (Nat × List Spindle) :=
  match pickSpindle least b xs with
  | none => none
  | some i => (match xs[i]? with | some x => some (x.free.headD 0, xs.set i (x.take b)) | none => none)

/-- A quad placed, one strand on each spindle (R40). -/
def place4 (b : Nat) (xs : List Spindle) : Option (List Nat × List Spindle) :=
  if xs.all (Spindle.fits b) then some (xs.map (fun x => x.free.headD 0), xs.map (Spindle.take b)) else none

/-- k strands of one role: their slots in index order. -/
def placeN (least : Bool) (b : Nat) : Nat → List Spindle → Option (List Nat × List Spindle)
  | 0, xs => some ([], xs)
  | n + 1, xs =>
    match place1 least b xs with
    | none => none
    | some (x, xs) => (match placeN least b n xs with | some (r, xs) => some (x :: r, xs) | none => none)

/-- n quads. -/
def placeQ (b : Nat) : Nat → List Spindle → Option (List Nat × List Spindle)
  | 0, xs => some ([], xs)
  | n + 1, xs =>
    match place4 b xs with
    | none => none
    | some (x, xs) => (match placeQ b n xs with | some (r, xs) => some (x ++ r, xs) | none => none)

/-- k strands of a role. -/
def placeRole (least : Bool) (role b k : Nat) (xs : List Spindle) : Option (List Nat × List Spindle) :=
  if role = 1 then placeQ b (k / 4) xs else placeN least b k xs

/-- What a reservation takes from a spindle: a slot and room, the lowest free slots left to those who come (R42, R181). -/
def Spindle.reserve (b : Nat) (x : Spindle) : Spindle := { free := x.free.dropLast, room := x.room - b, res := x.res + 1 }

/-- As many of k strands of a role as fit: what a reservation withholds (R181). -/
def withhold (role b : Nat) : Nat → List Spindle → List Spindle
  | 0, xs => xs
  | n + 1, xs =>
    if role = 1 then (if (n + 1) % 4 = 0 then (if xs.all (Spindle.fits b) then withhold role b n (xs.map (Spindle.reserve b)) else xs) else withhold role b n xs)
    else match pickSpindle true b xs with
      | some i => withhold role b n (xs.modify i (Spindle.reserve b))
      | none => xs

namespace State
variable (s : State)

/-- Resident strands of a core. -/
def onCore (core : Nat) : List Strand := (s.strands.filter (fun e => decide (e.1 < ccBase) && e.2.core == core)).map (·.2)

/-- The spindles of a core under a register carve of creg granules (R17). -/
def spindles (core creg : Nat) : List Spindle :=
  let on := s.onCore core
  (List.range 4).map (fun q =>
    let here := on.filter (fun t => t.slot / 24 == q)
    { free := ((List.range 24).map (24 * q + ·)).filter (fun n => !here.any (fun t => t.slot == n)),
      room := 32 * creg - (here.map (·.budget)).sum, res := here.length })

/-- The descriptor of a weave's launch. -/
def descOf (w : Weave) : Option Desc := (s.bolt? w.bolt).map (·.desc)

/-- Spindles with the reservations of the weaves at home on the core withheld, but n of role `role` of weave `wk` (R179, R181); a
reservation is no resident strand (R42). -/
def openSpindles (core creg wk role n : Nat) : List Spindle :=
  List.zipWith (fun (x y : Spindle) => { x with res := y.res }) (open_ core creg wk role n) (s.spindles core creg)
  where open_ (core creg wk role n : Nat) : List Spindle :=
   s.weaves.foldl (fun xs e =>
    if e.2.home = core then
      match s.descOf e.2 with
      | none => xs
      | some d => (List.range 3).foldl (fun xs r =>
          withhold r (d.budget r) (e.2.resv.getD r 0 - (if e.1 = wk ∧ r = role then n else 0)) xs) xs
    else xs) (s.spindles core creg)

/-- A core's carve admits a launch: it is equal, or the core holds no strand (R16, R42, R255). -/
def carveOk (core : Nat) (d : Desc) : Bool :=
  ((s.core core).creg == d.creg && (s.core core).cscr == d.cscr) || (s.onCore core).isEmpty

/-! ### The admission budget (R256, R277) -/

/-- Energy allowance of each cluster of a partition, nJ per control interval (R277). -/
def allowance (p : Part) : Nat := fld p.pwr.1.toNat 0 16 * (p.rd 0x8004).toNat * 2000 / (256 * max 1 (nclu p.cfg))
/-- Current headroom of a cluster, mA. -/
def headroom (p : Part) : Nat := fld p.pwr.2.toNat 0 16

/-- A charge of e nJ and i mA fits a cluster (R256). -/
def chargeFits (p : Part) (clu e i : Nat) : Bool :=
  let c := s.clu clu
  let e' := min e (allowance p)
  let i' := min i (headroom p)
  (e' == 0 || decide (c.energy + e' ≤ allowance p)) && (i' == 0 || decide ((c.held.map (·.2)).sum + i' ≤ headroom p))

/-- The charge is made: energy of the interval, current held under a key. -/
def charge (p : Part) (clu key e i : Nat) : State :=
  let c := s.clu clu
  let i' := min i (headroom p)
  s.setClu clu { c with energy := c.energy + min e (allowance p), held := if i' = 0 then c.held else c.held ++ [(key, i')] }

/-- The key under which the current of an attached strand is held, beside those of weaves. -/
def attKey (k : Nat) : Nat := 2 ^ 40 + k

/-- Strand j of k attached holds its part of the attach's current: the parts add up to the whole (R256, log 30). -/
def attShare (p : Part) (ipk L j : Nat) : Nat :=
  let cum := fun (n : Nat) => min ((ipk * n + L - 1) / max 1 L) (headroom p)
  cum (j + 1) - cum j

/-- Current held under a key is released (R256). -/
def dropHeld (clu key : Nat) : State := s.setClu clu { s.clu clu with held := (s.clu clu).held.filter (fun h => h.1 != key) }

/-! ### Ids (R372) -/

/-- Strand ids held in a partition, saved contexts included. -/
def idsOf (part : Nat) : List Nat :=
  ((s.strands.filter (fun e => decide (e.1 < ccBase) && e.2.part == part)).map (·.2.sid))
    ++ (match s.part? part with | some p => (p.saved.filter (·.out)).flatMap (fun v => v.strands.map (·.2.sid)) | none => [])

/-- The lowest number not in a list, from n. -/
def lowestFree (xs : List Nat) : Nat → Nat → Nat
  | 0, n => n
  | f + 1, n => if xs.contains n then lowestFree xs f (n + 1) else n

def freeId (part : Nat) : Nat := lowestFree (s.idsOf part) (s.idsOf part).length 0

/-! ### Owners (R16, R69) -/

/-- A core's dirty sectors go home; its L1 and constant cache are empty. -/
def scrubCore (core : Nat) : State :=
  let s := s.l1CleanAll core (fun _ => true) true
  s.setCore core { s.core core with cc := [] }

/-- A context has a strand resident in a cluster in this control interval (R281). -/
def noteCtx (clu ctx : Nat) : State :=
  let c := s.clu clu
  if c.ctxs.contains ctx then s else s.setClu clu { c with ctxs := c.ctxs ++ [ctx] }

/-- A core's dirty sectors cannot go home now: a serial transaction of another strand holds one (R111), or the partition is frozen
(R353). -/
def scrubHeld (core : Nat) : Bool :=
  (s.core core).l1.any (fun e => e.2.dirty != 0#16 && (s.frozenClu (core / 2) || s.serialHolds hwAgent (64 * e.1) true))

/-- The core already stands as a launch of a context needs it: nothing of it is scrubbed (R69). -/
def coreStands (core ctx creg cscr : Nat) : Bool :=
  let c := s.core core
  c.creg == creg && c.cscr == cscr && (c.lastCtx == some ctx || c.lastCtx == none)

/-- The core cannot be taken for a context yet. -/
def takeWaits (core ctx creg cscr : Nat) : Bool := !s.coreStands core ctx creg cscr && s.scrubHeld core

/-- The core's carve and context as a launch, an attach or a restore needs them, before a strand is placed there: the last context
that ran on the core is that of the strand placed there last (log 59). -/
def takeCore (core ctx creg cscr : Nat) : State :=
  let s := if s.coreStands core ctx creg cscr then s else s.scrubCore core
  (s.setCore core { s.core core with creg := creg, cscr := cscr, lastCtx := some ctx }).noteCtx (core / 2) ctx

/-- The core as a launch's descriptor needs it. -/
def claimCore (core ctx : Nat) (d : Desc) : State := s.takeCore core ctx d.creg d.cscr

end State

/-- A strand placed in a slot, every register zero (R29, R42, R69, R126). -/
def newStrand (sid wk widx role core slot budget part ctx : Nat) (priv : Bool) (sbase lbase hspc : DWord) (first : Word)
    (quad now : Nat) : Strand :=
  { sid := sid, weave := wk, widx := widx, role := role, core := core, slot := slot, budget := budget, part := part, ctx := ctx,
    priv := priv, hspc := hspc, first := first, item := 0, nl := 0, ns := 0, seta := 15, setb := 15, sbase := sbase,
    lbase := lbase, hsbase := 0#64, hlbase := 0#64, s := [], v := [], capS := [], capt := [], noCap := [], capH := [], capBad := [], lost := false,
    exec := BitVec.allOnes 128,
    live := BitVec.allOnes 128, fmt := 0#32, rot := 0#32, stage := 0#8, region := 0#32, status := 0#32, txstat := 0#32,
    loops := [], lfTop := 0, rets := [], ops := [], nextOp := 0, claims := [], acq := 0, lfsr := Strand.lfsrSeed 0#32,
    spin := { log := [], hash := none, count := 0, wrote := false }, tx := none, hnd := false, frame := 0, pend := none,
    held := [], run := .going, clk := 0#64, csrLo := [], csrHi := [],
    mx := { quad := quad, batch := 0, opened := 0, counts := [], q := [], mopf := 0, dis := [], old := [], save := [] },
    leave := .no, wait := .none, since := now, bad := [],
    tr := { on := false, bits := [], block := [], ts := 0, count := 0, lost := 0, holding := false, sync := none, freed := false,
            last := 0, off := false, ended := false, lostTs := 0 },
    delay := none, edge := false, pass := false, passW := false, passH := (false, false), seqNo := 0, splits := [], seqs := [], splitsH := [] }

end Sys2Proof.Machine
end

