-- ==== Sys2Proof/Machine/Matrix.lean ====
section
/-!
DEFINITION. The matrix engine: posting, meeting, batches, MZERO and MSTORE (spec/08 R229 to R239, spec/04 R127 to R131,
spec/20 R347, R352).
-/
namespace Sys2Proof.Machine
open Sys2Proof

/-! ### Quads, batches -/

/-- The resident members of a quad, by spindle (R40). -/
def State.quadOf (s : State) (q : Nat) : List (Nat × Strand) :=
  if q = 0 then [] else
  (List.range 4).flatMap (fun sp => s.strands.filter (fun e => decide (e.1 < ccBase) && e.2.mx.quad == q && e.2.slot / 24 == sp))

/-- The posted MMAs of a member that have not met, oldest first (R232). -/
def mmasOf (t : Strand) : List Posted := t.mx.q.filterMap (fun o => match o with | .mma p => some p | .zero _ _ _ => none)

/-- MMAs counted in a batch. -/
def mmaCount (t : Strand) (b : Nat) : Nat := AMap.get t.mx.counts b 0

/-- An MZERO's write (R236). -/
def zeroRegs (t : Strand) (regs : List Nat) (m : Mask) : Strand :=
  regs.foldl (fun t r =>
    { t.putV r ((List.range 128).map (fun l => if m.getLsbD l then 0#32 else Vec.lane (t.getV r) l)) with
      bad := t.bad.filter (fun b => !(decide (512 + 128 * r ≤ b) && decide (b < 640 + 128 * r) && m.getLsbD (b % 128))) }) t

/-- MZEROs at the head of the member's matrix order take effect (R236). -/
def drainMx (t : Strand) : List MxOp → Strand
  | .zero rs m _ :: q => drainMx (zeroRegs t rs m) q
  | q => { t with mx := { t.mx with q := q } }
def Strand.drainZero (t : Strand) : Strand := drainMx t t.mx.q

/-- QUAD held against a batch (R341). -/
def quadHeld (b : Nat) : FaultInfo := { code := 0xD, sub := 1, arg := b }

/-- The open batch closes, assigned to a flag: one operation of the mx path (R235). -/
def closeBatch (t : Strand) (flag : Option Nat) : Strand :=
  let b := t.mx.batch
  let d := t.mx.dis.find? (fun x => x.1 == b)
  let t1 := t.issueOp { id := 0, path := .mx, flag := flag, batch := some b, err := d.map (fun _ => quadHeld b) }
  let ops := match d with
    | some x => t1.ops.map (fun o => if o.id = t.nextOp then { o with spc := x.2.1, item := x.2.2 } else o)
    | none => t1.ops
  { t1 with ops := ops, mx := { t.mx with batch := b + 1, opened := 0, dis := t.mx.dis.filter (fun x => x.1 != b) } }

/-- DETACH and an EXIT that empties LIVE close the open batch without a flag (R235). -/
def closeOpen (t : Strand) : Strand := if t.mx.opened = 0 then t else closeBatch t none

/-- A discarded MMA holds QUAD against its batch (R352). -/
def holdQuad (t : Strand) (p : Posted) : Strand :=
  if t.ops.any (fun o => o.batch == some p.batch) then
    { t with ops := t.ops.map (fun o => if o.batch = some p.batch ∧ o.err = none then
        { o with err := some (quadHeld p.batch), spc := p.spc, item := p.item } else o) }
  else if t.mx.dis.any (fun x => x.1 == p.batch) then t
  else { t with mx := { t.mx with dis := t.mx.dis ++ [(p.batch, p.spc, p.item)] } }

/-- A partner's posted MMAs are discarded (R352). -/
def dropPosted (t : Strand) : Strand :=
  let ps := mmasOf t
  let t := { t with mx := { t.mx with q := t.mx.q.filter (fun o => match o with | .mma _ => false | .zero _ _ _ => true) } }
  (ps.foldl holdQuad t).drainZero

/-- The departing member's own discarded MMAs no longer count at their positions (R352). -/
def dropOwn (t : Strand) : Strand :=
  let ps := mmasOf t
  let counts := ps.reverse.foldl (fun c p => AMap.set c p.batch p.pos 0) t.mx.counts
  ({ t with mx := { t.mx with q := t.mx.q.filter (fun o => match o with | .mma _ => false | .zero _ _ _ => true), counts := counts } }).drainZero

/-- The writes that an MMA posted now may miss: those of an element since the last one that a MOPF has covered (R103, log 51). -/
def oldKept (t : Strand) : List (Nat × Word × Nat) :=
  t.mx.old.foldr (fun e r => if t.mx.mopf < e.2.2 && !r.2.contains e.1 then (e :: r.1, r.2) else (r.1, e.1 :: r.2)) ([], []) |>.1

/-- The quad of strand k loses its posted MMAs that have not met (R233, R352). -/
def State.discardQuad (s : State) (k : Nat) (t : Strand) : State :=
  ((s.quadOf t.mx.quad).filter (fun e => e.1 != k)).foldl (fun s e => s.setStrand e.1 (dropPosted e.2)) s

/-! ### MMA: issue (R230, R232, R233) -/

/-- Element bits and K of a class (R118, R229). -/
def mmaBits (cls : Nat) : Nat := match cls with | 0 => 16 | 1 => 8 | 2 => 8 | _ => 4
def mmaK (cls : Nat) : Nat := 16 * (32 / mmaBits cls)
def mmaRegs (r n : Nat) : List Nat := (List.range n).map (r + ·)

def tileA (f : LaneF) : Nat := 128 * fld f.imm 0 14
def tileB (f : LaneF) : Nat := 128 * fld f.imm 14 14
def blockJ (f : LaneF) : Nat := fld f.imm 28 2

/-- ILLEGAL of MMA by FMT and the mapped registers (R230). -/
def mmaIllegal (t : Strand) (f : LaneF) : Bool :=
  let bad := match t.scaleFmt with | 0 => f.imm != 0 | 1 => decide (2 ^ 30 ≤ f.imm) | 2 => decide (2 ^ 16 ≤ f.imm) | _ => false
  bad || (f.mod.testBit 0 && t.accFmt != 1)
    || (let d := (mmaRegs f.vd 32).map t.rotN
        (t.rotN f.vb :: (mmaRegs f.va 16).map t.rotN).any d.contains)

/-- FORMAT of MMA (R120, R131, R230), not raised with no active lane (R241). -/
def mmaFormat (t : Strand) (f : LaneF) : Bool :=
  t.exec != 0#128 && (t.fmtBad || match fmtClass t with
    | none => true
    | some c => c == 4 || (c == 2 && t.scaleFmt == 2 && (fld f.imm 0 8 == 255 || fld f.imm 8 8 == 255)))

/-- The registers of an MMA, which must stand below the budget (R142, R241). -/
def mmaNames (f : LaneF) : List Nat := mmaRegs f.vd 32 ++ mmaRegs f.va 16 ++ [f.vb]

/-- SCALE_LAYOUT of MMA (R130, R338), not raised with no active lane (R241). -/
def mmaLayout (len : Nat) (t : Strand) (f : LaneF) : Option FaultInfo :=
  if t.scaleFmt ≠ 1 ∨ t.exec = 0#128 then none else
  let nb := mmaK ((fmtClass t).getD 0) / 32
  if len < tileA f + 512 then some { code := 0xC, sub := 2, arg := tileA f }
  else if len < tileB f + 128 then some { code := 0xC, sub := 2, arg := tileB f }
  else if blockJ f % nb ≠ 0 ∨ 4 < blockJ f + nb then some { code := 0xC, sub := 3, arg := tileA f }
  else none

/-- The checked fields of R232. -/
def mmaRef (f : LaneF) (fmt : Word) : List Nat :=
  let sc := fld fmt.toNat 14 2
  [fld fmt.toNat 0 3, fld fmt.toNat 3 3, fld fmt.toNat 11 3, sc, f.mod, if sc = 2 then fld f.imm 8 8 else 0,
   if sc = 1 then tileB f else 0, if sc = 1 then blockJ f else 0]

/-- A member can no longer post at position j of batch b (R233, R352). -/
def closedWithout (x : Strand) (b j : Nat) : Bool := x.leave != .no || (decide (b < x.mx.batch) && decide (mmaCount x b ≤ j))

/-- QUAD at the posting of an MMA (R233). -/
def mmaQuad (s : State) (me : Nat) (t : Strand) (f : LaneF) : Option FaultInfo :=
  if t.mx.quad = 0 then some { code := 0xD, sub := 2, arg := 0, lanes := t.exec } else
  let b := t.mx.batch
  let j := mmaCount t b
  let others := ((s.quadOf t.mx.quad).filter (fun e => e.1 != me)).map (·.2)
  let here := fun (x : Strand) => (mmasOf x).find? (fun p => p.batch == b && p.pos == j)
  if others.length ≠ 3 ∨ others.any (fun x => closedWithout x b j)
      ∨ others.any (fun x => match here x with | some p => mmaRef p.f p.fmt != mmaRef f t.fmt | none => false)
  then some { code := 0xD, arg := b, lanes := t.exec } else none

/-- The operations a MOPF waits for are complete (R103, R234). -/
def mopfClear (t : Strand) : Bool := !t.ops.any (fun o => (o.path == .ld || o.path == .sc) && decide (o.id < t.mx.mopf))

/-- The fault of an MMA that has active lanes, up to the pairing's (R230, R327). -/
def mmaFault (s : State) (t : Strand) (f : LaneF) : Option FaultInfo :=
  if mmaIllegal t f then some (illegalLane 0x90 f t)
  else if mmaFormat t f then some { code := 0x17, arg := t.fmt.toNat, lanes := t.exec }
  else match t.overBudget (mmaNames f) with
    | some r => some { code := 8, arg := r, lanes := t.exec }
    | none => (mmaLayout (s.scrLen t.weave) t f).map (fun e => { e with lanes := t.exec })

/-- MMA (R230 to R233): checked, then posted.  With no active lane it raises nothing and meets its partners (R241); a strand that has no
quad has none to meet, and goes on (DEDUCED, log 57). -/
def execMma (f : LaneF) (s : State) : Host.Outcome State Fault Refusal :=
  s.laneItem f (fun t =>
    let none_ := t.exec == 0#128
    match (if none_ then none else mmaFault s t f) with
    | some e => s.raise t e
    | none =>
      if none_ && t.mx.quad == 0 then s.finish t 1
      else if 2 ≤ (mmasOf t).length then s.hold t .quad
      else if !mopfClear t then s.hold t .other
      else match (if none_ then none else mmaQuad s s.cur t f) with
        | some e => s.raise t e
        | none =>
          let b := t.mx.batch
          let p : Posted := { f := f, fmt := t.fmt, rot := t.rot, exec := t.exec, batch := b, pos := mmaCount t b, spc := t.hspc, item := t.item,
                              miss := (oldKept t).map (fun e => (e.1, e.2.1, false)) }
          s.finish { t with mx := { t.mx with q := t.mx.q ++ [.mma p], opened := t.mx.opened + 1, old := oldKept t,
                                              counts := AMap.set t.mx.counts b (mmaCount t b + 1) 0 } } 1)

/-! ### MMA: the joint operation (R231) -/

/-- Element e of a vector register, as State numbers them (R346). -/
def putEl (t : Strand) (e : Nat) (x : Word) : Strand :=
  if e < 512 then t else t.putV ((e - 512) / 128) ((t.getV ((e - 512) / 128)).set (e % 128) x)

/-- The strand as the engine reads it: under a partial accumulation the accumulators as they were before it, and its uncorrectable
vector elements as 0 (R104, R347). -/
def cleanBad (t : Strand) : Strand :=
  let t := t.mx.save.foldl (fun t e => putEl t e.1 e.2) t
  t.bad.foldl (fun t b => putEl t b 0#32) t

/-- The values of elements as an engine has them that has missed their newest writes for MMA p, one for each time that an element is
listed (R103, R237, log 51). -/
def missedVals (els : List Nat) (p : Posted) : List (Nat × Word) :=
  els.eraseDups.filterMap (fun e =>
    let ws := p.miss.filter (fun w => w.1 == e)
    (ws[ws.length - min ws.length (els.count e)]?).map (fun w => (e, w.2.1)))

/-- The strand as such an engine reads it. -/
def missed (els : List Nat) (p : Posted) (t : Strand) : Strand :=
  ((missedVals els p).filter (fun e => decide (e.1 < 2 ^ 20))).foldl (fun t e => putEl t e.1 e.2) t

/-- An element that the strand, or another through the window, has written since MMA p was posted (R104). -/
def Posted.after (p : Posted) (e : Nat) : Bool := p.miss.any (fun w => w.1 == e && w.2.2)

/-- A member of the joint operation: key, strand as read, its posted MMA. -/
structure MMem where
  k : Nat
  t : Strand
  p : Posted

/-- Word i of the A row l of a member. -/
def MMem.aWord (m : MMem) (l i : Nat) : Word := Vec.lane (m.t.getV (Strand.rotOf m.p.rot (m.p.f.va + i))) l
/-- The B word of column n, word i (R229): free where a member with no active lane names a register beyond its budget, which R241 lets
pass (log 57). -/
def bWord (ms : List MMem) (n i : Nat) : Word :=
  match ms[n / 8]? with
  | some m =>
    let r := Strand.rotOf m.p.rot m.p.f.vb
    if m.t.budget ≤ r then Config.vacant m.t.weave m.t.sid m.t.seqNo (512 + 128 * r + 16 * (n % 8) + i)
    else Vec.lane (m.t.getV r) (16 * (n % 8) + i)
  | none => 0#32

/-- The 32 elements of block b of a row or column given by its words. -/
def blockEls (bits b : Nat) (word : Nat → Word) : List Nat :=
  (List.range 32).map (fun i => let k := 32 * b + i; elem (word (k * bits / 32)) (k % (32 / bits)) bits)

/-- A scale byte: its value, and whether its scratch word is poisoned (R129, R347). -/
def scaleByte (s : State) (wk off : Nat) : Nat × Bool := (s.scrRead wk off 1, s.scrPoisoned wk off 1)

/-- Scale bytes of row l and column n for block b; none where a tile word is uncorrectable (R127, R129, R347). -/
def mmaScale (s : State) (m : MMem) (l n b : Nat) : Option (Nat × Nat) :=
  match fld m.p.fmt.toNat 14 2 with
  | 0 => some (127, 127)
  | 2 => some (fld m.p.f.imm 0 8, fld m.p.f.imm 8 8)
  | _ =>
    let j := blockJ m.p.f + b
    let a := scaleByte s m.t.weave (tileA m.p.f + 128 * j + 4 * (l % 32) + ((l / 32) ^^^ j))
    let c := scaleByte s m.t.weave (tileB m.p.f + 4 * n + (j ^^^ (n % 4)))
    if a.2 || c.2 then none else some (a.1, c.1)

/-- One block of one element: the new accumulator, and whether an operand error arose (R231, R131, R347). -/
def mmaBlock (cls : Nat) (m : MMem) (sc : Option (Nat × Nat)) (as bs : List Nat) (acc : Word) : Word × Bool :=
  if cls = 2 then
    let r := fun (x : Int) => if m.p.f.mod.testBit 0 then clampW false (acc.toInt + x) else BitVec.ofInt 32 (acc.toInt + x)
    match sc with
    | none => (r 0, true)
    | some (ea, eb) =>
      if fld m.p.fmt.toNat 14 2 = 1 ∧ (ea = 255 ∨ eb = 255) then (r 0, true)
      else (r (shiftInt ((List.zipWith (fun a b => sextI a 8 * sextI b 8) as bs).foldl (· + ·) 0) ((ea : Int) + eb - 254)), false)
  else
    match sc with
    | none => (rneF32 (FVal.add false (f32 false acc) (.fin false 0 0)), true)
    | some (ea, eb) =>
      let fa := fpOfFmt (fld m.p.fmt.toNat 0 3); let fb := fpOfFmt (fld m.p.fmt.toNat 3 3)
      (blockAdd acc (fdotSum (List.zipWith (fun a b => FVal.mul (fa.unpack false a) (fb.unpack false b)) as bs)) ea eb
        (fld m.p.fmt.toNat 14 2 != 0), false)

/-- The first nb blocks of D(l, n) of a member, in ascending K (R231). -/
def mmaPart (s : State) (cls : Nat) (ms : List MMem) (m : MMem) (l n nb : Nat) : Word × Bool :=
  let bits := mmaBits cls
  (List.range nb).foldl (fun (r : Word × Bool) b =>
    let x := mmaBlock cls m (mmaScale s m l n b) (blockEls bits b (m.aWord l)) (blockEls bits b (bWord ms n)) r.1
    (x.1, r.2 || x.2)) (Vec.lane (m.t.getV (Strand.rotOf m.p.rot (m.p.f.vd + n))) l, false)

/-- D(l, n) of a member (R231). -/
def mmaElem (s : State) (cls : Nat) (ms : List MMem) (m : MMem) (l n : Nat) : Word × Bool := mmaPart s cls ms m l n (mmaK cls / 32)

/-- Uncorrectable register elements a joint operation reads: supplier, ARG low word, and whether every member uses it
(R347, R348 kind 4). -/
def mmaBadReads (bits : Nat) (sp : Nat) (t : Strand) (p : Posted) : List (Nat × Bool) :=
  t.bad.flatMap (fun b =>
    if b < 512 then [] else
    let r := (b - 512) / 128
    let l := b % 128
    let w := 32 / bits
    let batch := p.batch % 2 ^ 15 * 2 ^ 17
    (if p.exec.getLsbD l then
      ((List.range 16).filter (fun i => Strand.rotOf p.rot (p.f.va + i) == r)).map (fun i => (l + w * i * 128 + batch, false))
      ++ ((List.range 32).filter (fun n => Strand.rotOf p.rot (p.f.vd + n) == r)).map (fun n => (l + n * 128 + 2 * 32768 + batch, false))
     else [])
    ++ (if Strand.rotOf p.rot p.f.vb = r then [(8 * sp + l / 16 + w * (l % 16) * 128 + 32768 + batch, true)] else []))

/-- Uncorrectable scale bytes a member reads (R347, OPND 3); those of the B tile, which the members share, count for the first of them
(log 51). -/
def mmaBadScales (s : State) (nb : Nat) (t : Strand) (p : Posted) (first : Bool) : List Nat :=
  if fld p.fmt.toNat 14 2 ≠ 1 ∨ p.exec = 0#128 then [] else
  let batch := p.batch % 2 ^ 15 * 2 ^ 17
  (List.range nb).flatMap (fun i =>
    let j := blockJ p.f + i
    ((lanesOf p.exec).filter (fun l => s.scrPoisoned t.weave (tileA p.f + 128 * j + 4 * (l % 32) + ((l / 32) ^^^ j)) 1)).map
      (fun l => l + j * 128 + 3 * 32768 + batch)
    ++ ((List.range (if first then 32 else 0)).filter (fun n => s.scrPoisoned t.weave (tileB p.f + 4 * n + (j ^^^ (n % 4))) 1)).map
      (fun n => n + j * 128 + 3 * 32768 + batch))

/-- MXERR set in the status word (R144, R347). -/
def setMxerr (t : Strand) : Strand := { t with status := t.status ||| 1#32 }

/-- One kind-4 entry (R348). -/
def logMx (s : State) (t : Strand) (lo : Nat) (level : Nat) : State :=
  s.updPart t.part (fun p => p.logMe 4 t.ctx t.core t.slot level (lo + t.sid * 2 ^ 32))

/-- A member's results: D of its active lanes written, but for the elements of `kept`, which the engine has written before the strand did
(R104); the MMA leaves its place (R231, R232). -/
def mmaStore (kept : List Nat) (t : Strand) (p : Posted) (d : List Vec) : Strand :=
  let stays := fun (e : Nat) => kept.contains e && p.after e
  let t := (List.range 32).foldl (fun t n =>
    let r := Strand.rotOf p.rot (p.f.vd + n)
    let v := d.getD n []
    { t.putV r ((List.range 128).map (fun l =>
        if p.exec.getLsbD l && !stays (512 + 128 * r + l) then Vec.lane v l else Vec.lane (t.getV r) l)) with
      bad := t.bad.filter (fun b => !(decide (512 + 128 * r ≤ b) && decide (b < 640 + 128 * r) && p.exec.getLsbD (b % 128) && !stays b)) }) t
  ({ t with mx := { t.mx with q := t.mx.q.drop 1, save := [] } }).drainZero

/-- The stash lines of the scale tiles that a member reads are filled (R79, R129). -/
def tileFill (s : State) (nb : Nat) (t : Strand) (p : Posted) : State :=
  if fld p.fmt.toNat 14 2 ≠ 1 ∨ p.exec = 0#128 then s else
  ((List.range nb).foldl (fun s i => State.stashFill s hwAgent t.weave (tileA p.f + 128 * (blockJ p.f + i))) s).stashFill hwAgent t.weave (tileB p.f)

/-- Scratch as an engine reads the scale tiles that has missed the writes of the listed words (R103, log 51). -/
def missedTiles (miss : Nat → List Nat) (es : List (Nat × Strand × Posted)) (s : State) : State :=
  es.zipIdx.foldl (fun (s : State) e =>
    ((missedVals (miss e.2) e.1.2.2).filter (fun o => decide (2 ^ 20 ≤ o.1))).foldl (fun (s : State) o =>
      s.updWeave e.1.2.1.weave (fun w => { w with
        scr := (List.range 4).foldl (fun m i => AMap.set m (4 * (o.1 - 2 ^ 20) + i) (byteAt o.2.toNat i) 0#8) w.scr })) s) s

/-- The members as the engine reads them, member i having missed the listed writes of its elements. -/
def engineView (miss : Nat → List Nat) (es : List (Nat × Strand × Posted)) : List MMem :=
  es.zipIdx.map (fun e => { k := e.1.1, t := missed (miss e.2) e.1.2.2 (cleanBad e.1.2.1), p := e.1.2.2 })

/-- The joint operation of four members whose oldest posted MMAs share a position (R231).  It reads its operands and its scale
tiles at one moment, that of the meeting, and writes D then: of the moments that R103 leaves open the model takes that one, and
gives it the values of earlier ones through the writes that the engine has missed, the accumulators that a program may see
before the meeting through Mx.save, and the strand's own writes that are not overwritten through `kept` (log 51).  The class is that of a
member with an active lane: one without is not held to FMT's rules (R241). -/
def mmaJoint (miss kept : Nat → List Nat) (s : State) (es : List (Nat × Strand × Posted)) : State :=
  match (es.find? (fun e => e.2.2.exec != 0#128)).orElse (fun _ => es.head?) with
  | none => s
  | some (_, t0, p0) =>
    let cls := (fmtClass { t0 with fmt := p0.fmt }).getD 0
    let ms := engineView miss es
    let bits := mmaBits cls
    let s := es.foldl (fun s e => tileFill s (mmaK cls / 32) e.2.1 e.2.2) s
    let sr := missedTiles miss es s
    let res := ms.map (fun m => (List.range 32).map (fun n => (List.range 128).map (fun l =>
      if m.p.exec.getLsbD l then mmaElem sr cls ms m l n else (0#32, false))))
    let regBad := es.zipIdx.map (fun e => mmaBadReads bits e.2 e.1.2.1 e.1.2.2)
    let bBad := regBad.any (fun b => b.any (·.2)) && es.any (fun e => e.2.2.exec != 0#128)
    let first := (es.find? (fun e => e.2.2.exec != 0#128)).map (·.1)
    let scBad := es.map (fun e => mmaBadScales s (mmaK cls / 32) e.2.1 e.2.2 (first == some e.1))
    let s := (es.zipIdx).foldl (fun s e =>
      let d := (res.getD e.2 []).map (fun v => v.map (·.1))
      let err := ((res.getD e.2 []).any (fun v => v.any (·.2))) || (regBad.getD e.2 []).any (fun b => !b.2)
        || (bBad && e.1.2.2.exec != 0#128)
      let t := mmaStore (kept e.2) e.1.2.1 e.1.2.2 d
      s.setStrand e.1.1 (if err then setMxerr t else t)) s
    (es.zipIdx).foldl (fun s e =>
      let used := (regBad.getD e.2 []).filter (fun b => !b.2 || es.any (fun x => x.2.2.exec != 0#128))
      let s := used.foldl (fun s b => logMx s e.1.2.1 b.1 1) s
      (scBad.getD e.2 []).foldl (fun s b => logMx s e.1.2.1 b 2) s) s

/-- The position a member's oldest posted MMA stands at. -/
def headPos (t : Strand) : Option (Nat × Nat) := (mmasOf t).head?.map (fun p => (p.batch, p.pos))

/-- All four members of the quad have posted the position of strand t's oldest MMA (R232). -/
def State.quadReady (s : State) (t : Strand) : Bool :=
  let ms := s.quadOf t.mx.quad
  ms.length == 4 && headPos t != none && ms.all (fun e => headPos e.2 == headPos t)

/-- The quad's members with their oldest posted MMAs. -/
def State.quadHeads (s : State) (t : Strand) : List (Nat × Strand × Posted) :=
  (s.quadOf t.mx.quad).filterMap (fun e => match (mmasOf e.2).head? with | some p => some (e.1, e.2, p) | none => none)

/-- The oldest posted MMA of strand k's quad meets, when its four members have posted it (R231, R232). -/
def State.meet (s : State) (miss kept : Nat → List Nat) (k : Nat) : State :=
  match s.strand? k with
  | none => s
  | some t => if s.quadReady t then mmaJoint miss kept s (s.quadHeads t) else s

/-- Every MMA that the four members have posted meets: two at most (R232). -/
def State.meetAll (s : State) (k : Nat) : State := (s.meet (fun _ => []) (fun _ => []) k).meet (fun _ => []) (fun _ => []) k

/-- MMA_MEET (R231, R232). -/
def execMmaMeet (k : Nat) (s : State) : Host.Outcome State Fault Refusal := .next (s.meet (fun _ => []) (fun _ => []) k)

/-- A partial accumulation shows in one accumulator element of strand k's oldest MMA: the sum of its first b blocks (R104). -/
def State.partialSum (s : State) (k l n b : Nat) : State :=
  match s.strand? k with
  | none => s
  | some t =>
    match (s.quadHeads t).findIdx? (fun e => e.1 == k), (mmasOf t).head? with
    | some i, some p =>
      let cls := (fmtClass { t with fmt := p.fmt }).getD 0
      let ms := engineView (fun _ => []) (s.quadHeads t)
      let e := 512 + 128 * Strand.rotOf p.rot (p.f.vd + n) + l
      if s.quadReady t && p.exec.getLsbD l && decide (l < 128) && decide (n < 32) then
        match ms[i]? with
        | none => s
        | some m =>
          let save := if (AMap.look t.mx.save e).isSome then t.mx.save else AMap.put t.mx.save e (Vec.lane (t.getV ((e - 512) / 128)) l)
          s.setStrand k { putEl t e (mmaPart s cls ms m l n (min b (mmaK cls / 32))).1 with mx := { t.mx with save := save } }
      else s
    | _, _ => s

/-- MOPF (R234). -/
def execMopf (f : LaneF) (s : State) : Host.Outcome State Fault Refusal :=
  s.laneItem f (fun t => s.finish { t with mx := { t.mx with mopf := t.nextOp, old := t.mx.old.map (fun e =>
    if e.2.2 = 2 ^ 64 then (e.1, e.2.1, 0) else e) } } 1)

/-- MBATCH (R233, R235). -/
def execMbatch (f : LaneF) (s : State) : Host.Outcome State Fault Refusal :=
  s.laneItem f (fun t =>
    let b := t.mx.batch
    let ahead := (s.quadOf t.mx.quad).any (fun e => e.1 != s.cur && decide (mmaCount t b < mmaCount e.2 b))
    if ahead then s.raise t { code := 0xD, arg := b, lanes := t.exec }
    else if pathFull t .mx then s.hold t .path
    else s.finish (closeBatch t (t.flagOf f.fs)) 1)

/-- Every operation of batches up to b of a member is done. -/
def batchDone (t : Strand) (b : Nat) : Bool :=
  !t.mx.q.any (fun o => match o with | .mma p => decide (p.batch ≤ b) | .zero _ _ c => decide (c ≤ b))

/-- BATCH_RETIRE (R235): strand k's oldest closed batch, when its operations are done. -/
def execBatchRetire (k : Nat) (s : State) : Host.Outcome State Fault Refusal :=
  .next (match s.oldest k .mx with
    | none => s
    | some (t, o) =>
      match o.batch with
      | some b => if batchDone t b then s.completeOp k .mx else s
      | none => s.completeOp k .mx)

/-- MZERO (R236, R241): in the member's matrix order.  It writes its zeros at once where no unmet MMA stands before it, else when the last
of those has met: a lane that reads the registers before WAITP mx then obtains zero, or the value before (DESIGN CHOICE, log 51: R104
leaves open which). -/
def execMzero (f : LaneF) (s : State) : Host.Outcome State Fault Refusal :=
  s.laneItem f (fun t =>
    match t.overBudget (if t.exec = 0#128 then [] else mmaRegs f.vd 32) with
    | some r => s.raise t { code := 8, arg := r, lanes := t.exec }
    | none =>
      if !mopfClear t then s.hold t .other else
      let o := MxOp.zero ((mmaRegs f.vd 32).map t.rotN) t.exec t.mx.batch
      s.finish ({ t with mx := { t.mx with q := t.mx.q ++ [o], opened := t.mx.opened + 1, old := oldKept t } }).drainZero 1)

/-! ### MSTORE (R238, R239) -/

/-- floor(log2 |x|) of a finite non-zero value. -/
def log2F : FVal → Int
  | .fin _ m e => (Nat.log2 m : Int) + e
  | _ => 0
def isZeroF : FVal → Bool | .fin _ m _ => m == 0 | _ => false
def isFin : FVal → Bool | .fin _ _ _ => true | _ => false

/-- QuantiseMX (R128): the scale byte and the elements, with the draw of element n. -/
def quantiseMX (m : CvtMode) (dst : Nat) (draws : Nat → Nat) (xs : List FVal) : Nat × List Nat :=
  let fm := fpOfCode dst
  if xs.any (fun x => !isFin x) then (255, xs.map (fun _ => FpFmt.qnan fm))
  else match (xs.filter (fun x => !isZeroF x)).map log2F with
    | [] => (127, xs.map (fun _ => 0))
    | k :: ks =>
      let emax : Int := match dst with | 3 => 8 | 4 => 15 | _ => 2
      let e := max (-127) (ks.foldl max k - emax)
      ((e + 127).toNat, xs.zipIdx.map (fun x => convert { m with satf := true } 0 dst (draws x.2) (.flt (FVal.scale (-e) x.1))))

/-- The fields of an MSTORE: destination code, scale mode, columns. -/
def msDst (f : LaneF) : Nat := f.sub % 16
def msSc (f : LaneF) : Nat := f.sub / 16 % 4
def msNc (f : LaneF) : Nat := fld f.imm 17 5 + 1
def msAmax (f : LaneF) : Bool := f.sub.testBit 6
def msScr (f : LaneF) : Bool := f.sub.testBit 7
/-- Source conversion code (R238). -/
def msSrc (t : Strand) : Nat := if t.accFmt = 1 then 6 else 0
/-- Bytes of a row, scale byte included. -/
def msBytes (f : LaneF) : Nat := msNc f * cvtW (msDst f) / 8 + (if msSc f = 1 then 1 else 0)

/-- The row of lane l as bytes (R239); FTZ counts for an FP32, FP16 or BF16 destination alone, a scaled row's too (R122). -/
def msRow (t : Strand) (f : LaneF) (l : Nat) : List Byte :=
  let src := msSrc t; let dst := msDst f
  let m := cvtMode t f src dst
  let w := fun n => (Vec.lane (t.getV (t.rotN (f.va + n))) l).toNat
  let val := fun n => cvtRead src m.ftz (w n)
  let ys : List Nat × List Byte :=
    if msSc f = 1 then
      let q := quantiseMX m dst (draw t l) ((List.range (msNc f)).map (fun n => (val n).toF))
      (q.2, [BitVec.ofNat 8 q.1])
    else ((List.range (msNc f)).map (fun n => convert m src dst (draw t l n) (packScale (msSc f == 2) true (fld f.imm 9 8) (val n))), [])
  bytesOf ((ys.1.zipIdx.map (fun y => y.1 * 2 ^ (cvtW dst * y.2))).sum) (msNc f * cvtW dst / 8) ++ ys.2

/-- The amax contribution (R239). -/
def msMax (t : Strand) (f : LaneF) : Nat :=
  ((lanesOf t.exec).flatMap (fun l => (List.range (msNc f)).map (fun n =>
    let b := (Vec.lane (t.getV (t.rotN (f.va + n))) l).toNat % 2 ^ 31
    if 0x7F800000 < b then 0x7FC00000 else b))).foldl max 0

/-- The row address of lane l. -/
def msAddr (t : Strand) (f : LaneF) (l : Nat) : Nat := if msScr f then (t.opC f l).toNat else (t.pairV f.vc l).toNat

/-- The pieces of a row: whole words, then bytes; a misaligned row counts as a word, to fail ALIGN (R238). -/
def msPieces (f : LaneF) (l va : Nat) : List Acc :=
  if va % 4 ≠ 0 then [{ lane := l, va := va, size := 4, rd := false, wr := true }] else
  (List.range (msBytes f / 4)).map (fun i => { lane := l, va := va + 4 * i, size := 4, rd := false, wr := true })
    ++ (List.range (msBytes f % 4)).map (fun i => { lane := l, va := va + msBytes f / 4 * 4 + i, size := 1, rd := false, wr := true })

/-- The bytes of one piece of a row. -/
def msSlice (t : Strand) (f : LaneF) (a : Acc) : List Byte := ((msRow t f a.lane).drop (a.va - msAddr t f a.lane)).take a.size

/-- The amax access: one umax at the captured pair (R239); in a transaction it is the lowest active lane's (R106, log 62). -/
def msAmaxAcc (t : Strand) (f : LaneF) : Acc :=
  { lane := (lowest t.exec).getD 0, va := (pair (t.cap f 0) (t.cap f 1)).toNat, size := 4, rd := true, wr := true }

/-- The accesses of an MSTORE: its rows when they are global, and the amax word (R238, R239). -/
def msAccs (t : Strand) (f : LaneF) : List Acc × List Acc :=
  (if msScr f then [] else (lanesOf t.exec).flatMap (fun l => msPieces f l (msAddr t f l)),
   if msAmax f && t.exec != 0#128 then [msAmaxAcc t f] else [])

/-- The fault of scratch rows: ALIGN before SCRATCH_BOUND (R327, R338). -/
def msScrFault (len : Nat) (t : Strand) (f : LaneF) : Option FaultInfo :=
  if msScr f = false then none else
  worstFault ((lanesOf t.exec).filterMap (fun l =>
    let o := msAddr t f l
    if o % 4 ≠ 0 then some (l, ({ code := 3, arg := o } : FaultInfo))
    else if len < o + msBytes f then some (l, { code := 7, sub := 3, arg := o }) else none))

/-- The first of two stops in the order of R327, a watch stop before every fault (R305); a fault before a wait. -/
def firstStop (a b : Option Stop) : Option Stop :=
  let rank := fun (x : Option Stop) => match x with
    | some (.fault f) => if f.code = 0x12 then 0 else faultRank f.code + 1
    | some .wait => 200
    | none => 300
  if rank b < rank a then b else a

/-- What stops the accesses of an item. -/
def State.accStop (s : State) (t : Strand) (accs : List Acc) (scalar : Bool) : Option Stop :=
  match s.checkAccs s.cur t accs scalar with | .error e => some e | .ok _ => none

/-- What stops an MSTORE before it stores anything: its rows or its amax word, the first in R327. -/
def msStop (s : State) (t : Strand) (f : LaneF) : Option Stop :=
  firstStop (firstStop ((msScrFault (s.scrLen t.weave) t f).map .fault) (s.accStop t (msAccs t f).1 false))
    (s.accStop t (msAccs t f).2 true)

/-- The strand after MSTORE: its LFSRs stepped, one operation on the st path (R239, R125). -/
def msDone (t : Strand) (f : LaneF) (reqs : Nat) : Strand :=
  let t1 := if cvtDraws (cvtMode t f (msSrc t) (msDst f)) (msDst f) then t.stepLfsr (msNc f) else t
  (t1.issueOp { id := 0, path := .st, flag := t.flagOf f.fs, reqs := reqs }).noteWrite

/-- The rows in scratch. -/
def msScratch (t : Strand) (f : LaneF) (s : State) : State :=
  if msScr f then ((lanesOf t.exec).flatMap (fun l => msPieces f l (msAddr t f l))).foldl (fun s' a => scrStore s.cur t a.va (msSlice t f a) s') s
  else s

/-- The watch stop of an MSTORE, which stands before its faults where its address registers are within the budget (R305, R327). -/
def msWatch (s : State) (t : Strand) (f : LaneF) : Option FaultInfo :=
  (if msScr f || (t.overBudget [f.vc, f.vc + 1]).isSome then none else s.watchStop t (msAccs t f).1 false).orElse
    (fun _ => s.watchStop t (msAccs t f).2 true)

/-- The SC sectors that an MSTORE has written outside a transaction go home with it: it completes when its rows are visible at device
scope (R239, R370 row 28). -/
def msHome (t : Strand) (rs : List (Acc × Tlb)) (s : State) : State :=
  (((rs.filter (fun a => a.2.coh % 4 == 1 && !State.inTx t a.1.lane)).map (fun a => State.physOf a.2 a.1.va / 64)).eraseDups).foldl
    (fun (s : State) sec => s.l1Clean t.core sec false) s

/-- MSTORE (R238, R239, R241): its checks, the rows, then the amax update, buffered with the transaction's own accesses where one is
open (R106, R228). -/
def execMstore (f : LaneF) (s : State) : Host.Outcome State Fault Refusal :=
  s.laneItem f (fun t =>
    match msWatch s t f with
    | some w => s.raise t w
    | none =>
    if t.exec != 0#128 && (t.fmtBad || (t.accFmt == 1 && (msSc f != 0 || msAmax f))) then
      s.raise t { code := 0x17, arg := t.fmt.toNat, lanes := t.exec }
    else match t.overBudget (if t.exec = 0#128 then [] else mmaRegs f.va (msNc f) ++ [f.vc] ++ (if msScr f then [] else [f.vc + 1])) with
      | some r => s.raise t { code := 8, arg := r, lanes := t.exec }
      | none =>
        match msStop s t f with
        | some e => s.stopped t e
        | none =>
          if msScr f && (lanesOf t.exec).any (fun l => (msPieces f l (msAddr t f l)).any (fun a => s.stashWaits s.cur t.weave a.va)) then
            s.hold t .path
          else
            s.laneGlobal t .st ((msAccs t f).1 ++ (msAccs t f).2) false 0 0 (fun s1 t1 rs =>
              let r := (rs.filter (fun a => !a.1.rd)).foldl (fun (r : State × Strand) a =>
                r.1.laneWrite s.cur r.2 a.1 a.2 (natOf (msSlice t f a.1))) (msScratch t f s1, t1)
              let r := (rs.filter (fun a => a.1.rd)).foldl (fun (r : State × Strand) a =>
                let x := r.1.laneAtom s.cur r.2 a.1 a.2 4 (msMax t f) 0
                (x.1, x.2.1)) r
              (msHome t rs r.1).finish (msDone r.2 f (reqLines rs)) 1))

end Sys2Proof.Machine
end

