-- ==== Sys2Proof/Machine/Launch.lean ====
section
/-!
DEFINITION. Launches: the descriptor, bolts and their split over dies, admission of weaves, retirement and completion
(spec/11 R247, R252 to R257, R373, spec/02 R66 to R68, spec/10 R242, spec/21 R358).
-/
namespace Sys2Proof.Machine
open Sys2Proof

namespace State

/-- Checked reads of 4-byte words, each an access of strand t (R182, R252): the words, or the stop. -/
def readWords (me : Nat) (t : Strand) : List Nat → State → Except Stop (List Word × State)
  | [], s => .ok ([], s)
  | va :: vas, s =>
    let a : Acc := { lane := 0, va := va, size := 4, rd := true, wr := false }
    match s.checkAcc me t a true with
    | .error e => .error e
    | .ok e =>
      let (s1, v, pz) := s.loadAcc me t a e
      if pz then .error (.fault (poisonErr s va (physOf e va) 0#128)) else
      match readWords me t vas s1 with
      | .error e => .error e
      | .ok (ws, s2) => .ok (BitVec.ofNat 32 v :: ws, s2)

def wordAddrs (va n : Nat) : List Nat := (List.range n).map (fun i => (va + 4 * i) % 2 ^ 64)

end State

/-- A descriptor of 32 words, and the entries of its clasp table (R252). -/
def descOfWords (addr : Nat) (w : Nat → Word) (tab : List Bind) : Desc :=
  let a := (w 5).toNat; let c := (w 6).toNat; let b := (w 7).toNat
  { addr := addr, sbase := (pair (w 0) (w 1)).toNat, lbase := (pair (w 2) (w 3)).toNat, nweave := (w 4).toNat,
    wmin := fld a 0 7, wmax := fld a 8 7, priv := a.testBit 15, sken := a.testBit 16, sksel := fld a 17 1,
    ncopy := fld c 0 8, nmat := fld c 8 8, nepi := fld c 16 8, bcopy := fld b 0 5, bmat := fld b 5 5, bepi := fld b 10 5,
    creg := fld b 15 6, cscr := fld b 21 6, scrw := (w 8).toNat, clasps := tab, args := (pair (w 12) (w 13)).toNat,
    sigaddr := (pair (w 14) (w 15)).toNat, sigval := (w 16).toNat, enw := (w 18).toNat, ipk := (w 19).toNat }

/-- A clasp table entry (R252). -/
def bindOfWords (lo hi : Word) : Bind :=
  let a := lo.toNat + fld hi.toNat 0 16 * 2 ^ 32
  { bolt := hi.getLsbD 31, addr := if hi.getLsbD 31 then (sextD a 48).toNat else a }

/-- A descriptor's own fields break R252. -/
def descBad (w : Nat → Word) : Bool :=
  let d := descOfWords 0 w []
  let z := fun i lo n => fld (w i).toNat lo n != 0
  z 5 7 1 || z 5 18 14 || z 6 24 8 || z 7 27 5 || z 9 5 27 || w 17 != 0#32 || (List.range 12).any (fun i => w (20 + i) != 0#32)
    || d.sbase % 64 != 0 || d.lbase % 64 != 0 || d.sigaddr % 8 != 0 || d.wmin == 0 || decide (64 < d.wmax) || decide (d.wmax < d.wmin)
    || d.nmat % 4 != 0 || decide (d.size < d.wmin) || decide (d.wmax < d.size) || decide (48 < d.creg) || decide (32 < d.cscr)
    || decide (60 < d.creg + d.cscr) || d.scrw % 256 != 0 || decide (65536 * d.cscr < d.scrw) || decide (16 < fld (w 9).toNat 0 5)

/-- What reading a descriptor gives. -/
inductive DescRead where
  | stop (e : Stop)
  | bad
  | ok (d : Desc)

/-- The descriptor at addr read with its clasp table, as accesses of strand t (R182, R252).  R252 gives CLASPTAB no alignment: the table is
read in 4-byte words, so an address that is a multiple of 4 is taken and any other raises ALIGN; and a descriptor whose own words break
R252 is refused before its table is read, so that no fault of that read is met (DESIGN CHOICE, log 31). -/
def State.readDesc (s : State) (me : Nat) (t : Strand) (addr : Nat) : DescRead × State :=
  match State.readWords me t (State.wordAddrs addr 32) s with
  | .error e => (.stop e, s)
  | .ok (ws, s1) =>
    let w := fun i => ws.getD i 0#32
    if descBad w then (.bad, s1) else
    let n := fld (w 9).toNat 0 5
    match State.readWords me t (State.wordAddrs (pair (w 10) (w 11)).toNat (2 * n)) s1 with
    | .error e => (.stop e, s1)
    | .ok (ts, s2) =>
      let hi := fun i => ts.getD (2 * i + 1) 0#32
      if (List.range n).any (fun i => fld (hi i).toNat 16 15 != 0) then (.bad, s2)
      else (.ok (descOfWords addr w ((List.range n).map (fun i => bindOfWords (ts.getD (2 * i) 0#32) (hi i)))), s2)

/-- The weave ids given to each die of a partition (R254). -/
def splitDies (c : PartRec) (n : Nat) : List DieRange :=
  let dies := (List.range 4).filter (fun d => c.dies.testBit d)
  let m := dies.length
  dies.zipIdx.map (fun e => { die := e.1, start := n * e.2 / m, next := n * e.2 / m, stop := n * (e.2 + 1) / m, retired := 0 })

/-- A child bolt's id (R182): a free value, kept off 0 and off 0xFFFF_FFFF, which are never ids (R182, R329; log 11). -/
def childId (v : Word) : Word := if v = 0#32 ∨ v = 0xFFFFFFFF#32 then 1#32 else v

/-- A bolt is submitted: its key and the state (R66, R254). -/
def State.startBolt (s : State) (part ctx : Nat) (d : Desc) (priv : Bool) (depth : Nat) (parent lane : Option Nat) (signal : Bool)
    (bid : Nat) :
    Nat × State :=
  match s.part? part with
  | none => (0, s)
  | some p =>
    let k := s.nextKey
    let p := if parent.isSome then { p with children := p.children + 1 } else p
    let b : Bolt := { bid := bid, desc := d, depth := depth, parent := parent, part := part, ctx := ctx, priv := priv, lane := lane,
                      signal := signal, dies := splitDies p.cfg d.nweave, started := false, time := s.time }
    (k, { ((s.setPart part p).setBolt k b) with nextKey := k + 1 })

/-! ### Admission (R253, R255, R256, R313, R373) -/

/-- A placement: weave-relative index, role, core, slot. -/
structure Spot where
  widx : Nat
  role : Nat
  core : Nat
  slot : Nat
  deriving DecidableEq, Repr

/-- The launched strands in index order, a quad as one group: role, first index, strands. -/
def launchGroups (d : Desc) : List (Nat × Nat × Nat) :=
  (List.range d.ncopy).map (fun i => (0, i, 1)) ++ (List.range (d.nmat / 4)).map (fun i => (1, d.ncopy + 4 * i, 4))
    ++ (List.range d.nepi).map (fun i => (2, d.ncopy + d.nmat + i, 1))

/-- Groups placed on the lower core where they fit there, otherwise on the other (R373). -/
def fillCores (d : Desc) : List (Nat × Nat × Nat) → List (Nat × List Spindle) → Option (List Spot)
  | [], _ => some []
  | (role, i, n) :: gs, cores =>
    let try1 := fun (c : Nat × List Spindle) => (placeRole false role (d.budget role) n c.2).map (fun r => (c.1, r))
    match cores.findSome? try1 with
    | none => none
    | some (core, slots, xs) =>
      match fillCores d gs (cores.map (fun c => if c.1 = core then (core, xs) else c)) with
      | none => none
      | some rest => some (slots.zipIdx.map (fun e => { widx := i + e.2, role := role, core := core, slot := e.1 }) ++ rest)

namespace State
variable (s : State)

/-- A core as the dispatcher may use it for a launch. -/
def coreFor (d : Desc) (core : Nat) : Option (Nat × List Spindle) :=
  if s.carveOk core d then some (core, s.openSpindles core d.creg 0 0 0) else none

/-- The place of the next weave of a launch on a die (R373). -/
def choosePlace (p : Part) (d : Desc) (die : Nat) : Option (List Spot) :=
  let clus := (partClusters p.cfg).filter (fun c => c / 32 == die && s.chargeFits p c d.enw d.ipk)
  let one := (clus.flatMap (fun c => [2 * c, 2 * c + 1])).findSome? (fun core =>
    match s.coreFor d core with | some c => fillCores d (launchGroups d) [c] | none => none)
  match one with
  | some r => some r
  | none => clus.findSome? (fun c =>
      fillCores d (launchGroups d) ([2 * c, 2 * c + 1].filterMap (s.coreFor d)))

/-- Launched strands placed, with the registers of R253. -/
def putLaunched (wk wid : Nat) (b : Bolt) : List Spot → Nat → State → State
  | [], _, s => s
  | x :: xs, n, s =>
    let s := if x.role = 1 ∧ n % 4 = 0 then { s with nextKey := s.nextKey + 1 } else s
    let sid := s.freeId b.part
    let d := b.desc
    let t := newStrand sid wk x.widx x.role x.core x.slot (d.budget x.role) b.part b.ctx b.priv (BitVec.ofNat 64 d.sbase)
      (BitVec.ofNat 64 d.lbase) (BitVec.ofNat 64 d.sbase) 0#32 (if x.role = 1 then s.nextKey else 0) s.time
    let t := (((((t.putS 0 (BitVec.ofNat 32 sid)).putS 1 (BitVec.ofNat 32 x.widx)).putS 2 (BitVec.ofNat 32 wid)).putS 3
      (BitVec.ofNat 32 b.depth)).putS 4 (BitVec.ofNat 32 d.args)).putS 5 (BitVec.ofNat 32 (d.args / 2 ^ 32))
    putLaunched wk wid b xs (if x.role = 1 then n + 1 else n) (s.setStrand (96 * x.core + x.slot) t)

/-- The bolt whose weave enters a die's dispatcher next for a context: launch order (R254). -/
def nextBoltFor (part ctx die : Nat) : Option (Nat × Bolt × DieRange) :=
  s.bolts.findSome? (fun e =>
    if e.2.part = part ∧ e.2.ctx = ctx then
      (e.2.dies.find? (fun r => r.die == die && decide (r.next < r.stop))).map (fun r => (e.1, e.2, r))
    else none)

/-- Admits one weave at its spots (R253, R242). -/
def admitAt (bk : Nat) (b : Bolt) (die wid : Nat) (p : Part) (spots : List Spot) : State :=
  match spots with
  | [] => s
  | x0 :: _ =>
    let d := b.desc
    let wk := s.nextKey
    let s := s.charge p (x0.core / 2) wk d.enw d.ipk
    let s := (spots.map (·.core)).eraseDups.foldl (fun s c => s.claimCore c b.ctx d) s
    let w : Weave := { wid := wid, bolt := bk, home := x0.core, part := b.part, ctx := b.ctx, wmin := d.wmin, wmax := d.wmax, y := 0,
                       resv := [0, 0, 0], attSeq := 0, binds := [], recs := [], helds := [], scr := [], scrLen := d.scrw,
                       scrPoison := [], children := 0 }
    let w := d.clasps.zipIdx.foldl (fun w e => bindTo w e.2 e.1 (spots.map (·.widx))) w
    let s := { s.setWeave wk w with nextKey := wk + 1 }
    let s := putLaunched wk wid b spots 0 s
    s.setBolt bk { b with started := true, dies := b.dies.map (fun r => if r.die = die then { r with next := r.next + 1 } else r) }

/-- A SAVE or KILL of a context holds its weaves back, but not while a REPEAT of it waits for its bolt: that packet runs to its end
(R333, R251; log 41). -/
def admitHeld (p : Part) (ctx : Nat) : Bool :=
  p.noAdmit.contains ctx && !p.queues.any (fun e => match e.2.phase with
    | .rerun b => (match s.bolt? b with | some x => x.ctx == ctx | none => false)
    | _ => false)

/-- The next weave of context c on a die, admitted where it can be placed (R255, R373), once the cores may be taken (R69, R111). -/
def admitNext (part die ctx : Nat) : Option State :=
  match s.part? part with
  | none => none
  | some p =>
    if s.admitHeld p ctx then none else
    match s.nextBoltFor part ctx die with
    | none => none
    | some (bk, b, r) => (s.choosePlace p b.desc die).bind (fun spots =>
        if spots.any (fun x => s.takeWaits x.core ctx b.desc.creg b.desc.cscr) then none else some (s.admitAt bk b die r.next p spots))

end State

/-- A weighted turn among contexts (R254, R260): the one whose turn it is while grants of it are left, else the next in number. -/
def weighted (turn left : Nat) (cs : List Nat) : Option Nat :=
  if left ≠ 0 ∧ cs.contains turn then some turn
  else match cs.find? (fun c => decide (turn < c)) with
    | some c => some c
    | none => cs.head?

namespace State
variable (s : State)

/-- The context whose weave a die admits next: of those whose next weave can be placed, the one that the weights give (R254, R260,
log 60). -/
def admChoose (part die : Nat) : Option Nat :=
  match s.part? part with
  | none => none
  | some p =>
    let a := AMap.get p.adm die { turn := 15, left := 0 }
    weighted a.turn a.left ((List.range 16).filter (fun c => (s.admitNext part die c).isSome))

/-- Context c has had an admission of its turn on a die. -/
def admSpend (part die c : Nat) : State :=
  s.updPart part (fun p =>
    let a := AMap.get p.adm die { turn := 15, left := 0 }
    let left := if a.turn = c ∧ a.left ≠ 0 then a.left - 1 else p.knob (4 * c) - 1
    { p with adm := AMap.set p.adm die { turn := c, left := left } { turn := 15, left := 0 } })

end State

/-- WEAVE_ADMISSION (R254 to R256, R373): the next weave of context c on a die, when it is that context's turn. -/
def execWeaveAdmission (p die c : Nat) (s : State) : Host.Outcome State Fault Refusal :=
  .next (if s.admChoose p die = some c then (match s.admitNext p die c with | some s' => s'.admSpend p die c | none => s) else s)

/-! ### Retirement and completion (R67, R68, R257) -/

namespace State
variable (s : State)

/-- A weave may retire: no strand of it is left, and no child (R67). -/
def weaveDone (wk : Nat) (w : Weave) : Bool :=
  decide (w.children = 0) && !s.strands.any (fun e => decide (e.1 < ccBase) && e.2.weave == wk)
    && !(match s.part? w.part with | some p => (p.saved.filter (·.out)).any (fun v => v.weaves.any (fun e => e.1 == wk)) | none => false)

/-- A weave's stash lines go home and its mappings end (R68, R80). -/
def dropStash (wk : Nat) (w : Weave) : State :=
  let s := s.stashClean hwAgent w.home false (fun m => m.weave == wk)
  s.setCore w.home { s.core w.home with stash := (s.core w.home).stash.filter (fun m => m.weave != wk) }

/-- The weave retires, its held current is released, and its die's count rises (R67, R256, R257). -/
def retireWeave (wk : Nat) (w : Weave) : State :=
  let s := (s.dropStash wk w).dropHeld (w.home / 2) wk
  let s := { s with weaves := AMap.del s.weaves wk }
  { s with bolts := AMap.upd s.bolts w.bolt (fun b => { b with dies := b.dies.map (fun r =>
      if r.die = w.home / 64 then { r with retired := r.retired + 1 } else r) }) }

/-- Its stash lines cannot go home yet: a serial transaction holds what they cover (R111), or the partition is frozen (R353). -/
def retireWaits (wk : Nat) (w : Weave) : Bool :=
  (s.core w.home).stash.any (fun m => m.weave == wk && m.dirty.any (fun d =>
    s.frozenAt w.part || s.serialMeets hwAgent (m.page + 256 * d.1) 256 true))

/-- Every weave that may retire does (R67). -/
def retireDue : State :=
  (s.weaves.filter (fun e => s.weaveDone e.1 e.2 && !s.retireWaits e.1 e.2)).foldl (fun (s : State) e => s.retireWeave e.1 e.2) s

/-- Every weave of a bolt has retired (R68 step 1). -/
def boltDone (b : Bolt) : Bool := b.dies.all (fun r => r.retired == r.stop - r.start)

/-- Every store of a partition at device scope (R68 step 2). -/
def publish (part : Nat) : State :=
  match s.part? part with
  | none => s
  | some p =>
    (partClusters p.cfg).foldl (fun s c =>
      let s := [2 * c, 2 * c + 1].foldl (fun s k => (s.stashClean hwAgent k false (fun _ => true)).l1CleanAll k isSc false) s
      s.combineClu c) s

/-- Publishing must wait: a dirty line, sector or partial of the partition lies in the footprint of a serial transaction (R111), or the
partition is frozen (R353). -/
def publishWaits (part : Nat) : Bool :=
  match s.part? part with
  | none => false
  | some p =>
    s.frozenAt part || (partClusters p.cfg).any (fun c => [2 * c, 2 * c + 1].any (fun k => s.stashHeld hwAgent k
      || (s.core k).l1.any (fun e => isSc e.2 && e.2.dirty != 0#16 && s.serialHolds hwAgent (64 * e.1) true))
      || (s.clu c).comb.any (fun l => s.serialMeets hwAgent (256 * l.line) 256 true))

/-- The partition's front end as an agent: it translates in its queue's context, privileged as PRIVQ says (R248, R250). -/
def ccAgent (part ctx : Nat) (priv : Bool) (lane : Nat) : Strand :=
  newStrand 0 0 0 0 (257 + 2 * part) (lane % 96) 0 part ctx priv 0#64 0#64 0#64 0#32 0 s.time

/-- Whether accesses of queue q of a partition are privileged (R250). -/
def queuePriv (part q : Nat) : Bool := (s.csr part (0x808 + 0x40 * q)).getLsbD 5

/-- A signal written as one 8-byte store, a release at system scope (R247): the fault where it fails, or it waits (R90, R111).  In system
space while the link is down it is a dropped store (R365). -/
def writeSignal (t : Strand) (addr value status code : Nat) : Except Stop State :=
  let a : Acc := { lane := 0, va := addr, size := 8, rd := false, wr := true }
  if s.publishWaits t.part then .error .wait else
  let s := s.publish t.part
  match s.checkAcc hwAgent t a true with
  | .error e => .error e
  | .ok e =>
    .ok (((s.storeAcc hwAgent t a e (value % 2 ^ 32 + status * 2 ^ 32 + code % 2 ^ 16 * 2 ^ 48)).sliceClean t.part))

/-- The agent that writes a bolt's signal. -/
def boltAgent (b : Bolt) : Strand :=
  s.ccAgent b.part b.ctx (b.priv || (match b.lane with | some ln => s.queuePriv (ln / 8) (ln % 8) | none => false)) 0

/-- The signal of a bolt cannot be written yet: its page is in transition, or a serial transaction holds what it writes. -/
def signalWaits (b : Bolt) (status : Nat) : Bool :=
  b.signal && (match s.writeSignal (s.boltAgent b) b.desc.sigaddr b.desc.sigval status 0 with | .error .wait => true | _ => false)

/-- A bolt's signal at its end (R68 step 3, R358), when it need not wait; a failure is logged (R354 kind 8). -/
def endSignal (b : Bolt) (status : Nat) : State :=
  match s.writeSignal (s.boltAgent b) b.desc.sigaddr b.desc.sigval status 0 with
  | .ok s => s
  | .error .wait => s
  | .error (.fault _) => s.updPart b.part (fun p => p.logNf 8 b.ctx 0 0 b.desc.sigaddr)

/-- A bolt's queue counts its launch as complete (R246). -/
def launchDone (bk : Nat) (b : Bolt) : State :=
  match b.lane with
  | some ln =>
    let q : Option Queue := (s.part? b.part).map (fun p => AMap.get p.queues (ln % 8) queueDefault)
    let again : Bool := match q with | some q => q.phase == .rerun bk | none => false
    let s := s.updPart b.part (fun p =>
      let q := AMap.get p.queues (ln % 8) queueDefault
      let q := { q with bolts := q.bolts.filter (· != bk) }
      { p with queues := AMap.set p.queues (ln % 8) (if again then { q with phase := .prologue, words := 0 } else q) queueDefault })
    if again then s.updStrand (ccBase + ln) (fun t => t.jump (BitVec.ofNat 64 ((q.map (·.pro)).getD 0)) 0#32) else s
  | none => s

/-- A bolt's parent and its queue count it as complete, and it is forgotten. -/
def forgetBolt (bk : Nat) (b : Bolt) : State :=
  let s := { s with bolts := AMap.del s.bolts bk }
  let s := match b.parent with
    | some wk => (s.updWeave wk (fun w => { w with children := w.children - 1 })).updPart b.part (fun p => { p with children := p.children - 1 })
    | none => s
  s.launchDone bk b

end State

/-- WEAVE_RETIRE (R67). -/
def execWeaveRetire (w : Nat) (s : State) : Host.Outcome State Fault Refusal :=
  .next (match s.weave? w with | some x => if s.weaveDone w x then s.retireWeave w x else s | none => s)

/-- Step 2 of R68 may run: the bolt's weaves have retired; or step 3: its signal need not wait (R90, R111). -/
def State.boltReady (s : State) (b : Bolt) : Bool := State.boltDone b && (if b.shown then !s.signalWaits b 0 else !s.publishWaits b.part)

/-- BOLT_COMPLETE (R68): its stores visible at device scope, with which its launch is complete for its queue (R246); then, once it need not
wait, its signal written and its resources forgotten. -/
def execBoltComplete (b : Nat) (s : State) : Host.Outcome State Fault Refusal :=
  .next (match s.bolt? b with
    | some x =>
      if s.boltReady x then
        let s := if x.shown then s else s.publish x.part
        if s.signalWaits x 0 then (s.launchDone b x).setBolt b { x with shown := true }
        else (if x.signal then s.endSignal x 0 else s).forgetBolt b x
      else s
    | none => s)

/-- LAUNCH (R182, R66): the descriptor read as accesses of the strand, a child bolt one deeper, and on each way it completes a release at
device scope.  Where the descriptor breaks R252 and the partition holds 1024 children, it answers 0xFFFFFFFF with the log entry (DESIGN
CHOICE, log 22: R329 gives both results and no order). -/
def execLaunch (d p : Nat) (s : State) : Host.Outcome State Fault Refusal :=
  s.run (fun t =>
    let addr := (t.getPair (2 * p)).toNat
    if addr % 64 ≠ 0 then s.raise t { code := 3, arg := addr } else
    let r := s.readDesc s.cur t addr
    match r.1 with
    | .stop e => s.stopped t e
    | .bad =>
      if (((s.weave? t.weave).bind (fun w => s.bolt? w.bolt)).map (·.depth)).getD 0 = 10 then s.raise t { code := 0x14, arg := 10 }
      else if r.2.releaseWaits s.cur t 4 then s.hold t .path
      else ((r.2.releaseAt s.cur t 4).updPart t.part (fun x => x.logNf 2 t.ctx t.core t.slot addr)).finish (t.setS d 0xFFFFFFFF#32) 1
    | .ok desc =>
      match (s.weave? t.weave).bind (fun w => (s.bolt? w.bolt).map (·.depth)), s.part? t.part with
      | some depth, some part =>
        if depth = 10 then s.raise t { code := 0x14, arg := 10 }
        else if r.2.releaseWaits s.cur t 4 then s.hold t .path
        else if 1024 ≤ part.children then (r.2.releaseAt s.cur t 4).finish (t.setS d 0#32) 1
        else
          let s1 := r.2.releaseAt s.cur t 4
          let (v, s1) := s1.fresh
          let b := s1.startBolt t.part t.ctx desc (desc.priv && t.priv) (depth + 1) (some t.weave) none true (childId v).toNat
          (b.2.updWeave t.weave (fun w => { w with children := w.children + 1 })).finish (t.setS d (childId v)) 1
      | _, _ => s.finish t 1)

end Sys2Proof.Machine
end

