-- ==== Sys2Proof/Machine/Weave.lean ====
section
/-!
DEFINITION. Membership of a weave: attach, detach and retirement, yield, count, who, growth (spec/02 R42 to R49, R53, spec/06
R178 to R181, spec/20 R352).
-/
namespace Sys2Proof.Machine
open Sys2Proof

namespace State
variable (s : State)

/-- The strands that count as members: a DETACH that has passed its test counts as gone (R47, R180). -/
def counted (wk : Nat) : List Strand := ((s.members wk).map (·.2)).filter (fun t => t.leave != .detach)

/-- The core a 9-bit coordinate names for a weave (R145). -/
def coordCore (w : Weave) (coord : Nat) : Nat := if coord.testBit 8 then coord % 256 else if coord.testBit 0 then w.home ^^^ 1 else w.home

/-- The k lowest free weave-relative indices, ascending (R179). -/
def freeIdx (wk k : Nat) : List Nat :=
  let used := (s.members wk).map (·.2.widx)
  ((List.range 64).filter (fun i => !used.contains i)).take k

/-- Strands attached by strand t of index `by_`, their registers as R42 says. -/
def putAttached (wk role core budget : Nat) (t : Strand) (hspc : DWord) (first : Word) (seq : Nat) :
    List (Nat × Nat) → Nat → State → State
  | [], _, s => s
  | (widx, slot) :: xs, n, s =>
    let s := if role = 1 ∧ n % 4 = 0 then { s with nextKey := s.nextKey + 1 } else s
    let sid := s.freeId t.part
    let x := newStrand sid wk widx role core slot budget t.part t.ctx t.priv t.sbase t.lbase hspc first
      (if role = 1 then s.nextKey else 0) s.time
    let x := (((x.putS 0 (BitVec.ofNat 32 sid)).putS 1 (BitVec.ofNat 32 widx)).putS 2 (BitVec.ofNat 32 t.widx)).putS 3 (BitVec.ofNat 32 seq)
    putAttached wk role core budget t hspc first seq xs (n + 1) (s.setStrand (96 * core + slot) x)

/-- Strands placed or reserved so far, for the ceilings of R179 and R181. -/
def weaveLoad (wk : Nat) (w : Weave) : Nat := (s.counted wk).length + w.resv.sum

/-- A membership change waits: a bolt clasp's page is in transition (R90), or its release must wait, or a serial transaction holds an
object (R111). -/
def claspsWait (me : Nat) (t : Strand) : Bool :=
  match s.weave? t.weave with
  | none => false
  | some w =>
    let bs := w.binds.map (·.2) ++ (w.helds.filter (fun a => a.widx == t.widx)).map (·.bind)
    bs.any (fun b => (b.bolt && s.inTransition t.part t.ctx b.addr) || s.releaseWaits me t (claspScope b)
      || (match s.claspPlace t w b with
        | some (.mem pa) => s.serialHolds me pa true
        | some (.scr wk off) => s.stashWaits me wk off
        | none => false))

/-- The context's attach ceiling lets k more strands into a weave (R48, R272). -/
def underCeiling (p : Part) (t : Strand) (k : Nat) : Bool := decide ((s.counted t.weave).length + k ≤ p.knob (4 * t.ctx + 1))

/-- Each strand attached holds its part of the attach's current (R256, log 30). -/
def holdAttached (p : Part) (clu core ipk size : Nat) (slots : List Nat) : State :=
  slots.zipIdx.foldl (fun (s : State) e =>
    let i := attShare p ipk size e.2
    if i = 0 then s else s.setClu clu { s.clu clu with held := (s.clu clu).held ++ [(attKey (96 * core + e.1), i)] }) s

/-- The places of k strands of a role on a core for an attach: the weave's own reservation of the role withholds nothing from them (R42,
R179). -/
def attachSlots (wk : Nat) (w : Weave) (d : Desc) (role core k : Nat) : Option (List Nat) :=
  if s.carveOk core d = false then none else
  (placeRole true role (d.budget role) k (s.openSpindles core d.creg wk role (w.resv.getD role 0))).map (·.1)

end State

/-- ceil(n k / L) (R256). -/
def shareUp (n k l : Nat) : Nat := (n * k + (max 1 l - 1)) / max 1 l

/-- ATTACH with its operands read (R42, R43, R48, R179, R256). -/
def attachGo (x role core k : Nat) (t : Strand) (w : Weave) (d : Desc) (p : Part) (s : State) : Host.Outcome State Fault Refusal :=
  let no := s.finish (t.setS x 0#32) 1
  let idxs := s.freeIdx t.weave k
  let e := shareUp d.enw k d.size; let i := shareUp d.ipk k d.size
  if w.wmax < (s.counted t.weave).length + k ∨ s.underCeiling p t k = false ∨ idxs.length < k ∨ s.chargeFits p (core / 2) e i = false then no
  else
  match s.attachSlots t.weave w d role core k with
  | none => no
  | some slots =>
    if s.claspsWait s.cur t || s.takeWaits core t.ctx d.creg d.cscr then s.hold t .other else
    let s := ((s.charge p (core / 2) t.weave e 0).holdAttached p (core / 2) core d.ipk (max 1 d.size) slots).claimCore core t.ctx d
    let s := State.claspJoin s.cur s t idxs
    let s := s.updWeave t.weave (fun w => { w with attSeq := w.attSeq + 1, resv := w.resv.set role (w.resv.getD role 0 - k) })
    let s := State.putAttached t.weave role core (d.budget role) t (t.secBase + (t.getS (x + 1)).setWidth 64) (t.getS (x + 2))
      (w.attSeq + 1) (idxs.zip slots) 0 s
    s.finish (t.setS x (BitVec.ofNat 32 k)) 1

/-- WEAVE.ATTACH (R42, R179). -/
def execAttach (x coord role : Nat) (s : State) : Host.Outcome State Fault Refusal :=
  s.run (fun t =>
    match s.weave? t.weave with
    | none => s.finish (t.setS x 0#32) 1
    | some w =>
      let k := (t.getS x).toNat
      let core := State.coordCore w coord
      if (t.getS (x + 1)).toNat % 4 ≠ 0 then s.raise t { code := 3, sub := 1, arg := (t.getS (x + 1)).toNat }
      else if k = 0 ∨ 64 < k then s.raise t { code := 0xF, sub := 1, arg := k }
      else if role = 1 ∧ k % 4 ≠ 0 then s.raise t { code := 0xF, sub := 2, arg := k }
      else if core / 2 ≠ w.home / 2 then s.raise t { code := 0xF, sub := 3, arg := coord }
      else match s.descOf w, s.part? t.part with
        | some d, some p => attachGo x role core k t w d p s
        | _, _ => s.finish (t.setS x 0#32) 1)

/-! ### Leaving (R44, R45, R47, R352) -/

/-- The strand ends an open transaction where it stands (R44, R70). -/
def abortHere (t : Strand) (code : Nat) : Strand :=
  if t.tx.isNone then t else
  { t.abortTx code 0 with hspc := t.hspc, first := t.first, item := t.item, nl := t.nl, ns := t.ns, seta := t.seta, setb := t.setb,
                          capt := t.capt, edge := t.edge }

/-- Strand k starts to leave: the MMAs that its quad has posted at one position meet; its transaction aborts, its open batch
closes, its unmet MMAs are discarded (R44, R232, R235, R352). -/
def State.beginLeave (s : State) (k : Nat) (t : Strand) (how : Leave) : State :=
  let s := (s.setStrand k t).meetAll k
  let t := (s.strand? k).getD t
  let t1 := dropOwn (closeOpen (abortHere t 8))
  (s.discardQuad k t).setStrand k { t1 with leave := how, wait := .other, since := s.time }

/-- WEAVE.DETACH (R44, R47): refused below the minimum, else the departure is reserved. -/
def execDetach (x : Nat) (s : State) : Host.Outcome State Fault Refusal :=
  s.run (fun t =>
    match s.weave? t.weave with
    | none => s.finish (t.setS x 0#32) 1
    | some w =>
      if (s.counted t.weave).length ≤ w.wmin then s.finish (t.setS x 0#32) 1
      else .next (s.beginLeave s.cur t .detach))

/-- A leaving strand's wait is over: its batches have retired, its counters are zero, and no error is held that could be
raised there (R44, R67, R341). -/
def canDepart (t : Strand) : Bool := t.leave != .no && t.ops.isEmpty && t.openHeld.isEmpty

/-- The departure takes effect: every clasp is left, the slot, the registers and the current that an attached strand held are
released (R44, R45, R46, R256). -/
def State.depart (s : State) (k : Nat) (t : Strand) : State :=
  let mine := ((s.weave? t.weave).map (fun w => w.helds.filter (fun a => a.widx == t.widx))).getD []
  let s := State.claspLeave k (mine.foldl (fun s a => s.heldArrival k a.h) s) t
  { s with strands := AMap.del s.strands k }.dropHeld (t.core / 2) (attKey k)

/-! ### Reports (R48, R180) -/

/-- WEAVE.YIELDQ (R48). -/
def execYieldq (x : Nat) (s : State) : Host.Outcome State Fault Refusal :=
  s.run (fun t =>
    let y := ((s.weave? t.weave).map (·.y)).getD 0
    if y = 0 then s.finish (t.setS x 0#32) 1
    else (s.updWeave t.weave (fun w => { w with y := w.y - 1 })).finish (t.setS x 1#32) 1)

/-- WEAVE.COUNT (R180). -/
def execCount (x : Nat) (s : State) : Host.Outcome State Fault Refusal :=
  s.run (fun t =>
    let lim := ((s.weave? t.weave).map (fun w => w.wmin * 2 ^ 8 + w.wmax * 2 ^ 16)).getD 0
    s.finish (t.setS x (BitVec.ofNat 32 ((s.counted t.weave).length + lim))) 1)

/-- The word WHO writes for a member (R180). -/
def whoWord (ms : List Strand) (home : Nat) (u : Strand) : Word :=
  BitVec.ofNat 32 ((ms.filter (fun v => decide (v.widx < u.widx))).length + u.widx * 2 ^ 7 + u.slot * 2 ^ 14
    + (if u.core = home then 0 else 2 ^ 21) + u.slot / 24 * 2 ^ 22)

/-- WEAVE.WHO (R180). -/
def execWho (x y z : Nat) (s : State) : Host.Outcome State Fault Refusal :=
  s.run (fun t =>
    let ms := s.counted t.weave
    let home := ((s.weave? t.weave).map (·.home)).getD t.core
    let r := if z = 0 then whoWord ms home t else
      match ms.find? (fun u => u.widx == (t.getS y).toNat) with
      | some u => whoWord ms home u
      | none => 0xFFFFFFFF#32
    s.finish (t.setS x r) 1)

/-! ### Growth (R49, R181) -/

/-- The reservation would pass the weave's maximum or the context's maxstr (R181). -/
def growOver (s : State) (t : Strand) (w : Weave) (n : Nat) : Bool :=
  let load := s.weaveLoad t.weave w + n
  decide (w.wmax < load) || decide (((s.part? t.part).map (fun p => p.knob (4 * t.ctx + 1))).getD 0 < load)

/-- n slots of a role can be reserved at the weave's home core (R181). -/
def growFits (s : State) (w : Weave) (role n : Nat) : Bool :=
  match s.descOf w with
  | none => false
  | some d => (placeRole true role (d.budget role) (if role = 1 then (n + 3) / 4 * 4 else n) (s.openSpindles w.home d.creg 0 0 0)).isSome

/-- The reservation is made. -/
def growTake (s : State) (t : Strand) (role n : Nat) : State :=
  s.updWeave t.weave (fun w => { w with resv := w.resv.set role (w.resv.getD role 0 + n) })

/-- WEAVE.GROW (R181): reserved, denied at once, or blocked. -/
def execGrow (x role : Nat) (s : State) : Host.Outcome State Fault Refusal :=
  s.run (fun t =>
    match s.weave? t.weave with
    | none => s.finish (t.setS x 0#32) 1
    | some w =>
      let n := (t.getS x).toNat
      if growOver s t w n then s.finish (t.setS x 0#32) 1
      else if growFits s w role n then (growTake s t role n).finish (t.setS x (t.getS x)) 1
      else s.hold t .grow)

/-- The GROW a strand is blocked at. -/
def growItem (s : State) (t : Strand) : Option (Nat × Nat) :=
  match decodeScalar (s.wordAt t t.itemAddr) 0 with
  | .ok (.grow x role) => some (x, role)
  | _ => none

/-- A strand is blocked in GROW: neither stopped, nor taking a trap, nor leaving (R49, R329). -/
def growBlocked (t : Strand) : Bool := t.wait == .grow && t.run != .halted && t.pend.isNone && t.leave == .no

/-- A blocked GROW completes with 0 (R49, R181). -/
def denyGrow (s : State) (k : Nat) : State :=
  match s.strand? k with
  | none => s
  | some t =>
    if growBlocked t = false then s else
    match growItem s t with
    | some (x, _) => s.setStrand k { (t.setS x 0#32).advance 1 with wait := .none, since := s.time }
    | none => s

/-- Every strand of a core is blocked in GROW (R49). -/
def allGrow (s : State) (core : Nat) : Bool :=
  let on := s.strands.filter (fun e => decide (e.1 < ccBase) && e.2.core == core)
  !on.isEmpty && on.all (fun e => growBlocked e.2)

/-- GROW_DECIDED (R49, R181): strand k's pending GROW is granted, or every GROW of its core is denied. -/
def execGrowDecided (k : Nat) (s : State) : Host.Outcome State Fault Refusal :=
  .next (match s.strand? k with
    | none => s
    | some t =>
      if growBlocked t = false then s
      else match growItem s t, s.weave? t.weave with
        | some (x, role), some w =>
          let n := (t.getS x).toNat
          if growOver s t w n then denyGrow s k
          else if growFits s w role n then (growTake s t role n).setStrand k { (t.setS x (t.getS x)).advance 1 with wait := .none, since := s.time }
          else if allGrow s t.core then
            let on := s.strands.filter (fun e => decide (e.1 < ccBase) && e.2.core == t.core)
            (on.foldl (fun s e => denyGrow s e.1) s).updPart t.part (fun p => p.logNf 3 t.ctx t.core t.slot 0)
          else s
        | _, _ => s)

/-- WEAVE.SHRINK (R181). -/
def execShrink (x role : Nat) (s : State) : Host.Outcome State Fault Refusal :=
  s.run (fun t =>
    let have_ := ((s.weave? t.weave).map (fun w => w.resv.getD role 0)).getD 0
    let left := have_ - min (t.getS x).toNat have_
    (s.updWeave t.weave (fun w => { w with resv := w.resv.set role left })).finish (t.setS x (BitVec.ofNat 32 left)) 1)

end Sys2Proof.Machine
end

