-- ==== Sys2Proof/Machine/Shuttle.lean ====
section
/-!
DEFINITION. The shuttle: issue checks, chunks, stash mappings and completion (spec/06 R186 to R188, spec/03 R79, R80, R101,
spec/20 R341, R342).
-/
namespace Sys2Proof.Machine
open Sys2Proof

/-- The shape and global quads of a command (R186), by field. -/
structure Box where
  base : Nat
  perm : Nat
  st1 : Nat
  st2 : Nat
  st3 : Nat
  x0 : Nat
  x1 : Nat
  x2 : Nat
  ch : Nat
  ce : Bool
  addr : Nat
  g1 : Nat
  g2 : Nat

/-- 0 stands for 256 (R186). -/
def or256 (n : Nat) : Nat := if n = 0 then 256 else n

def boxOf (x y : List Word) : Box :=
  let a := fun i => (x.getD i 0#32).toNat
  let b := fun i => (y.getD i 0#32).toNat
  { base := fld (a 0) 0 22, perm := fld (a 0) 22 4, st1 := fld (a 1) 0 16, st2 := fld (a 1) 16 16,
    st3 := (if fld (a 2) 0 16 = 0 then 1 else fld (a 2) 0 16), x0 := or256 (fld (a 3) 0 8), x1 := or256 (fld (a 3) 8 8),
    x2 := or256 (fld (a 3) 16 8), ch := fld (a 3) 24 4, ce := (a 3).testBit 28, addr := b 0 + b 1 * 2 ^ 32, g1 := b 2, g2 := b 3 }

/-- A reserved value in the shape quad (R186, R188). -/
def shapeBad (kind : Nat) (x : List Word) : Bool :=
  let a := fun i => (x.getD i 0#32).toNat
  decide (4 ≤ fld (a 0) 22 4) || fld (a 0) 26 6 != 0 || fld (a 2) 16 16 != 0 || fld (a 3) 29 3 != 0 || (kind == 2 && fld (a 3) 16 8 != 1)

namespace Box
variable (b : Box)
def chunks : Nat := b.x0 * b.x1 * b.x2
def i0 (c : Nat) : Nat := c % b.x0
def i1 (c : Nat) : Nat := c / b.x0 % b.x1
def i2 (c : Nat) : Nat := c / (b.x0 * b.x1)
/-- The scratch offset of chunk c (R186). -/
def off (c : Nat) : Nat :=
  let o := b.base + 16 * (b.st3 * b.i0 c + b.st1 * b.i1 c + b.st2 * b.i2 c)
  o ^^^ (fld o 7 b.perm * 16)
/-- The global address of chunk c. -/
def glob (c : Nat) : Nat := (b.addr + 16 * b.i0 c + b.g1 * b.i1 c + b.g2 * b.i2 c) % 2 ^ 64
/-- GATHER: the scratch offset of the index of chunk c's row, and its global address (R187). -/
def idxOff (c : Nat) : Nat := b.g2 + 4 * b.i1 c
def gath (c idx : Nat) : Nat := (b.addr + 16 * b.i0 c + b.g1 * idx) % 2 ^ 64
end Box

/-- Where the last chunk of an aligned box can end: its largest offset, PERM's bits all set (R186). -/
def Box.top (b : Box) : Nat :=
  let o := b.base + 16 * (b.st3 * (b.x0 - 1) + b.st1 * (b.x1 - 1) + b.st2 * (b.x2 - 1))
  o / 2 ^ (4 + b.perm) * 2 ^ (4 + b.perm) + 2 ^ (4 + b.perm)

/-- The first scratch offset outside the region (R188); a box that cannot reach the region's end has none. -/
def boxBound (kind len : Nat) (b : Box) : Option Nat :=
  match if b.base % 16 = 0 ∧ b.top ≤ len then none else (List.range b.chunks).find? (fun c => decide (len < b.off c + 16)) with
  | some c => some (b.off c)
  | none => if kind = 2 then ((List.range b.x1).map (fun i => b.g2 + 4 * i)).find? (fun o => decide (len < o + 4)) else none

/-- The first misaligned field of a box command (R188). -/
def boxAlign (kind : Nat) (b : Box) : Option Nat :=
  let fs : List (Nat × Nat) := (b.base, 16) :: (if kind = 5 then [] else [(b.addr, 16), (b.g1, 16), (b.g2, if kind = 2 then 4 else 16)])
  (fs.find? (fun e => e.1 % e.2 != 0)).map (·.1)

namespace State
variable (s : State)

/-- The home slice's view for the shuttle: the issuing core's dirty copy goes home first (R187), a peer line enters the slices (R300). -/
def shtHome (t : Strand) (pa coh : Nat) (drop : Bool) : State :=
  let s := (s.l1Clean t.core (pa / 64) drop).combine pa
  if coh < 4 then s else s.sliceFill t.part pa

/-- The words of a chunk that read as poison at the home slices (R345, R365). -/
def chunkBad (t : Strand) (pa coh : Nat) : List Nat :=
  ((List.range 4).map (fun i => pa + 4 * i)).filter (fun a => (isSys a && !s.linkUp) || s.nearPoison t.part a coh)

/-- The error of a chunk (R338, R342): SUB 6. -/
def chunkErr (code va : Nat) : FaultInfo := { code := code, sub := 6, arg := va }

/-- Why a chunk does not move: its error with the poisoned word that it met and its level (R344, R348), or it waits. -/
abbrev ChunkStop := Stop × Option (Nat × Nat)

/-- One chunk's global read: 16 bytes, or the error, or a wait. -/
def chunkRead (me : Nat) (t : Strand) (va : Nat) : Except ChunkStop (State × List Byte) :=
  match s.xlate t.part t.ctx t.core va t.priv .read with
  | .error (.fault f) => .error (.fault (chunkErr f.code va), none)
  | .error .wait => .error (.wait, none)
  | .ok e =>
    let pa := physOf e va
    if s.serialHolds me pa false then .error (.wait, none) else
    let s := (((s.touch t.part t.ctx t.core va false).shtHome t pa e.coh false).l2Read t.core t.ctx pa).doom me pa false
    match s.chunkBad t pa e.coh with
    | a :: _ => .error (.fault (chunkErr 0x15 va), some (a, s.poisonLevel t.part t.core a 0))
    | [] => .ok (s, bytesOf (s.nearRead t.part pa 16 e.coh) 16)

/-- One chunk's global write. -/
def chunkWrite (me : Nat) (t : Strand) (va : Nat) (bs : List Byte) : Except ChunkStop State :=
  match s.xlate t.part t.ctx t.core va t.priv .write with
  | .error (.fault f) => .error (.fault (chunkErr f.code va), none)
  | .error .wait => .error (.wait, none)
  | .ok e =>
    let pa := physOf e va
    if s.serialHolds me pa true then .error (.wait, none) else
    let s := (((s.touch t.part t.ctx t.core va true).shtHome t pa e.coh true).l2Write t.core t.ctx pa 16).doom me pa true
    .ok (((s.nearStore t.part pa e.coh bs).ccNote me t.core pa 16).claspStore t true va 16 pa)

/-- The first word of a scratch range that is poisoned, as the error of a chunk for address va. -/
def chunkScr (wk off n va : Nat) : Option ChunkStop :=
  (((List.range (n / 4)).map (fun i => off + 4 * i)).find? (fun o => s.scrPoisoned wk o 4)).map (fun o => (.fault (chunkErr 0x15 va), some (o, 2)))

/-- Chunk c of a box command (R187): the state, or its error, or a wait; none moves while the partition is frozen (R353). -/
def chunk (me : Nat) (t : Strand) (h : Sht) (c : Nat) : Except ChunkStop State :=
  let b := boxOf h.x h.y
  let o := b.off c
  let wr := fun (s : State) (bs : List Byte) => scrStore me t o bs s
  if s.frozenAt t.part || s.stashWaits me t.weave o || (h.kind == 2 && s.stashWaits me t.weave (b.idxOff c)) then .error (.wait, none) else
  match h.kind with
  | 0 => (match s.chunkRead me t (b.glob c) with | .ok (s, bs) => .ok (wr s bs) | .error e => .error e)
  | 1 =>
    let s := s.stashFill me t.weave o
    match s.chunkScr t.weave o 16 (b.glob c) with
    | some e => .error e
    | none => s.chunkWrite me t (b.glob c) (bytesOf (s.scrRead t.weave o 16) 16)
  | 2 =>
    let s := s.stashFill me t.weave (b.idxOff c)
    let va := b.gath c (s.scrRead t.weave (b.idxOff c) 4)
    (match s.chunkScr t.weave (b.idxOff c) 4 va with
    | some e => .error e
    | none => match s.chunkRead me t va with | .ok (s, bs) => .ok (wr s bs) | .error e => .error e)
  | _ => let w := h.y.getD 0 0#32; .ok (wr s (bytesOfWords [w, w, w, w]))

/-- Chunks performed in turn; done ones are skipped; beside the state the first error, the first poisoned word, and whether one waits, at
which they stop (R342). -/
def chunkGo (me : Nat) (t : Strand) (h : Sht) : List Nat → State → Option FaultInfo → Option (Nat × Nat) →
    State × Option FaultInfo × Option (Nat × Nat) × Bool
  | [], s, err, pz => (s, err, pz, false)
  | c :: cs, s, err, pz =>
    if h.done.contains c then chunkGo me t h cs s err pz else
    match s.chunk me t h c with
    | .ok s => chunkGo me t h cs s err pz
    | .error (.fault f, p) => chunkGo me t h cs s (err.orElse (fun _ => some f)) (pz.orElse (fun _ => p))
    | .error (.wait, _) => (s, err, pz, true)

/-- An unmapping waits while a line it writes back lies in a serial transaction's footprint (R111), or the partition is frozen (R353). -/
def unstashWaits (me wk off : Nat) : Bool :=
  match (s.weave? wk).bind (fun w => s.stashOf w wk off) with
  | some m => m.dirty.any (fun d => s.frozenAt ((s.weave? wk).map (·.part) |>.getD 0) || s.serialMeets me (m.page + 256 * d.1) 256 true)
  | none => false

/-- A scratch page is unmapped by agent me: its dirty lines go home, lines never filled hold zero (R80). -/
def unstash (me wk off : Nat) : State :=
  match s.weave? wk with
  | none => s
  | some w =>
    match s.stashOf w wk off with
    | none => s
    | some m =>
      let s := m.dirty.foldl (fun s d => s.stashLineHome me w.home m d.1 d.2) s
      let c := s.core w.home
      let s := s.setCore w.home { c with stash := c.stash.filter (fun x => !(x.weave == wk && x.off == m.off)) }
      let dead := (List.range 16).filter (fun i => !m.ever.getLsbD i)
      s.updWeave wk (fun w => { w with
        scr := w.scr.filter (fun e => !(decide (m.off ≤ e.1) && decide (e.1 < m.off + 4096) && dead.contains ((e.1 - m.off) / 256))),
        scrPoison := w.scrPoison.filter (fun x => !(decide (m.off ≤ 4 * x) && decide (4 * x < m.off + 4096) && dead.contains ((4 * x - m.off) / 256))) })

/-- A scratch page is mapped onto a global page: whether it was (R79, R187). -/
def stashMap (wk off page coh : Nat) : State × Bool :=
  match s.weave? wk with
  | none => (s, false)
  | some w =>
    let c := s.core w.home
    if 32 ≤ c.stash.length ∨ (s.stashOf w wk off).isSome then (s, false)
    else (s.setCore w.home { c with stash := c.stash ++ [{ weave := wk, off := off, page := page, coh := coh, filled := 0#16, ever := 0#16, dirty := [] }] }, true)

/-- A fault of a tagged command invalidates its clasp and drops the arrivals held on it (R342). -/
def invalTagged (me : Nat) (t : Strand) (h : Nat) : State :=
  match s.weave? t.weave with
  | none => s
  | some w =>
    match AMap.look w.binds h with
    | none => s
    | some b =>
      let same := fun (a : HeldArr) => a.bind == b
      let n := (w.helds.filter same).length
      let s := s.updWeave t.weave (fun w => { w with helds := w.helds.filter (fun a => !same a) })
      match s.claspPlace t w b with
      | none => s
      | some p => let s := State.invalidate me s p; let c := s.claspRead p; s.claspWrite me p { c with held := c.held - BitVec.ofNat 32 n }

/-- The oldest shuttle command of strand k completes (R187, R342, R101); its chunks wait while the partition's memory channels have
granted their bytes (R277). -/
def completeSht (k : Nat) : State :=
  match s.oldest k .sh with
  | none => s
  | some (t, o) =>
    let fin := fun (s : State) (f : Strand → Strand) => (s.updStrand k (fun t => f (t.complete o))).tryEnter k
    match o.sht with
    | none => fin s id
    | some h =>
      match h.kind with
      | 3 =>
        let r := s.stashMap t.weave (h.x.getD 0 0#32).toNat (h.y.getD 2 0#32 ++ h.y.getD 1 0#32).toNat (h.y.getD 0 0#32).toNat
        fin r.1 (fun t => t.putS (h.x.getD 1 0#32).toNat (if r.2 then 1#32 else 0#32))
      | 4 =>
        if s.unstashWaits k t.weave (h.x.getD 0 0#32).toNat then s else fin (s.unstash k t.weave (h.x.getD 0 0#32).toNat) id
      | _ =>
        if h.kind ≠ 5 ∧ s.chanSpent t.part t.ctx then s else
        let r := chunkGo k t h (List.range (boxOf h.x h.y).chunks) s none none
        if r.2.2.2 then s else
        match r.2.1 with
        | none => fin r.1 id
        | some f =>
          let s1 := match o.tag with | some c => r.1.invalTagged k t c | none => r.1
          ((s1.logPoison t { o with pois := r.2.2.1 }).updStrand k (fun t => t.complete { o with err := some f })).tryEnter k

/-- Chunk e of shuttle command id of strand k moves before the command completes (R101), within the bytes that the memory channels grant
(R277). -/
def landChunk (k id e : Nat) : State :=
  match s.strand? k with
  | none => s
  | some t =>
    match t.ops.find? (fun o => o.id == id) with
    | some o =>
      match o.sht with
      | some h =>
        if h.kind = 3 ∨ h.kind = 4 ∨ h.done.contains e ∨ (boxOf h.x h.y).chunks ≤ e ∨ (h.kind ≠ 5 ∧ s.chanSpent t.part t.ctx) then s else
        match s.chunk k t h e with
        | .error _ => s
        | .ok s => s.updStrand k (fun t => { t with ops := t.ops.map (fun o => if o.id = id then { o with sht := some { h with done := h.done ++ [e] } } else o) })
      | none => s
    | none => s

end State

/-- A command issues: one more on the sh path (R187). -/
def shtIssue (t : Strand) (kind : Nat) (xs ys : List Word) (fs : Nat) (tag : Option Nat) : Strand :=
  (t.issueOp { id := 0, path := .sh, flag := t.flagOf fs, sht := some { kind := kind, x := xs, y := ys, done := [] }, tag := tag }).noteWrite

/-- The box commands: the checks of R188 at issue, then the command. -/
def boxGo (kind x y fs : Nat) (s : State) : Host.Outcome State Fault Refusal :=
  s.run (fun t =>
    let xs := (List.range 4).map (fun i => t.getS (x + i))
    let ys := (List.range 4).map (fun i => t.getS (y + i))
    let b := boxOf xs ys
    let bound := fun (h : Nat) => match s.weave? t.weave with | some w => (AMap.look w.binds h).isSome | none => false
    if shapeBad kind xs then s.raise t { code := 1, arg := s.wordAt t t.itemAddr } else
    match boxAlign kind b with
    | some a => s.raise t { code := 3, arg := a }
    | none =>
      match boxBound kind (s.scrLen t.weave) b with
      | some o => s.raise t { code := 7, sub := 1, arg := o }
      | none =>
        if b.ce && !bound b.ch then s.raise t { code := 0xE, sub := 1, arg := b.ch }
        else if pathFull t .sh then s.hold t .path
        else s.finish (shtIssue t kind xs ys fs (if b.ce then some b.ch else none)) 1)

/-- SHT.COPYIN (R187). -/
def execShtCopyin (x y fs : Nat) (s : State) : Host.Outcome State Fault Refusal := boxGo 0 x y fs s
/-- SHT.COPYOUT (R187). -/
def execShtCopyout (x y fs : Nat) (s : State) : Host.Outcome State Fault Refusal := boxGo 1 x y fs s
/-- SHT.GATHER (R187). -/
def execShtGather (x y fs : Nat) (s : State) : Host.Outcome State Fault Refusal := boxGo 2 x y fs s
/-- SHT.FILL (R187). -/
def execShtFill (x y fs : Nat) (s : State) : Host.Outcome State Fault Refusal := boxGo 5 x y fs s

/-- The checks of a stash page's scratch offset (R188). -/
def stashOff (s : State) (t : Strand) (off : Nat) : Option FaultInfo :=
  if off % 4096 ≠ 0 then some { code := 3, arg := off }
  else if s.scrLen t.weave < off + 4096 then some { code := 7, sub := 1, arg := off } else none

/-- SHT.STASH (R79, R187, R188): ALIGN, the faults of the global page, an HC page, then SCRATCH_BOUND (R327).  OWNER of a CP page is
tested against the issuing core (R88), while the fills go through the L1 of the weave's home core (R76, R79; log 29).  The command
carries no tag: its words name single registers and a pair, with no field for CE (R187, log 29). -/
def execShtStash (x y fs : Nat) (s : State) : Host.Outcome State Fault Refusal :=
  s.run (fun t =>
    let va := (t.getPair y).toNat
    let off := (t.getS x).toNat
    if off % 4096 ≠ 0 then s.raise t { code := 3, arg := off }
    else if va % 4096 ≠ 0 then s.raise t { code := 3, arg := va } else
    match s.xlate t.part t.ctx t.core va t.priv .read with
    | .error e => s.stopped t e
    | .ok e =>
      if e.coh = 0 then s.raise t { code := 6, sub := 1, arg := va }
      else match stashOff s t off with
      | some f => s.raise t f
      | none =>
      if pathFull t .sh then s.hold t .path
      else
        let pa := State.physOf e va
        (s.touch t.part t.ctx t.core va false).finish (shtIssue t 3 [t.getS x, BitVec.ofNat 32 x]
          [BitVec.ofNat 32 e.coh, BitVec.ofNat 32 pa, BitVec.ofNat 32 (pa / 2 ^ 32)] fs none) 1)

/-- SHT.UNSTASH (R80, R187): without a tag, as STASH; only the tagged commands of its strand hold an arrival (log 29). -/
def execShtUnstash (x _y fs : Nat) (s : State) : Host.Outcome State Fault Refusal :=
  s.run (fun t =>
    match stashOff s t (t.getS x).toNat with
    | some f => s.raise t f
    | none => if pathFull t .sh then s.hold t .path else s.finish (shtIssue t 4 [t.getS x] [] fs none) 1)

/-- SHUTTLE_COMPLETE (R187). -/
def execShuttleComplete (k : Nat) (s : State) : Host.Outcome State Fault Refusal := .next (s.completeSht k)

end Sys2Proof.Machine
end

