-- ==== Sys2Proof/Machine/Tx.lean ====
section
/-!
DEFINITION. TBEGIN, TEND, TABORT, TSERIAL (spec/03 R105 to R111, spec/06 R189 to R192, spec/02 R70, spec/20 R351).
-/
namespace Sys2Proof.Machine
open Sys2Proof

/-- txstat of an open transaction: DEPTH and SERIAL (R110). -/
def openStat (depth : Nat) (serial : Bool) : Word := BitVec.ofNat 32 (depth * 2 ^ 13 + bitIf serial 16)

/-- The transaction opens for the lanes in EXEC (R105). -/
def txOpen (t : Strand) (soff loff : Nat) (serial : Bool) : Strand :=
  { t with
    txstat := openStat 1 serial,
    tx := some { failSpc := t.itemAddr + sextD soff 16 * 4#64, failLpc := t.first + BitVec.ofNat 32 t.nl + sextW loff 16, depth := 1,
                 lanes := t.exec, dead := [], doom := 0#128, reads := [], writes := [], reds := [], lines := [], serial := serial,
                 sys := false, exec := t.exec, loops := t.loops, rot := t.rot, stage := t.stage, region := t.region,
                 poisoned := false } }

/-- One level deeper, or NEST at depth 7 (R105). -/
def txDeeper (t : Strand) (x : Tx) (s : State) : Host.Outcome State Fault Refusal :=
  if 7 ≤ x.depth then .next (s.setCur (t.abortTx 9 0))
  else s.finish { t with tx := some { x with depth := x.depth + 1 }, txstat := openStat (x.depth + 1) x.serial } 2

/-- TBEGIN (R105, R189). -/
def execTbegin (soff loff : Nat) (s : State) : Host.Outcome State Fault Refusal :=
  s.run (fun t => match t.tx with | some x => txDeeper t x s | none => s.finish (txOpen t soff loff false) 2)

/-- The serial token of a partition is held (R111). -/
def State.tokenHeld (s : State) (part : Nat) : Bool :=
  s.strands.any (fun e => e.2.part == part && (match e.2.tx with | some x => x.serial | none => false))

/-- TSERIAL (R111, R191). -/
def execTserial (soff loff : Nat) (s : State) : Host.Outcome State Fault Refusal :=
  s.run (fun t =>
    match t.tx with
    | some x => if x.serial then txDeeper t x s else .next (s.setCur (t.abortTx 9 0))
    | none => if s.tokenHeld t.part then s.hold t .token else s.finish (txOpen t soff loff true) 2)

/-- TABORT (R191). -/
def execTabort (arg : Nat) (s : State) : Host.Outcome State Fault Refusal :=
  s.run (fun t => if t.tx.isSome then .next (s.setCur (t.abortTx 4 arg)) else s.finish t 1)

/-! ### Commit (R107, R108) -/

/-- Words a lane wrote, and words it touched. -/
def Tx.wroteW (x : Tx) (l : Nat) : List Nat :=
  ((x.writes.filter (·.lane == l)).map (·.addr / 4)) ++ (x.reds.filter (·.lane == l)).flatMap (fun r => (List.range (atomSize r.opc / 4)).map (r.addr / 4 + ·))
def Tx.touchedW (x : Tx) (l : Nat) : List Nat := x.wroteW l ++ (x.reads.filter (·.lane == l)).map (·.addr / 4)

/-- Two lanes conflict: one word, one of them writing it (R107). -/
def Tx.conflict (x : Tx) (a b : Nat) : Bool :=
  (x.wroteW a).any (fun w => (x.touchedW b).contains w) || (x.wroteW b).any (fun w => (x.touchedW a).contains w)

/-- Lanes in ascending order, each losing to a lower lane that has not lost (R107): the winners so far and the losers. -/
def Tx.losers (x : Tx) : List Nat → List Nat → List Nat
  | [], _ => []
  | l :: ls, won => if won.any (fun m => x.conflict m l) then l :: x.losers ls won else x.losers ls (won ++ [l])

namespace State
variable (s : State)

/-- The current value of a byte at the home slices, with the core's own unwritten SC words (R108). -/
def curByte (core coh a : Nat) : Byte :=
  if coh = 0 then (s.combine a).homeByte a
  else if coh = 1 then
    match AMap.look (s.core core).l1 (a / 64) with
    | some x => if x.dirty.getLsbD (a / 4 % 16) then s.txMem core 1 a else (s.combine a).homeByte a
    | none => (s.combine a).homeByte a
  else s.txMem core coh a

/-- A lane's reads are all current (R108). -/
def readsCurrent (core : Nat) (x : Tx) (l : Nat) : Bool := (x.reads.filter (·.lane == l)).all (fun r => s.curByte core r.coh r.addr == r.val)

/-- The writes of one lane to one word become visible (R108). -/
def commitWord (me : Nat) (t : Strand) (ws : List TxWrite) : State :=
  match ws with
  | [] => s
  | w :: _ =>
    let wa := w.addr / 4 * 4
    let s := s.doom me wa true
    let b := fun i => (ws.find? (fun w => w.addr == wa + i)).map (·.val)
    let s := match b 0, b 1, b 2, b 3 with
      | some b0, some b1, some b2, some b3 => s.coreWrite t.core wa w.coh t.ctx [b0, b1, b2, b3]
      | _, _, _, _ => ws.reverse.foldl (fun (s : State) (w : TxWrite) => s.coreWrite t.core w.addr w.coh t.ctx [w.val]) s
    (s.ccNote me t.core wa 4).claspStore t true (w.va / 4 * 4) 4 wa

/-- A buffered RED becomes visible (R228). -/
def commitRed (me : Nat) (t : Strand) (r : TxRed) : State :=
  let s := s.doom me r.addr true
  let s := if r.coh = 1 then s.l1Clean t.core (r.addr / 64) true else s
  let coh := if r.coh = 2 then 2 else 0
  let s := s.readPrep t.core r.addr coh t.ctx
  if (s.poisonWords t.core r.addr (atomSize r.opc) coh).any id then s else
  (s.coreWrite t.core r.addr coh t.ctx (bytesOf (atomOp r.opc (s.coreRead t.core r.addr (atomSize r.opc) coh) r.val 0) (atomSize r.opc))).ccNote
    me t.core r.addr (atomSize r.opc)

/-- The SC sectors that a commit has written go home with its other writes (R108 step 3). -/
def commitHome (core : Nat) (x : Tx) (ls : List Nat) : State :=
  (((x.writes.filter (fun w => w.coh == 1 && ls.contains w.lane)).map (·.addr / 64)).eraseDups).foldl (fun (s : State) sec => s.l1Clean core sec false) s

/-- The writes of the surviving lanes become visible, in lane order (R108 step 3). -/
def commitLanes (me : Nat) (t : Strand) (x : Tx) (ls : List Nat) : State :=
  (ls.foldl (fun s l =>
    let ws := x.writes.filter (·.lane == l)
    let s := ((ws.map (·.addr / 4)).eraseDups).foldl (fun s w => s.commitWord me t (ws.filter (fun y => y.addr / 4 == w))) s
    (x.reds.filter (·.lane == l)).foldl (fun s r => s.commitRed me t r) s) s).commitHome t.core x ls

end State

/-- The lanes' fates at TEND: aborted lanes with their codes, all included (R107, R108).  Nothing that another agent does fails a lane
of a serial transaction: such accesses wait (R111). -/
def txFates (s : State) (t : Strand) (x : Tx) : AMap Nat :=
  let open_ := (lanesOf x.lanes).filter (fun l => (AMap.look x.dead l).isNone)
  let lost := x.losers open_ []
  let d1 := lost.foldl (fun d l => AMap.put d l 2) x.dead
  (open_.filter (fun l => !lost.contains l && (x.doom.getLsbD l || (!x.serial && !s.readsCurrent t.core x l)))).foldl (fun d l => AMap.put d l 1) d1

/-- The commit at depth 1 (R108, R190); its release and its acquire wait as any do (R111). -/
def txCommit (s : State) (t : Strand) (x : Tx) (q : Nat) : Host.Outcome State Fault Refusal :=
  let sc := if x.sys then 5 else 4
  if s.releaseWaits s.cur t sc || s.acquireWaits s.cur t sc then s.hold t .path else
  let dead := txFates s t x
  let won := (lanesOf x.lanes).filter (fun l => (AMap.look dead l).isNone)
  let m := maskOfLanes won
  if m = 0#128 then .next (s.setCur (({ t.setQ q m with tx := some { x with dead := dead } }).abortTx 0 0))
  else
    let s1 := ((s.releaseAt s.cur t sc).commitLanes s.cur t x won).acquireAt s.cur t sc
    let code := match (lanesOf x.lanes).find? (fun l => (AMap.look dead l).isSome) with | some l => AMap.get dead l 0 | none => 0
    s1.finish { (t.setQ q m).noteWrite with tx := none, txstat := BitVec.ofNat 32 (code + bitIf (Strand.retryCode code) 12) } 1

/-- TEND (R108, R190). -/
def execTend (x : Nat) (s : State) : Host.Outcome State Fault Refusal :=
  s.run (fun t =>
    match t.tx with
    | none => s.finish (t.setQ x t.exec) 1
    | some y =>
      if 1 < y.depth then
        s.finish { t.setQ x (maskOf (fun l => y.lanes.getLsbD l && (AMap.look y.dead l).isNone)) with
          tx := some { y with depth := y.depth - 1 }, txstat := openStat (y.depth - 1) y.serial } 1
      else if !t.drained3 then s.hold t .path
      else if y.poisoned then .next (s.setCur (t.abortTx 7 0))
      else txCommit s t y x)

end Sys2Proof.Machine
end

