-- ==== Sys2Proof/Machine/Trace.lean ====
section
/-!
DEFINITION. Branch trace: packets, blocks, the ring (spec/16 R308 to R311, spec/18 R317 to R320).
-/
namespace Sys2Proof.Machine
open Sys2Proof

/-- The trace ring is full (R319), the blocks that wait for it counted. -/
def traceFull (p : Part) : Bool := decide (2 ^ p.tRing.2 ≤ (p.rd 0xA074 - p.rd 0xA078).toNat)
def traceHeldFull (p : Part) : Bool := decide (2 ^ p.tRing.2 ≤ (p.rd 0xA074 - p.rd 0xA078).toNat + p.heldBlocks.length)

/-- The place of the next block in the ring (R308). -/
def tracePa (p : Part) : Nat := p.tRing.1 + 64 * ((p.rd 0xA074).toNat % 2 ^ p.tRing.2)

/-- A key of the held blocks that no strand has: the block of a stream that has ended, or one that a serial transaction keeps out. -/
def noKey : Nat := 2 ^ 40

/-- A 64-byte block: strand word, length, packet bytes (R308). -/
def traceBlock (sid : Nat) (pk : List Byte) : List Byte :=
  bytesOf sid 4 ++ bytesOf pk.length 4 ++ pk ++ List.replicate (56 - pk.length) 0#8
  where bytesOf := Sys2Proof.bytesOf

namespace State
variable (s : State)

/-- A block enters the ring: the write, TWR, an ESEQ (R304, R308). -/
def ringBlock (part : Nat) (bs : List Byte) : State :=
  match s.part? part with
  | none => s
  | some p =>
    let p1 := (p.eseq.2).wr 0xA074 (p.rd 0xA074 + 1)
    (s.hwWrite (tracePa p) bs).setPart part p1

/-- A strand's block falls due: it is written, or held while the ring is full (R308, R319).  A block whose place lies in the footprint
of a serial transaction waits too, its strand going on (R111). -/
def blockDue (k : Nat) : State :=
  match s.strand? k with
  | none => s
  | some t =>
    if t.tr.block.isEmpty ∨ t.tr.holding then s else
    let bs := traceBlock t.sid t.tr.block
    match s.part? t.part with
    | none => s
    | some p =>
      if traceHeldFull p then
        (s.setPart t.part { p with heldBlocks := p.heldBlocks ++ [(k, bs)] }).setStrand k { t with tr := { t.tr with block := [], holding := true } }
      else if !p.heldBlocks.isEmpty || s.serialRange hwAgent (tracePa p) 64 then
        (s.setPart t.part { p with heldBlocks := p.heldBlocks ++ [(noKey, bs)] }).setStrand k { t with tr := { t.tr with block := [] } }
      else (s.ringBlock t.part bs).setStrand k { t with tr := { t.tr with block := [] } }

/-- One packet is written, or lost, and then counted where it is one that counts (R308, R318, R319). -/
def putPacketIf (counts : Bool) (k : Nat) (pk : List Byte) : State :=
  match s.strand? k with
  | none => s
  | some t =>
    let s := if t.tr.block.length + pk.length ≤ 56 then s else s.blockDue k
    s.updStrand k (fun t =>
      if t.tr.holding || t.tr.freed then { t with tr := { t.tr with lost := if counts then t.tr.lost + 1 else t.tr.lost } }
      else { t with tr := { t.tr with block := t.tr.block ++ pk, count := t.tr.count + 1, last := s.time } })

/-- One packet that counts when it is lost. -/
def putPacket (k : Nat) (pk : List Byte) : State := s.putPacketIf true k pk

/-- Strand k writes nothing: it holds a block, or has not yet written LOSS (R319). -/
def muted (k : Nat) : Bool := match s.strand? k with | some t => t.tr.holding || t.tr.freed | none => true

/-- The fewest bytes that hold a delta (R317). -/
def deltaBytes (n : Nat) : Nat := ((List.range 9).find? (fun k => decide (1 ≤ k) && decide (n < 256 ^ k))).getD 8

/-- TIME before a packet whose event lies TRES or more after the timestamp (R317): the timestamp moves when it is written; of TIMEs
that are lost, each moves the one that the next is counted by (R319). -/
def putTime (k : Nat) : State :=
  match s.strand? k with
  | none => s
  | some t =>
    let d := s.time - (if s.muted k then max t.tr.ts t.tr.lostTs else t.tr.ts)
    if d < fld (s.csr t.part 0xA060).toNat 16 16 then s
    else
      let n := deltaBytes d
      let s1 := s.putPacket k (BitVec.ofNat 8 (5 + 16 * n) :: bytesOf d n)
      s1.updStrand k (fun t => { t with tr := if s1.muted k then { t.tr with lostTs := s.time } else { t.tr with ts := s.time } })

/-- The held decisions as a BRANCH, and the TIME that the packet after it needs (R309, R310, R317). -/
def putBranch (k : Nat) : State :=
  match s.strand? k with
  | none => s
  | some t =>
    if t.tr.bits.isEmpty then s else
    let m := (t.tr.bits.zipIdx.map (fun b => bitIf b.1 b.2)).sum
    (s.putPacket k (1#8 :: BitVec.ofNat 8 t.tr.bits.length :: bytesOf m 4)).updStrand k (fun t => { t with tr := { t.tr with bits := [] } })

/-- The held decisions stand to be written before a packet: TIME, BRANCH, and TIME again for the packet where TRES is 0 (R310,
R317). -/
def putAhead (k : Nat) : State :=
  let some_ := match s.strand? k with | some t => !t.tr.bits.isEmpty | none => false
  let s1 := (s.putTime k).putBranch k
  if some_ then s1.putTime k else s1

/-- A packet after its TIME and the held decisions (R310, R317). -/
def emit (k : Nat) (pk : List Byte) : State := (s.putAhead k).putPacket k pk

/-- One decision; 31 of them are written at once (R310). -/
def decide1 (k : Nat) (b : Bool) : State :=
  let s := s.updStrand k (fun t => { t with tr := { t.tr with bits := t.tr.bits ++ [b] } })
  match s.strand? k with
  | some t => if 31 ≤ t.tr.bits.length then (s.putTime k).putBranch k else s
  | none => s

/-- Decisions of a traced strand, in order. -/
def decideAll (k : Nat) (bs : List Bool) : State :=
  match s.strand? k with
  | some t => if t.tr.on then bs.foldl (fun (s : State) b => s.decide1 k b) s else s
  | none => s

/-- SYNC with field f at the strand's header (R309, R310, R317, R318); where the ring is full it is neither written nor counted
(R319). -/
def putSync (k f : Nat) : State :=
  match s.strand? k with
  | none => s
  | some t =>
    let pk := BitVec.ofNat 8 (16 * f) :: (bytesOf t.hspc.toNat 6 ++ bytesOf t.first.toNat 4 ++ bytesOf t.exec.toNat 16 ++ bytesOf s.time 8)
    let s1 := (if f = 0 then s else s.putAhead k).putPacketIf false k pk
    if s1.muted k then s1 else s1.updStrand k (fun t => { t with tr := { t.tr with ts := s.time, count := 0, sync := none } })

/-- LOSS with the count (R309, R319). -/
def putLoss (k : Nat) : State :=
  match s.strand? k with
  | none => s
  | some t =>
    let n := t.tr.lost + (if t.tr.bits.isEmpty then 0 else 1)
    let s := s.setStrand k { t with tr := { t.tr with bits := [], lost := 0, freed := false, holding := false } }
    s.emit k (6#8 :: bytesOf (min n 0xFFFF) 2)

/-- The blocks that strand k holds go on to the ring without it. -/
def orphan (k : Nat) (part : Nat) : State :=
  (s.updPart part (fun p => { p with heldBlocks := p.heldBlocks.map (fun b => if b.1 = k then (noKey, b.2) else b) })).updStrand k
    (fun t => { t with tr := { t.tr with holding := false, freed := false, block := [], lost := 0 } })

/-- The stream ends: held decisions, STOP with field f, the block written at once or held in its turn; a strand that has lost packets
writes LOSS before its STOP (R309, R311, R319, R320).  A halted strand goes on later: it still holds its block, and ends its stream at
its next header where TEN has fallen. -/
def putEnd (k f : Nat) : State :=
  match s.strand? k with
  | none => s
  | some t =>
    let stop := [BitVec.ofNat 8 (7 + 16 * f)]
    let s1 := if s.muted k then s else (s.putAhead k).putPacketIf false k stop
    let s2 := if s.muted k || s1.muted k then (s1.putLoss k).emit k stop else s1
    let s3 := s2.blockDue k
    if f = 3 then s3.updStrand k (fun t => { t with tr := { t.tr with sync := none } })
    else (s3.orphan k t.part).updStrand k (fun t => { t with tr := { t.tr with off := false, sync := none } })

/-- Whether a strand is traced now (R308). -/
def traced (t : Strand) : Bool :=
  let w := (s.csr t.part 0xA060).toNat
  let wid := ((s.weave? t.weave).map (·.wid)).getD 0
  decide (t.core < 256) && w.testBit 0 && fld w 1 4 == t.ctx && (!w.testBit 5 || (s.csr t.part 0xA064).toNat == wid)

/-- A stream begins: SYNC with F = 0 (R310). -/
def traceStart (k : Nat) : State :=
  (s.updStrand k (fun t => { t with tr := { t.tr with
    on := true, count := 0, bits := [], block := [], lost := 0, freed := false, holding := false, off := false, ended := false, lostTs := 0 } })).putSync k 0

/-- A stream ends as TEN or the filter ends it (R311). -/
def traceStop (k : Nat) : State := (s.putEnd k 2).updStrand k (fun t => { t with tr := { t.tr with on := false } })

/-- What the trace writes at a clause header, before it issues (R310, R311, R318, R319). -/
def traceHeader (k : Nat) : State :=
  match s.strand? k with
  | none => s
  | some t =>
    let on := s.traced t
    if t.tr.on && (t.tr.off || !on) then (if on then (s.traceStop k).traceStart k else s.traceStop k)
    else if on then
      if t.tr.on = false then s.traceStart k
      else if t.tr.holding then s
      else if t.tr.freed then (s.putLoss k).putSync k 3
      else match t.tr.sync with
        | some f => s.putSync k f
        | none => if 256 ≤ t.tr.count then s.putSync k 1 else s
    else s

end State

/-- The runs of a mask: start and length, ascending (R309). -/
def maskRuns (m : Mask) : List (Nat × Nat) :=
  (List.range 128).foldl (fun rs l =>
    if m.getLsbD l then
      match rs.getLast? with
      | some r => if r.1 + r.2 = l then rs.dropLast ++ [(r.1, r.2 + 1)] else rs ++ [(l, 1)]
      | none => [(l, 1)]
    else rs) []

/-- A MASK packet for a change of EXEC (R309). -/
def maskPacket (old new : Mask) : List Byte :=
  let rs := maskRuns (old ^^^ new)
  if 15 < rs.length then 3#8 :: bytesOf new.toNat 16
  else BitVec.ofNat 8 (3 + 16 * rs.length) :: rs.flatMap (fun r => [BitVec.ofNat 8 r.1, BitVec.ofNat 8 (r.2 - 1)])

/-- A step of a strand has demoted its path: the 64th crossing with PEND 1, after which the count stands at 0 (R54, R55). -/
def demotedIn (t t' : Strand) : Bool :=
  t.regionOpen && (t.getS (t.regionBase + 7)).getLsbD 10 && t'.region == t.region && t.spin.count == 63 && t'.spin.count == 0 && t'.hnd == t.hnd

/-- Where a step's transfer led: the place of the strand, or the one that a demotion has put in the save area (R55, R303). -/
def landing (t t' : Strand) : DWord × Word :=
  if demotedIn t t' then (t'.secBase + (t'.getS (t.regionBase + 5)).setWidth 64, t'.getS (t.regionBase + 6)) else (t'.itemAddr, t'.lpc)

/-- An ADDR packet naming a target by the SPC and LPC of R303 (R309). -/
def addrPacket (f : Nat) (a : DWord × Word) : List Byte := BitVec.ofNat 8 (2 + 16 * f) :: (bytesOf a.1.toNat 6 ++ bytesOf a.2.toNat 4)

/-- The branch decision of an item (R310): taken as its condition says, a LOOP skipped when none was opened. -/
def itemDecision (i : Instr) (t t' : Strand) : List Bool :=
  match i with
  | .bz r _ _ => [t.getS r == 0#32]
  | .bnz r _ _ => [t.getS r != 0#32]
  | .bexz _ _ => [t.exec == 0#128]
  | .loop _ _ _ _ _ _ _ _ => [t'.loops.length == t.loops.length]
  | _ => []

/-- The decisions of the back edges that led from t to t' (R310): an exit for each frame closed, then a rewind if the last one
rewound. -/
def edgeDecisions (t t' : Strand) : List Bool :=
  List.replicate (t.loops.length - t'.loops.length) false
    ++ (match t'.loops with | l :: _ => if (landing t t').1 = l.startSpc ∧ t'.item = 0 then [true] else [] | [] => [])

/-- The decisions of the back edge that is due (R58, R310). -/
def State.edgeBits (s : State) (t : Strand) : List Bool := if t.edge then edgeDecisions t (s.backEdge t).2 else []

/-- The decisions of the back edges that LEXIT or LBRK of the lanes m runs at once (R61, R310). -/
def State.lexitBits (s : State) (m : Mask) (t : Strand) : List Bool :=
  if lexitFires m t = false then [] else
  match t.loops with
  | [] => []
  | l :: ls =>
    let t1 := { t with exec := 0#128, loops := { l with lexit := l.lexit ||| m } :: ls }
    if l.item then edgeDecisions t1 (State.backEdgeGo l.endSpc 5 s t1).2
    else
      let t2 := t1.popLoop.jump (s.afterEnd t1 l.endSpc) l.endLpc
      if t2.edgeAt l.endSpc then edgeDecisions t2 (State.backEdgeGo l.endSpc 4 s t2).2 else []

/-- The decisions of the back edges that an item runs itself: LEXIT, LBRK, and TRAP or BKPT before it raises (R61, R310, R323). -/
def State.nextBits (s : State) (i : Instr) (t : Strand) : List Bool :=
  match i with
  | .lexit x => s.lexitBits (t.getQ x) t
  | .lbrk => s.lexitBits t.exec t
  | .trap _ => if t.tx.isSome then [] else s.edgeBits (t.advance 1)
  | .bkpt _ => if t.tx.isSome then [] else s.edgeBits (t.advance 1)
  | _ => []

/-- An item whose transfer an ADDR packet names (R309): JMPV and CALLV with no active lane make none. -/
def itemAddrF (i : Instr) (t : Strand) : Option Nat :=
  match i with
  | .jmpi _ _ => some 0 | .calli _ _ => some 0
  | .jmpv _ _ => if t.exec = 0#128 then none else some 0
  | .callv _ _ => if t.exec = 0#128 then none else some 0
  | .ret => some 1 | .rft => some 3
  | _ => none

/-- Where an item of n words that does not transfer leaves the strand. -/
def fellThrough (t t' : Strand) : Bool := t'.hspc == t.hspc && decide (t.item < t'.item)

namespace State
variable (s : State)

/-- The packets of a strand's change from t to its present state, by item i when it is the one that ran, with the decisions of the
back edges that ran (R310).  An item that ended the strand's transaction made no transfer of its own: TEND, or one whose fault aborted
it. -/
def traceChange (k : Nat) (i : Option Instr) (edges : List Bool) (t : Strand) : State :=
  match s.strand? k with
  | none => s
  | some t' =>
    if t.tr.on = false then s else
    let entered := !t.hnd && t'.hnd
    let moved := t'.hspc != t.hspc || t'.item != t.item
    let ran := match i with | some i => if moved && !entered && (t.tx.isNone || t'.tx.isSome) then some i else none | none => none
    let s := ((match ran with | some i => itemDecision i t t' | none => []) ++ edges).foldl (fun s b => s.decide1 k b) s
    let s := match ran with
      | some i => (match itemAddrF i t with | some f => if fellThrough t t' then s else s.emit k (addrPacket f (landing t t')) | none => s)
      | none => s
    let s := if entered then s.emit k (addrPacket 2 (t'.itemAddr, t'.lpc)) else s
    let s := if demotedIn t t' then s.emit k (addrPacket 4 (t'.itemAddr, t'.lpc)) else s
    let join : Option Word := match ran with | some (.mjoin sv) => some (t.getS (sv + 7)) | _ => none
    let joined : Bool := (join.map (·.getLsbD 9)).getD false
    let pend : Bool := (join.map (·.getLsbD 10)).getD false
    let s := if joined then s.emit k [if pend then 0x14#8 else 0x04#8] else s
    let s := if t.exec ≠ t'.exec ∧ joined = false then s.emit k (maskPacket t.exec t'.exec) else s
    match ran with
      | some .rft => s.updStrand k (fun t => { t with tr := { t.tr with sync := some 4 } })
      | _ => s

/-- Traced strands that have halted since end their streams with STOP, to begin again with a SYNC when they are resumed (R320). -/
def traceHalts : State :=
  (s.strands.filter (fun e => e.2.tr.on && (e.2.tr.ended != (e.2.run == .halted)))).foldl (fun (s : State) e =>
    if e.2.run = .halted then
      (s.putEnd e.1 3).updStrand e.1 (fun t => { t with tr := { t.tr with sync := some 4, ended := true } })
    else s.updStrand e.1 (fun t => { t with tr := { t.tr with ended := false } })) s

/-- The ring frees: held blocks enter in order, none while a serial transaction keeps its place (R111); their strands resume at their
next header (R319). -/
def drainBlocks (part : Nat) : Nat → State → State
  | 0, s => s
  | n + 1, s =>
    match s.part? part with
    | none => s
    | some p =>
      match p.heldBlocks with
      | [] => s
      | (k, bs) :: rest =>
        if traceFull p || s.serialRange hwAgent (tracePa p) 64 then s else
        let s := (s.setPart part { p with heldBlocks := rest }).ringBlock part bs
        drainBlocks part n (if rest.any (fun b => b.1 == k) then s else
          s.updStrand k (fun t => if t.tr.holding then { t with tr := { t.tr with holding := false, freed := true } } else t))

/-- Blocks that wait enter a partition's ring as far as it has room. -/
def drainPart (part : Nat) : State :=
  match s.part? part with
  | some p => if p.heldBlocks.isEmpty then s else drainBlocks part p.heldBlocks.length s
  | none => s

/-- Blocks that serial transactions have kept out enter the rings. -/
def drainRings : State := (s.parts.map (·.1)).foldl (fun (s : State) p => s.drainPart p) s

end State

/-- The departure of a strand, with the end of its stream (R309, R319). -/
def State.leaveNow (s : State) (k : Nat) (t : Strand) : State :=
  (if t.tr.on then s.putEnd k (if t.leave = .detach then 1 else 0) else s).depart k t

/-- DEPARTURE (R44, R45): strand k, when its wait is over. -/
def execDeparture (k : Nat) (s : State) : Host.Outcome State Fault Refusal :=
  .next (match s.strand? k with | some t => if canDepart t && !s.claspsWait k t then s.leaveNow k t else s | none => s)

/-- TRD_WRITE (R302, R319). -/
def execTrdWrite (p v : Nat) (s : State) : Host.Outcome State Fault Refusal :=
  .next ((s.updPart p (fun x => x.wr 0xA078 (BitVec.ofNat 32 v))).drainPart p)

/-- TSYNC (R302, R310): a SYNC that is due after a trap return or a halt stays as it is (R320). -/
def execTsync (p : Nat) (s : State) : Host.Outcome State Fault Refusal :=
  .next { s with strands := s.strands.map (fun e =>
    if e.2.part = p ∧ e.2.tr.on then (e.1, { e.2 with tr := { e.2.tr with sync := if e.2.tr.sync = some 4 then some 4 else some 2 } }) else e) }

/-- TRACE_TIMEOUT (R308): 1 µs after strand k's last packet its block is written. -/
def execTraceTimeout (k : Nat) (s : State) : Host.Outcome State Fault Refusal :=
  .next (match s.strand? k with | some t => if t.tr.last + 1000 ≤ s.time then s.blockDue k else s | none => s)

/-- TEN_WRITE (R302, R311): a write of 0xA060.  When TEN falls, a strand that is halted, blocked, in a causal delay, taking a trap or
leaving ends its stream at once, any other at its next header.  When TEN rises the ring is taken up, and blocks that waited for a slot
may find one (R319). -/
def execTenWrite (p v : Nat) (s : State) : Host.Outcome State Fault Refusal :=
  .next (match s.part? p with
    | none => s
    | some x =>
      let old := (x.rd 0xA060).getLsbD 0
      let w : Word := BitVec.ofNat 32 v &&& 0xFFFF003F#32
      let ring := ((x.rd64 0xA068) / 4096 % 2 ^ 40 * 4096, (x.rd 0xA070).toNat % 32)
      let x1 := x.wr 0xA060 w
      let s1 := s.setPart p (if !old && w.getLsbD 0 then { x1 with tRing := ring } else x1)
      if old && !w.getLsbD 0 then
        (s1.strands.filter (fun e => e.2.part == p && e.2.tr.on)).foldl (fun (s : State) e =>
          if e.2.ready && e.2.delay.isNone then s.updStrand e.1 (fun t => { t with tr := { t.tr with off := true } })
          else s.traceStop e.1) s1
      else s1.drainPart p)

end Sys2Proof.Machine
end

