-- ==== Sys2Proof/Machine/FrontEnd.lean ====
section
/-!
DEFINITION. Queues, packets and the command core (spec/11 R243 to R251, R256, spec/21 R355 to R358).
-/
namespace Sys2Proof.Machine
open Sys2Proof

/-- The queue registers of lane ln: their offset in the control block (R243). -/
def qOff (ln : Nat) : Nat := 0x800 + 0x40 * (ln % 8)

/-- A word of a packet is not canonical as an address (R245, R356). -/
def notCanon (a : Nat) : Bool := sextI (a / 2 ^ 47) 17 != 0 && sextI (a / 2 ^ 47) 17 != -1

/-- A packet as read (R245). -/
structure Packet where
  idx : Nat
  addr : Nat
  w : List Word

namespace Packet
variable (k : Packet)
def word (i : Nat) : Word := k.w.getD i 0#32
def type : Nat := fld (k.word 0).toNat 0 8
def bar : Bool := (k.word 0).getLsbD 8
def a : Nat := (pair (k.word 2) (k.word 3)).toNat
def b : Nat := (pair (k.word 4) (k.word 5)).toNat
/-- A reserved word or field is set, or the condition of WAIT_SIGNAL is 3 (R245, R356). -/
def reserved : Bool :=
  let z := fun (lo : Nat) => (List.range (16 - lo)).any (fun i => k.word (lo + i) != 0#32)
  fld (k.word 0).toNat 9 23 != 0 ||
  (match k.type with
   | 1 => z 6
   | 2 => z 6 || decide (3 ≤ (k.word 5).toNat)
   | 3 => z 6
   | 4 => z 6 || decide (2 ≤ (k.word 5).toNat)
   | 5 => z 7
   | _ => z 3)
/-- The address of the packet that is misaligned or not canonical; the packet's for a byte count (R356 code 3). -/
def badAddr : Option Nat :=
  let t := fun (x al : Nat) => if x % al ≠ 0 ∨ notCanon x then some x else none
  match k.type with
  | 1 => t k.a 8
  | 2 => t k.a 8
  | 3 => (t k.a 64).orElse (fun _ => t k.b 1)
  | 4 => t k.a 64
  | 5 => ((t k.a 16).orElse (fun _ => t k.b 16)).orElse (fun _ => if (k.word 6).toNat % 16 ≠ 0 then some k.addr else none)
  | _ => none
end Packet

namespace State
variable (s : State)

/-- A queue's inner state. -/
def queue (ln : Nat) : Queue := match s.part? (ln / 8) with | some p => AMap.get p.queues (ln % 8) queueDefault | none => queueDefault
def setQueue (ln : Nat) (q : Queue) : State := s.updPart (ln / 8) (fun p => { p with queues := AMap.set p.queues (ln % 8) q queueDefault })
/-- A word of the queue's registers. -/
def qreg (ln off : Nat) : Word := s.csr (ln / 8) (qOff ln + off)
def setQreg (ln off v : Nat) : State := s.updPart (ln / 8) (fun p => p.wr (qOff ln + off) (BitVec.ofNat 32 v))
def qctx (ln : Nat) : Nat := fld (s.qreg ln 8).toNat 1 4
def qrd (ln : Nat) : Nat := (s.qreg ln 0xC).toNat
def qlog (ln : Nat) : Nat := fld (s.qreg ln 8).toNat 6 5
/-- The agent of a lane's accesses (R248, R250). -/
def laneAgent (ln : Nat) : Strand := s.ccAgent (ln / 8) (s.qctx ln) (s.queuePriv (ln / 8) (ln % 8)) ln
/-- The address of packet i of a queue (R243).  Bits [63:48] are taken as 0, so that a QBASE with bit 47 set gives an address that is not
canonical, and reading the packet faults with CODE 4: R243 does not say how they are formed (DESIGN CHOICE, log 31). -/
def packetAddr (ln i : Nat) : Nat := s.csr64 (ln / 8) (qOff ln) / 64 % 2 ^ 42 * 64 + 64 * (i % 2 ^ s.qlog ln)

/-- The queue may start its head packet, or go on with it: enabled, no fault, one live, no prologue running; stopped by SAVE or KILL
unless the packet is in progress (R244, R333, R355). -/
def mayStart (ln : Nat) : Bool :=
  match s.part? (ln / 8) with
  | none => false
  | some p =>
    (s.qreg ln 8).getLsbD 0 && fld (s.qreg ln 0x18).toNat 0 8 == 0 && s.qreg ln 0xC != s.qreg ln 0x10 && (s.queue ln).phase == .idle
      && (!p.noAdmit.contains (s.qctx ln) || (s.qreg ln 0x14).getLsbD 0)

/-- The lane is enabled (R243, R248). -/
def laneOn (ln : Nat) : Bool := (s.qreg ln 8).getLsbD 0

/-- The packet has finished (R245). -/
def finishPacket (ln : Nat) : State :=
  let s := (s.setQreg ln 0xC (s.qrd ln + 1)).setQreg ln 0x14 0
  let s := s.setQueue ln { s.queue ln with phase := .idle, words := 0, round := 0 }
  { s with strands := AMap.del s.strands (ccBase + ln) }

/-- The head packet is in progress (R243, R357). -/
def inProgress (ln : Nat) : Bool := (s.qreg ln 0x14).getLsbD 0

/-- An acquire at system scope by a partition's front end and command core: peer lines of the home slices and the constant cache of the
command core are dropped (R83, R244, R247, R300). -/
def frontAcquire (part : Nat) : State :=
  (s.sliceDrop part).setCore (256 + 2 * part) { s.core (256 + 2 * part) with cc := [] }

/-- The code of a queue fault for an access that stopped (R356). -/
def stopCode (f : FaultInfo) : Nat := if f.code = 0x15 then 9 else 4

/-- STATUS 2 written to the signal of the descriptor at addr (R358). -/
def refuseTry (ln addr code : Nat) : Except Stop State :=
  let t := s.laneAgent ln
  match readWords hwAgent t (wordAddrs (addr + 0x38) 3) s with
  | .error e => .error e
  | .ok (w, s1) => s1.writeSignal t (pair (w.getD 0 0#32) (w.getD 1 0#32)).toNat (w.getD 2 0#32).toNat 2 code

/-- The parameter quad at the ARG pointer (R251): descriptor address, its last word, and the state. -/
def argDesc (ln arg : Nat) : Except Stop (Nat × Word × State) :=
  match readWords hwAgent (s.laneAgent ln) (wordAddrs arg 4) s with
  | .error e => .error e
  | .ok (w, s1) => .ok ((pair (w.getD 0 0#32) (w.getD 1 0#32)).toNat, w.getD 3 0#32, s1)

/-- STATUS 2 for a LAUNCH_IND packet, through its ARG quad (R358). -/
def refuseIndTry (ln code : Nat) : Except Stop State :=
  match s.argDesc ln (s.queue ln).arg with
  | .ok (d, _, s1) => s1.refuseTry ln d code
  | .error e => .error e

/-- A refusal must wait to be written: for an attribute transition or a serial transaction (R90, R111). -/
def tryWaits (r : Except Stop State) : Bool := match r with | .error .wait => true | _ => false

/-- What a refusal leaves: a read or write of it that fails writes nothing (R358). -/
def refuseAt (ln addr code : Nat) : State := match s.refuseTry ln addr code with | .ok s1 => s1 | .error _ => s
def refuseInd (ln code : Nat) : State := match s.refuseIndTry ln code with | .ok s1 => s1 | .error _ => s

/-- The queue stops with a fault at its head packet (R356, R357). -/
def qFault (ln code addr : Nat) : State :=
  let s := s.queueFault ln code 0 (s.qrd ln) addr
  { s with strands := AMap.del s.strands (ccBase + ln) }

/-- The head packet read, an acquire at system scope, with the faults that reading and checking it meet (R244, R356); a packet in
progress has met CODE 5 and its acquire at its boundary (R357). -/
def headPacket (ln : Nat) : Except (Nat × Nat) (Packet × State) :=
  let i := s.qrd ln
  let n := (s.qreg ln 0x10 - s.qreg ln 0xC).toNat
  if !s.inProgress ln && decide (2 ^ s.qlog ln < n) then .error (5, s.csr64 (ln / 8) (qOff ln) / 64 % 2 ^ 42 * 64) else
  match readWords hwAgent (s.laneAgent ln) (wordAddrs (s.packetAddr ln i) 16) (if s.inProgress ln then s else s.frontAcquire (ln / 8)) with
  | .error (.fault f) => .error (stopCode f, f.arg)
  | .error .wait => .error (0, 0)
  | .ok (w, s1) =>
    let k : Packet := { idx := i, addr := s.packetAddr ln i, w := w }
    if k.type = 0 ∨ 6 < k.type then .error (1, k.addr)
    else if k.reserved then .error (2, k.addr)
    else match k.badAddr with
      | some a => .error (3, a)
      | none => .ok (k, s1)

/-- A BAR packet holds until earlier launches and copies have completed (R246). -/
def barHolds (ln : Nat) (k : Packet) : Bool := k.bar && (!(s.queue ln).bolts.isEmpty || !(s.queue ln).copies.isEmpty)

/-- The lane's head packet of a type, or what else its turn does: a fault is recorded, a BAR waits (R246, R356, R357). -/
def onPacket (ln type : Nat) (go : State → Packet → State) : State :=
  if s.mayStart ln = false then s else
  match s.headPacket ln with
  | .error (0, _) => s
  | .error (c, a) => s.qFault ln c a
  | .ok (k, s1) =>
    if k.type ≠ type then s
    else if s1.barHolds ln k then s1.setQreg ln 0x14 2
    else match (if k.bar then (s1.queue ln).failed else []) with
      | f :: _ => s1.queueFault ln f.2.2.1 0 f.1 f.2.1
      | [] => go s1 k

/-- A launch from a queue: the bolt, or the fault (R252, R254, R356). -/
def queueLaunch (ln addr : Nat) (use : Bool) (w : Nat) (signal : Bool) : Except (Nat × Nat) (Nat × State) :=
  let t := s.laneAgent ln
  match s.readDesc hwAgent t addr with
  | (.stop (.fault f), _) => .error (stopCode f, f.arg)
  | (.stop .wait, _) => .error (0, 0)
  | (.bad, _) => .error (8, addr)
  | (.ok d, s1) =>
    let d := if use then { d with nweave := w } else d
    let r := s1.startBolt (ln / 8) (s.qctx ln) d (d.priv && t.priv) 0 none (some ln) signal 0
    let q := r.2.queue ln
    .ok (r.1, r.2.setQueue ln { q with bolts := q.bolts ++ [r.1] })

end State

/-- A signal packet of lane ln waits in progress (R243). -/
def State.holdPacket (s : State) (ln st : Nat) : State := s.setQreg ln 0x14 st

/-- QWR_WRITE (R243, R244). -/
def execQwrWrite (ln v : Nat) (s : State) : Host.Outcome State Fault Refusal := .next (s.setQreg ln 0x10 v)

/-- WRITE_SIGNAL (R245, R247): a release at system scope, which writes dirty peer lines back (R300); while the link is down a store to
system space is dropped and counted (R365); it waits while the partition is frozen (R353). -/
def doWriteSignal (ln : Nat) (s : State) : State :=
  s.onPacket ln 1 (fun s k =>
    let t := s.laneAgent ln
    match s.checkAcc hwAgent t { lane := 0, va := k.a, size := 8, rd := false, wr := true } true with
    | .error (.fault f) => s.qFault ln (State.stopCode f) k.a
    | .error .wait => s.holdPacket ln 1
    | .ok e =>
      if s.frozenAt (ln / 8) then s.holdPacket ln 1
      else ((s.storeAcc hwAgent t { lane := 0, va := k.a, size := 8, rd := false, wr := true } e k.b).sliceClean (ln / 8)).finishPacket ln)

/-- The condition of a WAIT_SIGNAL (R245). -/
def waitHolds (cond v x : Nat) : Bool := match cond with | 0 => decide (v ≤ x) | 1 => x == v | _ => x != v

/-- WAIT_SIGNAL (R245, R247): the read that satisfies it is an acquire at system scope (R300). -/
def doWaitSignal (ln : Nat) (s : State) : State :=
  s.onPacket ln 2 (fun s k =>
    let t := s.laneAgent ln
    let a : Acc := { lane := 0, va := k.a, size := 8, rd := true, wr := false }
    match s.checkAcc hwAgent t a true with
    | .error (.fault f) => s.qFault ln (State.stopCode f) k.a
    | .error .wait => s.holdPacket ln 3
    | .ok e =>
      let (s1, v, pz) := s.loadAcc hwAgent t a e
      if pz then s.qFault ln 9 k.a
      else if waitHolds (k.word 5).toNat (k.word 4).toNat (v % 2 ^ 32) then (s1.frontAcquire (ln / 8)).finishPacket ln
      else s1.holdPacket ln 3)

/-- LAUNCH_IND's start: the prologue's lane begins (R250). -/
def doLaunchInd (ln : Nat) (s : State) : State :=
  s.onPacket ln 3 (fun s k =>
    let t := { s.laneAgent ln with core := 256 + 2 * (ln / 8), hspc := BitVec.ofNat 64 k.a, sbase := BitVec.ofNat 64 k.a }
    let t := (((t.putS 0 (BitVec.ofNat 32 k.addr)).putS 1 (BitVec.ofNat 32 (k.addr / 2 ^ 32))).putS 2 (k.word 4)).putS 3 (k.word 5)
    let s := s.setQueue ln { s.queue ln with phase := .prologue, words := 0, round := 0, pro := k.a, arg := k.b }
    (s.setQreg ln 0x14 5).setStrand (ccBase + ln) t)

/-- LAUNCH (R245, R252). -/
def doLaunch (ln : Nat) (s : State) : State :=
  s.onPacket ln 4 (fun s k =>
    match s.queueLaunch ln k.a ((k.word 5).getLsbD 0) (k.word 4).toNat true with
    | .ok r => r.2.finishPacket ln
    | .error (0, _) => s.holdPacket ln 1
    | .error (c, a) =>
      let tells := c == 4 || c == 8
      if tells && State.tryWaits (s.refuseTry ln k.a c) then s.holdPacket ln 1 else (if tells then s.refuseAt ln k.a c else s).qFault ln c a)

/-- COPY (R245, R246): issued, and so finished. -/
def doCopy (ln : Nat) (s : State) : State :=
  s.onPacket ln 5 (fun s k =>
    let q := s.queue ln
    (s.setQueue ln { q with copies := q.copies ++ [(k.idx, k.a, k.b, (k.word 6).toNat, [])] }).finishPacket ln)

/-- MARKER (R245, R308, R309): a block of its own where trace takes it; it waits for a slot of the ring, and for a serial transaction that
holds its place (R111). -/
def doMarker (ln : Nat) (s : State) : State :=
  s.onPacket ln 6 (fun s k =>
    let w := (s.csr (ln / 8) 0xA060).toNat
    if w.testBit 0 = false ∨ fld w 1 4 ≠ s.qctx ln then s.finishPacket ln else
    match s.part? (ln / 8) with
    | none => s
    | some p =>
      if traceHeldFull p || !p.heldBlocks.isEmpty || s.serialRange hwAgent (tracePa p) 64 || s.frozenAt (ln / 8) then s.holdPacket ln 1
      else
        let pk := BitVec.ofNat 8 (8 + 16 * (ln % 8)) :: (bytesOf (k.word 1).toNat 4 ++ bytesOf (k.word 2).toNat 4 ++ bytesOf s.time 8)
        (s.ringBlock (ln / 8) (traceBlock (0xFFFFFFF0 + ln % 8) pk)).finishPacket ln)

/-- WRITE_SIGNAL of lane ln (R245). -/
def execWriteSignal (ln : Nat) (s : State) : Host.Outcome State Fault Refusal := .next (doWriteSignal ln s)
/-- WAIT_SIGNAL of lane ln (R245). -/
def execWaitSignal (ln : Nat) (s : State) : Host.Outcome State Fault Refusal := .next (doWaitSignal ln s)
/-- LAUNCH_IND of lane ln (R250). -/
def execLaunchInd (ln : Nat) (s : State) : Host.Outcome State Fault Refusal := .next (doLaunchInd ln s)
/-- LAUNCH packet of lane ln (R245). -/
def execLaunchPacket (ln : Nat) (s : State) : Host.Outcome State Fault Refusal := .next (doLaunch ln s)
/-- COPY of lane ln (R246). -/
def execCopy (ln : Nat) (s : State) : Host.Outcome State Fault Refusal := .next (doCopy ln s)
/-- MARKER of lane ln (R309). -/
def execMarker (ln : Nat) (s : State) : Host.Outcome State Fault Refusal := .next (doMarker ln s)

/-! ### The rounds (R248, R249) -/

/-- The packet group of a lane: its head packet's type, 7 when none may be tried. -/
def headType (s : State) (ln : Nat) : Nat :=
  if s.mayStart ln = false then 7 else
  match s.headPacket ln with
  | .ok (k, s1) => if s1.barHolds ln k then 7 else k.type
  | .error (0, _) => 7
  | .error _ => 1

/-- One lane's turn in a group. -/
def laneTurn (type ln : Nat) (s : State) : State :=
  match type with
  | 1 => doWriteSignal ln s | 2 => doWaitSignal ln s | 3 => doLaunchInd ln s | 4 => doLaunch ln s | 5 => doCopy ln s | _ => doMarker ln s

/-- Lane ln still has its turn in group `type` of the round: ccDone holds the lanes that are done, and 64 × group + lane of a packet that
has left its queue free for a later group. -/
def hasTurn (s : State) (type ln : Nat) : Bool :=
  s.ccElig.contains ln && !s.ccDone.contains ln && !s.ccDone.contains (64 * type + ln) && headType s ln == type

/-- Lane ln's turn in group `type`, if it has one; a finished WRITE_SIGNAL or WAIT_SIGNAL leaves its queue free for a later group
of the round, any other packet does not (R249). -/
def turnIn (type ln : Nat) (s : State) : State :=
  if hasTurn s type ln then
    let s1 := laneTurn type ln s
    { s1 with ccDone := s1.ccDone ++ [if type ≤ 2 && s1.qrd ln != s.qrd ln then 64 * type + ln else ln] }
  else s

/-- Group `type` under the mask of its lanes. -/
def groupRun (type : Nat) (s : State) : State := s.ccElig.foldl (fun s ln => turnIn type ln s) s

/-- Groups from the round's on that come before group `to_`. -/
def groupsTo (to_ : Nat) (s : State) : State :=
  ((List.range 6).filter (fun i => decide (s.ccGroup ≤ i + 1) && decide (i + 1 < to_))).foldl (fun s i => groupRun (i + 1) s) s

/-- Prologue lanes of enabled queues that still have words in this round (R248, R249). -/
def proLanes (s : State) : List Nat :=
  (List.range 64).filter (fun ln => (s.queue ln).phase == .prologue && s.laneOn ln && decide ((s.queue ln).round < 64)
    && (s.strand? (ccBase + ln)).isSome)

/-- The head packet of a lane waits on BAR (R243, R246). -/
def barWaits (s : State) (ln : Nat) : Bool :=
  s.mayStart ln && (match s.headPacket ln with | .ok (k, s1) => s1.barHolds ln k | .error _ => false)

/-- The lanes whose SPC runs next in the LAUNCH_IND group: the lowest lane's, with those that share it (R249). -/
def proGroup (s : State) : List Nat :=
  let at_ := fun (ln : Nat) => (s.strand? (ccBase + ln)).map (fun t => (t.itemAddr, t.item == 0))
  match proLanes s with
  | [] => []
  | ln :: lns => ln :: lns.filter (fun x => at_ x == at_ ln)

/-- A round begins: the lanes with work contribute, every prologue has 64 words, a head packet that waits on BAR says so (R243, R248,
R249). -/
def roundBegin (s : State) : State :=
  let s := (List.range 64).foldl (fun s ln => if (s.queue ln).phase ≠ .idle then s.setQueue ln { s.queue ln with round := 0 } else s) s
  let s := (List.range 64).foldl (fun s ln => if barWaits s ln then s.setQreg ln 0x14 2 else s) s
  { s with ccElig := (List.range 64).filter (fun ln => headType s ln != 7), ccDone := [] }

/-- The round, begun if none is under way; its group is then the next to run. -/
def openRound (s : State) : State := if s.ccGroup = 0 then { roundBegin s with ccGroup := 1 } else s

/-- The round is over. -/
def closeRound (s : State) : State := { s with ccGroup := 0, ccElig := [], ccDone := [] }

/-- CC_ROUND (R248): groups 1 to 3; once the prologues have had their words, groups 4 to 6. -/
def execCcRound (s : State) : Host.Outcome State Fault Refusal :=
  .next (
    let s1 := groupsTo 4 (openRound s)
    if (proLanes s1).isEmpty then closeRound (groupsTo 7 { s1 with ccGroup := max 4 s1.ccGroup }) else { s1 with ccGroup := 4 })

/-- Nothing is left of the round under way. -/
def roundOver (s : State) : Bool :=
  (proLanes s).isEmpty && (List.range 6).all (fun i => decide (i + 1 < s.ccGroup) || s.ccElig.all (fun ln => !hasTurn s (i + 1) ln))

/-- The round under way, or, where it is over, the next. -/
def presentRound (s : State) : State := openRound (if s.ccGroup ≠ 0 ∧ roundOver s then closeRound s else s)

/-- The round has come to the words of its prologues: groups 1 to 3 have run (R248, R249). -/
def toWords (s : State) : State :=
  let s1 := presentRound s
  { groupsTo 4 s1 with ccGroup := max 4 s1.ccGroup }

/-- Lane ln's turn in group `type` of the round by itself, where no lane of an earlier group still has its own, and no prologue its words
before group 4 (R248, R249); otherwise nothing. -/
def packetTurn (type ln : Nat) (s : State) : State :=
  let s1 := presentRound s
  let first := (List.range 6).all (fun i => decide (i + 1 < s1.ccGroup) || decide (type ≤ i + 1) || s1.ccElig.all (fun x => !hasTurn s1 (i + 1) x))
  if decide (s1.ccGroup ≤ type) && first && (decide (type < 4) || (proLanes s1).isEmpty) && hasTurn s1 type ln
  then turnIn type ln { s1 with ccGroup := type } else s

/-! ### COPY in flight (R246, R357) -/

/-- The bytes of a chunk that the front end has moved at va are counted at the home slice and the channel (R277). -/
def State.moveAt (s : State) (t : Strand) (va : Nat) (use : State.Use) : State :=
  match s.xlate t.part t.ctx t.core va t.priv use with
  | .ok e => s.l2Move t.part t.ctx (State.physOf e va) 16
  | .error _ => s

/-- One 16-byte chunk of a COPY: the state, or its error (R342). -/
def copyChunk (t : Strand) (src dst : Nat) (s : State) : Except Stop State :=
  match s.chunkRead hwAgent t src with
  | .error e => .error e.1
  | .ok (s1, bs) =>
    match (s1.moveAt t src .read).chunkWrite hwAgent t dst bs with
    | .error e => .error e.1
    | .ok s2 => .ok (s2.moveAt t dst .write)

/-- The chunks of a COPY that are listed, in order, with its first error; none where one must wait (R90, R111). -/
def copyGo (t : Strand) (src dst : Nat) : List Nat → State → Option FaultInfo → Option (State × Option FaultInfo)
  | [], s, e => some (s, e)
  | i :: is, s, e =>
    match copyChunk t ((src + 16 * i) % 2 ^ 64) ((dst + 16 * i) % 2 ^ 64) s with
    | .ok s => copyGo t src dst is s e
    | .error (.fault f) => copyGo t src dst is s (e.orElse (fun _ => some f))
    | .error .wait => none

/-- Chunks of a COPY that are still to be copied. -/
def copyRest (n : Nat) (done : List Nat) : List Nat := (List.range (n / 16)).filter (fun i => !done.contains i)

/-- The COPYs of a lane cannot move now: the partition is frozen, or its memory channels have granted their bytes (R353, R277). -/
def copyStays (s : State) (ln : Nat) : Bool := s.frozenAt (ln / 8) || s.chanSpent (ln / 8) (s.qctx ln)

/-- The context of a COPY has an access in flight in this interval (R281). -/
def State.noteCopy (s : State) (ln : Nat) : State :=
  match s.part? (ln / 8) with
  | some p => (match partClusters p.cfg with | c :: _ => s.noteCtx c (s.qctx ln) | [] => s)
  | none => s

/-- The oldest COPY of lane ln as it completes, its writes visible at system scope (R246, R300, R357), chunks that have been copied before
(R247) left; none while it waits, for a page or a serial transaction, or for the memory channels (R277).  An error may stand already
(R365). -/
def copyEnd (s : State) (ln : Nat) (skip : List Nat) (e : Option FaultInfo) : Option State :=
  let q := s.queue ln
  match q.copies with
  | [] => none
  | (idx, src, dst, n, done) :: cs =>
    if copyStays s ln then none else
    (copyGo (s.laneAgent ln) src dst (copyRest n (skip ++ done)) s e).map (fun r =>
      let s1 := (r.1.sliceClean (ln / 8)).noteCopy ln
      let q' := { q with copies := cs }
      match r.2 with
      | none => s1.setQueue ln q'
      | some f => s1.setQueue ln { q' with failed := q.failed ++ [(idx, f.arg, State.stopCode f, (src, dst, n))] })

def copyDone (s : State) (ln : Nat) : Option State := copyEnd s ln [] none

/-- Chunk i of copy c of lane ln is copied by itself, before the copy completes: COPY has no fixed order (R247). -/
def copyIn (ln c i : Nat) (s : State) : State :=
  let q := s.queue ln
  match q.copies[c]? with
  | none => s
  | some (idx, src, dst, n, done) =>
    if copyStays s ln || !(copyRest n done).contains i then s else
    match copyChunk (s.laneAgent ln) ((src + 16 * i) % 2 ^ 64) ((dst + 16 * i) % 2 ^ 64) s with
    | .error _ => s
    | .ok s1 => (s1.noteCopy ln).setQueue ln { q with copies := q.copies.set c (idx, src, dst, n, done ++ [i]) }

/-- COPY_COMPLETE (R246, R357): the oldest COPY of lane ln, when it need not wait. -/
def execCopyComplete (ln : Nat) (s : State) : Host.Outcome State Fault Refusal := .next ((copyDone s ln).getD s)

/-- The queue's recorded COPY fault, if that is what stops it (R357). -/
def copyFault (s : State) (ln : Nat) : Option (Nat × Nat × Nat × (Nat × Nat × Nat)) :=
  match (s.queue ln).failed with
  | f :: _ => if (s.qreg ln 0x1C).toNat = f.1 ∧ f.1 ≠ s.qrd ln then some f else none
  | [] => none

/-- The queue's fault is cleared (R355). -/
def clearCode (s : State) (ln : Nat) : State := s.setQreg ln 0x18 0

/-- SKIP (R355, R357). -/
def execSkip (ln : Nat) (s : State) : Host.Outcome State Fault Refusal :=
  .next (
    if fld (s.qreg ln 0x18).toNat 0 8 = 0 then s else
    match copyFault s ln with
    | some _ => (clearCode s ln).setQueue ln { s.queue ln with failed := (s.queue ln).failed.drop 1 }
    | none => (clearCode s ln).setQreg ln 0xC ((s.qreg ln 0x1C).toNat + 1))

/-- RETRY (R355, R357). -/
def execRetry (ln : Nat) (s : State) : Host.Outcome State Fault Refusal :=
  .next (
    if fld (s.qreg ln 0x18).toNat 0 8 = 0 then s else
    match copyFault s ln with
    | some f =>
      let q := s.queue ln
      (clearCode s ln).setQueue ln { q with failed := q.failed.drop 1, copies := q.copies ++ [(f.1, f.2.2.2.1, f.2.2.2.2.1, f.2.2.2.2.2, [])] }
    | none => clearCode s ln)

/-! ### GO, CANCEL, REPEAT (R251) -/

/-- A word of the command core alone (R149, R251). -/
def ccOnly (s : State) (body : Strand → Nat → Host.Outcome State Fault Refusal) : Host.Outcome State Fault Refusal :=
  s.run (fun t => if ccBase ≤ s.cur then body t (s.cur - ccBase) else s.raise t { code := 1, arg := s.wordAt t t.itemAddr })

/-- The parameter quad's launch (R251). -/
def goLaunch (x : Nat) (signal : Bool) (done : Nat → State → Nat → State) (s : State) : Host.Outcome State Fault Refusal :=
  ccOnly s (fun t ln =>
    let addr := (t.getPair x).toNat
    if 2 ≤ (t.getS (x + 3)).toNat then s.raise t { code := 1, arg := s.wordAt t t.itemAddr }
    else if addr % 64 ≠ 0 then s.raise t { code := 3, arg := addr }
    else match s.queueLaunch ln addr ((t.getS (x + 3)).getLsbD 0) (t.getS (x + 2)).toNat signal with
      | .ok r => .next (done ln r.2 r.1)
      | .error (0, _) => s.hold t .path
      | .error (c, a) =>
        let tells := c == 4 || c == 8
        if tells && State.tryWaits (s.refuseIndTry ln c) then s.hold t .path
        else .next ((if tells then s.refuseInd ln c else s).qFault ln c a))

/-- GO (R251). -/
def execGo (x : Nat) (s : State) : Host.Outcome State Fault Refusal := goLaunch x true (fun ln s _ => s.finishPacket ln) s

/-- REPEAT (R251): the prologue runs again once the bolt's stores are visible. -/
def execRepeatGo (x : Nat) (s : State) : Host.Outcome State Fault Refusal :=
  goLaunch x false (fun ln s b => s.setQueue ln { s.queue ln with phase := .rerun b }) s

/-- CANCEL (R251): the signal of the ARG descriptor, cancelled.  The quad at ARG and the descriptor are read whole; a failed read or
signal write stops the queue with CODE 4, a poisoned word read or a link failure with CODE 9 (R356), misalignment of ARG (its words, log 31) or of the descriptor raises ALIGN, a reserved bit
of the quad ILLEGAL. -/
def execCancel (x : Nat) (s : State) : Host.Outcome State Fault Refusal :=
  ccOnly s (fun t ln =>
    let arg := (s.queue ln).arg
    let fail := fun (f : FaultInfo) =>
      if State.stopCode f = 9 then Host.Outcome.next (s.qFault ln 9 f.arg)
      else if State.tryWaits (s.refuseIndTry ln 4) then s.hold t .path
      else Host.Outcome.next ((s.refuseInd ln 4).qFault ln 4 f.arg)
    if arg % 4 ≠ 0 then s.raise t { code := 3, arg := arg } else
    match s.argDesc ln arg with
    | .error (.fault f) => fail f
    | .error .wait => s.hold t .path
    | .ok (d, last, s1) =>
      if 2 ≤ last.toNat then s.raise t { code := 1, arg := s.wordAt t t.itemAddr }
      else if d % 64 ≠ 0 then s.raise t { code := 3, arg := d } else
      match State.readWords hwAgent (s.laneAgent ln) (State.wordAddrs d 32) s1 with
      | .error (.fault f) => fail f
      | .error .wait => s.hold t .path
      | .ok (w, s2) =>
        let sig := (pair (w.getD 14 0#32) (w.getD 15 0#32)).toNat
        match s2.writeSignal (s.laneAgent ln) sig (w.getD 16 0#32).toNat 1 (t.getS x).toNat with
        | .ok s3 => .next (s3.finishPacket ln)
        | .error (.fault _) => .next (s.qFault ln 4 sig)
        | .error .wait => s.hold t .path)

end Sys2Proof.Machine
end

