-- ==== Sys2Proof/Machine/Learner.lean ====
section
/-!
DEFINITION. The arbitration learner: sensors, decisions, the envelope, knobs (spec/12 R258 to R270, spec/21 R359).
-/
namespace Sys2Proof.Machine
open Sys2Proof

namespace Part
variable (p : Part)

def lcfg : Nat := (p.rd 0x4000).toNat
def lcfg2 : Nat := (p.rd 0x4004).toNat
def learnOn : Bool := p.lcfg.testBit 0
def nact : Nat := fld p.lcfg 4 5
def nterm : Nat := fld p.lcfg 9 4
def nfeat : Nat := fld p.lcfg 13 3
def nrow : Nat := fld p.lcfg 16 6
def gshift : Nat := fld p.lcfg 22 4
def kshift : Nat := fld p.lcfg 26 4
/-- The decision interval in ns (R265). -/
def interval : Nat := fld p.lcfg2 16 16 * 1000
/-- The latched value of a sensor. -/
def sensor (i : Nat) : Nat := (p.rd (0x4600 + 4 * i)).toNat

/-- Q(s, a) (R269). -/
def q (s a : Nat) : Int := sextI (fld (p.rd (0x6000 + 32 * s + 2 * (a / 2 * 2))).toNat (16 * (a % 2)) 16) 16
def setQ (s a : Nat) (v : Int) : Part :=
  let off := 0x6000 + 32 * s + 2 * (a / 2 * 2)
  p.wr off (setElem (p.rd off) (a % 2) 16 (v % 65536).toNat)

/-- CFGERR, INFEAS, SAT of LSTAT (R269). -/
def lerr (i : Nat) : Part := p.setBit 0x4010 i true
end Part

/-- Reserved sensor ids read 0 (R258, R259). -/
def sensorReal (i : Nat) : Bool := decide (i ≤ 8) || (decide (16 ≤ i) && decide (i < 144) && decide ((i - 16) % 8 < 5))

/-- A sensor that nothing was measured for (R258, R259). -/
def sensorIdle (i : Nat) : Nat := if i = 5 ∨ (16 ≤ i ∧ (i - 16) % 8 = 4) then 0x10000 else 0

/-- The latched value of a sensor from what was measured (R258). -/
def latch (m : List (Nat × Nat)) (i : Nat) : Nat :=
  if !sensorReal i then 0 else
  match m.find? (fun x => x.1 == i) with
  | some x => min x.2 0x7FFFFFFF
  | none => sensorIdle i

/-- The sensors latch (R258, R266). -/
def latchAll (p : Part) (m : List (Nat × Nat)) : Part :=
  (List.range 144).foldl (fun p i => p.wr (0x4600 + 4 * i) (BitVec.ofNat 32 (latch m i))) p

def clampI (lo hi x : Int) : Int := if x < lo then lo else if hi < x then hi else x

/-- rsum (R263). -/
def rsumOf (p : Part) : Int :=
  (List.range p.nterm).foldl (fun acc t =>
    let w := (p.rd (0x4040 + 4 * t)).toNat
    clampI (-(2 ^ 31)) (2 ^ 31 - 1) (acc + (sextI w 16 * (p.sensor (fld w 16 8) : Int)) / 256)) 0

/-- The reward r (R263). -/
def rewardOf (rsum : Int) : Int := clampI (-32768) 32767 (rsum / 256)

/-- The state s2 (R264). -/
def stateOf (p : Part) : Nat :=
  ((List.range p.nfeat).map (fun f =>
    let x := (p.sensor (fld (p.rd (0x4060 + 16 * f)).toNat 0 8) : Int)
    let ge := fun (i : Nat) => if (p.rd (0x4064 + 16 * f + 4 * i)).toInt ≤ x then 1 else 0
    (ge 0 + ge 1 + ge 2) * 4 ^ f)).sum

/-- The lowest action with the largest Q (R265). -/
def greedyOf (p : Part) (s : Nat) : Nat := (List.range p.nact).foldl (fun b a => if p.q s b < p.q s a then a else b) 0

/-- The Q update (R265). -/
def updateQ (p : Part) (r : Int) (s2 : Nat) : Part :=
  if p.havePrev && !p.lcfg.testBit 1 then
    let m := p.q s2 (greedyOf p s2)
    let target := r + m - m / (2 ^ p.gshift)
    let delta := target - p.q p.prevS p.prevA
    let v := p.q p.prevS p.prevA + (delta + 2 ^ (p.kshift - 1)) / (2 ^ p.kshift)
    let c := clampI (-32768) 32767 v
    let p1 := p.setQ p.prevS p.prevA c
    if c = v then p1 else p1.lerr 22
  else p

/-- Exploration is permitted (R265, R268). -/
def exploreOk (p : Part) : Bool :=
  !p.lcfg.testBit 2 && (List.range 16).all (fun c =>
    fld (p.rd (0x40A0 + 4 * c)).toNat 0 16 == 0 || decide ((p.rd 0x4008).toInt ≤ (p.sensor (16 + 8 * c + 4) : Int)))

/-! ### Knobs (R260 to R262) -/

/-- The range of a knob (R260). -/
def knobClamp (c : PartRec) (kid : Nat) (v : Int) : Nat :=
  let lim := fun (lo hi : Int) => (clampI lo hi v).toNat
  if kid < 64 then (if kid % 4 = 2 then lim 0 12 else lim 1 64) else if kid = 64 then lim 0 (nclu c) else lim 0 256

/-- The sum of the deltas of action x on a knob (R262). -/
def actionDelta (p : Part) (x kid : Nat) : Int :=
  let w := p.rd64 (0x4100 + 8 * x)
  ((List.range 4).map (fun j => if fld w (16 * j) 8 = kid then sextI (fld w (16 * j + 8) 8) 8 else 0)).sum

/-- Knob values after an action, from a base (R261, R262). -/
def afterAction (p : Part) (base : Nat → Nat) (x kid : Nat) : Nat :=
  let v := fun k => knobClamp p.cfg k ((base k : Int) + actionDelta p x k)
  if kid = 65 then min (v 65) (v 66) else v kid

/-- The knob values as they stand at a decision, software writes included (R267). -/
def knobNow (p : Part) (kid : Nat) : Nat := AMap.get p.knobSw kid (p.knob kid)

/-! ### The envelope (R267) -/

/-- A quantity of an envelope row, in units of 2^-16. -/
def quantity (p : Part) (x qid : Nat) : Int :=
  if qid < 0x90 then (p.sensor qid : Int) else if 0x100 ≤ qid then (afterAction p (knobNow p) x (qid - 0x100) * 65536 : Nat) else 0

/-- The lowest row that action x breaches. -/
def breach (p : Part) (x : Nat) : Option Nat :=
  (List.range p.nrow).find? (fun i =>
    let sum := ((List.range 4).map (fun j =>
      let w := (p.rd (0x4200 + 32 * i + 4 * j)).toNat
      sextI w 16 * quantity p x (fld w 16 9))).sum
    decide ((p.rd (0x4210 + 32 * i)).toInt * 256 < sum))

/-- One refusal is logged (R267, R269, R304). -/
def logRefusal (p : Part) (int act row step : Nat) (expl : Bool) : Part :=
  let p := p.eseq.2
  let h := (p.rd 0x4024).toNat % 64
  let p := p.wr (0x4A00 + 8 * h) (BitVec.ofNat 32 int)
  let p := p.wr (0x4A04 + 8 * h) (BitVec.ofNat 32 (act + row * 16 + bitIf expl 9 + step * 1024))
  (p.wr 0x4024 (BitVec.ofNat 32 ((h + 1) % 64))).wr 0x4020 (p.rd 0x4020 + 1)

/-- Shield: the action applied and its step; none when every action tried breaches. -/
def shieldGo (int : Nat) (expl : Bool) : List (Nat × Nat) → List Nat → Part → Option (Nat × Nat) × Part
  | [], _, p => (none, p)
  | (step, x) :: rest, tried, p =>
    if tried.contains x then shieldGo int expl rest tried p else
    match breach p x with
    | none => (some (step, x), p)
    | some row => shieldGo int expl rest (x :: tried) (logRefusal p int x row step (expl && step == 0))

/-! ### What the sensors are formed from (R258, R259, log 61) -/

/-- A decision interval begins. -/
def freshMeas (p : Part) (u : Util) (now : Nat) : Meas :=
  { start := now, etot := p.rd64 0x8100, ecomp := p.rd64 0x8108, emem := p.rd64 0x8110, hi := 0, waitN := 0, wait := 0,
    thru := [], latN := [], lat := [], strands := [], live := [], util := u }

/-- A ratio in units of 2^-16, with d for 0 / 0. -/
def ratio (a b d : Nat) : Nat := if b = 0 then (if a = 0 then d else 0x7FFFFFFF) else a * 65536 / b

/-- Bytes that a partition's channels move in dt ns at their peak: 512 a ns of each near-DRAM channel, 37.5 of each LPDDR6 channel
(R20, R24, log 61). -/
def peakBytes (c : PartRec) (dt : Nat) : Nat := dt * (1024 * nclu c + 75 * popN (c.lpmask % 2 ^ 48) 48) / 2

/-- bwu of dt ns between two utilisations (R258, R276). -/
def bwuOf (c : PartRec) (u v : Util) (dt : Nat) : Nat := min 0x10000 (ratio (v.bytes - u.bytes) (peakBytes c dt) 0)

/-- Issue cycles of a context between two utilisations, and of all. -/
def issuedOf (u v : Util) (c : Nat) : Nat := AMap.get v.issued c 0 - AMap.get u.issued c 0
def issuedAll (u v : Util) : Nat := ((List.range 16).map (issuedOf u v)).sum

/-- stall between two utilisations: 0 where no spindle had a resident strand (R258, R276). -/
def stallOf (u v : Util) : Nat := ratio (v.cycles - u.cycles - issuedAll u v) (v.cycles - u.cycles) 0

/-- What a partition's utilisation stands at. -/
def State.utilOf (s : State) (part : Nat) (p : Part) : Util := { bytes := AMap.get s.l2.moved part 0, cycles := p.spun, issued := p.used }

/-- The arbiter of spindle j of a core as device time stands: core cycles of the cluster's rail (R18, R268). -/
def State.arbNow (s : State) (p : Part) (core j : Nat) : Arb :=
  let a := AMap.get (s.core core).arb j State.arbDefault
  a.idle p.fi s.time (if (s.clu (core / 2)).hi then 4 * (s.time - a.at_) else (s.time - a.at_) * 13 / 5)

/-- The issue arbiters of a partition, and its memory arbiters (R268). -/
def State.arbsOf (s : State) (p : Part) : List Arb :=
  (partClusters p.cfg).flatMap (fun c => [2 * c, 2 * c + 1].flatMap (fun k => ((s.core k).arb.map (·.1)).map (s.arbNow p k)))
def State.marbsOf (s : State) (part : Nat) (p : Part) : List Arb :=
  (s.l2.marb.filter (fun e => e.1 / 2 ^ 24 == part)).map (fun e => e.2.idle p.fb s.time (2 * (s.time - e.2.at_)))

/-- ρ of a context whose floor share is f (R259): what it was granted, 256 a cycle, over its entitlement, the smaller of floor share
times cycles and ready cycles; `each` what one unit of `got` weighs. -/
def rho (as : List Arb) (each f c : Nat) : Nat :=
  if f = 0 then 0x10000 else
    ratio (each * (as.map (fun a => AMap.get a.got c 0)).sum) ((as.map (fun a => min (f * a.n) (256 * AMap.get a.rdy c 0))).sum) 0x10000

/-- What temp reads: 125 °C while a sensor beside the partition's clusters has failed (R361), else what the plan brings (log 5). -/
def tempOf (p : Part) (plan : List (Nat × Nat)) : Nat :=
  if p.failed.any (fun f => f.1 == 3) then 125 * 65536 else ((plan.find? (fun x => x.1 == 6)).map (·.2)).getD 0

/-- The sensors of the interval that ends now, from meters, counters and arbiters (R258, R259, log 61); temp alone is the plan's. -/
def State.sensed (s : State) (part : Nat) (p : Part) (plan : List (Nat × Nat)) : List (Nat × Nat) :=
  let m := p.meas
  let u := s.utilOf part p
  let dt := max 1 (s.time - m.start)
  let es := 1000 * 2 ^ fld p.lcfg2 12 4
  let as := s.arbsOf p; let ms := s.marbsOf part p
  [(0, (p.rd64 0x8100 - m.etot) * 65536 / dt), (1, (p.rd64 0x8108 - m.ecomp) * 65536 / es),
   (2, (p.rd64 0x8110 - m.emem) * 65536 / es), (3, bwuOf p.cfg m.util u (s.time - m.start)), (4, stallOf m.util u),
   (5, ratio (AMap.get s.l2.hit part 0) (AMap.get s.l2.acc part 0) 0x10000), (6, tempOf p plan),
   (7, m.hi * 65536 / dt), (8, ratio m.wait (1000 * m.waitN) 0)]
  ++ (List.range 16).flatMap (fun c =>
    if !m.live.contains c then (List.range 5).map (fun k => (16 + 8 * c + k, sensorIdle (16 + 8 * c + k))) else
    [(16 + 8 * c, AMap.get m.thru c 0 * 65536), (17 + 8 * c, ratio (AMap.get m.lat c 0) (1000 * AMap.get m.latN c 0) 0),
     (18 + 8 * c, ratio (issuedOf m.util u c) (issuedAll m.util u) 0), (19 + 8 * c, AMap.get m.strands c 0 * 65536 / dt),
     (20 + 8 * c, min (rho as 256 (p.fi c) c) (rho ms 1 (p.fb c) c))])

/-- An arbiter's counts of a decision interval start again at device time `now`; a grant of an earlier moment, `was`, serves nobody any more. -/
def Arb.fresh (a : Arb) (was now : Nat) : Arb := { a with n := 0, rdy := [], got := [], now := if was = now then a.now else none }

/-- A partition's decision interval begins: the counters of its L2 and its arbiters start again. -/
def State.freshInterval (s : State) (part : Nat) : State :=
  match s.part? part with
  | none => s
  | some p =>
    let s := { s with l2 := { s.l2 with
      acc := AMap.set s.l2.acc part 0 0, hit := AMap.set s.l2.hit part 0 0,
      marb := s.l2.marb.map (fun e => (e.1, if e.1 / 2 ^ 24 = part then (e.2.idle p.fb s.time (2 * (s.time - e.2.at_))).fresh e.2.at_ s.time else e.2)) } }
    let s := ((partClusters p.cfg).flatMap (fun c => [2 * c, 2 * c + 1])).foldl (fun (s : State) k =>
      if (s.core k).arb = [] then s else
        s.setCore k { s.core k with arb := (s.core k).arb.map (fun e => (e.1, (s.arbNow p k e.1).fresh e.2.at_ s.time)) }) s
    s.setPart part { p with meas := freshMeas p (s.utilOf part p) s.time }

/-- A decision with its sensors latched (R265 to R267). -/
def decideNow (p : Part) (m : List (Nat × Nat)) : Part :=
  let int := (p.rd 0x401C).toNat + 1
  let p := latchAll p m
  let rsum := rsumOf p
  let r := rewardOf rsum
  let s2 := stateOf p
  let p := updateQ p r s2
  let l := Strand.lfsrStep (p.rd 0x400C)
  let p := p.wr 0x400C l
  let greedy := greedyOf p s2
  let expok := exploreOk p
  let expl := expok && decide (l.toNat % 256 < fld p.lcfg2 0 8)
  let cand := if expl then fld l.toNat 8 4 % (max 1 p.nact) else greedy
  let res := shieldGo int expl [(0, cand), (1, greedy), (2, 0), (3, fld p.lcfg2 8 4)] [] p
  let p := res.2
  let applied := match res.1 with | some x => x.2 | none => 0
  let step := match res.1 with | some x => x.1 | none => 2
  let stat := s2 + applied * 2 ^ 8 + cand * 2 ^ 12 + bitIf expl 16 + bitIf expok 17 + step * 2 ^ 18
  let p := p.wr 0x4010 (BitVec.ofNat 32 (stat + fld (p.rd 0x4010).toNat 20 3 * 2 ^ 20))
  let p := if res.1.isNone then (p.lerr 20).logNf 4 0 0 0 int else p
  let p := ((p.wr 0x4014 (BitVec.ofInt 32 rsum)).wr 0x4018 (BitVec.ofNat 32 (r % 65536).toNat)).wr 0x401C (BitVec.ofNat 32 int)
  { p with prevS := s2, prevA := applied, havePrev := true, knobAct := some applied }

/-- The first decision boundary after the last decision, and after the write of LCFG2 that moved the boundaries (R265). -/
def nextDecision (p : Part) : Nat :=
  let from_ := max (max p.anchor p.reAnchor) (p.lastDec.getD 0)
  p.anchor + ((from_ - p.anchor) / p.interval + 1) * p.interval

/-- The decision boundary that has been reached and not been decided, if any (R265). -/
def decisionDue (p : Part) (now : Nat) : Option Nat :=
  if !p.learnOn ∨ p.interval = 0 ∨ now < nextDecision p then none else some (nextDecision p)

/-- The decision of partition p, when one is due, with what the sensors measured (R265). -/
def State.decideDue (s : State) (p : Nat) (sens : List (Nat × Nat)) : State :=
  match s.part? p with
  | none => s
  | some x =>
    match decisionDue x s.time with
    | some b => (s.setPart p { decideNow x (s.sensed p x sens) with lastDec := some b }).freshInterval p
    | none => s

/-- Decision boundaries of a partition that have been reached and not been decided (R265). -/
def State.decisionsDue (s : State) (p : Nat) : Nat :=
  match s.part? p with
  | some x => if (decisionDue x s.time).isSome then (s.time + x.interval - nextDecision x) / x.interval else 0
  | none => 0

/-- Decisions whose boundary has been reached are made before a write of the learner's registers takes effect: they began before the
write (R265, R270, log 32). -/
def State.decideFirst (s : State) (p : Nat) : State :=
  (List.range (s.decisionsDue p)).foldl (fun (s : State) _ => s.decideDue p (Config.sensed p s.time)) s

/-- DECISION (R265). -/
def execDecision (p : Nat) (sens : List (Nat × Nat)) (s : State) : Host.Outcome State Fault Refusal := .next (s.decideDue p sens)

/-! ### Writes (R269, R270) -/

/-- What LCFG keeps of a value written: reserved bits read zero (R3). -/
def lcfgVal (v : Nat) : Nat := v % 2 ^ 30 - bitIf (v.testBit 3) 3

/-- A write of LCFG is refused: a field out of range, or one other than EN changed while EN is 1 (R269). -/
def lcfgRefused (p : Part) (v : Nat) : Bool :=
  let v := lcfgVal v
  let n := fld v 4 5
  if p.learnOn then v / 2 != p.lcfg / 2 else
    n == 0 || decide (16 < n) || decide (8 < fld v 9 4) || decide (4 < fld v 13 3) || decide (32 < fld v 16 6)
      || fld v 22 4 == 0 || fld v 26 4 == 0

/-- LCFG_WRITE (R269, R265). -/
def lcfgSet (p : Part) (now v : Nat) : Part :=
  let start := fun (p : Part) => if v.testBit 0 then { p with anchor := now, havePrev := false, lastDec := none, reAnchor := 0 } else p
  if lcfgRefused p v then p.lerr 21
  else if p.learnOn then start (p.setBit 0x4000 0 (v.testBit 0))
  else start (p.wr 0x4000 (BitVec.ofNat 32 (lcfgVal v)))

/-- A write of LCFG by software or the host: a decision interval begins with EN. -/
def State.lcfgWrite (s : State) (p v : Nat) : State :=
  match s.part? p with
  | none => s
  | some x =>
    let s := s.setPart p (lcfgSet x s.time v)
    if v.testBit 0 && !lcfgRefused x v then s.freshInterval p else s

def execLcfgWrite (p v : Nat) (s : State) : Host.Outcome State Fault Refusal := .next ((s.decideFirst p).lcfgWrite p v)

/-- LCFG2_WRITE (R269, R265): a change of INTERVAL while EN = 1 moves the anchor to the last decision, and boundaries lie after
the write. -/
def lcfg2Set (p : Part) (now v : Nat) : Part :=
  if fld v 16 16 < 50 ∨ p.nact ≤ fld v 8 4 then p.lerr 21
  else
    let moved := p.learnOn && fld v 16 16 != fld p.lcfg2 16 16
    let p1 := p.wr 0x4004 (BitVec.ofNat 32 v)
    if moved then (match p.lastDec with | some d => { p1 with anchor := d, reAnchor := now } | none => { p1 with reAnchor := now }) else p1

def execLcfg2Write (p v : Nat) (s : State) : Host.Outcome State Fault Refusal := .next ((s.decideFirst p).updPart p (fun x => lcfg2Set x s.time v))

/-- KNOB_WRITE (R260, R261): clamped, in effect at the next control boundary. -/
def execKnobWrite (p kid v : Nat) (s : State) : Host.Outcome State Fault Refusal :=
  .next (if 66 < kid then s else (s.decideFirst p).updPart p (fun x => { x with knobSw := AMap.put x.knobSw kid (knobClamp x.cfg kid (v % 2 ^ 32 : Nat)) }))

/-- Knob values move at a control boundary: the action's deltas, then the software values; slidelo is lowered to slidehi (R261). -/
def moveKnobs (p : Part) : Part :=
  let p1 := match p.knobAct with
    | some x => if x = 0 then p else
        (List.range 67).foldl (fun q kid => q.wr (0x4880 + 4 * kid) (BitVec.ofNat 32 (afterAction p p.knob x kid))) p
    | none => p
  let p2 : Part := p.knobSw.foldl (fun (q : Part) e => q.wr (0x4880 + 4 * e.1) (BitVec.ofNat 32 e.2)) p1
  let p3 := if p2.knob 66 < p2.knob 65 then p2.wr 0x4984 (BitVec.ofNat 32 (p2.knob 66)) else p2
  { p3 with knobSw := [], knobAct := none }

/-- A register of 0x4008 to 0x6FFF other than LCFG, LCFG2, the knobs (R269): the value stored, or CFGERR. -/
def learnerWrite (p : Part) (off v : Nat) : Part :=
  let w := BitVec.ofNat 32 v
  let idle := fun (q : Part) => if p.learnOn then p.lerr 21 else q
  if off = 0x4008 then idle (p.wr off w)
  else if off = 0x400C then p.wr off (if w = 0#32 then 1#32 else w)
  else if off = 0x4010 then p.wr off (p.rd off &&& ~~~ (w &&& 0x700000#32))
  else if 0x4040 ≤ off ∧ off < 0x4060 then
    (if sensorId (fld v 16 8) then idle (p.wr off (w &&& 0xFFFFFF#32)) else p.lerr 21)
  else if 0x4060 ≤ off ∧ off < 0x40A0 then
    (if off % 16 = 0 then (if sensorId (fld v 0 8) then idle (p.wr off (w &&& 0xFF#32)) else p.lerr 21)
     else
       let f := off / 16 * 16
       let t := fun i => if off = f + 4 + 4 * i then w.toInt else (p.rd (f + 4 + 4 * i)).toInt
       if t 0 ≤ t 1 ∧ t 1 ≤ t 2 then idle (p.wr off w) else p.lerr 21)
  else if 0x40A0 ≤ off ∧ off < 0x40E0 then
    let sum := fun lo => ((List.range 16).map (fun c => if off = 0x40A0 + 4 * c then fld v lo 8 else fld (p.rd (0x40A0 + 4 * c)).toNat lo 8)).sum
    (if 256 < sum 0 ∨ 256 < sum 8 then p.lerr 21 else p.wr off (w &&& 0xFFFF#32))
  else if 0x4200 ≤ off ∧ off < 0x4600 then
    (if off % 32 < 16 then
       let qid := fld v 16 9
       (if qid < 0x90 ∨ (0x100 ≤ qid ∧ qid ≤ 0x142) then idle (p.wr off (w &&& 0x1FFFFFF#32)) else p.lerr 21)
     else if off % 32 = 16 then idle (p.wr off w) else p)
  else if 0x6000 ≤ off ∧ off < 0x8000 then idle (p.wr off w)
  else p
  where sensorId (i : Nat) : Bool := decide (i < 144)

/-- An action entry written whole (R262): knob ids in range; action 0 is read-only. -/
def actionWrite (p : Part) (off v : Nat) : Part :=
  if off < 0x4108 then p
  else if p.learnOn then p.lerr 21
  else if (List.range 4).any (fun j => let k := fld v (16 * j) 8; decide (66 < k) && k != 255) then p.lerr 21
  else p.wr64 off v

end Sys2Proof.Machine
end

