-- ==== Sys2Proof/Machine/Power.lean ====
section
/-!
DEFINITION. The control interval boundary: meters, rails, the budget's slide, knobs, yields; waking clusters; hallmarks and
anchors (spec/12 R260, R261, spec/14 R273 to R287, spec/02 R48, spec/20 R349, R350, spec/21 R360 to R362).
-/
namespace Sys2Proof.Machine
open Sys2Proof

/-- The sum of the values of each key. -/
def tally (xs : List (Nat × Nat)) : AMap Nat := xs.foldl (fun m x => AMap.put m x.1 (AMap.get m x.1 0 + x.2)) []

/-- The sum of a table. -/
def total (m : List (Nat × Nat)) : Nat := (m.map (·.2)).sum

/-- e shared in proportion to units, each share rounded down (R279). -/
def splitDown (e : Nat) (units : List (Nat × Nat)) : List (Nat × Nat) := units.map (fun u => (u.1, e * u.2 / max 1 (total units)))

namespace Part

/-- e nJ to the partition, to its cluster or memory share, and to sub-meter c, 16 for overhead (R281, R283). -/
def meter (p : Part) (share c e : Nat) : Part :=
  let sub := if c < 16 then 0x8120 + 8 * c else 0x81A0
  ((p.wr64 0x8100 (p.rd64 0x8100 + e)).wr64 share (p.rd64 share + e)).wr64 sub (p.rd64 sub + e)

/-- Shares of several contexts, what is left carried under a key (R279, R281). -/
def meterAll (p : Part) (share key e : Nat) (units : List (Nat × Nat)) : Part :=
  let e := e + AMap.get p.rem key 0
  let us := if total units = 0 then [(16, 1)] else units
  let parts := splitDown e us
  let p := parts.foldl (fun p x => p.meter share x.1 x.2) p
  { p with rem := AMap.set p.rem key (e - total parts) 0 }

end Part

namespace State
variable (s : State)

/-- e nJ to the house meter (R280). -/
def meterHouse (e : Nat) : State := { s with house := s.house + e }

/-- A partition's own total. -/
def etot (p : Nat) : Nat := s.csr64 p 0x8100

/-- A context is charged for energy only while it has a resident strand or an access in flight; 16, overhead, otherwise (R281). -/
def payer (resident : Bool) (c : Nat) : Nat := if c < 16 ∧ resident then c else 16

/-- The energy of a cluster rail, by the strand-slot cycles of contexts resident there in the interval (R280, R281). -/
def meterClu (m : IntervalIn) (clu e : Nat) : State :=
  match s.ownerOf clu with
  | none => s.meterHouse e
  | some p =>
    let slots := tally ((m.cluSlots.filter (fun x => x.1 == clu)).map (fun x => (payer ((s.clu clu).ctxs.contains x.2.1) x.2.1, x.2.2)))
    s.updPart p (fun x => x.meterAll 0x8108 (100 + clu) e slots)

/-- Static energy of an account: overhead of a partition, or house (R280, R281). -/
def meterStatic (a e : Nat) : State :=
  match s.part? a with
  | some _ => s.updPart a (fun x => x.meter 0x8110 16 e)
  | none => s.meterHouse e

/-- No access of a context is in flight (R281, R284). -/
def ctxDrained (part ctx : Nat) : Bool :=
  !s.strands.any (fun e => e.2.part == part && e.2.ctx == ctx && !e.2.ops.isEmpty)
    && (List.range 8).all (fun q => s.qctx (8 * part + q) != ctx || (s.queue (8 * part + q)).copies.isEmpty)

/-- A context has had a strand resident in the interval, or has an access in flight (R281). -/
def ctxPays (part ctx : Nat) : Bool :=
  (match s.part? part with | some p => (partClusters p.cfg).any (fun c => (s.clu c).ctxs.contains ctx) | none => false)
    || !s.ctxDrained part ctx

/-- Static energy of a stack's rail for one interval, by account, 8 for house: 16 slices, a router, a near-DRAM channel at each
position (R11), the CXL port at position 0 of stack 0, the stack's 12 LPDDR6 channels (R14, R24, R280). -/
def staticOf (stack kind : Nat) : List (Nat × Nat) :=
  let own := fun (f : PartRec → Bool) => ((s.parts.find? (fun e => f e.2.cfg)).map (·.1)).getD 8
  let c := s.calib
  if kind = 2 then (List.range 12).map (fun i => (own (fun r => r.lpmask.testBit (12 * stack + i)), c.lp))
  else (List.range 32).map (fun i =>
    (own (fun r => ownsClu r (32 * stack + i)),
     if kind = 1 then c.near else 16 * c.slice + c.router + (if stack = 0 ∧ i = 0 then c.port else 0)))

/-- The current sense of a cluster, or the sensor of a memory-side rail, has failed: of MEMRAIL's stacks both rails (R360, R361, log 33). -/
def cluFailed (c : Nat) : Bool := s.parts.any (fun e => e.2.failed.contains (0, c))
def railFailed (key : Nat) : Bool := s.parts.any (fun e => e.2.failed.contains (if key % 3 = 0 then 1 else 2, key / 3))

/-- A cluster whose current sense has failed is metered from its issue cycles and active lanes by the calibration (R361); cycles are
counted in fifths. -/
def cluEnergy (c e : Nat) : Nat := if s.cluFailed c then (s.clu c).work * s.calib.lane / 5 else e

/-- A failed rail sensor is replaced by static power and activity by the calibration (R361). -/
def railEnergy (m : IntervalIn) (key e : Nat) : Nat :=
  if s.railFailed key then
    total (s.staticOf (key / 3) (key % 3)) + ((m.act.filter (fun x => 3 * x.1 + x.2.1 == key)).map (fun x =>
      let w := x.2.2.2.2
      if key % 3 = 0 then s.calib.eAcc * w.1 + s.calib.eFlit * w.2 else s.calib.eByte * w.1)).sum
  else e

/-- The energy of one memory-side rail, key 3 x stack + kind; kind 0, the cache-die rail, weighs slice accesses and flits by the
calibration, the others count bytes (R280, R281). -/
def meterRail (m : IntervalIn) (key e0 : Nat) : State :=
  let kind := key % 3
  let stat := tally (s.staticOf (key / 3) kind)
  let act := (m.act.filter (fun x => 3 * x.1 + x.2.1 == key)).map (fun x =>
    let w := x.2.2.2.2
    (x.2.2.1, payer (s.ctxPays x.2.2.1 x.2.2.2.1) x.2.2.2.1, if kind = 0 then s.calib.wAcc * w.1 + s.calib.wFlit * w.2 else w.1))
  let e := e0 + AMap.get s.houseRem key 0
  let st := if e < total stat then splitDown e stat else stat
  let s := st.foldl (fun s x => s.meterStatic x.1 x.2) s
  let d := e - total stat
  let units := tally (act.map (fun x => (x.1, x.2.2)))
  if e < total stat then { s with houseRem := AMap.set s.houseRem key (e - total st) 0 }
  else if total units = 0 then { s.meterHouse d with houseRem := AMap.set s.houseRem key 0 0 }
  else
    let ds := splitDown d units
    let s := ds.foldl (fun (s : State) x =>
      match s.part? x.1 with
      | some _ => s.updPart x.1 (fun p => p.meterAll 0x8110 key x.2 (tally ((act.filter (fun y => y.1 == x.1)).map (·.2))))
      | none => s.meterHouse x.2) s
    { s with houseRem := AMap.set s.houseRem key (d - total ds) 0 }

/-- The energy of each cluster and of each memory-side rail in an interval: as measured, but for what a source that has failed would
have measured; of such a source none is measured at all, so its estimate is put in by its own key (R280, R361). -/
def cluSources (m : IntervalIn) : List (Nat × Nat) :=
  let failed := (s.parts.flatMap (fun e => (e.2.failed.filter (fun f => f.1 == 0)).map (·.2))).eraseDups
  (tally (m.cluE ++ failed.map (fun c => (c, 0)))).map (fun x => (x.1, s.cluEnergy x.1 x.2))
def railSources (m : IntervalIn) : List (Nat × Nat) :=
  let failed := (s.parts.flatMap (fun e => e.2.failed.flatMap (fun f =>
    if f.1 = 1 then [3 * f.2] else if f.1 = 2 then [3 * f.2 + 1, 3 * f.2 + 2] else []))).eraseDups
  (tally (m.railE.map (fun x => (3 * x.1 + x.2.1, x.2.2)) ++ failed.map (fun k => (k, 0)))).map (fun x => (x.1, s.railEnergy m x.1 x.2))

/-- The energy of an interval attributed; the package total rises by what was attributed (R279 to R281). -/
def meterAll (m : IntervalIn) : State :=
  let sum := fun (s : State) => s.house + (s.parts.map (fun e => e.2.rd64 0x8100)).sum
  let s1 := (s.cluSources m).foldl (fun (s : State) x => s.meterClu m x.1 x.2) s
  let s2 := (s.railSources m).foldl (fun (s : State) x => s.meterRail m x.1 x.2) s1
  { s2 with pkg := s2.pkg + (sum s2 - sum s) }

/-! ### Pins (R349, R350) -/

/-- A line's pin is released. -/
def unpin (line : Nat) : State :=
  match AMap.look s.pins line with
  | none => s
  | some k =>
    let off := 0x604 + 8 * (k % 16)
    { s with pins := AMap.del s.pins line }.updPart (k / 16) (fun p => p.wr off (BitVec.ofNat 32 ((p.rd off).toNat - 1)))

/-- The pins of a context. -/
def unpinCtx (part ctx : Nat) : State :=
  ((s.pins.filter (fun e => e.2 == 16 * part + ctx)).map (·.1)).foldl (fun s l => s.unpin l) s

end State

/-- Words of a listed line that its departure writes back poisoned: a kind-2 entry at level 6 for each (R350). -/
def logPoisonBack (part key : Nat) (l : L2Line) (s : State) : State :=
  ((List.range 64).filter (fun w => L2.dirtyWord l w && s.poison.contains (key % 2 ^ 44 * 64 + w))).foldl (fun (s : State) w =>
    s.updPart part (fun p => p.logMe 2 l.ctx 0 0 6 (key % 2 ^ 44 * 256 + 4 * w))) s

/-- Ways leave a context's mask (R85, R350, R69): its pins in them are released, then its lines there are written back and leave. -/
def dropWays (part : Nat) (old new : Part) (s : State) : State :=
  let gone := s.l2.lines.filter (fun e => e.2.part == part && inWays old e.2.ctx e.2.way && !inWays new e.2.ctx e.2.way)
  let s := (s.pins.filter (fun e => e.2 / 16 == part && gone.any (fun g => g.1 == L2.key part e.1 && g.2.ctx == e.2 % 16))).foldl
    (fun s e => s.unpin e.1) s
  gone.foldl (fun (s : State) g => { logPoisonBack part g.1 g.2 s with l2 := s.l2.evict (s.asker part new g.2.ctx) g.1 }) s

/-! ### Rails (R273, R274) -/

/-- Clusters on the high rail for the next interval. -/
def hiClusters (s : State) (p : Part) (m : IntervalIn) : List Nat :=
  let res := fun c => (s.onCore (2 * c)).length + (s.onCore (2 * c + 1)).length
  let ok := (partClusters p.cfg).filter (fun c => decide (0 < res c)
    && decide (4 * total ((s.cluSources m).filter (fun x => x.1 == c)) ≤ 5 * State.allowance p) && !p.failed.contains (3, c))
  let ranked := ok.mergeSort (fun a b => decide (res b < res a) || (res a == res b && decide (a ≤ b)))
  ranked.take (p.knob 64)

/-- A cluster told to take a rail: a change of at most 20 ns when it is on the other (R274). -/
def setRail (now : Nat) (hi : List Nat) (s : State) (c : Nat) : State :=
  let x := s.clu c
  let want := hi.contains c
  s.setClu c { x with energy := 0, work := 0, ctxs := ((s.onCore (2 * c) ++ s.onCore (2 * c + 1)).map (·.ctx)).eraseDups, change := if x.hi = want then none else some (want, now + 20) }

/-- σ for the next interval (R276). -/
def slide (p : Part) (bwu stall : Nat) : Nat :=
  let sg := (p.rd 0x8004).toNat
  let lo := p.knob 65; let hi := p.knob 66
  let x := if 0xE000 < bwu ∧ 0x8000 < stall then max lo (sg - 16) else if bwu < 0x8000 then min hi (sg + 16) else sg
  min (max x lo) hi

/-- Yields wanted of a weave (R48). -/
def yieldsOf (count wmin maxstr : Nat) : Nat := if maxstr < count then min (min (count - maxstr) (count - wmin)) 63 else 0

namespace State
variable (s : State)

/-- Y of every weave of a partition (R48). -/
def setYields (part : Nat) : State :=
  match s.part? part with
  | none => s
  | some p => { s with weaves := s.weaves.map (fun e =>
      if e.2.part = part then (e.1, { e.2 with y := yieldsOf (s.counted e.1).length e.2.wmin (p.knob (4 * e.2.ctx + 1)) }) else e) }

/-- A partition's memory channels have granted the interval's bytes; what was asked beyond them is served first of the next (R277). -/
def grantBytes (part : Nat) (p : Part) : State :=
  { s with l2 := { s.l2 with chan := AMap.set s.l2.chan part (AMap.get s.l2.chan part 0 - p.memAllowance) 0,
                             by_ := s.l2.by_.filter (fun e => e.1 / 16 != part) } }

/-- One partition at a boundary: knobs, rails, slide, power registers, yields, drained context-end requests. -/
def boundPart (m : IntervalIn) (part : Nat) : State :=
  match s.part? part with
  | none => s
  | some p =>
    let u := s.utilOf part p
    let p1 := moveKnobs p
    let hi := hiClusters s { p with csr := p1.csr } m
    let p2 := p1.wr 0x8004 (BitVec.ofNat 32 (slide p1 (bwuOf p.cfg p.utilB u 2000) (stallOf p.utilB u)))
    let p3 := { p2 with utilB := u, pwr := (p2.rd 0x8000, p2.rd 0x8008),
                        ctxEnd := p2.ctxEnd.map (fun c => if c < 16 ∧ s.ctxDrained part c then c + 16 else c) }
    let s := dropWays part p p1 ((s.grantBytes part p).setPart part p3)
    ((partClusters p.cfg).foldl (setRail s.time hi) s).setYields part

end State

/-- CONTROL_INTERVAL_BOUNDARY (R273, R276 to R281): the next boundary of device time, with what the sensors measured. -/
def execControlBoundary (m : IntervalIn) (s : State) : Host.Outcome State Fault Refusal :=
  let s := { s with bound := s.bound + 2000, time := max s.time (s.bound + 2000) }
  .next ((s.parts.map (·.1)).foldl (fun s p => s.boundPart m p) (s.meterAll m))

/-- RAIL_CHANGE (R274): the change of a cluster completes. -/
def execRailChange (clu : Nat) (s : State) : Host.Outcome State Fault Refusal :=
  .next (match (s.clu clu).change with | some c => s.setClu clu { s.clu clu with hi := c.1, change := none } | none => s)

/-! ### Waking (R275) -/

/-- An idle cluster with a strand that is ready: it waits to become active. -/
def wantsWake (s : State) (c : Nat) : Bool :=
  !(s.clu c).active && s.strands.any (fun e => decide (e.1 < ccBase) && e.2.core / 2 == c && e.2.ready)

/-- Wakes of one step: at most n clusters, from after the pointer, ascending, wrapping. -/
def wakeGo : Nat → List Nat → Nat → State → State × Nat
  | 0, _, ptr, s => (s, ptr)
  | _, [], ptr, s => (s, ptr)
  | n + 1, c :: cs, ptr, s =>
    if wantsWake s c then wakeGo n cs c (s.setClu c { s.clu c with active := true }) else wakeGo (n + 1) cs ptr s

/-- SLEW_STEP (R275): the next 20 ns step of device time. -/
def execSlewStep (p : Nat) (s : State) : Host.Outcome State Fault Refusal :=
  .next (match s.part? p with
    | none => s
    | some x =>
      let s := { s with time := (s.time / 20 + 1) * 20 }
      let cs := partClusters x.cfg
      let order := cs.filter (fun c => decide (x.slewPtr < c)) ++ cs.filter (fun c => decide (c ≤ x.slewPtr))
      let r := wakeGo (max 1 (fld x.pwr.1.toNat 16 4)) order x.slewPtr s
      r.1.updPart p (fun x => { x with slewPtr := r.2 }))

/-! ### Hallmarks (R284, R285) -/

/-- HMPER in ns, and the ring's log. -/
def hmPeriod (p : Part) : Nat := max 100 (min 60000 (fld (p.rd 0x8018).toNat 0 16)) * 1000000
def hmLog (p : Part) : Nat := max 1 (min 12 (fld (p.rd 0x8018).toNat 16 4))

/-- The first 256 bytes of an entry. -/
def hallmarkHead (s : State) (part : Nat) (p : Part) (kind ctx : Nat) : List Byte :=
  let g := p.hmFirst.getD (0, 0)
  bytesOf (1 + kind * 2 ^ 8 + part * 2 ^ 16 + (if kind = 1 then ctx else 0) * 2 ^ 19 + bitIf p.degr 23) 4
    ++ bytesOf (if p.degr then 500 + 50 * 2 ^ 16 else 100 + 5 * 2 ^ 16) 4
    ++ bytesOf p.hmSeq 8 ++ bytesOf (if kind = 2 then 0 else p.hmEnd) 8 ++ bytesOf s.bound 8 ++ bytesOf s.boot 8
    ++ bytesOf (p.rd64 0x8100) 8 ++ bytesOf (p.rd64 0x8108) 8 ++ bytesOf (p.rd64 0x8110) 8
    ++ (List.range 16).flatMap (fun c => bytesOf (p.rd64 (0x8120 + 8 * c)) 8)
    ++ bytesOf (p.rd64 0x81A0) 8 ++ bytesOf s.house 8 ++ bytesOf (if kind = 2 then g.1 else 0) 8 ++ bytesOf (if kind = 2 then g.2 else 0) 8
    ++ List.replicate 32 0#8

/-- An entry of 4 KiB; signatures all zero with IDOK = 0 (R364). -/
def hallmarkEntry (s : State) (head : List Byte) : List Byte :=
  let idOk := (s.win 0x10).getLsbD 2
  let sig := fun (k n : Nat) => (List.range n).map (fun i => if idOk then Config.signature k head i else 0#8)
  head ++ sig 0 64 ++ sig 1 3309 ++ List.replicate 467 0#8

/-- A hallmark is issued at the last boundary (R284). -/
def issueHallmark (s : State) (part kind ctx : Nat) : State :=
  match s.part? part with
  | none => s
  | some p =>
    let kind := if p.hmFirst.isSome then 2 else kind
    let bs := hallmarkEntry s (hallmarkHead s part p kind ctx)
    let base := p.rd64 0x8010 / 4096 % 2 ^ 40 * 4096
    let on := (p.rd 0x8018).getLsbD 20
    let s := if on then s.hwWrite (base + 4096 * (p.hmSeq % 2 ^ hmLog p)) bs else s
    let p := if on then p.wr 0x801C (p.rd 0x801C + 1) else p
    let p := if p.degr then p.setBit 0x8028 4 true else p
    s.setPart part { p with hmSeq := p.hmSeq + 1, hmEnd := s.bound, hmFirst := none, degr := !p.failed.isEmpty }

/-- A serial transaction holds the ring entry that the next hallmark is written to: it waits (R111). -/
def hallmarkWaits (s : State) (p : Part) : Bool :=
  (p.rd 0x8018).getLsbD 20 && s.serialRange hwAgent (p.rd64 0x8010 / 4096 % 2 ^ 40 * 4096 + 4096 * (p.hmSeq % 2 ^ hmLog p)) 4096

/-- A periodic hallmark is due (R284). -/
def hallmarkDue (s : State) (p : Part) : Bool := decide (p.hmEnd + hmPeriod p ≤ s.bound)

/-- PERIODIC_HALLMARK (R284). -/
def execPeriodicHallmark (p : Nat) (s : State) : Host.Outcome State Fault Refusal :=
  .next (match s.part? p with | some x => if hallmarkDue s x && !hallmarkWaits s x then issueHallmark s p 0 0 else s | none => s)

/-- CONTEXT_END_REQUEST (R284): a write of 0x8020. -/
def execContextEndRequest (p v : Nat) (s : State) : Host.Outcome State Fault Refusal :=
  .next (if v.testBit 4 then s.updPart p (fun x => if x.ctxEnd.contains (v % 16) ∨ x.ctxEnd.contains (v % 16 + 16) then x
    else { x with ctxEnd := x.ctxEnd ++ [v % 16] }) else s)

/-- CONTEXT_END_HALLMARK (R284): at a boundary after the context's accesses have drained. -/
def execContextEndHallmark (p c : Nat) (s : State) : Host.Outcome State Fault Refusal :=
  .next (match s.part? p with
    | some x =>
      if x.ctxEnd.contains (c % 16 + 16) && !hallmarkWaits s x then issueHallmark (s.setPart p { x with ctxEnd := x.ctxEnd.filter (· != c % 16 + 16) }) p 1 (c % 16) else s
    | none => s)

/-! ### Anchors (R287, R362) -/

/-- The meter words of a partition, by offset. -/
def meterWords (p : Part) : AMap Word := p.csr.filter (fun e => decide (0x8100 ≤ e.1) && decide (e.1 < 0x81A8))

/-- SEQ of a slot: 0 where it holds no valid anchor, its CRC-32 not matching (R362). -/
def anchorSeq (a : Option Anchor) : Nat := match a with | some a => if a.crc then a.seq else 0 | none => 0

/-- The newer of the valid slots (R362). -/
def newestAnchor (s : State) : Option Anchor :=
  if anchorSeq s.flash0 < anchorSeq s.flash1 then s.flash1 else if anchorSeq s.flash0 = 0 then none else s.flash0

/-- The anchor of this moment: every partition's share, those that the present record lacks as they were (R279, R287). -/
def makeAnchor (s : State) : Anchor :=
  { seq := max (anchorSeq s.flash0) (anchorSeq s.flash1) + 1, crc := true, house := s.house, pkg := s.pkg, houseRem := s.houseRem,
    parts := s.parts.map (fun e => { part := e.1, meters := meterWords e.2, seq := e.2.hmSeq, tend := e.2.hmEnd, rem := e.2.rem })
      ++ s.lost }

/-- An anchor written over the older slot, or the invalid one. -/
def putAnchor (s : State) (a : Anchor) : State :=
  if anchorSeq s.flash0 ≤ anchorSeq s.flash1 then { s with flash0 := some a } else { s with flash1 := some a }

/-- The anchor written (R287). -/
def writeAnchor (s : State) : State := putAnchor s (makeAnchor s)

/-- Every partition is changed. -/
def State.allParts (s : State) (f : Part → Part) : State := { s with parts := s.parts.map (fun e => (e.1, f e.2)) }

/-- ANCHOR_WRITE (R287, R362): the next is due 10 s later; a write that fails sets ANCHOR and is tried again 1 s later.  Of `ok` bit 0 says
that it succeeds; of one that fails, bit 1 that it has begun, and left its slot without a valid CRC-32 (log 34). -/
def execAnchorWrite (ok : Nat) (s : State) : Host.Outcome State Fault Refusal :=
  .next (if ok % 2 = 1 then { writeAnchor s with anchorDue := s.time + 10000000000 }
    else { (if ok / 2 % 2 = 1 then putAnchor s { makeAnchor s with crc := false } else s).allParts (fun p => p.setBit 0x8028 5 true) with
      anchorDue := s.time + 1000000000 })

/-! ### Attestation (R289) -/

/-- An attestation report: digests of firmware and configuration record, the certificate chain, BOOT, and the two signatures. -/
structure AttReport where
  fwDigest : Nat
  cfgDigest : Nat
  chain : List Byte
  boot : Nat
  sigE : List Byte
  sigM : List Byte
  deriving DecidableEq, Repr

/-- The report that the always-on island gives; none without an identity key (R289, R364).  The chain is free (log 10). -/
def attestation (s : State) : Option AttReport :=
  if (s.win 0x10).getLsbD 2 then
    let chain := Config.certChain s.boot
    let body := bytesOf s.fwDigest 64 ++ bytesOf s.cfgDigest 64 ++ chain ++ bytesOf s.boot 8
    let sig := fun (k n : Nat) => (List.range n).map (fun i => Config.signature k body i)
    some { fwDigest := s.fwDigest, cfgDigest := s.cfgDigest, chain := chain, boot := s.boot, sigE := sig 2 64, sigM := sig 3 3309 }
  else none

end Sys2Proof.Machine
end

