-- ==== Sys2Proof/Machine/Context.lean ====
section
/-!
DEFINITION. Pre-emption: SAVE, RESTORE, KILL; pending traps, the watchdog, the attribute-transition engine, pins
(spec/19 R323, R331 to R337, spec/03 R90, spec/20 R343, R349, spec/21 R358).
-/
namespace Sys2Proof.Machine
open Sys2Proof

/-- The state that a step leaves, the same state where it stops. -/
def stateOr (s : State) : Host.Outcome State Fault Refusal → State
  | .next t => t
  | _ => s

namespace State
variable (s : State)

/-- Keys of the strands of a context. -/
def ctxStrands (part ctx : Nat) : List Nat :=
  (s.strands.filter (fun e => decide (e.1 < ccBase) && e.2.part == part && e.2.ctx == ctx)).map (·.1)

/-- Weaves and bolts of a context. -/
def ctxWeaves (part ctx : Nat) : List (Nat × Weave) := s.weaves.filter (fun e => e.2.part == part && e.2.ctx == ctx)
def ctxBolts (part ctx : Nat) : List (Nat × Bolt) := s.bolts.filter (fun e => e.2.part == part && e.2.ctx == ctx)

/-- Operations of strand k other than batches complete, oldest first, n at most (R333 step 3). -/
def finishOps (k : Nat) : Nat → State → State
  | 0, s => s
  | n + 1, s =>
    match s.strand? k with
    | none => s
    | some t =>
      match t.ops.find? (fun o => o.path != .mx) with
      | none => s
      | some o => finishOps k n (if o.path = .sh then s.completeSht k else s.completeOp k o.path)

/-- Batches of strand k that are done retire (R235). -/
def finishBatches (k : Nat) : Nat → State → State
  | 0, s => s
  | n + 1, s =>
    match s.oldest k .mx with
    | some (t, o) => if (match o.batch with | some b => batchDone t b | none => true) then finishBatches k n (s.completeOp k .mx) else s
    | none => s

/-- A strand stops at a precise stop: its transaction aborts with PREEMPT, a due back edge runs (R333 step 2, R38). -/
def stopItem (k : Nat) : State :=
  match s.strand? k with
  | none => s
  | some t =>
    let t := if t.tx.isSome then t.abortTx 5 0 else t
    let r := s.backEdge t
    r.1.setStrand k { r.2 with wait := .none, since := s.time }

/-- Strand k's operations complete, with what their errors hold made due at the item that resumes (R333 step 3, R341). -/
def drainStrand (k : Nat) : State :=
  match s.strand? k with
  | none => s
  | some t =>
    let was := t.held.map (·.op)
    let s := (finishOps k t.ops.length s)
    let s := [0, 1].foldl (fun (s : State) (_ : Nat) => stateOr s (execMmaMeet k s)) s
    (finishBatches k t.ops.length s).updStrand k (fun t => { t with held := t.held.map (fun h => if was.contains h.op then h else { h with due := true }) })

/-- A departure that has come to its end takes effect; otherwise the strand stands before its DETACH (R337). -/
def settleLeave (k : Nat) : State :=
  match s.strand? k with
  | none => s
  | some t => if t.leave = .no then s else if canDepart t && !s.claspsWait k t then s.leaveNow k t else s.setStrand k { t with leave := .no }

/-- The arrivals of a context that are ready take effect (R176). -/
def settleArrivals (part ctx : Nat) : State :=
  (s.ctxWeaves part ctx).foldl (fun s e =>
    e.2.helds.foldl (fun (s : State) (a : HeldArr) =>
      match (s.members e.1).find? (fun m => m.2.widx == a.widx) with
      | some m => s.heldArrival m.1 a.h
      | none => s) s) s

/-- What a strand that is about to be taken away has traced enters the ring, or waits for it without the strand (R308, R319). -/
def flushTrace (part k : Nat) : State :=
  match s.strand? k with
  | none => s
  | some t =>
    if t.tr.on = false then s else
    ((s.blockDue k).updPart part (fun p => { p with heldBlocks := p.heldBlocks.map (fun b => if b.1 = k then (noKey, b.2) else b) })).updStrand k
      (fun t => { t with tr := { t.tr with freed := t.tr.freed || t.tr.holding, holding := false } })

/-- Steps 2 and 3 of R333. -/
def stopContext (part ctx : Nat) : State :=
  let ks := s.ctxStrands part ctx
  let s := ks.foldl (fun s k => s.stopItem k) s
  let s := ks.foldl (fun s k => s.drainStrand k) s
  let s := s.settleArrivals part ctx
  let s := ks.foldl (fun s k => s.settleLeave k) s
  ks.foldl (fun s k => s.flushTrace part k) s

/-- Stash mappings of a context, with their cores. -/
def ctxStash (part ctx : Nat) : List (Nat × Stash) :=
  (s.ctxWeaves part ctx).flatMap (fun e => ((s.core e.2.home).stash.filter (fun m => m.weave == e.1)).map (fun m => (e.2.home, m)))

/-- Step 4 of R333: what the context holds in caches and buffers goes home. -/
def flushContext (part ctx : Nat) : State :=
  let s := (s.ctxWeaves part ctx).foldl (fun s e => s.dropStash e.1 e.2) s
  let clus := match s.part? part with | some p => partClusters p.cfg | none => []
  let s := clus.foldl (fun s c =>
    [2 * c, 2 * c + 1].foldl (fun s k =>
      let s := s.l1CleanAll k (fun x => x.ctx == ctx) true
      s.setCore k { s.core k with cc := [] }) (s.combineClu c)) s
  s.unpinCtx part ctx

/-- What the context holds cannot go home now: a serial transaction holds it (R111), or the partition is frozen (R353). -/
def flushWaits (part ctx : Nat) : Bool :=
  s.publishWaits part || (match s.part? part with
    | some p => (partClusters p.cfg).any (fun c => [2 * c, 2 * c + 1].any (fun k =>
        (s.core k).l1.any (fun e => e.2.ctx == ctx && e.2.dirty != 0#16 && s.serialHolds hwAgent (64 * e.1) true)))
    | none => false)

/-- Every operation of the context has completed but batches of the matrix path (R333 step 3). -/
def opsDone (part ctx : Nat) : Bool :=
  (s.ctxStrands part ctx).all (fun k => match s.strand? k with | some t => t.ops.all (fun o => o.path == .mx) | none => true)

/-- Every slot, register and scratch region of the context is released (R333 step 5, R69). -/
def releaseContext (part ctx : Nat) : State :=
  let ks := s.ctxStrands part ctx
  let cores := ((ks.filterMap (fun k => (s.strand? k).map (·.core)))).eraseDups
  let ws := s.ctxWeaves part ctx
  let s := ws.foldl (fun (s : State) (e : Nat × Weave) => s.dropHeld (e.2.home / 2) e.1) s
  let s := ks.foldl (fun (s : State) k => match s.strand? k with | some t => s.dropHeld (t.core / 2) (attKey k) | none => s) s
  let s := { s with strands := s.strands.filter (fun e => !ks.contains e.1), weaves := s.weaves.filter (fun e => !(ws.map (·.1)).contains e.1) }
  cores.foldl (fun s c =>
    if (s.onCore c).any (fun t => (s.skeinOf t).isSome) then s else s.setCore c { s.core c with sk0 := [], sk1 := [] }) s

/-- Steps 1 and 2 can be taken: no packet of the context is in progress, a prologue, a REPEAT that waits for its bolt or a
WAIT_SIGNAL among them; no rail change, no transition (R333, R274, R90). -/
def contextReady (part ctx : Nat) : Bool :=
  (List.range 8).all (fun q => s.qctx (8 * part + q) != ctx
      || ((s.queue (8 * part + q)).phase == .idle && !(s.qreg (8 * part + q) 0x14).getLsbD 0))
    && (s.ctxStrands part ctx).all (fun k => match s.strand? k with | some t => (s.clu (t.core / 2)).change.isNone | none => true)
    && (match s.part? part with | some p => p.attr.isNone | none => true)

/-! ### The save area (R334) -/

/-- Words s32 to s383 and the vector registers as SAVE reads them. -/
def saveS (t : Strand) : List Byte := bytesOfWords ((List.range 352).map (fun i => t.frameS (32 + i)))
def saveV (t : Strand) : List Byte :=
  (List.range t.budget).flatMap (fun r => bytesOfWords ((List.range 128).map (fun l =>
    if t.bad.contains (512 + 128 * r + l) then 0#32 else Vec.lane (t.getV r) l)))

/-- n bytes that no field of a record holds, of area number m. -/
def openBytes (m pa n : Nat) : List Byte := (List.range n).map (fun i => Config.saveByte m (pa + i))

/-- A record of n bytes at offset off: its words, and bytes that hold nothing (the order of the words is the model's, log 41). -/
def record (m off n : Nat) (ws : List Word) : List Byte :=
  let bs := (bytesOfWords ws).take n
  bs ++ openBytes m (off + bs.length) (n - bs.length)

def w32 (v : Nat) : Word := BitVec.ofNat 32 v
def w64 (v : Nat) : List Word := [w32 v, w32 (v / 2 ^ 32)]
/-- Exactly n words. -/
def pad (n : Nat) (ws : List Word) : List Word := ws.take n ++ List.replicate (n - ws.length) 0#32

/-- A bolt record (R334): the descriptor as read, depth and flags, parent, weaves given to each die and retired there, children
outstanding. -/
def boltRecord (b : Bolt) (children : Nat) : List Word :=
  let d := b.desc
  w64 d.addr ++ w64 d.sbase ++ w64 d.lbase ++ [w32 d.nweave, w32 d.wmin, w32 d.wmax]
    ++ [w32 (b.depth + bitIf d.priv 8 + bitIf d.sken 9 + d.sksel * 2 ^ 10 + bitIf b.signal 12 + bitIf b.started 13),
        w32 (d.ncopy + d.nmat * 2 ^ 8 + d.nepi * 2 ^ 16), w32 (d.bcopy + d.bmat * 2 ^ 9 + d.bepi * 2 ^ 18), w32 (d.creg + d.cscr * 2 ^ 6),
        w32 d.scrw]
    ++ pad 32 (d.clasps.flatMap (fun c => w64 (c.addr + bitIf c.bolt 63))) ++ w64 d.args ++ w64 d.sigaddr ++ w64 d.sigval
    ++ [w32 d.enw, w32 d.ipk, w32 (b.parent.getD 0xFFFFFFFF), w32 children]
    ++ pad 8 ((List.range 4).flatMap (fun die => match b.dies.find? (fun r => r.die == die) with
      | some r => [w32 (r.next - r.start), w32 r.retired]
      | none => [0#32, 0#32]))

/-- A core record (R334): index, carve, both skeins' counts and entries. -/
def coreRecord (c : SavedCore) : List Word :=
  [w32 c.core, w32 c.creg, w32 c.cscr, w32 c.sk0.length, w32 c.sk1.length] ++ List.replicate 11 0#32 ++ pad 4096 c.sk0 ++ pad 4096 c.sk1

/-- A weave record before its scratch image (R334): id, bolt, home core, minimum, maximum, members, Y, reservations, clasp bindings,
each member's state at each clasp (4 bits each), stash mappings by scratch page. -/
def weaveRecord (wk : Nat) (w : Weave) (members : Nat) (stash : List Stash) : List Word :=
  let rec_ := fun (h i : Nat) =>
    match AMap.look w.recs (64 * h + i) with
    | some r => 8 + bitIf r.arrived 0 + bitIf r.early 1 + bitIf r.joins 2
    | none => 0
  pad 16 ([w32 wk, w32 w.wid, w32 w.bolt, w32 w.home, w32 w.wmin, w32 w.wmax, w32 members, w32 w.y] ++ w.resv.map w32)
    ++ (List.range 16).flatMap (fun h => match AMap.look w.binds h with | some b => w64 (b.addr + bitIf b.bolt 63 + 2 ^ 62) | none => w64 0)
    ++ (List.range 16).flatMap (fun h => (List.range 8).map (fun k => w32 (((List.range 8).map (fun i => rec_ h (8 * k + i) * 16 ^ i)).sum)))
    ++ (List.range 384).flatMap (fun g => match stash.find? (fun m => m.weave == wk && m.off == 4096 * g) with
      | some m => w64 (m.page + m.coh * 2 + 1)
      | none => w64 0)

/-- A strand record from 0xD80 on (R334): HND, HLBASE, halted, place, and up to two posted MMAs that have not met: instruction bits,
FMT, RB, batch. -/
def strandTail (k : Nat) (t : Strand) : List Word :=
  [w32 (bitIf t.hnd 0), loW t.hlbase, hiW t.hlbase, w32 (bitIf (t.run == .halted) 0), w32 t.role, w32 t.core, w32 (t.slot / 24), w32 t.slot,
   w32 t.widx, w32 k, w32 t.weave, w32 t.mx.quad]
    ++ (((mmasOf t).take 2).flatMap (fun m =>
      let e := match encode (.mma m.f) with | some (.lane v) => v | _ => 0
      w64 e ++ w64 (e / 2 ^ 64) ++ [m.fmt, w32 (fld m.rot.toNat 16 7), w32 m.batch, w32 m.pos]))

/-- The strands of a weave in weave-relative index order. -/
def byIndex (ts : List (Nat × Strand)) (wk : Nat) : List (Nat × Strand) :=
  (ts.filter (fun e => e.2.weave == wk)).mergeSort (fun a b => decide (a.2.widx ≤ b.2.widx))

/-- Bytes of a weave record, and of a strand record. -/
def weaveSize (w : Weave) : Nat := 4096 + w.scrLen
def strandSize (t : Strand) : Nat := 4096 + 512 * t.budget

/-- Offsets of the weave records and strand records of an area from offset `off` on. -/
def areaPlan (v : Saved) : List (Nat × Weave) → Nat → List (Nat × Nat × Nat)
  | [], _ => []
  | (wk, w) :: ws, off =>
    let ts := byIndex v.strands wk
    let base := off + weaveSize w
    let r := ts.foldl (fun (a : List (Nat × Nat × Nat) × Nat) e => (a.1 ++ [(wk, e.1 + 1, a.2)], a.2 + strandSize e.2)) ([], base)
    (wk, 0, off) :: (r.1 ++ areaPlan v ws r.2)

/-- The first weave record's offset, and the length of the area. -/
def areaHead (v : Saved) : Nat := 64 + 256 * v.bolts.length + 32832 * v.cores.length
def areaLen (v : Saved) : Nat :=
  areaHead v + (v.weaves.map (fun e => weaveSize e.2)).sum + (v.strands.map (fun e => strandSize e.2)).sum

/-- An engine writes an image, the poison of its words with it (R345). -/
def hwWritePoison (pa : Nat) (bs : List Byte) (bad : List Nat) : State :=
  bad.foldl (fun (s : State) a => s.setPoison (pa + a)) (s.hwWrite pa bs)

/-- The area is written at a physical address. -/
def writeArea (base : Nat) (v : Saved) : State :=
  let n := s.free
  let s := { s with free := n + 1 }
  let head := bytesOf (1 + v.ctx * 256) 4 ++ bytesOf v.bolts.length 4 ++ bytesOf v.cores.length 4 ++ bytesOf v.weaves.length 4
    ++ bytesOf v.time 8 ++ openBytes n 24 40
  let s := s.hwWrite base head
  let s := (v.bolts.zipIdx).foldl (fun (s : State) e =>
    let kids := ((v.weaves.filter (fun w => w.2.bolt == e.1.1)).map (fun w => w.2.children)).sum
    s.hwWrite (base + 64 + 256 * e.2) (record n (64 + 256 * e.2) 256 (boltRecord e.1.2 kids))) s
  let off := 64 + 256 * v.bolts.length
  let s := (v.cores.zipIdx).foldl (fun (s : State) e =>
    s.hwWrite (base + off + 32832 * e.2) (record n (off + 32832 * e.2) 32832 (coreRecord e.1))) s
  (areaPlan v v.weaves (areaHead v)).foldl (fun (s : State) (x : Nat × Nat × Nat) =>
    let off := x.2.2
    if x.2.1 = 0 then
      match v.weaves.find? (fun e => e.1 == x.1) with
      | some e => s.hwWritePoison (base + off)
          (record n off 4096 (weaveRecord e.1 e.2 (v.strands.filter (fun x => x.2.weave == e.1)).length (v.stash.map (·.2)))
            ++ (List.range e.2.scrLen).map (fun i => AMap.get e.2.scr i 0#8))
          (e.2.scrPoison.map (fun p => 4096 + 4 * p))
      | none => s
    else
      match v.strands.find? (fun e => e.1 + 1 == x.2.1) with
      | some e =>
        let fr := bytesOfWords (s.frameWords e.2 0 0 0 false 0#128 0#64 0 (s.csr e.2.part 0xA0D4))
        (s.updPart e.2.part (fun p => p.eseq.2)).hwWrite (base + off) (fr ++ saveS e.2 ++ record n (off + 0xD80) 640 (strandTail e.1 e.2) ++ saveV e.2)
      | none => s) s

/-- What SAVE records of a context (R334). -/
def savedOf (part ctx : Nat) : Saved :=
  let ts := s.strands.filter (fun e => decide (e.1 < ccBase) && e.2.part == part && e.2.ctx == ctx)
  let ws := s.ctxWeaves part ctx
  let cores := (ts.map (·.2.core) ++ ws.map (fun e => e.2.home)).eraseDups
  { ctx := ctx, time := s.time, bolts := s.ctxBolts part ctx, weaves := ws, strands := ts,
    cores := cores.map (fun c => let x := s.core c; { core := c, creg := x.creg, cscr := x.cscr, sk0 := x.sk0, sk1 := x.sk1 : SavedCore }),
    stash := s.ctxStash part ctx,
    held := (List.range 128).flatMap (fun c => ((s.clu c).held.filter (fun h =>
      ws.any (fun (e : Nat × Weave) => e.1 == h.1) || ts.any (fun (e : Nat × Strand) => attKey e.1 == h.1))).map (fun h => (c, h))), out := true }

end State

/-- The word 0xE00 and SAVEBASE. -/
def pctx (p : Part) : Nat := fld (p.rd 0xE00).toNat 0 4
def saveBase (p : Part) : Nat := p.rd64 0xE08 / 4096 % 2 ^ 40 * 4096

/-- SAVE's steps from 2 on, the context stopped (R333 steps 2 and 3 done). -/
def doSave (s : State) (part ctx : Nat) : State :=
  let v := s.savedOf part ctx
  let s := s.flushContext part ctx
  let bad := v.strands.flatMap (fun e => ((e.2.bad ++ s.captBad e.2).eraseDups).map (fun b => (e.2, b)))
  let s := bad.foldl (fun (s : State) (b : Strand × Nat) => s.logElement b.1 b.2) s
  let v := { v with stash := v.stash.map (fun m => (m.1, { m.2 with filled := 0#16, dirty := [] })),
                    weaves := v.weaves.map (fun e => match s.weave? e.1 with | some w => (e.1, w) | none => e) }
  let s := match s.part? part with | some p => s.writeArea (saveBase p) v | none => s
  let v := { v with strands := v.strands.map (fun (e : Nat × Strand) =>
    (e.1, { e.2 with bad := [], capBad := [], capS := e.2.capS.filter (fun c => !e.2.capBad.contains c.1) })) }
  let s := s.releaseContext part ctx
  let s := { s with bolts := s.bolts.filter (fun e => !(v.bolts.map (fun (x : Nat × Bolt) => x.1)).contains e.1) }
  ((s.publish part).sliceClean part).updPart part (fun (p : Part) => ({ (p.setBit 0xE00 4 false).wr64 0xE10 (State.areaLen v) with
    saved := p.saved.filter (fun (x : Saved) => !(x.ctx == ctx && x.time == v.time)) ++ [v] }))

/-- A request bit of 0xE00 is taken up: the fields, and the queues of the context stop (R332, R333 step 1). -/
def askContext (p : Part) (bit v : Nat) (stop : Bool) : Part :=
  let c := v % 16
  let p1 := p.wr 0xE00 (BitVec.ofNat 32 (c + 2 ^ bit))
  if stop then { p1 with noAdmit := if p1.noAdmit.contains c then p1.noAdmit else p1.noAdmit ++ [c] } else p1

/-- No request of 0xE00 reads 1. -/
def contextIdle (p : Part) : Bool := fld (p.rd 0xE00).toNat 4 3 == 0

/-- A request is taken when none reads 1, then carried out as soon as it can be. -/
def contextGo (part bit v : Nat) (stop : Bool) (ready : State → Nat → Bool) (go : State → Nat → State) (s : State) : State :=
  let s := s.updPart part (fun p => if contextIdle p then askContext p bit v stop else p)
  match s.part? part with
  | none => s
  | some p => if (p.rd 0xE00).getLsbD bit && ready s (pctx p) then go s (pctx p) else s

/-- A serial transaction of another context holds what the stopped context writes back, or its save area: SAVE waits (R111). -/
def saveWaits (s : State) (part ctx : Nat) : Bool :=
  s.flushWaits part ctx || (match s.part? part with
    | some p => s.serialRange hwAgent (saveBase p) (State.areaLen (s.savedOf part ctx))
    | none => false)

/-- The save can be carried out now (R333 steps 1 to 3, R111, R353). -/
def saveReady (s : State) (p c : Nat) : Bool :=
  s.contextReady p c && (s.stopContext p c).opsDone p c && !saveWaits (s.stopContext p c) p c

/-- SAVE (R333): a write of SAVE, or the save that waited. -/
def execSave (p v : Nat) (s : State) : Host.Outcome State Fault Refusal :=
  .next (contextGo p 4 v true (fun s c => saveReady s p c)
    (fun s c => doSave (s.stopContext p c) p c) s)

/-! ### RESTORE (R335) -/

/-- A word of the area in memory. -/
def areaWord (s : State) (base off : Nat) : Word := BitVec.ofNat 32 (s.homeRead (base + off) 4)

/-- One strand from its record (R335, R29): the frame's fields, LIVE, STATUS, TXSTAT and registers from the area, reserved bits as 0
(R3), the rest as saved; none when R326 refuses it. -/
def restoreStrand (s : State) (base off : Nat) (t : Strand) : Option Strand :=
  let f := fun i => areaWord s base (off + 4 * i)
  let miss := s.captMissing t
  let live := quadMask (f 16) (f 17) (f 18) (f 19)
  (s.reload { t with live := live, status := f 28 &&& 0x00FFFF01#32, txstat := f 29 &&& 0x0001FFFF#32, seqs := (t.loops.map (·.seq)).reverse,
                     splitsH := t.splits, noCap := miss, capH := if miss.isEmpty then [] else t.capS } f).map (fun r =>
    let r := (List.range 352).foldl (fun (r : Strand) i => { r with s := AMap.set r.s (32 + i) (areaWord s base (off + 0x800 + 4 * i)) 0#32 }) r
    let r := (List.range t.budget).foldl (fun (r : Strand) k => r.putV k ((List.range 128).map (fun l => areaWord s base (off + 4096 + 512 * k + 4 * l)))) r
    { r with hnd := t.hnd, claims := t.claims, noCap := t.noCap, capH := t.capH, seqs := t.seqs, splits := t.splits, splitsH := t.splitsH,
             pass := t.pass, passW := t.passW, seqNo := t.seqNo, lfTop := t.lfTop, spin := t.spin, bad := [], wait := .none, since := s.time })

/-- The saved context that an area in memory names: its header's context and time. -/
def areaOf (s : State) (p : Part) (base : Nat) : Option Saved :=
  let w := (areaWord s base 0).toNat
  let tm := (pair (areaWord s base 16) (areaWord s base 20)).toNat
  if fld w 0 8 = 1 then p.saved.find? (fun v => v.ctx == fld w 8 4 && v.time == tm) else none

/-- The saved slots are free, each core's carve matches or the core is empty, and each spindle's quarter of it has the registers
(R335, R17). -/
def placesFree (s : State) (v : Saved) : Bool :=
  v.strands.all (fun e => (s.strand? e.1).isNone)
    && v.cores.all (fun c => ((s.onCore c.core).isEmpty || ((s.core c.core).creg == c.creg && (s.core c.core).cscr == c.cscr))
      && (s.spindles c.core c.creg).zipIdx.all (fun q =>
        decide (((v.strands.filter (fun e => e.2.core == c.core && e.2.slot / 24 == q.2)).map (·.2.budget)).sum ≤ q.1.room)))

/-- A restore that cannot be done restores nothing (R335). -/
def restoreFails (s : State) (part ctx : Nat) : State :=
  s.updPart part (fun p => (p.setBit 0xE18 ctx true).setBit 0xE00 5 false)

/-- A strand of a saved context is placed on a core. -/
def placedOn (v : Saved) (core : Nat) : Bool := v.strands.any (fun e => e.2.core == core)

/-- The core side of a restore: carve and context as a placement takes them where a strand is placed (R69), of another home core its carve
alone; skeins where no strand uses them. -/
def restoreCore (v : Saved) (s : State) (c : SavedCore) : State :=
  let sk := (s.onCore c.core).any (fun t => (s.skeinOf t).isSome)
  let x := s.core c.core
  let s := if placedOn v c.core then s.takeCore c.core v.ctx c.creg c.cscr
    else if x.creg = c.creg ∧ x.cscr = c.cscr then s
    else (s.scrubCore c.core).setCore c.core { (s.scrubCore c.core).core c.core with creg := c.creg, cscr := c.cscr }
  let x := s.core c.core
  s.setCore c.core { x with sk0 := if sk then x.sk0 else c.sk0, sk1 := if sk then x.sk1 else c.sk1 }

/-- A restore carried out (R335).  An area restored again after its strands have gone brings their ids back as they were, also where
another strand has taken one meanwhile: R372 asks for the same id and for ids that are unique (DESIGN CHOICE, log 41). -/
def doRestore (s : State) (part ctx : Nat) : State :=
  match s.part? part with
  | none => s
  | some p =>
    let base := saveBase p
    match areaOf s p base with
    | none => restoreFails s part ctx
    | some v =>
      let plan := State.areaPlan v v.weaves (State.areaHead v)
      let ts := v.strands.map (fun e =>
        (e.1, (plan.find? (fun x => x.2.1 == e.1 + 1)).bind (fun x => restoreStrand s base x.2.2 e.2)))
      if ts.any (fun e => e.2.isNone) then restoreFails s part ctx else
      let s := v.cores.foldl (restoreCore v) s
      let s := v.bolts.foldl (fun (s : State) e => s.setBolt e.1 e.2) s
      let s := v.weaves.foldl (fun (s : State) e =>
        let off := ((plan.find? (fun x => x.1 == e.1 && x.2.1 == 0)).map (·.2.2)).getD 0
        let scr := (List.range e.2.scrLen).foldl (fun (m : AMap Byte) i => AMap.set m i (s.homeByte (base + off + 4096 + i)) 0#8) []
        let bad := (List.range (e.2.scrLen / 4)).filter (fun i => s.isPoison (base + off + 4096 + 4 * i))
        s.setWeave e.1 { e.2 with scr := scr, scrPoison := bad }) s
      let s := v.held.foldl (fun (s : State) h => s.setClu h.1 { s.clu h.1 with held := (s.clu h.1).held ++ [(h.2.1, min h.2.2 (State.headroom p))] }) s
      let s := v.stash.foldl (fun (s : State) m => s.setCore m.1 { s.core m.1 with stash := (s.core m.1).stash ++ [m.2] }) s
      let s := ts.foldl (fun (s : State) e => match e.2 with | some t => s.setStrand e.1 t | none => s) s
      s.updPart part (fun p => { (p.setBit 0xE00 5 false) with
        saved := p.saved.map (fun x => if x.ctx = v.ctx ∧ x.time = v.time then { x with out := false } else x),
        noAdmit := p.noAdmit.filter (· != v.ctx) })

/-- The area can be restored now, or refused now. -/
def restoreReady (s : State) (part : Nat) : Bool :=
  match s.part? part with
  | none => false
  | some p => !s.frozenAt part && (match areaOf s p (saveBase p) with
      | none => true
      | some v => placesFree s v && !v.cores.any (fun c => if placedOn v c.core then s.takeWaits c.core v.ctx c.creg c.cscr
          else ((s.core c.core).creg != c.creg || (s.core c.core).cscr != c.cscr) && s.scrubHeld c.core))

/-- RESTORE (R335): a write of RESTORE, or the restore that waited. -/
def execRestore (p v : Nat) (s : State) : Host.Outcome State Fault Refusal :=
  .next (contextGo p 5 v false (fun s _ => restoreReady s p) (fun s c => doRestore s p c) s)

/-! ### KILL (R336, R358) -/

/-- The bolts of a context that have not completed: those of its saved areas that have not come back among them (R358). -/
def endingBolts (s : State) (part ctx : Nat) : List (Nat × Bolt) :=
  let saved : List Saved := ((match s.part? part with | some p => p.saved | none => []) : List Saved).filter (fun v => v.ctx == ctx && v.out)
  s.ctxBolts part ctx ++ saved.flatMap (fun (x : Saved) => x.bolts)

/-- What the end of a context writes lies in a serial transaction's footprint or in a page in transition: it waits (R111, R90). -/
def endWaits (s : State) (part ctx status : Nat) : Bool :=
  s.flushWaits part ctx || (endingBolts s part ctx).any (fun e => s.signalWaits e.2 status)

/-- The context, stopped, ends: its strands and weaves go, every bolt of it that has not completed gets a signal.  Its save areas stand
in memory as they were, and can be restored (R335); their bolts have ended (R358). -/
def endContext (s : State) (part ctx status : Nat) : State :=
  let s := s.flushContext part ctx
  let bs := endingBolts s part ctx
  let s := (s.releaseContext part ctx).updPart part (fun p => { p with saved := p.saved.map (fun v => if v.ctx = ctx then { v with out := false } else v) })
  let s := s.publish part
  bs.foldl (fun (s : State) e => (s.endSignal e.2 status).forgetBolt e.1 e.2) s

def doKill (s : State) (part ctx : Nat) : State :=
  (endContext s part ctx 3).updPart part (fun p => { (p.setBit 0xE00 6 false) with noAdmit := p.noAdmit.filter (· != ctx) })

/-- The kill can be carried out now (R333 steps 1 to 3, R111, R353). -/
def killReady (s : State) (p c : Nat) : Bool := s.contextReady p c && (s.stopContext p c).opsDone p c && !endWaits (s.stopContext p c) p c 3

/-- KILL (R336): a write of KILL, or the kill that waited. -/
def execKill (p v : Nat) (s : State) : Host.Outcome State Fault Refusal :=
  .next (contextGo p 6 v true (fun s c => killReady s p c)
    (fun s c => doKill (s.stopContext p c) p c) s)

/-- A write of 0xE00 (R332): one of SAVE, RESTORE, KILL while none reads 1; otherwise PCTX alone, or nothing. -/
def contextWrite (part v : Nat) (s : State) : State :=
  match s.part? part with
  | none => s
  | some p =>
    if contextIdle p = false then s else
    match fld v 4 3 with
    | 0 => s.updPart part (fun p => p.wr 0xE00 (BitVec.ofNat 32 (v % 16)))
    | 1 => stateOr s (execSave part v s)
    | 2 => stateOr s (execRestore part v s)
    | 4 => stateOr s (execKill part v s)
    | _ => s

/-! ### Traps that wait, and the watchdog (R323, R331) -/

/-- TRAP_ENTRY (R323): the pending trap of strand k is entered, when its counters are zero. -/
def execTrapEntry (k : Nat) (s : State) : Host.Outcome State Fault Refusal := .next (s.tryEnter k)

/-- The batch of the oldest posted MMA that has not met. -/
def oldestBatch (t : Strand) : Option Nat := (mmasOf t).head?.map (·.batch)

/-- A batch of flag i, or of the mx path, holds a posted MMA that has not met. -/
def unmetOps (t : Strand) (p : Op → Bool) : Bool :=
  t.ops.any (fun o => o.path == .mx && p o && (match o.batch with | some b => (mmasOf t).any (fun m => m.batch == b) | none => false))

/-- A strand held at a WAITP or a header waits for a matrix batch that holds a posted MMA that has not met (R331); a lane item does
not. -/
def waitsBatch (s : State) (t : Strand) : Bool :=
  if 0 < t.item ∧ t.item ≤ t.nl then false else
  let w := s.wordAt t t.itemAddr
  match decodeScalar w 0 with
  | .ok (.waitp path _ _) => path == 4 && unmetOps t (fun _ => true)
  | .ok (.clauseHeader wm _ _ _ _) => unmetOps t (fun o => match o.flag with | some i => wm.testBit i | none => false)
  | _ => false

/-- The TIMEOUT that a strand's wait raises, if any (R328, R331). -/
def timeoutOf (s : State) (t : Strand) : Option FaultInfo :=
  match t.wait with
  | .clasp h _ => some { code := 0x16, sub := 1, arg := h }
  | .grow => some { code := 0x16, sub := 1 }
  | .token => some { code := 0x16, sub := 1 }
  | .quad => some { code := 0x16, sub := 2, arg := (oldestBatch t).getD 0 }
  | .path => if waitsBatch s t then some { code := 0x16, sub := 2, arg := (oldestBatch t).getD 0 } else none
  | .flag => if waitsBatch s t then some { code := 0x16, sub := 2, arg := (oldestBatch t).getD 0 } else none
  | _ => none

/-- TIMEOUT (R331): strand k has stayed at its item for more than WDOG µs; where it leaves a CLASP.WAIT, WAITERS may fall (R175). -/
def execTimeout (k : Nat) (s : State) : Host.Outcome State Fault Refusal :=
  .next (match s.strand? k with
    | none => s
    | some t =>
      let wdog := (s.csr t.part 0xE1C).toNat
      if wdog = 0 ∨ t.run = .halted ∨ s.time ≤ t.since + 1000 * wdog ∨ t.pend.isSome then s else
      match timeoutOf s t with
      | some f => (s.claspUnwait k).raiseAt k { t with wait := .none, since := s.time } f
      | none => s)

/-! ### Attribute transitions (R90, R343) -/

/-- A leaf of a table: levels left below it, entry address, entry; none where the page is not present, or its table is not in memory of the
partition (R293). -/
def leafOf (s : State) (part va : Nat) : Nat → Nat → Option (Nat × Nat × Nat)
  | 0, _ => none
  | lv + 1, tab =>
    let ea := State.entryAt va lv tab
    if !s.usable part ea then none else
    let e := (s.combine ea).homeRead ea 8
    if !State.pte e 0 then none
    else if lv = 0 ∨ ((lv = 1 ∨ lv = 2) ∧ State.pte e 10) then some (lv, ea, e)
    else leafOf s part va lv (e / 4096 % 2 ^ 40 * 4096)

def pageLeaf (s : State) (part ctx page : Nat) : Option (Nat × Nat × Nat) :=
  let root := s.csr64 part (0x200 + 8 * ctx)
  if root % 2 = 0 then none else leafOf s part (page * 4096) 4 (root / 4096 % 2 ^ 40 * 4096)

/-- The range splits a large page: it begins or ends inside one (R90 REFUSED). -/
def splitsLarge (s : State) (part ctx base len : Nat) : Bool :=
  let at_ := fun (page : Nat) (p : Nat → Nat → Bool) =>
    match pageLeaf s part ctx page with | some x => p (page / 2 ^ (9 * x.1) * 2 ^ (9 * x.1)) (2 ^ (9 * x.1)) | none => false
  at_ base (fun lo _ => decide (lo < base)) || at_ (base + len - 1) (fun lo n => decide (base + len < lo + n))

/-- A run's request as the registers hold it. -/
def attrReq (p : Part) : AttrRun :=
  let w := (p.rd 0x40C).toNat
  { base := fld (p.rd64 0x400) 12 36, len := (p.rd 0x408).toNat, ctx := fld w 0 4, attr := fld w 4 2, owner := fld w 6 8, sig := p.rd64 0x410 }

/-- ATTR_TRANSITION_GO (R90, R343): a write of 0x40C. -/
def execAttrGo (part v : Nat) (s : State) : Host.Outcome State Fault Refusal :=
  .next (match s.part? part with
    | none => s
    | some p =>
      if p.attr.isSome then s.setPart part (p.setBit 0x418 3 true) else
      let p1 := p.wr 0x40C (BitVec.ofNat 32 (v % 2 ^ 14 + bitIf ((p.rd 0x40C).getLsbD 30) 30))
      if v.testBit 31 = false then s.setPart part p1 else
      let r := attrReq p1
      let refused := r.len != 0 && (splitsLarge s part r.ctx r.base r.len || (r.attr == 2 && !ownsClu p.cfg (r.owner / 2)))
      let p2 := (p1.wr 0x418 0#32).setBit 0x40C 30 refused
      s.setPart part (if refused then p2 else { (p2.setBit 0x40C 31 true) with attr := some r }))

/-- One page of a run: written back and invalidated everywhere, its leaf changed (R90 steps 2, 3); poison and absence seen. -/
def attrPage (part : Nat) (r : AttrRun) (x : State × Bool × Bool) (page : Nat) : State × Bool × Bool :=
  let s := x.1
  match pageLeaf s part r.ctx page with
  | none => (s, x.2.1, true)
  | some (lv, ea, e) =>
    let pa := (e / 4096 % 2 ^ 40 + page % 2 ^ (9 * lv)) * 4096
    let mine := fun (a : Nat) => a / 4096 == pa / 4096
    let cores := match s.part? part with | some p => (partClusters p.cfg).flatMap (fun c => [2 * c, 2 * c + 1]) | none => []
    let bad := cores.any (fun c =>
      (s.core c).l1.any (fun z => mine (z.1 * 64) && z.2.poison &&& z.2.dirty != 0#16)
      || (s.core c).stash.any (fun m => mine m.page && m.dirty.any (fun d =>
          (List.range 64).any (fun i => d.2.getLsbD i && (match s.weave? m.weave with | some w => w.scrPoison.contains ((m.off + 256 * d.1 + 4 * i) / 4) | none => false)))))
    let s := cores.foldl (fun (s : State) c =>
      let s := s.stashClean hwAgent c true (fun m => mine m.page)
      let s := ((s.core c).l1.filter (fun z => mine (z.1 * 64))).foldl (fun (s : State) z => s.l1Clean c z.1 true) s
      s.setCore c { s.core c with cc := (s.core c).cc.filter (fun z => !mine (z.1 * 16)) }) s
    let s := (List.range 16).foldl (fun (s : State) i => s.combine (pa + 256 * i)) s
    let s := ((s.pins.filter (fun z => mine (z.1 * 256))).map (·.1)).foldl (fun (s : State) l => s.unpin l) s
    let e1 := e - fld e 4 2 * 16 + r.attr * 16
    let e2 := if r.attr = 2 then e1 - fld e1 52 8 * 2 ^ 52 + r.owner * 2 ^ 52 else e1
    (if r.attr = 3 then s else s.hwWrite ea (bytesOf e2 8), x.2.1 || bad, x.2.2)

/-- Translations leave every TLB, of cores and clusters (R74). -/
def State.dropTlb (s : State) (gone : Nat → Bool) : State :=
  { s with cores := s.cores.map (fun e => (e.1, { e.2 with tlb := e.2.tlb.filter (fun z => !gone z.1) })),
           clus := s.clus.map (fun e => (e.1, { e.2 with tlb := e.2.tlb.filter (fun z => !gone z.1) })) }

/-- Every TLB entry of a range is dropped (R90 step 4). -/
def shootDown (s : State) (part : Nat) (r : AttrRun) : State :=
  let lo := State.tlbKey part r.ctx 0 + r.base
  s.dropTlb (fun k => decide (lo ≤ k) && decide (k < lo + r.len))

/-- A run must wait: what it writes back, or a leaf that it changes, lies in a serial transaction's footprint (R111), or the partition is
frozen (R353). -/
def attrWaits (s : State) (part : Nat) (r : AttrRun) : Bool :=
  s.publishWaits part || (List.range r.len).any (fun i =>
    match pageLeaf s part r.ctx (r.base + i) with
    | none => false
    | some (lv, ea, e) =>
      let page := e / 4096 % 2 ^ 40 + (r.base + i) % 2 ^ (9 * lv)
      s.serialRange hwAgent ea 8
        || s.cores.any (fun c => c.2.l1.any (fun z => z.1 / 64 == page && z.2.dirty != 0#16 && s.serialHolds hwAgent (64 * z.1) true)))

/-- The run of a partition, done (R90 steps 2 to 5, R343); none where there is none, or while a serial transaction holds what it writes
back, or the completion word (R111). -/
def attrDone (s : State) (part : Nat) : Option State :=
  match (s.part? part).bind (fun p => p.attr) with
    | none => none
    | some r =>
      if attrWaits s part r then none else
      let x := (List.range r.len).foldl (fun x i => attrPage part r x (r.base + i)) (s, false, false)
      let s := shootDown x.1 part r
      let s := s.updPart part (fun p => { ((p.setBit 0x40C 31 false).setBit 0x418 0 x.2.1).setBit 0x418 2 x.2.2 with attr := none })
      let s := s.publish part
      let t := s.ccAgent part r.ctx true 0
      let a : Acc := { lane := 0, va := r.sig, size := 4, rd := false, wr := true }
      match s.checkAcc hwAgent t a true with
      | .error .wait => none
      | .error (.fault _) => some (s.updPart part (fun p => p.setBit 0x418 1 true))
      | .ok e => some (s.storeAcc hwAgent t a e 1)

/-- ATTR_TRANSITION_SIGNAL (R90, R343). -/
def execAttrSignal (part : Nat) (s : State) : Host.Outcome State Fault Refusal := .next ((attrDone s part).getD s)

/-- PIN_CLR (R349). -/
def execPinClr (p c : Nat) (s : State) : Host.Outcome State Fault Refusal := .next (s.unpinCtx p (c % 16))

end Sys2Proof.Machine
end

