-- ==== Sys2Proof/Machine/Debug.lean ====
section
/-!
DEFINITION. Debug control and the frozen view of pending stores (spec/16 R302 to R307, R312, spec/17 R314 to R316,
spec/20 R353).
-/
namespace Sys2Proof.Machine
open Sys2Proof

/-! ### DCMD (R302, R305) -/

/-- The resident strand that DSTRAND names. -/
def dstrand (s : State) (p : Nat) : Option (Nat × Strand) :=
  s.strands.find? (fun e => decide (e.1 < ccBase) && e.2.part == p && e.2.sid == (s.csr p 0xA0C8).toNat)

/-- A halt falls between items: a due back edge has run, its decisions among those of the trace (R38, R305, R310). -/
def haltAt (s : State) (k : Nat) (t : Strand) (code arg : Nat) : State :=
  let r := s.backEdge t
  (r.1.stopStrand k { r.2 with pass := false, passW := false } code arg).decideAll k (s.edgeBits t)

/-- HALT (R302, R303 CODE 0): the strand stops before its next item. -/
def execHalt (p : Nat) (s : State) : Host.Outcome State Fault Refusal :=
  .next (match dstrand s p with
    | some (k, t) => if t.run = .halted then s else haltAt s k t 0 0
    | none => s)

/-- A halted strand goes on as DCMD says; the item it stopped at passes the stops that came before (log 15). -/
def goOn (p : Nat) (r : Run) (s : State) : State :=
  match dstrand s p with
  | some (k, t) => if t.run = .halted then s.setStrand k { t with run := r, wait := .none, since := s.time, delay := none } else s
  | none => s

/-- RESUME (R302). -/
def execResume (p : Nat) (s : State) : Host.Outcome State Fault Refusal := .next (goOn p .going s)
/-- STEP_ONE_ITEM (R302, R305). -/
def execStepOne (p : Nat) (s : State) : Host.Outcome State Fault Refusal := .next (goOn p .stepItem s)
/-- STEP_TO_NEXT_HEADER (R302, R305). -/
def execStepHeader (p : Nat) (s : State) : Host.Outcome State Fault Refusal := .next (goOn p .stepHeader s)

/-- DSTOPRD_WRITE (R305): entries free, waiting records enter. -/
def execDstoprdWrite (p v : Nat) (s : State) : Host.Outcome State Fault Refusal :=
  .next (s.updPart p (fun x => State.drainStops (x.wr 0xA0D0 (BitVec.ofNat 32 v)) x.stopWait))

/-! ### Sampling is switched on (R302, R315) -/

/-- SEN_WRITE (R302, R315): a write of 0xA000. -/
def execSenWrite (p v : Nat) (s : State) : Host.Outcome State Fault Refusal :=
  .next (match s.part? p with
    | none => s
    | some x =>
      let w := v % 2 ^ 29
      let slog := max 4 (fld w 4 4); let per := max 16 (fld w 8 16)
      let on := !(x.rd 0xA000).getLsbD 0 && w.testBit 0
      let x1 := x.wr 0xA000 (BitVec.ofNat 32 (bitIf (w.testBit 0) 0 + slog * 16 + per * 256 + fld w 24 5 * 2 ^ 24))
      if on then
        let x2 := { (x1.wr 0xA018 0#32) with sRing := (x1.rd64 0xA008 / 4096 % 2 ^ 40 * 4096, slog) }
        (partClusters x.cfg).foldl (fun (s : State) c => [2 * c, 2 * c + 1].foldl (fun (s : State) k =>
          s.setCore k { s.core k with cycles := 0, lastSlot := 95 }) s) (s.setPart p x2)
      else s.setPart p x1)

/-! ### The frozen memory system (R353) -/

/-- DFREEZE (R353): a write of 0xE30, ignored unless every strand of the partition is halted or absent. -/
def execDfreeze (p v : Nat) (s : State) : Host.Outcome State Fault Refusal :=
  .next (
    if s.strands.all (fun e => decide (ccBase ≤ e.1) || e.2.part != p || e.2.run == .halted)
    then s.updPart p (fun x => x.wr 0xE30 (BitVec.ofNat 32 (v % 2))) else s)

/-- One pending store as 0xD000 shows it: sector address, word mask, kind, context, core, operation, 16 words. -/
structure PendStore where
  pa : Nat
  mask : Nat
  kind : Nat
  ctx : Nat
  core : Nat
  op : Nat
  data : List Word
  deriving DecidableEq, Repr

/-- Words of a sector under a mask. -/
def maskedWords (mask : Nat) (f : Nat → Word) : List Word := (List.range 16).map (fun i => if mask.testBit i then f i else 0#32)

/-- Dirty sectors of a core's L1. -/
def pendL1 (s : State) (core : Nat) : List PendStore :=
  ((s.core core).l1.filter (fun e => e.2.dirty != 0#16)).map (fun e =>
    { pa := 64 * e.1, mask := e.2.dirty.toNat, kind := 0, ctx := e.2.ctx, core := core, op := 0,
      data := maskedWords e.2.dirty.toNat (fun i => e.2.data.getD i 0#32) })

/-- Dirty stash lines of a core, by sector. -/
def pendStash (s : State) (core : Nat) : List PendStore :=
  (s.core core).stash.flatMap (fun m =>
    match s.weave? m.weave with
    | none => []
    | some w => m.dirty.flatMap (fun d => (List.range 4).filterMap (fun q =>
        let mask := fld d.2.toNat (16 * q) 16
        let off := m.off + 256 * d.1 + 64 * q
        if mask = 0 then none else
        some ({ pa := m.page + 256 * d.1 + 64 * q, mask := mask, kind := 1, ctx := w.ctx, core := core, op := 0,
                data := maskedWords mask (fun i => BitVec.ofNat 32 (natOf ((List.range 4).map (fun j => AMap.get w.scr (off + 4 * i + j) 0#8)))) } : PendStore))))

/-- Partials of a cluster's combining buffer, by sector, operation and context. -/
def pendComb (s : State) (c : Nat) : List PendStore :=
  (s.clu c).comb.flatMap (fun l =>
    let ctx := fun (x : Nat × Nat × Nat) => AMap.get l.ctxs x.1 0
    let keys := (l.words.map (fun x => (x.1 / 64, x.2.1, ctx x))).eraseDups
    keys.map (fun k =>
      let ws := l.words.filter (fun x => x.1 / 64 == k.1 && x.2.1 == k.2.1 && ctx x == k.2.2)
      let word := fun (i : Nat) => (ws.findSome? (fun x =>
        if x.1 / 4 % 16 = i then some (BitVec.ofNat 32 x.2.2) else if atomSize x.2.1 = 8 ∧ x.1 / 4 % 16 + 1 = i then some (BitVec.ofNat 32 (x.2.2 / 2 ^ 32)) else none))
      let mask := ((List.range 16).map (fun i => bitIf (word i).isSome i)).sum
      { pa := 64 * k.1, mask := mask, kind := 2, ctx := k.2.2, core := 2 * c, op := k.2.1 % 16, data := maskedWords mask (fun i => (word i).getD 0#32) }))

/-- The stores pending in a partition. -/
def pendingStores (s : State) (p : Nat) : List PendStore :=
  match s.part? p with
  | none => []
  | some x => (partClusters x.cfg).flatMap (fun c => [2 * c, 2 * c + 1].flatMap (fun k => pendStash s k ++ pendL1 s k) ++ pendComb s c)

/-- Word i of the view of one pending store. -/
def pendWord (e : PendStore) (i : Nat) : Word :=
  let hi := e.mask + e.kind * 2 ^ 16 + e.ctx * 2 ^ 18 + e.core * 2 ^ 22 + (if e.kind = 2 then e.op else 0) * 2 ^ 30
  if i = 0 then BitVec.ofNat 32 e.pa else if i = 1 then BitVec.ofNat 32 (e.pa / 2 ^ 32)
  else if i = 2 then BitVec.ofNat 32 hi else if i = 3 then BitVec.ofNat 32 (hi / 2 ^ 32)
  else if 16 ≤ i then e.data.getD (i - 16) 0#32 else 0#32

/-- PENDCNT and the entry at 0xD000 that PENDIDX selects, while frozen. -/
def pendRead (s : State) (p off : Nat) : Word :=
  if s.frozenAt p = false then 0#32 else
  let es := pendingStores s p
  if off = 0xE34 then BitVec.ofNat 32 es.length
  else match es[fld (s.csr p 0xE38).toNat 0 16]? with
    | some e => pendWord e ((off - 0xD000) / 4)
    | none => 0#32

end Sys2Proof.Machine
end

