-- ==== Sys2Proof/Machine/Boot.lean ====
section
/-!
DEFINITION. Power, boot and resets: cold boot, warm reset, partition reset, function-level reset, power loss
(spec/14 R286 to R289, spec/15 R292 to R294, R297, spec/21 R362 to R364, R366, R367).
-/
namespace Sys2Proof.Machine
open Sys2Proof

/-- A partition whose every register is at its reset value (R292). -/
def newPart (c : PartRec) : Part :=
  { cfg := c, csr := [], queues := [], havePrev := false, prevS := 0, prevA := 0, anchor := 0, lastDec := none, knobSw := [],
    knobAct := none, pwr := (csrReset c 0x8000, csrReset c 0x8008), slewPtr := 127,
    meas := { start := 0, etot := 0, ecomp := 0, emem := 0, hi := 0, waitN := 0, wait := 0, thru := [], latN := [], lat := [], strands := [],
              live := [], util := { bytes := 0, cycles := 0, issued := [] } },
    adm := [], reAnchor := 0, hmSeq := 0, hmEnd := 0, hmFirst := none, rem := [],
    ctxEnd := [], failed := [], degr := false, attr := none, saved := [], noAdmit := [], stopWait := [], heldBlocks := [],
    children := 0, sRing := (0, 4), tRing := (0, 6), spun := 0, used := [], utilB := { bytes := 0, cycles := 0, issued := [] } }

/-- MSTAT bits 3 to 0 as the sources stand (R360). -/
def mstatSources (p : Part) : Part :=
  (List.range 4).foldl (fun (p : Part) b => p.setBit 0x8028 b (p.failed.any (fun f => f.1 == b))) p

/-- A partition back at reset, with what the always-on island holds (R286, R367 step 4): meters, SEQ, remainders, the time of
the last hallmark; failed sources stay failed.  Save areas in memory stand as they were, and can be restored (R335); what its utilisation
has counted goes on. -/
def islandKept (old : Part) : Part :=
  let p := { newPart old.cfg with hmSeq := old.hmSeq, hmEnd := old.hmEnd, hmFirst := old.hmFirst, rem := old.rem, failed := old.failed,
                                  degr := old.degr, saved := old.saved.map (fun v => { v with out := false }),
                                  spun := old.spun, used := old.used, utilB := old.utilB }
  mstatSources ((meterWords old).foldl (fun (p : Part) e => p.wr e.1 e.2) p)

/-! ### Cold boot (R287, R288, R292 to R294, R362 to R364) -/

/-- A GSEQ or GTIME that marks a gap of unknown size (R362). -/
def allOnes64 : Nat := 2 ^ 64 - 1

/-- A partition of the record, its meters resumed from the anchor (R287, R362); one that a valid anchor does not name has nothing
before it (log 13). -/
def bootPart (a : Option Anchor) (c : PartRec) : Part :=
  match a with
  | none => { newPart c with hmFirst := some (allOnes64, allOnes64) }
  | some a =>
    match a.parts.find? (fun x => x.part == c.p) with
    | some x => { x.meters.foldl (fun (p : Part) e => p.wr e.1 e.2) (newPart c) with
        hmSeq := x.seq, rem := x.rem, hmFirst := some (x.seq, x.tend) }
    | none => { newPart c with hmFirst := some (0, 0) }

/-- Two partitions of a record share nothing: no router position on a die of both, no LPDDR6 channel (R292, R294). -/
def apart (c d : PartRec) : Bool :=
  c.p != d.p && c.lpmask &&& d.lpmask == 0
    && (c.dies &&& d.dies == 0 || decide (c.x1 < d.x0) || decide (d.x1 < c.x0) || decide (c.y1 < d.y0) || decide (d.y1 < c.y0))

/-- A partition's own geometry is one (R292, R294). -/
def geomOk (c : PartRec) : Bool :=
  decide (c.p < 8) && decide (0 < c.dies) && decide (c.dies < 16) && decide (c.x0 ≤ c.x1) && decide (c.x1 < 8) && decide (c.y0 ≤ c.y1)
    && decide (c.y1 < 4) && decide (c.ioshare < 256) && decide (c.lpmask < 2 ^ 48)

/-- Every pair of partitions is apart. -/
def allApart : List PartRec → Bool
  | [] => true
  | c :: cs => cs.all (apart c) && allApart cs

/-- A layout that R292 to R294 allow; of a signed record that holds another, no partition is taken (log 13). -/
def layoutOk (ps : List PartRec) : Bool := ps.all geomOk && allApart ps && decide ((ps.map (·.ioshare)).sum ≤ 256)

/-- BOOTSTAT (R363). -/
def bootStat (r : BootRec) (anchor : Bool) : Word :=
  BitVec.ofNat 32 (bitIf (r.fwSig % 4 == 0) 0 + bitIf (r.cfgSig % 4 == 0) 1 + bitIf r.idOk 2 + bitIf anchor 3 + r.fwSig % 4 * 16 + r.cfgSig % 4 * 64)

/-- What survives the loss of supply: module flash and the cold-boot count; the plan and the free values are the model's own. -/
def powerLoss (s : State) : State :=
  { State.reset with flash0 := s.flash0, flash1 := s.flash1, boot := s.boot, plan := s.plan, free := s.free }

/-- Firmware and record verify, and the record's layout is one (R288, R292). -/
def bootOk (r : BootRec) : Bool := r.fwSig % 4 == 0 && r.cfgSig % 4 == 0 && layoutOk r.parts

/-- The part with the record of a boot, its meters resumed from anchor a (R287, R288, R362 to R364). -/
def bootWith (r : BootRec) (a : Option Anchor) (s : State) : State :=
  let ps := if bootOk r then r.parts.foldl (fun (m : AMap Part) c => AMap.put m c.p (bootPart a c)) [] else []
  ({ s with
    calib := if bootOk r then r.calib else s.calib, fwDigest := r.fwDigest, cfgDigest := r.cfgDigest, image := none,
    lost := (match a with | some a => a.parts.filter (fun x => (AMap.look ps x.part).isNone) | none => []), parts := ps }).setWin 0x10
      (bootStat r a.isSome)

/-- COLD_BOOT (R287, R288, R362 to R364). -/
def execColdBoot (r : BootRec) (s : State) : Host.Outcome State Fault Refusal :=
  let s := powerLoss s
  let a := newestAnchor s
  .next (bootWith r a { s with
    boot := if a.isSome then s.boot + 1 else 1, house := (a.map (fun (x : Anchor) => x.house)).getD 0, pkg := (a.map (fun (x : Anchor) => x.pkg)).getD 0,
    houseRem := (a.map (fun (x : Anchor) => x.houseRem)).getD [] })

/-- While FWOK is 0 the host writes a new image through the window (R364): it waits for the warm reset that verifies it. -/
def newImage (r : BootRec) (s : State) : State := if (s.win 0x10).getLsbD 0 then s else { s with image := some r }

/-- COLD_POWER_LOSS (R287). -/
def execColdPowerLoss (s : State) : Host.Outcome State Fault Refusal := .next (powerLoss s)

/-- ORDERLY_SHUTDOWN (R287): an anchor, then the supply goes. -/
def execOrderlyShutdown (s : State) : Host.Outcome State Fault Refusal := .next (powerLoss (writeAnchor s))

/-- What a warm reset leaves: everything outside the always-on island starts again (R286, R368). -/
def warmState (s : State) : State :=
  { powerLoss s with
    time := s.time, bound := s.bound, mem := s.mem, poison := s.poison, linkUp := s.linkUp, house := s.house, pkg := s.pkg,
    houseRem := s.houseRem, calib := s.calib, fwDigest := s.fwDigest, cfgDigest := s.cfgDigest, lost := s.lost, anchorDue := s.anchorDue,
    nextKey := s.nextKey,
    window := s.window.filter (fun e => e.1 == 0x10 || e.1 == 0x18 || e.1 == 0x1C),
    parts := s.parts.map (fun e => (e.1, islandKept e.2)) }

/-- The anchor that a boot without firmware has found, as its shares still stand (R364). -/
def heldAnchor (s : State) : Option Anchor :=
  if (s.win 0x10).getLsbD 3 then (newestAnchor s).map (fun a => { a with parts := s.lost }) else none

/-- WARM_RESET (R286, R368): everything outside the always-on island; device time runs on, HOSTEPOCH and BOOTSTAT stand
(log 43).  After a boot without firmware it verifies the image that the host has written, and takes its record (R364). -/
def execWarmReset (s : State) : Host.Outcome State Fault Refusal :=
  .next (match (if (s.win 0x10).getLsbD 0 then none else s.image) with
    | some r => bootWith r (heldAnchor s) (warmState s)
    | none => warmState s)

/-! ### Partition reset (R366, R367) -/

/-- PRST (R366): BUSY in [15:8]. -/
def prstBusy (s : State) (p : Nat) : Bool := (s.win 0x20).getLsbD (8 + p)
def setPrst (s : State) (p : Nat) (b : Bool) : State :=
  let w := (s.win 0x20).toNat
  s.setWin 0x20 (BitVec.ofNat 32 (w - bitIf (w.testBit (8 + p)) (8 + p) + bitIf b (8 + p)))

/-- Step 1 of a partition reset: every queue stops. -/
def prstBegin (s : State) (p : Nat) : State :=
  if prstBusy s p || (s.part? p).isNone then s else (setPrst s p true).updPart p (fun x => { x with noAdmit := List.range 16 })

/-- Every context of a partition stopped (R367 step 2, R336). -/
def stopAll (s : State) (p : Nat) : State := (List.range 16).foldl (fun (s : State) c => s.stopContext p c) s

/-- A partition reset under way can be finished: no packet is in progress, and nothing that it writes must wait (R367, R111). -/
def prstReady (s : State) (p : Nat) : Bool :=
  prstBusy s p && (List.range 16).all (fun c => s.contextReady p c && (stopAll s p).opsDone p c) && (List.range 16).all (fun c => !endWaits (stopAll s p) p c 4)

/-- Steps 2 to 5 (R367). -/
def prstFinish (s : State) (p : Nat) : State :=
  if prstReady s p then
    let s := (List.range 16).foldl (fun (s : State) c => endContext s p c 4) (stopAll s p)
    let s := (s.publish p).sliceDrop p
    let s := match s.part? p with
      | some x =>
        let out := (s.l2.lines.filter (fun (e : Nat × L2Line) => e.2.part == p)).foldl
          (fun (m : L2) (e : Nat × L2Line) => m.evict (s.asker p x e.2.ctx) e.1) s.l2
        { s with l2 := out }
      | none => s
    let s := s.updPart p islandKept
    let s := s.dropTlb (fun z => z / 2 ^ 40 == p)
    let s := { s with
      cores := s.cores.map (fun (e : Nat × Cor) =>
        if s.ownerOf (e.1 / 2) = some p then (e.1, { e.2 with lastCtx := none, cc := [], tlb := [], cycles := 0, lastSlot := 95, arb := [] }) else e),
      clus := s.clus.map (fun (e : Nat × Clu) => if s.ownerOf e.1 = some p then (e.1, { e.2 with tlb := [], ro := [], pred := [] }) else e) }
    let s := { s with strands := s.strands.filter (fun e => !(decide (ccBase + 8 * p ≤ e.1) && decide (e.1 < ccBase + 8 * p + 8))) }
    setPrst s p false
  else s

/-- PRST_GO (R366, R367): a write of PRST; resets that waited for a prologue go on. -/
def execPrstGo (v : Nat) (s : State) : Host.Outcome State Fault Refusal :=
  let s := (List.range 8).foldl (fun (s : State) p => if v.testBit p then prstBegin s p else s) s
  .next ((List.range 8).foldl prstFinish s)

/-- FUNCTION_LEVEL_RESET (R297, R366, R368): functions 1 to 8 reset their partition, function 0 only its CXL.io state. -/
def execFunctionLevelReset (fn : Nat) (s : State) : Host.Outcome State Fault Refusal :=
  if fn = 0 ∨ 8 < fn then .next s else execPrstGo (2 ^ (fn - 1)) s

end Sys2Proof.Machine
end

