-- ==== Sys2Proof/Machine/Link.lean ====
section
/-!
DEFINITION. The host link, peers, poison and errors: CXL.mem and UIO accesses, link events, sensors, ECC
(spec/15 R298 to R300, spec/20 R344 to R346, R348, spec/21 R360, R361, R365).
-/
namespace Sys2Proof.Machine
open Sys2Proof

/-- A kind-7 entry in the non-fatal log of partition p (R354, R365). -/
def logLink (s : State) (p cause : Nat) : State := s.updPart p (fun x => x.logNf 7 0 0 0 cause)

/-- LINK_DOWN (R365). -/
def execLinkDown (s : State) : Host.Outcome State Fault Refusal :=
  .next (if s.linkUp then (s.parts.map (·.1)).foldl (fun s p => logLink s p 1) { s with linkUp := false } else s)

/-- LINK_UP (R365). -/
def execLinkUp (s : State) : Host.Outcome State Fault Refusal := .next { s with linkUp := true }

/-- An address that the HDM decoder of some partition's function covers: its own near DRAM or LPDDR6 (R297). -/
def hdm (s : State) (a : Nat) : Bool := physOk a && !isSys a && s.parts.any (fun e => ownsPa e.2.cfg a)

/-- An access at the home slice by an agent of system scope (R298, R300): 0 a read, 1 a write, 2 + OPC a read-modify-write of
R224, a compare-and-swap with its new value above the size bits. An access of which a byte lies under no decoder is none (R297). It waits while the link is down,
and while a serial transaction holds the sector. -/
def homeAccess (s : State) (wr a size v : Nat) : State :=
  if s.linkUp = false ∨ size = 0 ∨ !(List.range size).all (fun i => hdm s (a + i)) ∨ s.serialMeets 1000001 a size (wr != 0) then s else
  let s := (State.sectorsOf a size).foldl (fun (s : State) b => (s.combine b).doom 1000001 b (wr != 0)) s
  if wr = 0 then s
  else if wr = 1 then s.homeStore a (bytesOf v size)
  else
    let n := atomSize (wr - 2)
    if (List.range (n / 4)).any (fun i => s.isPoison (a + 4 * i)) then s
    else s.homeStore a (bytesOf (atomOp (wr - 2) (s.homeRead a n) (v % 2 ^ (8 * n)) (v / 2 ^ (8 * n) % 2 ^ (8 * n))) n)

/-- HOST_CXL_MEM_ACCESS (R298). -/
def execHostCxlAccess (wr a size v : Nat) (s : State) : Host.Outcome State Fault Refusal := .next (homeAccess s (min wr 1) a size v)
/-- PEER_UIO_REQUEST (R300). -/
def execPeerUio (wr a size v : Nat) (s : State) : Host.Outcome State Fault Refusal := .next (homeAccess s wr a size v)

/-- The elements of an operation that came from the lanes of a failed access are 0 (R345). -/
def poisonLands (o : Op) : List Land :=
  let bad := fun (d : Dst) => match d with | .s _ => true | .v _ l => o.sys.any (fun x => x.1 == l)
  o.lands.map (fun x => if bad x.dst && !x.done then { x with val := 0#32 } else x)

/-- The oldest operation of a path of strand k, an access to system space, completes as poison (R365, R345). -/
def completePoison (s : State) (k path cause : Nat) : State :=
  match s.oldest k (pathOf path) with
  | none => s
  | some (t, o) =>
    match o.sys with
    | [] => s
    | x :: _ =>
      let lanes := if o.lands.any (fun l => match l.dst with | .s _ => true | .v _ _ => false) then 0#128 else maskOfLanes (o.sys.map (·.1))
      let o' := { o with lands := poisonLands o, err := o.err.orElse (fun _ => some { code := 0x15, sub := 7, arg := x.2, lanes := lanes }) }
      let t' := { t with ops := t.ops.map (fun y => if y.id = o.id then o' else y) }
      (logLink (s.setStrand k t') t.part cause).completeOp k (pathOf path)

/-- An access of lane ln's agent at va is to system space. -/
def frontSys (s : State) (ln va : Nat) (use : State.Use) : Bool :=
  let t := s.laneAgent ln
  match s.xlate t.part t.ctx t.core va t.priv use with | .ok e => isSys (State.physOf e va) | .error _ => false

/-- The word in system space that the front end reads next for lane ln, if there is one: of its prologue, of its head packet, of the
signal that this packet waits for, or of the descriptor that it launches (R356, R365). -/
def frontReads (s : State) (ln : Nat) : Option Nat :=
  if (s.queue ln).phase = .prologue then
    (match s.strand? (ccBase + ln) with
      | some t => if frontSys s ln t.itemAddr.toNat .fetch then some t.itemAddr.toNat else none
      | none => none)
  else if s.mayStart ln = false then none
  else if frontSys s ln (s.packetAddr ln (s.qrd ln)) .read then some (s.packetAddr ln (s.qrd ln))
  else match s.headPacket ln with
    | .ok (k, s1) => if (k.type = 2 ∨ k.type = 4) ∧ s1.barHolds ln k = false ∧ frontSys s ln k.a .read then some k.a else none
    | .error _ => none

/-- A word that the front end reads completes as poison, its queue stopping with CODE 9; with path 2 the oldest COPY's first chunk from
system space, an error of that copy (R345, R356, R357, R365). -/
def frontPoison (s : State) (ln path cause : Nat) : State :=
  if path = 2 then
    match (s.queue ln).copies with
    | [] => s
    | (_, src, _, n, done) :: _ =>
      match (copyRest n done).find? (fun i => frontSys s ln ((src + 16 * i) % 2 ^ 64) .read) with
      | none => s
      | some i => (copyEnd (logLink s (ln / 8) cause) ln [i] (some { code := 0x15, sub := 7, arg := (src + 16 * i) % 2 ^ 64 })).getD s
  else match frontReads s ln with
    | some a => (logLink s (ln / 8) cause).qFault ln 9 a
    | none => s

/-- The oldest access of a strand on a path completes as poison, or, of key ccBase + ln, one of the front end's for lane ln (R365): of a
prologue its own loads first. -/
def poisonIn (s : State) (k path cause : Nat) : State :=
  if ccBase ≤ k ∧ (s.oldest k (pathOf path)).isNone then frontPoison s (k - ccBase) path cause else completePoison s k path cause

/-- COMPLETION_TIMEOUT (R365). -/
def execCompletionTimeout (k path : Nat) (s : State) : Host.Outcome State Fault Refusal := .next (poisonIn s k path 2)
/-- POISON_RECEIVED (R365). -/
def execPoisonReceived (k path : Nat) (s : State) : Host.Outcome State Fault Refusal := .next (poisonIn s k path 3)

/-- SENSOR_FAULT (R354, R360, R361): source idx of MSTAT bit `bit` fails or recovers. -/
def execSensorFault (p bit idx bad : Nat) (s : State) : Host.Outcome State Fault Refusal :=
  .next (
    if 3 < bit then s else
    s.updPart p (fun x =>
      let rest := x.failed.filter (· != (bit, idx))
      let x := mstatSources { x with failed := if bad % 2 = 1 then rest ++ [(bit, idx)] else rest, degr := x.degr || bad % 2 == 1 }
      x.logNf 5 0 0 0 (bit + idx % 65536 * 256)))

/-! ### Error correction (R344, R346, R348) -/

/-- Poison created at a level, with its log entry (R348 kind 2). -/
def poisonMade (s : State) (p ctx core slot level addr : Nat) : State := s.updPart p (fun x => x.logMe 2 ctx core slot level addr)

/-- A word of a core's L1 is in an uncorrectable 64 bits: fetched again from the home, its poison with it, when clean; poisoned when
dirty (R344). -/
def eccL1Word (core sec : Nat) (s : State) (i : Nat) : State :=
  match AMap.look (s.core core).l1 sec with
  | none => s
  | some x =>
    if x.dirty.getLsbD i then
      let s := s.setCore core { s.core core with l1 := AMap.put (s.core core).l1 sec { x with poison := x.poison ||| (1#16 <<< i) } }
      match s.ownerOf (core / 2) with | some p => poisonMade s p x.ctx core 0 3 (64 * sec + 4 * i) | none => s
    else
      let h := s.sectorOfHome core (64 * sec) x.coh x.ctx
      let bad := if h.poison.getLsbD i then x.poison ||| (1#16 <<< i) else x.poison &&& ~~~ (1#16 <<< i)
      s.setCore core { s.core core with l1 := AMap.put (s.core core).l1 sec { x with data := x.data.set i (h.data.getD i 0#32), poison := bad } }

/-- An uncorrectable 64 bits of a core's L1 (R344): dropped with its sector when that is clean, else word by word. -/
def eccL1 (s : State) (core pa : Nat) : State :=
  let c := s.core core
  match AMap.look c.l1 (pa / 64) with
  | none => s
  | some x =>
    if x.dirty = 0#16 then s.setCore core { c with l1 := AMap.del c.l1 (pa / 64) }
    else
      let i := pa / 8 * 2 % 16
      [i, i + 1].foldl (eccL1Word core (pa / 64)) (s.homePrep core pa x.coh x.ctx)

/-- The words of the 64 bits at pa that a partition's L2 holds dirty: its copy of them is the only one (R84, R344). -/
def l2Only (s : State) (part pa : Nat) : List Nat :=
  match AMap.look s.l2.lines (L2.key part (pa / 256)) with
  | some l => [pa / 8 * 8, pa / 8 * 8 + 4].filter (fun a => L2.dirtyWord l (a / 4 % 64))
  | none => []

/-- Words poisoned at a level (R344, R348). -/
def poisonWords (lvl part ctx : Nat) (ws : List Nat) (s : State) : State :=
  ws.foldl (fun (s : State) a => poisonMade (s.setPoison a) part ctx 0 0 lvl a) s

/-- A line leaves a partition's L2. -/
def State.l2Drop (s : State) (part line : Nat) : State :=
  match s.part? part with
  | some p => { s with l2 := s.l2.evict (s.asker part p (((AMap.look s.l2.lines (L2.key part line)).map (·.ctx)).getD 0)) (L2.key part line) }
  | none => s

/-- An uncorrectable 64 bits in memory (R344): its words are poisoned, but for those that the L2 holds dirty; a clean line of the L2
over it is taken to have left (log 17). -/
def eccDram (s : State) (part pa : Nat) : State :=
  let only := l2Only s part pa
  let s := if only.isEmpty then s.l2Drop part (pa / 256) else s
  poisonWords 6 part 0 ([pa / 8 * 8, pa / 8 * 8 + 4].filter (fun a => !only.contains a)) s

/-- The partition whose counters an error at a level belongs to (log 44). -/
def eccPart (s : State) (lvl k : Nat) : Nat :=
  match lvl with
  | 0 => ((s.strand? k).map (·.part)).getD 8
  | 1 => ((s.strand? k).map (·.part)).getD 8
  | 2 => ((s.weave? k).map (·.part)).getD 8
  | 3 => (s.ownerOf (k / 2)).getD 8
  | 4 => (s.ownerOf (k / 2)).getD 8
  | _ => k

/-- The effect of an uncorrectable error (R344). -/
def eccEffect (s : State) (lvl k a b : Nat) : State :=
  match lvl with
  | 0 => s.updStrand k (fun t => { t with bad := if t.bad.contains a then t.bad else t.bad ++ [a] })
  | 1 =>
    let e := 512 + 128 * a + b % 128
    s.updStrand k (fun t => { t with bad := if t.bad.contains e then t.bad else t.bad ++ [e] })
  | 2 =>
    match s.weave? k with
    | none => s
    | some w =>
      let s := s.setWeave k { w with scrPoison := if w.scrPoison.contains (a / 4) then w.scrPoison else w.scrPoison ++ [a / 4] }
      poisonMade s w.part w.ctx w.home 0 2 (a / 4 * 4)
  | 3 => eccL1 s k a
  | 4 => let c := s.core k; s.setCore k { c with cc := AMap.del c.cc (a / 16) }
  | 5 => poisonWords 5 k (((AMap.look s.l2.lines (L2.key k (a / 256))).map (·.ctx)).getD 0) (l2Only s k a) s
  | 6 => eccDram s k a
  | _ => s

/-- ECC_ERROR (R344): counted, and where it is uncorrectable, its effect. `k` names the strand, weave, core or partition of
the level, `a` the register, scratch offset or physical address, `b` the lane. -/
def execEccError (lvl k a b fixed : Nat) (s : State) : Host.Outcome State Fault Refusal :=
  .next (
    if 6 < lvl then s else
    let s := s.updPart (eccPart s lvl k) (fun x => x.bump ((if fixed % 2 = 1 then 0xE40 else 0xE60) + 4 * lvl))
    if fixed % 2 = 1 then s else eccEffect s lvl k a b)

end Sys2Proof.Machine
end

