-- ==== Sys2Proof/Machine/Regs.lean ====
section
/-!
DEFINITION. Reading and writing control registers: the partition control block and the management and debug window, 64-bit
registers, reserved bits, and the behaviour each write has (spec/00 R3, spec/01 R26, spec/03 R75, R90, spec/06 R185, spec/11
R243, spec/12 R269, spec/14 R278, R284, spec/15 R294, R299, spec/16 R302, spec/19 R322, R331, R332, spec/20 R343, R349, R353,
spec/21 R355, R360, R363 to R368).
-/
namespace Sys2Proof.Machine
open Sys2Proof

/-- Offsets of the 64-bit registers of the control block (R185). -/
def is64 (off : Nat) : Bool :=
  let b := off / 8 * 8
  (decide (0x200 ≤ b) && decide (b < 0x280)) || b == 0x400 || b == 0x410
  || (decide (0x800 ≤ b) && decide (b < 0xA00) && (b % 0x40 == 0 || b % 0x40 == 0x20))
  || (decide (0xC00 ≤ b) && decide (b < 0xE00)) || b == 0xE08 || b == 0xE10
  || (decide (0x4100 ≤ b) && decide (b < 0x4180)) || b == 0x8010 || b == 0x8100 || b == 0x8108 || b == 0x8110
  || (decide (0x8120 ≤ b) && decide (b < 0x81A8)) || b == 0xA008 || b == 0xA048 || b == 0xA050 || b == 0xA068
  || (decide (0xA100 ≤ b) && decide (b < 0xA1C0) && b % 16 == 8) || (decide (0xB000 ≤ b) && decide (b < 0xB800))

/-- Offsets of the 64-bit registers of the window that software writes (R299, R368). -/
def winIs64 (off : Nat) : Bool := off / 8 * 8 == 0x18 || (decide (0x300 ≤ off) && decide (off < 0x400))

/-- Written bits of a 64-bit register that keeps what is written (R3): none for a read-only one. -/
def mask64 (b : Nat) : Nat :=
  let page := 0x000FFFFFFFFFF000
  let all := 2 ^ 64 - 1
  if 0x200 ≤ b ∧ b < 0x280 then page + 1
  else if b = 0x400 then 0x0000FFFFFFFFF000
  else if b = 0x410 then all
  else if 0x800 ≤ b ∧ b < 0xA00 then (if b % 0x40 = 0 then 0x0000FFFFFFFFFFC0 else 0)
  else if 0xC00 ≤ b ∧ b < 0xE00 then
    (match b % 32 with | 0 => all - 3 | 8 => all - 63 | 16 => all | _ => page + 1)
  else if b = 0xE08 ∨ b = 0x8010 ∨ b = 0xA008 ∨ b = 0xA068 then page
  else if b = 0xA048 ∨ b = 0xA050 ∨ (0xA100 ≤ b ∧ b < 0xA1C0) ∨ (0xB000 ≤ b ∧ b < 0xB800) then all
  else 0

/-- Written bits of a 32-bit register that keeps what is written and has no behaviour of its own (R3). -/
def mask32 (off : Nat) : Nat :=
  if off = 0x408 ∨ off = 0xE1C ∨ off = 0xA014 ∨ off = 0xA064 ∨ off = 0xA0C8 then 2 ^ 32 - 1
  else if 0x600 ≤ off ∧ off < 0x680 ∧ off % 8 = 0 then 0xFFFFFF
  else if off = 0xE38 then 0xFFFF
  else if off = 0x8008 then 0xFFFF
  else if off = 0xA040 then 0xFFFF001F
  else if off = 0xA070 then 0x1F
  else if off = 0xA0C0 then 1
  else if 0xA100 ≤ off ∧ off < 0xA180 ∧ off % 16 = 0 then 0x7F
  else if 0xA180 ≤ off ∧ off < 0xA1C0 ∧ off % 16 = 0 then 0x1FFF
  else 0

/-- A register of the attribute-transition engine that a run keeps (R343). -/
def attrReg (off : Nat) : Bool := decide (0x400 ≤ off) && decide (off < 0x418)

namespace State

/-- The value a read of a control word obtains (R185, R353). -/
def csrRead (s : State) (p off : Nat) : Word :=
  if off = 0xE34 ∨ (0xD000 ≤ off ∧ off < 0xD080) then pendRead s p off else s.csr p off

/-- A 64-bit register takes a combined value. -/
def csrPut64 (s : State) (p b v : Nat) : State :=
  if attrReg b && (match s.part? p with | some x => x.attr.isSome | none => false) then s.updPart p (fun x => x.setBit 0x418 3 true)
  else if 0x4100 ≤ b ∧ b < 0x4180 then (s.decideFirst p).updPart p (fun x => actionWrite x b v)
  else if mask64 b = 0 then s
  else s.updPart p (fun x => x.wr64 b (v &&& mask64 b))

/-- QCTL: LOG2SIZE below 4 is stored as 4, above 16 as 16 (R243). -/
def qctl (v : Nat) : Nat := v % 64 + max 4 (min 16 (fld v 6 5)) * 64

/-- A write of a 32-bit register (R185). -/
def csrPut32 (s : State) (p off v : Nat) : State :=
  let lane := 8 * p + (off - 0x800) / 0x40
  if off = 0x40C then stateOr s (execAttrGo p v s)
  else if off = 0x408 && (match s.part? p with | some x => x.attr.isSome | none => false) then s.updPart p (fun x => x.setBit 0x418 3 true)
  else if 0x600 ≤ off ∧ off < 0x680 ∧ off % 8 = 4 then (if v.testBit 31 then stateOr s (execPinClr p ((off - 0x600) / 8) s) else s)
  else if 0x800 ≤ off ∧ off < 0xA00 then
    (match off % 0x40 with
     | 0x08 => s.setQreg lane 8 (qctl v)
     | 0x10 => stateOr s (execQwrWrite lane v s)
     | 0x18 =>
       if v.testBit 16 && !v.testBit 17 then stateOr s (execSkip lane s)
       else if v.testBit 17 && !v.testBit 16 then stateOr s (execRetry lane s) else s
     | _ => s)
  else if off = 0xE00 then contextWrite p v s
  else if off = 0xE18 then s.updPart p (fun x => x.wr off (x.rd off &&& ~~~ (BitVec.ofNat 32 (v % 65536))))
  else if off = 0xE30 then stateOr s (execDfreeze p v s)
  else if off = 0x4000 then stateOr s (execLcfgWrite p v s)
  else if off = 0x4004 then stateOr s (execLcfg2Write p v s)
  else if 0x4880 ≤ off ∧ off < 0x498C then stateOr s (execKnobWrite p ((off - 0x4880) / 4) v s)
  else if 0x4000 ≤ off ∧ off < 0x8000 then (s.decideFirst p).updPart p (fun x => learnerWrite x off v)
  else if off = 0x8000 then
    s.updPart p (fun x => x.wr off (BitVec.ofNat 32 (v % 65536 + max 1 (fld v 16 4) * 65536 + max 1 (fld v 20 8) * 1048576)))
  else if off = 0x8018 then
    s.updPart p (fun x => x.wr off (BitVec.ofNat 32 (max 100 (min 60000 (v % 65536)) + max 1 (min 12 (fld v 16 4)) * 65536 + fld v 20 1 * 1048576)))
  else if off = 0x8020 then stateOr s (execContextEndRequest p v s)
  else if off = 0x8028 then s.updPart p (fun x => x.wr off (x.rd off &&& ~~~ (BitVec.ofNat 32 (v % 64 / 16 * 16))))
  else if off = 0xA000 then stateOr s (execSenWrite p v s)
  else if off = 0xA060 then stateOr s (execTenWrite p v s)
  else if off = 0xA078 then stateOr s (execTrdWrite p v s)
  else if off = 0xA07C then (if v.testBit 0 then stateOr s (execTsync p s) else s)
  else if off = 0xA0C4 then
    (match v % 8 with
     | 1 => stateOr s (execHalt p s) | 2 => stateOr s (execResume p s) | 3 => stateOr s (execStepOne p s)
     | 4 => stateOr s (execStepHeader p s) | _ => s)
  else if off = 0xA0D0 then stateOr s (execDstoprdWrite p v s)
  else if mask32 off = 0 then s
  else s.updPart p (fun x => x.wr off (BitVec.ofNat 32 (v &&& mask32 off)))

/-- Key of a register of a partition in the window's latch. -/
def winKey (p off : Nat) : Nat := p * 65536 + off

/-- Latched low words of a register are gone once it takes a combined value (R185). -/
def dropLatch (s : State) (p b : Nat) : State :=
  { s with winLo := AMap.del s.winLo (winKey p b),
           strands := s.strands.map (fun e => if e.2.part = p then (e.1, { e.2 with csrLo := AMap.del e.2.csrLo b }) else e) }

/-- The low word latched for a register by a strand, or by the window (R185). -/
def latched (s : State) (who : Option Nat) (p b : Nat) : Option Word :=
  match who with
  | some k => (s.strand? k).bind (fun t => AMap.look t.csrLo b)
  | none => AMap.look s.winLo (winKey p b)

/-- A control word written by a strand, or through the window: a low word is latched, a high word combines (R185). -/
def csrWrite (s : State) (who : Option Nat) (p off : Nat) (v : Word) : State :=
  if is64 off = false then s.csrPut32 p off v.toNat
  else if off % 8 = 0 then
    match who with
    | some k => s.updStrand k (fun t => { t with csrLo := AMap.put t.csrLo off v })
    | none => { s with winLo := AMap.put s.winLo (winKey p off) v }
  else
    let b := off - 4
    let lo := (s.latched who p b).getD (s.csr p b)
    (s.csrPut64 p b (pair lo v).toNat).dropLatch p b

/-- A word of the management and debug window (R26, R283, R294, R299, R363, R365, R366, R368). -/
def winNow (s : State) (off : Nat) : Word :=
  if off = 0 then 0x0B024E53#32
  else if off = 4 then BitVec.ofNat 32 (Config.stepping + 3 * 2 ^ 8 + 0x20 * 2 ^ 16 + 8 * 2 ^ 24)
  else if off = 0x100 ∨ off = 0x104 then BitVec.ofNat 32 (s.house / 2 ^ (8 * (off - 0x100)))
  else if off = 0x108 ∨ off = 0x10C then BitVec.ofNat 32 (s.pkg / 2 ^ (8 * (off - 0x108)))
  else if 0x200 ≤ off ∧ off < 0x280 then
    (match s.part? ((off - 0x200) / 16) with | some x => geomWord x.cfg (off / 4 % 4) | none => 0#32)
  else s.win off

/-- A word of a control block, or of the window (partition 8), as the host reads it: a high word as the read of its low word latched
it (R185, R283). -/
def hostRead (s : State) (p off : Nat) : Word :=
  let now := if p = 8 then s.winNow off else s.csrRead p off
  if off % 8 = 4 then (AMap.look s.winHi (winKey p off)).getD now else now

/-- A word of the window as the host reads it (R283). -/
def winRead (s : State) (off : Nat) : Word := s.hostRead 8 off

/-- Pairs of words that are one register: those of the control block, the meters and 64-bit registers of the window (R185, R283). -/
def isPair (p off : Nat) : Bool := off % 8 == 0 && (if p = 8 then winIs64 off || off == 0x100 || off == 0x108 else is64 off)

/-- The host reads a low word: the high word is latched, and the read has no other effect (R368). -/
def winLatch (s : State) (k : Nat) : State :=
  if isPair (k / 65536) (k % 65536) then
    { s with winHi := AMap.put s.winHi (k + 4) (if k / 65536 = 8 then s.winNow (k % 65536 + 4) else s.csrRead (k / 65536) (k % 65536 + 4)) }
  else s

/-- A write of the window's own registers (R299, R366, R368). -/
def winWrite (s : State) (off : Nat) (v : Word) : State :=
  if off = 0x20 then stateOr s (execPrstGo (v.toNat % 256) s)
  else if winIs64 off = false then s
  else if off % 8 = 0 then { s with winLo := AMap.put s.winLo (winKey 8 off) v }
  else
    let b := off - 4
    let lo := (AMap.look s.winLo (winKey 8 b)).getD (s.win b)
    let m := if b = 0x18 then 2 ^ 64 - 1 else if b % 16 = 0 then 0x000FFFFFFFFFF001 else 0x000FFFFFFFFFF000
    let x := (pair lo v).toNat &&& m
    { ((s.setWin b (BitVec.ofNat 32 x)).setWin off (BitVec.ofNat 32 (x / 2 ^ 32))) with winLo := AMap.del s.winLo (winKey 8 b) }

end State

/-- REGISTER_WRITE (R185, R5): the host writes a control word of partition p, or, p = 8, of the window. -/
def execRegisterWrite (p off v : Nat) (s : State) : Host.Outcome State Fault Refusal :=
  .next (
    if off % 4 ≠ 0 then s
    else if p = 8 then s.winWrite off (BitVec.ofNat 32 v)
    else if p < 8 ∧ off < 65536 then s.csrWrite none p off (BitVec.ofNat 32 v) else s)

end Sys2Proof.Machine
end

