-- ==== Sys2Proof/Machine/Sys.lean ====
section
/-!
DEFINITION. Special registers, system words, WAITP and FENCE (spec/06 R173, R174, R183 to R185, spec/05 R144, spec/02 R53,
spec/03 R94 to R97, spec/19 R326).
-/
namespace Sys2Proof.Machine
open Sys2Proof

/-! ### WAITP, FENCE (R173, R174) -/

/-- WAITP's threshold (R173). -/
def waitpN (t : Strand) (i n : Nat) : Nat := if i = 1 then n else (t.getS n).toNat

/-- WAITP (R173): completes once the path's counter is at most n. -/
def execWaitp (path i n : Nat) (s : State) : Host.Outcome State Fault Refusal :=
  s.run (fun t => if t.count (pathOf path) ≤ waitpN t i n then s.finish t 1 else s.hold t .path)

/-- Earlier accesses a FENCE holds the strand for (R97): none for rel. -/
def fenceClear (t : Strand) (kind : Nat) : Bool :=
  match kind with
  | 1 => true
  | 3 => t.drained3 && t.count .st == 0
  | _ => t.drained3

/-- The maintenance of strand k's FENCE must wait for a serial transaction (R111). -/
def fenceWaits (s : State) (k : Nat) (t : Strand) (kind scope : Nat) : Bool :=
  (kind != 0 && s.releaseWaits k t scope) || (kind != 1 && s.acquireWaits k t scope)

/-- FENCE (R174, R94 to R97), with the maintenance of its scope; it waits for a serial transaction that holds what it writes back or
reads again (R111). -/
def execFence (kind scope : Nat) (s : State) : Host.Outcome State Fault Refusal :=
  s.run (fun t =>
    if fenceClear t kind = false || fenceWaits s s.cur t kind scope then s.hold t .path else
    let s1 := if kind = 0 then s else s.releaseAt s.cur t scope
    let s2 := if kind = 1 then s1 else s1.acquireAt s.cur t scope
    s2.finish t 1)

/-! ### Special registers (R144, R183) -/

/-- The value of special register y, and the strand after the read (clk.lo latches device time). -/
def sprRead (s : State) (t : Strand) (y : Nat) : Word × Strand :=
  if y < 4 then (maskW t.exec y, t)
  else if y < 8 then (maskW t.live (y - 4), t)
  else if 0x20 ≤ y then (t.loopReg ((y - 0x20) / 16) (y % 16), t)
  else match y with
    | 0x08 => (t.fmt, t)
    | 0x09 => (t.rot, t)
    | 0x0A => (t.stage.setWidth 32, t)
    | 0x0B => (t.region, t)
    | 0x0C => (t.status, t)
    | 0x0D => (t.txstat, t)
    | 0x10 => (BitVec.ofNat 32 s.time, { t with clk := BitVec.ofNat 64 s.time })
    | 0x11 => (hiW t.clk, t)
    | 0x12 => (BitVec.ofNat 32 t.sid, t)
    | 0x13 => (BitVec.ofNat 32 (((s.weave? t.weave).map (·.wid)).getD 0), t)
    | 0x14 => (BitVec.ofNat 32 t.part, t)
    | 0x15 => (BitVec.ofNat 32 t.ctx, t)
    | _ => (0#32, t)

/-- A mask with word w replaced. -/
def setMaskW (m : Mask) (w : Nat) (x : Word) : Mask :=
  quadMask (if w = 0 then x else maskW m 0) (if w = 1 then x else maskW m 1) (if w = 2 then x else maskW m 2) (if w = 3 then x else maskW m 3)

/-- A special register's write as the spin detector sees it (R54). -/
def Strand.noteSpr (t : Strand) (y : Nat) (v : Word) : Strand := { t with spin := { t.spin with log := t.spin.log ++ [(1024 + y, [v])] } }

/-- Special register y := v (R183, R3). -/
def sprWrite (t : Strand) (y : Nat) (v : Word) : Strand :=
  if y < 4 then { t with exec := setMaskW t.exec y (v &&& maskW t.live y) }
  else match y with
    | 0x08 => { t with fmt := v }
    | 0x09 => { t with rot := v &&& 0x7FFFFF#32 }
    | 0x0A => { t with stage := v.extractLsb' 0 8 }
    | 0x0B => t.setRegion (v &&& 0x3FF#32)
    | 0x0C => { t with status := t.status &&& ~~~ (v &&& 1#32) }
    | 0x0E => { t with lfsr := Strand.lfsrSeed v }
    | _ => t

/-- A special register that SSET may write (R144). -/
def sprWritable (y : Nat) : Bool := decide (y < 4) || (decide (8 ≤ y) && decide (y ≤ 0x0C)) || y == 0x0E

/-- SGET (R183). -/
def execSget (x y : Nat) (s : State) : Host.Outcome State Fault Refusal :=
  s.run (fun t => let r := sprRead s t y; s.finish (r.2.setS x r.1) 1)

/-- SSET (R183, R144). -/
def execSset (x y : Nat) (s : State) : Host.Outcome State Fault Refusal :=
  s.run (fun t =>
    if sprWritable y then s.finish ((sprWrite t y (t.getS x)).noteSpr y (t.getS x)) 1
    else s.raise t { code := 1, arg := s.wordAt t t.itemAddr })

/-! ### System words (R184) -/

/-- TRAP (R184, R328): the saved item is the next one. -/
def execTrap (code : Nat) (s : State) : Host.Outcome State Fault Refusal := s.run (fun t => s.raise t { code := 0x10, arg := code, next := true })

/-- BKPT (R184, R328). -/
def execBkpt (id : Nat) (s : State) : Host.Outcome State Fault Refusal := s.run (fun t => s.raise t { code := 0x11, arg := id, next := true })

/-- The frame that RFT reloads, as the strand reads it; none where it cannot be read. -/
def State.frameAt (s : State) (t : Strand) : Option (Nat → Word) :=
  match s.xlate t.part t.ctx t.core t.frame t.priv .read with
  | .error _ => none
  | .ok e =>
    let pa := State.physOf e t.frame
    let s := (List.range 8).foldl (fun (s : State) i => s.combine (pa + 256 * i)) s
    some (fun i => BitVec.ofNat 32 (s.coreRead t.core (pa + 4 * i) 4 e.coh))

/-- The frame cannot be read yet: its page is in an attribute transition (R90), or a serial transaction has written it (R111). -/
def State.frameWaits (s : State) (t : Strand) : Bool :=
  match s.xlate t.part t.ctx t.core t.frame t.priv .read with
  | .error .wait => true
  | .error _ => false
  | .ok e => s.serialMeets s.cur (State.physOf e t.frame) 2048 false

/-- What the read of the frame does: A is set, buffered copies are combined, transactions that have written it are doomed (R74, R99, R107). -/
def State.frameTaken (s : State) (t : Strand) : State :=
  match s.xlate t.part t.ctx t.core t.frame t.priv .read with
  | .error _ => s
  | .ok e => (State.sectorsOf (State.physOf e t.frame) 2048).foldl (fun (s : State) pa => (s.readPrep t.core pa e.coh t.ctx).doom s.cur pa false)
      (s.touch t.part t.ctx t.core t.frame false)

/-- RFT (R184, R326): back to the saved item, which passes the stop it made, and those that come before that one (R305, log 15); ILLEGAL outside a handler, and as a double fault for a frame it refuses. -/
def execRft (s : State) : Host.Outcome State Fault Refusal :=
  s.run (fun t =>
    let bad := s.raise t { code := 1, arg := s.wordAt t t.itemAddr }
    if t.hnd = false then bad
    else if t.drained3 = false || s.frameWaits t then s.hold t .path
    else match s.frameAt t with
      | none => bad
      | some f =>
        match s.reload { t with hnd := false } f with
        | some t' => .next ((s.frameTaken t).setCur { t' with
            pass := t'.pass || fld (f 0).toNat 0 16 == 0x111 || fld (f 0).toNat 0 8 == 0x12,
            passW := t'.passW || fld (f 0).toNat 0 8 == 0x12,
            held := t'.held.map (fun h => if h.path = .ld ∨ h.path = .sc ∨ h.path = .atm then { h with due := true } else h) })
        | none => bad)

/-- EXIT (R53, R184): the lanes of EXEC leave LIVE. -/
def execExit (s : State) : Host.Outcome State Fault Refusal :=
  s.run (fun t =>
    if t.live &&& ~~~ t.exec = 0#128 then .next (s.beginLeave s.cur t .retire)
    else s.finish { t with live := t.live &&& ~~~ t.exec, exec := 0#128 } 1)

/-- PROG (R184, R307): counted once, whatever EXEC holds. -/
def execProg (id : Nat) (s : State) : Host.Outcome State Fault Refusal :=
  s.run (fun t => (s.updPart t.part (fun p => p.wr64 (0xB000 + 8 * id) ((p.rd64 (0xB000 + 8 * id) + 1) % 2 ^ 64))).finish t 1)

/-- The checks of CSRR and CSRW (R149, R185, R338). -/
def csrFault (s : State) (t : Strand) (off : Nat) : Option FaultInfo :=
  if t.priv = false then some { code := 2, arg := s.wordAt t t.itemAddr }
  else if off % 4 ≠ 0 then some { code := 3, arg := off }
  else if 65536 ≤ off then some { code := 5, sub := 4, arg := off }
  else none

/-- CSRR (R185): a low word latches its high word for the strand. -/
def execCsrr (x y : Nat) (s : State) : Host.Outcome State Fault Refusal :=
  s.run (fun t =>
    let off := (t.getS y).toNat
    match csrFault s t off with
    | some f => s.raise t f
    | none =>
      let v := s.csrRead t.part off
      if is64 off = false then s.finish (t.setS x v) 1
      else if off % 8 = 0 then s.finish { t.setS x v with csrHi := AMap.put t.csrHi off (s.csrRead t.part (off + 4)) } 1
      else s.finish { t.setS x ((AMap.look t.csrHi (off - 4)).getD v) with csrHi := AMap.del t.csrHi (off - 4) } 1)

/-- CSRW (R185): in effect at once; a write that stops, restores or resets the strand itself leaves it as that says. -/
def execCsrw (x y : Nat) (s : State) : Host.Outcome State Fault Refusal :=
  s.run (fun t =>
    let off := (t.getS y).toNat
    match csrFault s t off with
    | some f => s.raise t f
    | none => .next ((s.setCur (t.advance 1)).csrWrite (some s.cur) t.part off (t.getS x)))

end Sys2Proof.Machine
end

