-- ==== Sys2Proof/Machine/Items.lean ====
section
/-!
DEFINITION. The next item of a strand, fetched and decoded, and the register elements that an item reads (spec/02 R34, R38, spec/05
R136 to R142, R147, spec/19 R327, spec/20 R346).
-/
namespace Sys2Proof.Machine
open Sys2Proof

/-! ### Fetch and decode (R34, R38, R136 to R142) -/

/-- The words that end their clause (R137). -/
def endsClause (i : Instr) : Bool :=
  match i with
  | .bra _ _ => true | .bz _ _ _ => true | .bnz _ _ _ => true | .bexz _ _ => true | .call _ _ => true
  | .ret => true | .calli _ _ => true | .jmpi _ _ => true | .callv _ _ => true | .jmpv _ _ => true
  | .mjoin _ => true | .loop _ _ _ _ _ _ _ _ => true | .rft => true
  | _ => false

/-- The words that the command core executes (R147). -/
def ccWord (w : Nat) : Bool :=
  let m := fld w 26 6
  let sub := fld w 20 6
  (decide (1 ≤ m) && decide (m ≤ 0x28)) || m == 0x2A || (m == 0x2B && decide (sub ≤ 2))
    || (m == 0x2F && [0, 1, 5].contains (fld w 23 3)) || m == 0x30 || (m == 0x34 && sub == 0) || (m == 0x35 && [0, 7, 8, 9].contains sub)

namespace State
variable (s : State)

def illegal (w : Nat) (lanes : Mask) : Stop := .fault { code := 1, arg := w, lanes := lanes }

/-- A header position: the header there, or the stop (R137, R147). -/
def headerItem (k : Nat) (t : Strand) : Except Stop Instr :=
  match s.fetch t t.hspc.toNat 4 with
  | .error e => .error e
  | .ok w =>
    match decodeScalar w 0 with
    | .ok (.clauseHeader wm sa sb nl ns) => if ccBase ≤ k ∧ nl ≠ 0 then .error (illegal w 0#128) else .ok (.clauseHeader wm sa sb nl ns)
    | _ => .error (illegal w 0#128)

/-- The instruction that the first word of a scalar item shows, an operand word that every form admits standing for the second. -/
def firstWord (w : Nat) : Except DecodeError Instr := decodeScalar w 0x20000

/-- A word that its first word shows out of place: a header, a word past the clause's end, one that ends its clause and does not
stand last, one that the command core does not execute (R137, R147). -/
def misplaced (k : Nat) (t : Strand) (w : Nat) : Bool :=
  let last := t.item + scalarWords w - 1
  let ends := match firstWord w with | .ok i => endsClause i | .error _ => false
  fld w 26 6 == 63 || decide (t.nl + t.ns < last) || (ends && last != t.nl + t.ns) || (decide (ccBase ≤ k) && !ccWord w)

/-- A scalar word of the clause: what the first word alone settles is tested before the second is fetched (R137, R138, R147, R327). -/
def wordItem (k : Nat) (t : Strand) : Except Stop Instr :=
  match s.fetch t t.itemAddr.toNat 4 with
  | .error e => .error e
  | .ok w =>
    if misplaced k t w || (match firstWord w with | .ok _ => false | .error _ => true) then .error (illegal w 0#128) else
    match (if scalarWords w = 2 then s.fetch t (t.itemAddr + 4#64).toNat 4 else .ok 0) with
    | .error e => .error e
    | .ok w2 => (match decodeScalar w w2 with | .error _ => .error (illegal w 0#128) | .ok i => .ok i)

/-- The lane instruction that the item index names. -/
def laneAt (t : Strand) : Word := t.first + BitVec.ofNat 32 (t.item - 1)

/-- The next item of a strand, read and decoded, or its stop. -/
def nextItem (k : Nat) (t : Strand) : Except Stop Instr :=
  if t.item = 0 then s.headerItem k t
  else if t.item ≤ t.nl then
    match s.fetchLane t (laneAt t) with
    | .error e => .error e
    | .ok w => (match decodeLane w with | .ok i => .ok i | .error _ => .error (illegal (fld w 64 32) t.exec))
  else s.wordItem k t

/-- The virtual addresses of the words of the next item: the header, the lane instruction's ends, the scalar words. -/
def itemVas (t : Strand) : List Nat :=
  if t.item = 0 then [t.hspc.toNat]
  else if t.item ≤ t.nl then let va := t.laneBase.toNat + 12 * (laneAt t).toNat; [va, va + 8]
  else t.itemAddr.toNat :: (if scalarWords (s.wordAt t t.itemAddr) = 2 then [(t.itemAddr + 4#64).toNat] else [])

/-- The next item's fetch as the page walker, the TLBs and other strands' transactions see it: A is set where it translates (R73, R74), and
a word that another strand's transaction has written dooms it (R107). -/
def touchItem (k : Nat) (t : Strand) : State :=
  (s.itemVas t).foldl (fun (s : State) va =>
    match s.xlate t.part t.ctx t.core va t.priv .fetch with
    | .ok e => (s.touch t.part t.ctx t.core va false).doom k (physOf e va) false
    | .error _ => s) s

/-- A word of the next item has been written by a serial transaction of another strand: its fetch waits (R111). -/
def fetchHeld (k : Nat) (t : Strand) : Bool :=
  (s.strands.any (fun e => e.2.tx.any (·.serial))) && (s.itemVas t).any (fun va =>
    match s.xlate t.part t.ctx t.core va t.priv .fetch with
    | .ok e => s.serialHolds k (physOf e va) false
    | .error _ => false)

end State

/-! ### The register elements an item reads (R346) -/

namespace Strand
variable (t : Strand)

/-- Element numbers: scalar r as r, lane l of vector r as 512 + 128 r + l. -/
def vecEls (m : Mask) (r n : Nat) : List Nat :=
  (List.range n).flatMap (fun i => (lanesOf m).map (fun l => 512 + 128 * t.rotN (r + i) + l))

def words (r n : Nat) : List Nat := (List.range n).map (r + ·)

/-- Scalars captured for the lane instruction that stands next, where CAPT does not hold them: captured scalar r as 2^20 + r. -/
def capEls (r n : Nat) : List Nat := if (t.capt.getD (t.item - 1) []).isEmpty then words (2 ^ 20 + r) n else []

/-- a registers at VA, b at VB or as many captured scalars, c at VC, in the active lanes. -/
def srcEls (f : LaneF) (a b c : Nat) : List Nat :=
  t.vecEls t.exec f.va a ++ (match f.bsrc with | 0 => t.vecEls t.exec f.vb b | 1 => t.capEls (f.imm % 512) b | _ => [])
    ++ t.vecEls t.exec f.vc c

/-- The address operands of a global access (R217), with c registers at VC. -/
def globEls (f : LaneF) (c : Nat) : List Nat :=
  t.vecEls t.exec f.va (if f.bsrc = 0 then 2 else 1) ++ (if f.bsrc = 1 then t.capEls (f.imm % 512) 2 else []) ++ t.vecEls t.exec f.vc c

/-- The address operands of a scratch or window access, with c registers at VC. -/
def locEls (f : LaneF) (c : Nat) : List Nat :=
  t.vecEls t.exec f.va 1 ++ (if f.bsrc = 1 then t.capEls (f.imm % 512) 1 else []) ++ t.vecEls t.exec f.vc c

/-- The elements a lane instruction reads; MMA's are R347's. -/
def laneEls (i : Instr) : List Nat :=
  match i with
  | .iadd f => t.srcEls f 1 1 0 | .isub f => t.srcEls f 1 1 0 | .imul f => t.srcEls f 1 1 0 | .imulh f => t.srcEls f 1 1 0
  | .iand f => t.srcEls f 1 1 0 | .ior f => t.srcEls f 1 1 0 | .ixor f => t.srcEls f 1 1 0
  | .shlL f => t.srcEls f 1 1 0 | .shrL f => t.srcEls f 1 1 0 | .sarL f => t.srcEls f 1 1 0
  | .imin f => t.srcEls f 1 1 0 | .imax f => t.srcEls f 1 1 0 | .icmp f => t.srcEls f 1 1 0 | .bfeL f => t.srcEls f 1 1 0
  | .fadd f => t.srcEls f 1 1 0 | .fmul f => t.srcEls f 1 1 0 | .fmin f => t.srcEls f 1 1 0 | .fmax f => t.srcEls f 1 1 0
  | .fcmp f => t.srcEls f 1 1 0 | .fscl f => t.srcEls f 1 1 0 | .hadd2 f => t.srcEls f 1 1 0 | .hmul2 f => t.srcEls f 1 1 0
  | .imad f => t.srcEls f 1 1 1 | .tern f => t.srcEls f 1 1 1 | .shf f => t.srcEls f 1 1 1 | .bfiL f => t.srcEls f 1 1 1
  | .prmt f => t.srcEls f 1 1 1 | .ffma f => t.srcEls f 1 1 1 | .hfma2 f => t.srcEls f 1 1 1
  | .dot8 f => t.srcEls f 1 1 1 | .dot4 f => t.srcEls f 1 1 1 | .idot4 f => t.srcEls f 1 1 1 | .idot8 f => t.srcEls f 1 1 1
  | .doth2 f => t.srcEls f 1 1 1
  | .imadw f => t.srcEls f 1 1 2
  | .iaddc f => t.srcEls f 2 2 0
  | .iabs f => t.srcEls f 1 0 0 | .popcL f => t.srcEls f 1 0 0 | .clzL f => t.srcEls f 1 0 0 | .brevL f => t.srcEls f 1 0 0
  | .frnd f => t.srcEls f 1 0 0 | .rcp f => t.srcEls f 1 0 0 | .rsq f => t.srcEls f 1 0 0 | .sqrt f => t.srcEls f 1 0 0
  | .exp2 f => t.srcEls f 1 0 0 | .log2 f => t.srcEls f 1 0 0 | .sin f => t.srcEls f 1 0 0 | .cos f => t.srcEls f 1 0 0
  | .tanh f => t.srcEls f 1 0 0 | .ballot f => t.srcEls f 1 0 0 | .redl f => t.srcEls f 1 0 0 | .scan f => t.srcEls f 1 0 0
  | .vote f => t.srcEls f 1 0 0
  | .cvt f => t.srcEls f 1 0 0 ++ (if cvtW (f.sub % 16) < 32 then t.vecEls t.exec f.vd 1 else [])
  | .sel f => t.srcEls f 1 1 0 ++ t.capEls (4 * f.vc) 4
  | .movL f => t.srcEls f 0 1 0
  | .pack8 f => t.srcEls f 4 (if 128 ≤ f.sub then 1 else 0) 0
  | .pack4 f => t.srcEls f 8 (if 128 ≤ f.sub then 1 else 0) 0
  | .unpk f => t.srcEls f 1 (if 128 ≤ f.sub then 1 else 0) 0
  | .shfl f => t.vecEls (BitVec.allOnes 128) f.va 1 ++ t.srcEls f 0 1 0
  | .v2s f =>
    let l := if f.sub = 0 then some ((t.opB f 0).toNat % 128) else lowest t.exec
    (match l with | some l => t.vecEls (1#128 <<< l) f.va 1 | none => [])
      ++ (if f.sub = 0 then (if f.bsrc = 0 then t.vecEls 1#128 f.vb 1 else if f.bsrc = 1 then t.capEls (f.imm % 512) 1 else []) else [])
  | .ld f => t.globEls f 0 | .pref f => t.globEls f 0
  | .st f => t.globEls f (sizeRegs (f.sub % 8))
  | .atom f => t.globEls f (atomRegs (f.sub % 16)) | .red f => t.globEls f (atomRegs (f.sub % 16))
  | .ldsc f => t.locEls f 0 | .ldwn f => t.locEls f 0
  | .stsc f => t.locEls f (sizeRegs (f.sub % 8)) | .stwn f => t.locEls f 1
  | .atomsc f => t.locEls f (atomRegs (f.sub % 16))
  | .mstore f => t.vecEls t.exec f.va (msNc f) ++ t.vecEls t.exec f.vc (if msScr f then 1 else 2) ++ (if f.bsrc = 1 then t.capEls (f.imm % 512) 2 else [])
  | _ => []

/-- The mask operand of the MSK sub-ops. -/
def maskEls (y z : Nat) : List Nat := if z = 0 then words y 4 else []

/-- The elements a scalar word reads. -/
def wordEls (i : Instr) : List Nat :=
  match i with
  | .add _ a b => [a, b] | .sub _ a b => [a, b] | .mul _ a b => [a, b] | .mulh _ a b => [a, b] | .mulhu _ a b => [a, b]
  | .and _ a b => [a, b] | .or _ a b => [a, b] | .xor _ a b => [a, b] | .andn _ a b => [a, b] | .shl _ a b => [a, b]
  | .shr _ a b => [a, b] | .sar _ a b => [a, b] | .min _ a b => [a, b] | .max _ a b => [a, b] | .minu _ a b => [a, b]
  | .maxu _ a b => [a, b] | .seq _ a b => [a, b] | .sne _ a b => [a, b] | .slt _ a b => [a, b] | .sltu _ a b => [a, b]
  | .addi _ a _ => [a] | .andi _ a _ => [a] | .ori _ a _ => [a] | .xori _ a _ => [a] | .shli _ a _ => [a] | .shri _ a _ => [a]
  | .sari _ a _ => [a] | .slti _ a _ => [a] | .popc _ a => [a] | .clz _ a => [a] | .ctz _ a => [a] | .brev _ a => [a]
  | .mov _ a => [a] | .not _ a => [a] | .sext8 _ a => [a] | .sext16 _ a => [a]
  | .movhi d _ => [d] | .bfe d _ => [d] | .bfi d a => [d, a, a + 1]
  | .lds _ p _ _ => words (2 * p) 2 | .lds2 _ p _ _ => words (2 * p) 2 | .lds4 _ p _ _ => words (2 * p) 2
  | .sts d p _ _ => words (2 * p) 2 ++ [d] | .sts2 d p _ _ => words (2 * p) 2 ++ words d 2
  | .atoms d p _ opc _ _ => words (2 * p) 2 ++ words d (if opc = 6 then 2 else 1)
  | .bz r _ _ => [r] | .bnz r _ _ => [r] | .calli x y => words x 2 ++ [y] | .jmpi x y => words x 2 ++ [y]
  | .callv x y => t.vecEls t.exec x 1 ++ t.vecEls t.exec y 1 | .jmpv x y => t.vecEls t.exec x 1 ++ t.vecEls t.exec y 1
  | .msplit c _ _ _ => words c 4
  | .mjoin sv =>
    let w := t.getS (sv + 7)
    [sv + 7] ++ (if w.getLsbD 9 = false then [] else if w.getLsbD 10 then words (sv + 5) 2 ++ words (sv + 8) 4 ++ (if w.getLsbD 11 then [] else [sv + 4])
      else words sv 5)
  | .mset y z => maskEls y z | .mget _ y z => maskEls y z | .mand x y z => words x 4 ++ maskEls y z
  | .mor x y z => words x 4 ++ maskEls y z | .mnot _ y z => maskEls y z | .mpopc _ y z => maskEls y z
  | .loop _ cnt _ _ _ _ _ _ => [cnt] | .lexit x => words x 4 | .skput x y _ => [x, y]
  | .waitp _ i n => if i = 0 then [n] else []
  | .claspInit x _ => [x] | .claspWait x _ => [x] | .claspTest x _ => [x] | .claspReg x _ b => words x (if b = 1 then 2 else 1)
  | .attach x _ _ => words x 3 | .grow x _ => [x] | .shrink x _ => [x] | .who _ y z => if z = 1 then [y] else []
  | .launch _ p => words (2 * p) 2 | .sset x _ => [x] | .csrr _ y => [y] | .csrw x y => [x, y]
  | .go x => words x 4 | .repeatGo x => words x 4 | .cancel x => [x]
  | .shtCopyin x y _ => words x 4 ++ words y 4 | .shtCopyout x y _ => words x 4 ++ words y 4 | .shtGather x y _ => words x 4 ++ words y 4
  | .shtStash x y _ => [x] ++ words y 2 | .shtUnstash x _ _ => [x] | .shtFill x y _ => words x 4 ++ [y]
  | _ => []

/-- The element is uncorrectable: of a captured scalar, as the clause captured it (R35, R346). -/
def isBad (e : Nat) : Bool := if 2 ^ 20 ≤ e then t.capBad.contains (e - 2 ^ 20) else t.bad.contains e

/-- The element holds 0 with fresh check bits; of a captured scalar the captured copy, and the register where that is still so (R346). -/
def clearBad (e : Nat) : Strand :=
  if 2 ^ 20 ≤ e then
    let r := e - 2 ^ 20
    { (if t.bad.contains r then t.putS r 0#32 else t) with capS := AMap.set t.capS r 0#32 0#32, capBad := t.capBad.filter (· != r) }
  else if e < 512 then t.putS e 0#32
  else { t.putV ((e - 512) / 128) ((t.getV ((e - 512) / 128)).set (e % 128) 0#32) with bad := t.bad.filter (· != e) }

end Strand

namespace State
variable (s : State)

/-- The lane instruction that stands next is suppressed by its stage (R59). -/
def stageOff (t : Strand) : Bool := match s.fetchLane t (laneAt t) with | .ok w => t.suppressed (laneFields w) | .error _ => false

/-- The uncorrectable element that the next item, i, reads: the lowest. -/
def badRead (t : Strand) (i : Instr) : Option Nat :=
  if t.bad = [] ∧ t.capBad = [] then none else
  let es := if decide (0 < t.item) && decide (t.item ≤ t.nl) then (if s.stageOff t then [] else t.laneEls i) else t.wordEls i
  (es.filter t.isBad).foldl (fun b e => match b with | none => some e | some x => if e % 2 ^ 20 < x % 2 ^ 20 then some e else b) none

end State
end Sys2Proof.Machine
end

