-- ==== Sys2Proof/Machine/Sample.lean ====
section
/-!
DEFINITION. Sampling (spec/16 R306, spec/17 R314 to R316).
-/
namespace Sys2Proof.Machine
open Sys2Proof

/-- The strand is the one that its spindle's grant of this moment serves: its item occupies the issue stage (R306, R314). -/
def served (s : State) (t : Strand) : Bool :=
  match AMap.look (s.core t.core).arb (t.slot / 24) with | some a => a.now == some t.sid && a.at_ == s.time | none => false

/-- Register of an element number: scalar r as r, vector register r as 512 + r, as the spin detector's log has them. -/
def elReg (e : Nat) : Nat := if 2 ^ 20 ≤ e then e - 2 ^ 20 else if e < 512 then e else 512 + (e - 512) / 128

/-- The next item reads a register that an item of the strand has written: it may wait for the result of a direct-class one (R152,
R314). -/
def readsFresh (s : State) (k : Nat) (t : Strand) : Bool :=
  match s.nextItem k t with
  | .ok i =>
    let es := if decide (0 < t.item) && decide (t.item ≤ t.nl) then (if s.stageOff t then [] else t.laneEls i) else t.wordEls i
    es.any (fun e => t.spin.log.any (fun w => w.1 == elReg e))
  | .error _ => false

/-- The reason a sample of a strand that waits for nothing records: it issued, or its spindle issued another, or it waits for the
result of a direct-class instruction, which is free (R306, R314, log 42). -/
def readyReason (s : State) (k : Nat) (t : Strand) : Nat :=
  if served s t then 0 else if readsFresh s k t && (Config.freeValue s.free).getLsbD 0 then 2 else 1

/-- Whether the strand still waits as its last turn found it: what it waits for may have come since (R306). -/
def stillWaits (s : State) (k : Nat) (t : Strand) : Bool :=
  match t.wait with
  | .none => false
  | .woke _ _ => false
  | .quad => decide (2 ≤ (mmasOf t).length)
  | .fetch => (match s.nextItem k t with | .error .wait => true | _ => s.fetchHeld k t)
  | .flag => (match s.nextItem k t with | .ok (.clauseHeader wm _ _ _ _) => (List.range 12).any (fun b => wm.testBit b && t.busy b) | _ => true)
  | .path => (match s.nextItem k t with
      | .ok (.waitp path im n) => decide (waitpN t im n < t.count (pathOf path))
      | .ok (.fence kind scope) => fenceClear t kind = false || fenceWaits s k t kind scope
      | _ => true)
  | _ => true

/-- The reason a sample of strand k records (R306, R314, log 42). -/
def sampleReason (s : State) (k : Nat) (t : Strand) : Nat :=
  let still := stillWaits s k t
  if t.leave ≠ .no then 9
  else if t.delay.any (fun d => decide (s.time < d)) then 8
  else if (s.clu (t.core / 2)).change.isSome || (!(s.clu (t.core / 2)).active && t.pend.isNone && !still) then 7
  else if !still then readyReason s k t
  else match t.wait with
    | .quad => 5
    | .clasp _ _ => 4
    | .grow => 4
    | .token => 4
    | .flag => 2
    | .fetch => 6
    | _ => 3

/-- The strands a core may sample: resident, of the partition, not halted, passing the context filter. -/
def sampled (s : State) (p : Nat) (x : Part) (core : Nat) : List (Nat × Strand) :=
  let w := (x.rd 0xA000).toNat
  s.strands.filter (fun e => decide (e.1 < ccBase) && e.2.core == core && e.2.part == p && e.2.run != .halted
    && (!w.testBit 24 || fld w 25 4 == e.2.ctx))

/-- The next of them in ascending slot order after the last sampled, wrapping. -/
def nextSample (s : State) (p : Nat) (x : Part) (core : Nat) : Option (Nat × Strand) :=
  let es := (sampled s p x core).mergeSort (fun a b => decide (a.2.slot ≤ b.2.slot))
  (es.find? (fun e => decide ((s.core core).lastSlot < e.2.slot))).orElse (fun _ => es.head?)

/-- The sample ring is full (R316). -/
def sampleFull (x : Part) : Bool := decide (2 ^ x.sRing.2 ≤ (x.rd 0xA010 - x.rd 0xA014).toNat)

/-- The slot of the sample ring that the next record takes. -/
def samplePa (x : Part) : Nat := x.sRing.1 + 64 * ((x.rd 0xA010).toNat % 2 ^ x.sRing.2)

/-- SAMPLE (R306, R316): the P-th cycle of a core; the next item is that after a back edge that is due (R303).  It waits for a serial
transaction that holds its slot (R111). -/
def execSample (core : Nat) (s : State) : Host.Outcome State Fault Refusal :=
  .next (match s.ownerOf (core / 2) with
    | none => s
    | some p =>
      match s.part? p with
      | none => s
      | some x =>
        if (x.rd 0xA000).getLsbD 0 = false ∨ s.serialRange hwAgent (samplePa x) 64 then s else
        let s := s.setCore core { s.core core with cycles := (s.core core).cycles + fld (x.rd 0xA000).toNat 8 16 }
        match nextSample s p x core with
        | none => s
        | some (k, t) =>
          let s := s.setCore core { s.core core with lastSlot := t.slot }
          if sampleFull x then s.setPart p (x.bump 0xA018)
          else
            let (e, x) := x.eseq
            let bs := State.bytesOfWords (s.eventRecord 1 (sampleReason s k t) (if t.leave = .no then (s.backEdge t).2 else t) e 0 0)
            let s := { s with free := s.free + 1 }
            (s.hwWrite (samplePa x) bs).setPart p (x.wr 0xA010 (x.rd 0xA010 + 1)))

end Sys2Proof.Machine
end

