-- ==== Sys2Proof/Machine/Dispatch.lean ====
section
/-!
DEFINITION. The dispatch of every instruction and event to its meaning.
-/
namespace Sys2Proof.Machine
open Sys2Proof

def exec (i : Instr) (s : State) : Host.Outcome State Fault Refusal :=
  match i with
  | .clauseHeader wm sa sb nl ns => Sys2Proof.Machine.execClauseHeader wm sa sb nl ns s
  | .add d a b => Sys2Proof.Machine.execAdd d a b s
  | .sub d a b => Sys2Proof.Machine.execSub d a b s
  | .mul d a b => Sys2Proof.Machine.execMul d a b s
  | .mulh d a b => Sys2Proof.Machine.execMulh d a b s
  | .mulhu d a b => Sys2Proof.Machine.execMulhu d a b s
  | .and d a b => Sys2Proof.Machine.execAnd d a b s
  | .or d a b => Sys2Proof.Machine.execOr d a b s
  | .xor d a b => Sys2Proof.Machine.execXor d a b s
  | .andn d a b => Sys2Proof.Machine.execAndn d a b s
  | .shl d a b => Sys2Proof.Machine.execShl d a b s
  | .shr d a b => Sys2Proof.Machine.execShr d a b s
  | .sar d a b => Sys2Proof.Machine.execSar d a b s
  | .min d a b => Sys2Proof.Machine.execMin d a b s
  | .max d a b => Sys2Proof.Machine.execMax d a b s
  | .minu d a b => Sys2Proof.Machine.execMinu d a b s
  | .maxu d a b => Sys2Proof.Machine.execMaxu d a b s
  | .seq d a b => Sys2Proof.Machine.execSeq d a b s
  | .sne d a b => Sys2Proof.Machine.execSne d a b s
  | .slt d a b => Sys2Proof.Machine.execSlt d a b s
  | .sltu d a b => Sys2Proof.Machine.execSltu d a b s
  | .addi d a imm => Sys2Proof.Machine.execAddi d a imm s
  | .andi d a imm => Sys2Proof.Machine.execAndi d a imm s
  | .ori d a imm => Sys2Proof.Machine.execOri d a imm s
  | .xori d a imm => Sys2Proof.Machine.execXori d a imm s
  | .shli d a imm => Sys2Proof.Machine.execShli d a imm s
  | .shri d a imm => Sys2Proof.Machine.execShri d a imm s
  | .sari d a imm => Sys2Proof.Machine.execSari d a imm s
  | .slti d a imm => Sys2Proof.Machine.execSlti d a imm s
  | .movi d imm => Sys2Proof.Machine.execMovi d imm s
  | .movhi d imm => Sys2Proof.Machine.execMovhi d imm s
  | .popc d a => Sys2Proof.Machine.execPopc d a s
  | .clz d a => Sys2Proof.Machine.execClz d a s
  | .ctz d a => Sys2Proof.Machine.execCtz d a s
  | .brev d a => Sys2Proof.Machine.execBrev d a s
  | .bfe d ctl => Sys2Proof.Machine.execBfe d ctl s
  | .bfi d a => Sys2Proof.Machine.execBfi d a s
  | .mov d a => Sys2Proof.Machine.execMov d a s
  | .not d a => Sys2Proof.Machine.execNot d a s
  | .sext8 d a => Sys2Proof.Machine.execSext8 d a s
  | .sext16 d a => Sys2Proof.Machine.execSext16 d a s
  | .lds d p fs off => Sys2Proof.Machine.execLds d p fs off s
  | .lds2 d p fs off => Sys2Proof.Machine.execLds2 d p fs off s
  | .lds4 d p fs off => Sys2Proof.Machine.execLds4 d p fs off s
  | .sts d p fs off => Sys2Proof.Machine.execSts d p fs off s
  | .sts2 d p fs off => Sys2Proof.Machine.execSts2 d p fs off s
  | .atoms d p fs opc ord scope => Sys2Proof.Machine.execAtoms d p fs opc ord scope s
  | .retComplete k path => Sys2Proof.Machine.execRetComplete k path s
  | .srcComplete k path => Sys2Proof.Machine.execSrcComplete k path s
  | .bra soff loff => Sys2Proof.Machine.execBra soff loff s
  | .bz r soff loff => Sys2Proof.Machine.execBz r soff loff s
  | .bnz r soff loff => Sys2Proof.Machine.execBnz r soff loff s
  | .bexz soff loff => Sys2Proof.Machine.execBexz soff loff s
  | .call soff loff => Sys2Proof.Machine.execCall soff loff s
  | .ret => Sys2Proof.Machine.execRet s
  | .calli x y => Sys2Proof.Machine.execCalli x y s
  | .jmpi x y => Sys2Proof.Machine.execJmpi x y s
  | .callv x y => Sys2Proof.Machine.execCallv x y s
  | .jmpv x y => Sys2Proof.Machine.execJmpv x y s
  | .msplit c sv soff loff => Sys2Proof.Machine.execMsplit c sv soff loff s
  | .mjoin sv => Sys2Proof.Machine.execMjoin sv s
  | .mset y z => Sys2Proof.Machine.execMset y z s
  | .mget x y z => Sys2Proof.Machine.execMget x y z s
  | .mand x y z => Sys2Proof.Machine.execMand x y z s
  | .mor x y z => Sys2Proof.Machine.execMor x y z s
  | .mnot x y z => Sys2Proof.Machine.execMnot x y z s
  | .mpopc x y z => Sys2Proof.Machine.execMpopc x y z s
  | .loop lvl cnt nstg rot item ireg send llen => Sys2Proof.Machine.execLoop lvl cnt nstg rot item ireg send llen s
  | .backEdge => Sys2Proof.Machine.execBackEdge s
  | .lexit x => Sys2Proof.Machine.execLexit x s
  | .lbrk => Sys2Proof.Machine.execLbrk s
  | .rotset base size => Sys2Proof.Machine.execRotset base size s
  | .skput x y z => Sys2Proof.Machine.execSkput x y z s
  | .ldepth x => Sys2Proof.Machine.execLdepth x s
  | .waitp path idx n => Sys2Proof.Machine.execWaitp path idx n s
  | .fence kind scope => Sys2Proof.Machine.execFence kind scope s
  | .claspInit x h => Sys2Proof.Machine.execClaspInit x h s
  | .claspArrive x h => Sys2Proof.Machine.execClaspArrive x h s
  | .claspArrivetx x h => Sys2Proof.Machine.execClaspArrivetx x h s
  | .heldArrival k h => Sys2Proof.Machine.execHeldArrival k h s
  | .claspWait x h => Sys2Proof.Machine.execClaspWait x h s
  | .claspTest x h => Sys2Proof.Machine.execClaspTest x h s
  | .claspInval h => Sys2Proof.Machine.execClaspInval h s
  | .claspReg x h bolt => Sys2Proof.Machine.execClaspReg x h bolt s
  | .claspUnreg h => Sys2Proof.Machine.execClaspUnreg h s
  | .attach x coord role => Sys2Proof.Machine.execAttach x coord role s
  | .detach x => Sys2Proof.Machine.execDetach x s
  | .departure k => Sys2Proof.Machine.execDeparture k s
  | .yieldq x => Sys2Proof.Machine.execYieldq x s
  | .count x => Sys2Proof.Machine.execCount x s
  | .grow x role => Sys2Proof.Machine.execGrow x role s
  | .growDecided k => Sys2Proof.Machine.execGrowDecided k s
  | .shrink x role => Sys2Proof.Machine.execShrink x role s
  | .who x y z => Sys2Proof.Machine.execWho x y z s
  | .launch d p => Sys2Proof.Machine.execLaunch d p s
  | .sget x y => Sys2Proof.Machine.execSget x y s
  | .sset x y => Sys2Proof.Machine.execSset x y s
  | .trap code => Sys2Proof.Machine.execTrap code s
  | .rft => Sys2Proof.Machine.execRft s
  | .exit => Sys2Proof.Machine.execExit s
  | .bkpt id => Sys2Proof.Machine.execBkpt id s
  | .prog id => Sys2Proof.Machine.execProg id s
  | .csrr x y => Sys2Proof.Machine.execCsrr x y s
  | .csrw x y => Sys2Proof.Machine.execCsrw x y s
  | .go x => Sys2Proof.Machine.execGo x s
  | .cancel x => Sys2Proof.Machine.execCancel x s
  | .repeatGo x => Sys2Proof.Machine.execRepeatGo x s
  | .shtCopyin x y fs => Sys2Proof.Machine.execShtCopyin x y fs s
  | .shtCopyout x y fs => Sys2Proof.Machine.execShtCopyout x y fs s
  | .shtGather x y fs => Sys2Proof.Machine.execShtGather x y fs s
  | .shtStash x y fs => Sys2Proof.Machine.execShtStash x y fs s
  | .shtUnstash x y fs => Sys2Proof.Machine.execShtUnstash x y fs s
  | .shtFill x y fs => Sys2Proof.Machine.execShtFill x y fs s
  | .shuttleComplete k => Sys2Proof.Machine.execShuttleComplete k s
  | .tbegin soff loff => Sys2Proof.Machine.execTbegin soff loff s
  | .tend x => Sys2Proof.Machine.execTend x s
  | .tabort arg => Sys2Proof.Machine.execTabort arg s
  | .tserial soff loff => Sys2Proof.Machine.execTserial soff loff s
  | .iadd f => Sys2Proof.Machine.execIadd f s
  | .isub f => Sys2Proof.Machine.execIsub f s
  | .imul f => Sys2Proof.Machine.execImul f s
  | .imulh f => Sys2Proof.Machine.execImulh f s
  | .imad f => Sys2Proof.Machine.execImad f s
  | .imadw f => Sys2Proof.Machine.execImadw f s
  | .iand f => Sys2Proof.Machine.execIand f s
  | .ior f => Sys2Proof.Machine.execIor f s
  | .ixor f => Sys2Proof.Machine.execIxor f s
  | .tern f => Sys2Proof.Machine.execTern f s
  | .shlL f => Sys2Proof.Machine.execShlL f s
  | .shrL f => Sys2Proof.Machine.execShrL f s
  | .sarL f => Sys2Proof.Machine.execSarL f s
  | .shf f => Sys2Proof.Machine.execShf f s
  | .imin f => Sys2Proof.Machine.execImin f s
  | .imax f => Sys2Proof.Machine.execImax f s
  | .iabs f => Sys2Proof.Machine.execIabs f s
  | .icmp f => Sys2Proof.Machine.execIcmp f s
  | .sel f => Sys2Proof.Machine.execSel f s
  | .popcL f => Sys2Proof.Machine.execPopcL f s
  | .clzL f => Sys2Proof.Machine.execClzL f s
  | .brevL f => Sys2Proof.Machine.execBrevL f s
  | .bfeL f => Sys2Proof.Machine.execBfeL f s
  | .bfiL f => Sys2Proof.Machine.execBfiL f s
  | .prmt f => Sys2Proof.Machine.execPrmt f s
  | .movL f => Sys2Proof.Machine.execMovL f s
  | .iaddc f => Sys2Proof.Machine.execIaddc f s
  | .laneId f => Sys2Proof.Machine.execLaneId f s
  | .fadd f => Sys2Proof.Machine.execFadd f s
  | .fmul f => Sys2Proof.Machine.execFmul f s
  | .ffma f => Sys2Proof.Machine.execFfma f s
  | .fmin f => Sys2Proof.Machine.execFmin f s
  | .fmax f => Sys2Proof.Machine.execFmax f s
  | .fcmp f => Sys2Proof.Machine.execFcmp f s
  | .frnd f => Sys2Proof.Machine.execFrnd f s
  | .fscl f => Sys2Proof.Machine.execFscl f s
  | .hadd2 f => Sys2Proof.Machine.execHadd2 f s
  | .hmul2 f => Sys2Proof.Machine.execHmul2 f s
  | .hfma2 f => Sys2Proof.Machine.execHfma2 f s
  | .rcp f => Sys2Proof.Machine.execRcp f s
  | .rsq f => Sys2Proof.Machine.execRsq f s
  | .sqrt f => Sys2Proof.Machine.execSqrt f s
  | .exp2 f => Sys2Proof.Machine.execExp2 f s
  | .log2 f => Sys2Proof.Machine.execLog2 f s
  | .sin f => Sys2Proof.Machine.execSin f s
  | .cos f => Sys2Proof.Machine.execCos f s
  | .tanh f => Sys2Proof.Machine.execTanh f s
  | .cvt f => Sys2Proof.Machine.execCvt f s
  | .pack8 f => Sys2Proof.Machine.execPack8 f s
  | .pack4 f => Sys2Proof.Machine.execPack4 f s
  | .unpk f => Sys2Proof.Machine.execUnpk f s
  | .dot8 f => Sys2Proof.Machine.execDot8 f s
  | .dot4 f => Sys2Proof.Machine.execDot4 f s
  | .idot4 f => Sys2Proof.Machine.execIdot4 f s
  | .idot8 f => Sys2Proof.Machine.execIdot8 f s
  | .doth2 f => Sys2Proof.Machine.execDoth2 f s
  | .shfl f => Sys2Proof.Machine.execShfl f s
  | .ballot f => Sys2Proof.Machine.execBallot f s
  | .redl f => Sys2Proof.Machine.execRedl f s
  | .scan f => Sys2Proof.Machine.execScan f s
  | .v2s f => Sys2Proof.Machine.execV2s f s
  | .vote f => Sys2Proof.Machine.execVote f s
  | .ld f => Sys2Proof.Machine.execLd f s
  | .st f => Sys2Proof.Machine.execSt f s
  | .ldsc f => Sys2Proof.Machine.execLdsc f s
  | .stsc f => Sys2Proof.Machine.execStsc f s
  | .ldwn f => Sys2Proof.Machine.execLdwn f s
  | .stwn f => Sys2Proof.Machine.execStwn f s
  | .atom f => Sys2Proof.Machine.execAtom f s
  | .atomsc f => Sys2Proof.Machine.execAtomsc f s
  | .red f => Sys2Proof.Machine.execRed f s
  | .pref f => Sys2Proof.Machine.execPref f s
  | .mma f => Sys2Proof.Machine.execMma f s
  | .mmaMeet k => Sys2Proof.Machine.execMmaMeet k s
  | .mopf f => Sys2Proof.Machine.execMopf f s
  | .mbatch f => Sys2Proof.Machine.execMbatch f s
  | .batchRetire k => Sys2Proof.Machine.execBatchRetire k s
  | .mstore f => Sys2Proof.Machine.execMstore f s
  | .mzero f => Sys2Proof.Machine.execMzero f s
  | .lnop f => Sys2Proof.Machine.execLnop f s
  | .trapEntry k => Sys2Proof.Machine.execTrapEntry k s
  | .weaveRetire w => Sys2Proof.Machine.execWeaveRetire w s
  | .boltComplete b => Sys2Proof.Machine.execBoltComplete b s
  | .qwrWrite ln v => Sys2Proof.Machine.execQwrWrite ln v s
  | .ccRound => Sys2Proof.Machine.execCcRound s
  | .writeSignal ln => Sys2Proof.Machine.execWriteSignal ln s
  | .waitSignal ln => Sys2Proof.Machine.execWaitSignal ln s
  | .launchInd ln => Sys2Proof.Machine.execLaunchInd ln s
  | .launchPacket ln => Sys2Proof.Machine.execLaunchPacket ln s
  | .copy ln => Sys2Proof.Machine.execCopy ln s
  | .copyComplete ln => Sys2Proof.Machine.execCopyComplete ln s
  | .marker ln => Sys2Proof.Machine.execMarker ln s
  | .skip ln => Sys2Proof.Machine.execSkip ln s
  | .retry ln => Sys2Proof.Machine.execRetry ln s
  | .weaveAdmission p die c => Sys2Proof.Machine.execWeaveAdmission p die c s
  | .controlBoundary m => Sys2Proof.Machine.execControlBoundary m s
  | .railChange clu => Sys2Proof.Machine.execRailChange clu s
  | .slewStep p => Sys2Proof.Machine.execSlewStep p s
  | .decision p sens => Sys2Proof.Machine.execDecision p sens s
  | .lcfgWrite p v => Sys2Proof.Machine.execLcfgWrite p v s
  | .lcfg2Write p v => Sys2Proof.Machine.execLcfg2Write p v s
  | .knobWrite p kid v => Sys2Proof.Machine.execKnobWrite p kid v s
  | .periodicHallmark p => Sys2Proof.Machine.execPeriodicHallmark p s
  | .contextEndRequest p v => Sys2Proof.Machine.execContextEndRequest p v s
  | .contextEndHallmark p c => Sys2Proof.Machine.execContextEndHallmark p c s
  | .anchorWrite ok => Sys2Proof.Machine.execAnchorWrite ok s
  | .orderlyShutdown => Sys2Proof.Machine.execOrderlyShutdown s
  | .coldBoot r => Sys2Proof.Machine.execColdBoot r s
  | .warmReset => Sys2Proof.Machine.execWarmReset s
  | .prstGo v => Sys2Proof.Machine.execPrstGo v s
  | .functionLevelReset fn => Sys2Proof.Machine.execFunctionLevelReset fn s
  | .hostCxlAccess wr a size v => Sys2Proof.Machine.execHostCxlAccess wr a size v s
  | .linkDown => Sys2Proof.Machine.execLinkDown s
  | .completionTimeout k path => Sys2Proof.Machine.execCompletionTimeout k path s
  | .poisonReceived k path => Sys2Proof.Machine.execPoisonReceived k path s
  | .sensorFault p bit idx bad => Sys2Proof.Machine.execSensorFault p bit idx bad s
  | .save p v => Sys2Proof.Machine.execSave p v s
  | .restore p v => Sys2Proof.Machine.execRestore p v s
  | .kill p v => Sys2Proof.Machine.execKill p v s
  | .timeout k => Sys2Proof.Machine.execTimeout k s
  | .attrGo p v => Sys2Proof.Machine.execAttrGo p v s
  | .attrSignal p => Sys2Proof.Machine.execAttrSignal p s
  | .pinClr p c => Sys2Proof.Machine.execPinClr p c s
  | .halt p => Sys2Proof.Machine.execHalt p s
  | .resume p => Sys2Proof.Machine.execResume p s
  | .stepOne p => Sys2Proof.Machine.execStepOne p s
  | .stepHeader p => Sys2Proof.Machine.execStepHeader p s
  | .dstoprdWrite p v => Sys2Proof.Machine.execDstoprdWrite p v s
  | .sample core => Sys2Proof.Machine.execSample core s
  | .senWrite p v => Sys2Proof.Machine.execSenWrite p v s
  | .tenWrite p v => Sys2Proof.Machine.execTenWrite p v s
  | .tsync p => Sys2Proof.Machine.execTsync p s
  | .traceTimeout k => Sys2Proof.Machine.execTraceTimeout k s
  | .trdWrite p v => Sys2Proof.Machine.execTrdWrite p v s
  | .dfreeze p v => Sys2Proof.Machine.execDfreeze p v s
  | .registerWrite p off v => Sys2Proof.Machine.execRegisterWrite p off v s
  | .linkUp => Sys2Proof.Machine.execLinkUp s
  | .coldPowerLoss => Sys2Proof.Machine.execColdPowerLoss s
  | .eccError lvl k a b fixed => Sys2Proof.Machine.execEccError lvl k a b fixed s
  | .peerUio wr a size v => Sys2Proof.Machine.execPeerUio wr a size v s

end Sys2Proof.Machine
end

