-- ==== Sys2Proof/Machine/Issue.lean ====
section
/-!
DEFINITION. What a step adds around an item: stops before an item, registers that cannot be corrected, back edges, the command
core's words, traces, single steps, retirement (spec/02 R28 to R38, R53, R58, spec/05 R147, spec/11 R248, R249, spec/16 R305 to
R311, spec/19 R327, spec/20 R341, R346, spec/21 R356).
-/
namespace Sys2Proof.Machine
open Sys2Proof

namespace State
variable (s : State)

/-! ### Before the item: breakpoints, held errors, delays (R305, R307, R341) -/

/-- The lowest breakpoint register that matches the next item (R305). -/
def breakpoint (t : Strand) : Option Nat :=
  if t.pass then none else
  (List.range 8).find? (fun i =>
    let c := (s.csr t.part (0xA100 + 16 * i)).toNat
    let a := s.csr64 t.part (0xA108 + 16 * i)
    let lane := decide (0 < t.item) && decide (t.item ≤ t.nl)
    c.testBit 0 && (!c.testBit 2 || fld c 3 4 == t.ctx) && c.testBit 1 == lane
      && a == (if lane then t.laneBase.toNat + 12 * (laneAt t).toNat else t.itemAddr.toNat))

/-- Whether the next item waits for a held error's operation (R341): the item, none where it could not be read.  One that has doomed a
transaction is raised as soon as the transaction has ended, at item 0 of the fail target (R351).  A DETACH counts before its test of the
member count, which R47 puts first and R341 does not mention: the model's choice (log 57). -/
def waitsFor (t : Strand) (i : Option Instr) (h : Held) : Bool :=
  if h.txab then t.tx.isNone else h.due || (match i with
    | some (.waitp path im n) => pathOf path == h.path && decide (waitpN t im n ≤ h.later)
    | some (.clauseHeader wm _ _ _ _) => (match h.flag with | some f => wm.testBit f | none => false)
    | some (.detach _) => true
    | _ => false)

/-- Of two held errors, the one issued first. -/
def older (b : Option Held) (h : Held) : Option Held := match b with | none => some h | some x => if h.op < x.op then some h else some x

/-- The held error that is raised before the next item: of those that fall due there, the one issued first (R341). -/
def heldAt (t : Strand) (i : Option Instr) : Option Held := (t.openHeld.filter (waitsFor t i)).foldl older none

/-- The held error is raised (R341, R351). -/
def raiseHeld (k : Nat) (t : Strand) (h : Held) : State :=
  s.raiseFrom k { t with held := t.held.filter (fun x => x.op != h.op), leave := .no } h.info h.spc h.item h.txab

/-- Core cycles in ns, rounded up, on the cluster's rail (R18). -/
def cyclesNs (t : Strand) (n : Nat) : Nat := if (s.clu (t.core / 2)).hi then (n + 3) / 4 else (n * 5 + 12) / 13

/-- A header that a causal trial delays, and has not delayed yet (R307). -/
def delayed (t : Strand) : Option Nat :=
  let w := (s.csr t.part 0xA040).toNat
  let a := t.hspc.toNat
  if t.item = 0 ∧ w.testBit 0 ∧ fld w 1 4 = t.ctx ∧ !(decide (s.csr64 t.part 0xA048 ≤ a) && decide (a < s.csr64 t.part 0xA050))
  then (match t.delay with | none => some (s.time + s.cyclesNs t (fld w 16 16)) | some d => if s.time < d then some d else none)
  else none

end State

namespace State
variable (s : State)

/-- The ECC_UNCORR of a register element (R338, R346). -/
def raiseBad (k : Nat) (t : Strand) (e : Nat) : State :=
  s.raiseAt k (t.clearBad e) (if 2 ^ 20 ≤ e ∨ e < 512 then { code := 0x15, arg := e % 2 ^ 20 } else { code := 0x15, sub := 1, arg := (e - 512) / 128 + e % 128 * 256 })

/-- The fault that the item's own test finds, as it would be raised outside a rail change; none where it raises none.  The command
core's is its FCODE (R327, R356). -/
def firstFault (k : Nat) (t : Strand) (i : Instr) : Option FaultInfo :=
  let c := t.core / 2
  match exec i (s.setClu c { s.clu c with change := some (false, 0) }) with
  | .next s1 =>
    if ccBase ≤ k then
      let w := (s1.qreg (k - ccBase) 0x18).toNat
      if fld w 0 8 = 6 then some { code := fld w 8 8 } else none
    else (match s1.strand? k with | some t1 => if t.pend.isNone then t1.pend.map (·.info) else none | none => none)
  | _ => none

/-- The item's own fault stands before ECC_UNCORR of a register that it reads: a watch stop, and the faults whose tests read no
register (R305, R327, R338). -/
def beforeEcc (i : Instr) (f : FaultInfo) : Bool :=
  let quad := match i with
    | .shtCopyin _ _ _ => true | .shtCopyout _ _ _ => true | .shtGather _ _ _ => true | .shtStash _ _ _ => true | .shtFill _ _ _ => true
    | .go _ => true | .repeatGo _ => true | .cancel _ => true | _ => false
  f.code == 0x12 || f.code == 2 || f.code == 0x17 || (f.code == 8 && f.sub == 0) || (f.code == 1 && !quad)

/-! ### After an item or event (R45, R53, R109, R275, R305) -/

/-- Every lane of the open transaction is doomed or aborted, one at least doomed. -/
def allDoomed (t : Strand) : Bool :=
  match t.tx with
  | none => false
  | some x => x.lanes &&& ~~~ (x.doom ||| maskOfLanes (x.dead.map (·.1))) == 0#128 && x.doom != 0#128

/-- Transactions of which every lane is doomed end (R109), and with them a wait at a clasp (R175). -/
def endDoomed : State :=
  s.strands.foldl (fun (s : State) e =>
    match s.strand? e.1 with
    | none => s
    | some t =>
      if allDoomed t then
        ((s.claspUnwait e.1).updStrand e.1 (fun t => { t.abortTx 1 0 with wait := .none, since := s.time })).traceChange e.1 none [] t
      else s) s

/-- Clusters with no ready strand are idle (R275). -/
def idleClusters : State :=
  s.clus.foldl (fun s e =>
    if e.2.active && !s.strands.any (fun t => decide (t.1 < ccBase) && t.2.core / 2 == e.1 && t.2.ready)
    then s.setClu e.1 { s.clu e.1 with active := false } else s) s

/-- What every step ends with: doomed transactions, idle clusters, weaves that may retire, streams of halted strands, rings that are held
no more. -/
def settle : State := s.endDoomed.idleClusters.retireDue.traceHalts.drainRings

/-- A single step ends: the back edge that is due runs, with its decisions, then the stop, of the stepped item (R305, R310, R324). -/
def stepStop (k : Nat) (t0 t : Strand) : State :=
  let r := s.backEdge { t with run := .going }
  let s1 := (r.1.setStrand k r.2).traceChange k none (s.edgeBits t) t
  match s1.strand? k with
  | none => s1
  | some t1 => (s1.raiseFrom k t1 { code := 0x13 } t0.itemAddr t0.item false).traceChange k none [] t1

/-- Strand t1, at the end of a turn, stands where t stood at its beginning. -/
def stands (t t1 : Strand) : Bool :=
  t1.hspc == t.hspc && t1.item == t.item && t1.edge == t.edge && t1.pend.isNone && t1.hnd == t.hnd && t1.leave == .no && t1.run == t.run

/-- The strand after its item: its wait over, its traces written, its single step ended, its retirement begun (R53, R305, R310);
`i` the item, `edges` the decisions of back edges that ran, `t0` the strand before it. -/
def afterIssue (k : Nat) (t0 : Strand) (i : Option Instr) (edges : List Bool) : State :=
  match s.strand? k with
  | none => s
  | some t =>
    if stands t0 t && t.wait != .none then s else
    let trapped := t.pend.isSome || t.run == .halted || (!t0.hnd && t.hnd) || t.leave != .no
    let keep := trapped || (t0.hnd && !t.hnd)
    let s := s.setStrand k { t with
      wait := if t.leave = .no then .none else t.wait, since := s.time, pass := keep && t.pass, passW := keep && t.passW, delay := none }
    let s := s.traceChange k i edges t0
    match s.strand? k with
    | none => s
    | some t =>
      if t.live = 0#128 ∧ t.leave = .no ∧ t.pend.isNone ∧ t.run ≠ .halted ∧ (t.hnd = false ∨ t0.live ≠ 0#128) then s.beginLeave k t .retire
      else if trapped then (if t.run = .stepItem ∨ t.run = .stepHeader then s.setStrand k { t with run := .going } else s)
      else match t.run with
        | .stepItem => s.stepStop k t0 t
        | .stepHeader => if t.item = 0 then s.stepStop k t0 t else s
        | _ => s

end State

/-- What an item leaves, with the state where it stops. -/
def thenDo (o : Host.Outcome State Fault Refusal) (f : State → State) : Host.Outcome State Fault Refusal :=
  match o with
  | .next s => .next (f s)
  | .fault e => .fault e
  | .refused r => .refused r

/-- The back edge that is due after strand k's item is taken in the same step: it costs no issue slot (R58). -/
def State.edgeNow (s : State) (k : Nat) : State :=
  match s.strand? k with
  | none => s
  | some t =>
    if t.edge && t.pend.isNone && t.run != .halted && t.leave == .no then
      (stateOr s (exec .backEdge { s with cur := k })).afterIssue k t (some .backEdge) (s.edgeBits t)
    else s

/-- Strand k runs its next item, i, once nothing stands before it: the trace's header packets, its meaning, and the back edge that is
then due. -/
def runItem (k : Nat) (t : Strand) (i : Instr) (s : State) : Host.Outcome State Fault Refusal :=
  let clear := match i with | .clauseHeader wm _ _ _ _ => !(List.range 12).any (fun b => wm.testBit b && t.busy b) | _ => false
  let s1 := if clear then s.traceHeader k else s
  thenDo (exec i s1) (fun s2 => (s2.afterIssue k t (some i) (s.nextBits i t)).edgeNow k)

/-- What is raised before item i: a held error that falls due there, or an uncorrectable register element that it reads, where no
fault stands before it (R305, R327, R341, R346). -/
def stopBefore (k : Nat) (t : Strand) (i : Instr) (s : State) : Option State :=
  match State.heldAt t (some i), s.badRead t i with
  | none, none => none
  | some h, _ => if (s.firstFault k t i).any (fun f => f.code == 0x12) then none else some (s.raiseHeld k t h)
  | none, some e => if (s.firstFault k t i).any (State.beforeEcc i) then none else some (s.raiseBad k t e)

/-- A stop that the fetch of the next item meets: a fault, with a held error that falls due there before it, or a wait (R327, R341). -/
def fetchStop (k : Nat) (t : Strand) (e : Stop) (s : State) : Host.Outcome State Fault Refusal :=
  match e with
  | .wait => s.hold t .fetch
  | .fault f => .next ((match State.heldAt t none with | some h => s.raiseHeld k t h | none => s.raiseAt k t f).afterIssue k t none [])

/-- Strand k, which knows the clause it stands in, issues: a pending stop or its next item (R34, R305, R327, R341, R346). -/
def issueAt (k : Nat) (t : Strand) (s : State) : Host.Outcome State Fault Refusal :=
  match s.breakpoint t with
  | some b => .next ((s.raiseAt k t { code := 0x11, sub := 1, arg := b }).afterIssue k t none [])
  | none =>
    match s.delayed t with
    | some d => .next (s.setStrand k { t with delay := some d })
    | none =>
      if s.fetchHeld k t then s.hold t .fetch else
      let s := s.touchItem k t
      match s.nextItem k t with
      | .error e => fetchStop k t e s
      | .ok i =>
        match stopBefore k t i s with
        | some s1 => .next (s1.afterIssue k t none [])
        | none => runItem k t i s

/-- Strand k issues: a back edge that is still due, or its item; where the header of the clause it resumes in has not been read yet, it
is read first (R326, R328). -/
def issueOne (k : Nat) (t : Strand) (s : State) : Host.Outcome State Fault Refusal :=
  if t.edge then thenDo (exec .backEdge s) (fun s1 => s1.afterIssue k t (some .backEdge) (s.edgeBits t)) else
  match s.relocate t with
  | .error e => fetchStop k t e s
  | .ok t1 => issueAt k t1 (if t.lost then s.setStrand k t1 else s)

/-! ### The command core's words (R249, R356) -/

/-- Words of the next item of a prologue. -/
def itemWords (t : Strand) (s : State) : Nat := if t.item = 0 then 1 else scalarWords (s.wordAt t t.itemAddr)

/-- The lane has done with its words of this round. -/
def yieldLane (ln : Nat) (s : State) : State := s.setQueue ln { s.queue ln with round := 64 }

/-- The state after an item of lane ln's prologue, of n words: words counted, a blocked lane yields, a fault refuses its launch, for
which it may have to wait where it stood, in s0 (R249, R358). -/
def ccSettle (ln n : Nat) (t : Strand) (s0 s : State) : State :=
  match s.strand? (ccBase + ln) with
  | none => s
  | some t' =>
    let q := s.queue ln
    if q.phase = .idle then
      let code := fld (s.qreg ln 0x18).toNat 0 8
      if !([4, 6, 7, 8] : List Nat).contains code then { s with strands := AMap.del s.strands (ccBase + ln) }
      else if State.tryWaits (s.refuseIndTry ln code) then yieldLane ln s0
      else { (s.refuseInd ln code) with strands := AMap.del s.strands (ccBase + ln) }
    else if q.phase ≠ .prologue then s.setQueue ln { q with round := q.round + n }
    else if t'.hspc = t.hspc ∧ t'.item = t.item ∧ t'.wait ≠ .none then s.setQueue ln { q with round := 64 }
    else (s.setQueue ln { q with words := q.words + n, round := q.round + n }).setStrand (ccBase + ln) { t' with wait := .none }

/-- Lane ln of the command core runs a word of its prologue, within its 64 of the round and 4096 in all (R249, R356). -/
def ccItem (ln : Nat) (s : State) : Host.Outcome State Fault Refusal :=
  let k := ccBase + ln
  match s.strand? k with
  | none => .next s
  | some t =>
    let s := { s with cur := k }
    let q := s.queue ln
    let n := itemWords t s
    if 64 < q.round + n then .next (yieldLane ln s)
    else if 4096 < q.words + n then
      .next (if State.tryWaits (s.refuseIndTry ln 7) then yieldLane ln s else (s.refuseInd ln 7).qFault ln 7 t.itemAddr.toNat)
    else
      if s.fetchHeld k t then .next (yieldLane ln s) else
      let s := s.touchItem k t
      let o := match s.nextItem k t with
        | .error .wait => s.hold t .fetch
        | .error (.fault f) => .next (if f.code = 0x15 then s.qFault ln 9 f.arg else s.raiseAt k t f)
        | .ok i => (match stopBefore k t i s with | some s1 => .next s1 | none => exec i s)
      thenDo o (fun s1 => ccSettle ln n t s s1)

/-- What runs in order, each in the state that the one before it left. -/
def runEach (f : Nat → State → Host.Outcome State Fault Refusal) : List Nat → State → Host.Outcome State Fault Refusal
  | [], s => .next s
  | x :: xs, s => match f x s with | .next s1 => runEach f xs s1 | o => o

/-- The command core runs one word in the lanes whose SPC is next, if lane k − ccBase is one of them (R249). -/
def issueCc (k : Nat) (s : State) : Host.Outcome State Fault Refusal :=
  let g := proGroup s
  if g.contains (k - ccBase) then runEach ccItem g s else .next s

/-- A strand that may issue: resident, not halted, pending or leaving, its cluster not changing rail (R274); of the command core, a lane
whose SPC is next (R249). -/
def mayIssue (s : State) (k : Nat) (t : Strand) : Bool :=
  if ccBase ≤ k then (proGroup s).contains (k - ccBase)
  else t.run != .halted && t.pend.isNone && t.leave == .no && (s.clu (t.core / 2)).change.isNone

/-- A leaving strand's wait is over but for a held error (R47, R341). -/
def leaveMeets (t : Strand) : Bool := t.leave != .no && t.ops.isEmpty && !t.openHeld.isEmpty

/-- A leaving strand whose wait is over but for a held error meets it at the item where it leaves (R47, R341). -/
def leaveHeld (s : State) (k : Nat) (t : Strand) : State :=
  match t.openHeld.foldl State.older none with
  | some h => if leaveMeets t then (s.raiseHeld k t h).afterIssue k t none [] else s
  | none => s

end Sys2Proof.Machine
end

