-- ==== Sys2Proof/Machine/Arbiter.lean ====
section
/-!
DEFINITION. The issue arbiters, one per spindle, and a strand's turn (spec/02 R32, spec/12 R260, R268, spec/14 R275, log 60).
-/
namespace Sys2Proof.Machine
open Sys2Proof

namespace State
variable (s : State)

/-- The strands of strand t's spindle that may issue an item. -/
def rivals (t : Strand) : List (Nat × Strand) :=
  s.strands.filter (fun e => decide (e.1 < ccBase) && e.2.core == t.core && e.2.slot / 24 == t.slot / 24 && mayIssue s e.1 e.2 && !e.2.edge)

/-- The turn that answered o has moved strand t: it was ready, and does not stand where it stood. -/
def moved (k : Nat) (t : Strand) (o : Host.Outcome State Fault Refusal) : Bool :=
  match o with
  | .next s1 => (match s1.strand? k with | some t1 => !stands t t1 | none => true)
  | _ => true

/-- A turn of strand k would find it ready. -/
def isReady (k : Nat) (t : Strand) : Bool := moved k t (issueOne k t { s with cur := k })

/-- The ready strands of strand t's spindle in ascending slot order; strand k is known to be ready. -/
def readies (k : Nat) (t : Strand) : List (Nat × Strand) :=
  (List.range 24).filterMap (fun i =>
    (s.rivals t).find? (fun e => e.2.slot == t.slot / 24 * 24 + i && (e.1 == k || s.isReady e.1 e.2)))

/-- Strands as requests at the arbiter of their spindle: slot and context. -/
def requests (es : List (Nat × Strand)) : List (Nat × Nat) := es.map (fun e => (e.2.slot, e.2.ctx))

/-- The strand that the arbiter of strand t's spindle grants, of the ready ones (R32, R260, R268). -/
def granted (t : Strand) (es : List (Nat × Strand)) : Option (Nat × Strand) :=
  match s.part? t.part with
  | none => es.head?
  | some p => ((s.arbNow p t.core (t.slot / 24)).pick p.fi p.weight (requests es)).bind (fun r => es.find? (fun e => e.2.slot == r.1))

/-- Fifths of a cycle of the core that the next item of a strand occupies the issue stage, at 4.0 GHz 20 to the ns: four cycles for a lane
instruction that is not suppressed, else one (R314). -/
def issueFifths (t : Strand) : Nat := if decide (0 < t.item) && decide (t.item ≤ t.nl) && !s.stageOff t then 20 else 5

/-- The arbiter of strand t's spindle has granted strand u, of the ready strands es, an item that takes n fifths of a cycle (R258, R268,
R306, R361). -/
def noteGrant (es : List (Nat × Strand)) (n : Nat) (t u : Strand) : State :=
  match s.part? t.part with
  | none => s
  | some p =>
    let j := t.slot / 24
    let a := { (s.arbNow p t.core j).grant p.fi p.weight (requests es) (u.slot, u.ctx) 256 1 1 with now := some u.sid, at_ := s.time : Arb }
    let s := s.setCore t.core { s.core t.core with arb := AMap.put (s.core t.core).arb j a }
    let s := s.setClu (t.core / 2) { s.clu (t.core / 2) with work := (s.clu (t.core / 2)).work + n * popN u.exec.toNat 128 }
    s.setPart t.part { p with used := AMap.set p.used u.ctx (AMap.get p.used u.ctx 0 + n) 0 }

end State

/-- Strand k takes its turn: where its cluster is idle it only finds whether it is ready (R275); where it waits it is seen to wait; a back
edge that is still due takes no issue slot (R58); otherwise its spindle serves the ready strand that its arbiter grants (R32, R268). -/
def issueTurn (k : Nat) (t : Strand) (s : State) : Host.Outcome State Fault Refusal :=
  let s := { s with cur := k }
  if mayIssue s k t = false then .next (leaveHeld s k t)
  else if ccBase ≤ k then issueCc k s
  else
    let o := issueOne k t s
    if State.moved k t o = false then o
    else if (s.clu (t.core / 2)).active = false then .next (s.setStrand k { t with wait := .none })
    else if t.edge then o
    else
      let es := s.readies k t
      match s.granted t es with
      | some (c, u) => thenDo (if c = k then o else issueOne c u { s with cur := c }) (fun s1 => s1.noteGrant es (s.issueFifths u) t u)
      | none => o

end Sys2Proof.Machine
end

