-- ==== Sys2Proof/Machine/Weak.lean ====
section
/-!
DEFINITION. What the act of a plan may show of memory's weakness: stores on their way to other observers (spec/03 R91 to R97, R113,
log 50), reductions on their way to their buffer and window stores on their way to their registers (R78, R99, R197, R240), and read-only
lines that a peer cluster forwards (spec/03 R82, spec/15 R296, log 54).
Memory holds the newest store; an item that only reads runs on memory as its core sees it.  Every other item or event first lets
everything that is on its way arrive, which R78 and R91 to R97 always allow.
-/
namespace Sys2Proof.Machine
open Sys2Proof

/-! ### Views of memory -/

/-- Memory with the listed bytes. -/
def State.withBytes (s : State) (bs : AMap Byte) : State := { s with mem := bs.foldl (fun m e => AMap.set m e.1 e.2 memDefault) s.mem }

/-- The store is seen by core o. -/
def seenBy (o core : Nat) (seen : List Nat) : Bool := core == o || seen.contains o

/-- Bytes that core o sees otherwise than memory has them, the newest store first; beside them the addresses at which it has seen a
newer store than those that follow. -/
def olds (o : Nat) : List Lag → AMap Byte × List Nat → AMap Byte × List Nat
  | [], x => x
  | .rel _ _ :: ls, x => olds o ls x
  | .store a old c seen :: ls, x =>
    if seenBy o c seen then olds o ls (x.1, x.2 ++ (List.range old.length).map (a + ·))
    else olds o ls (((old.zipIdx.map (fun e => (a + e.2, e.1))).filter (fun e => !x.2.contains e.1)).foldl (fun m e => AMap.put m e.1 e.2) x.1, x.2)

/-- Memory's bytes as core o sees them, where it sees them otherwise than they are. -/
def State.view (s : State) (o : Nat) : AMap Byte := (olds o s.lags.reverse ([], [])).1

/-- Nothing is on its way. -/
abbrev State.arrived (s : State) : Prop := s.lags = [] ∧ s.reds = [] ∧ s.wins = []

/-- A window store writes its element. -/
def winIn (s : State) (x : LateWin) : State := winLand x.k x.r x.ln x.o x.n x.val s

/-- The reductions of rs reach their buffers, and the window stores of ws their registers, in the order of issue. -/
def State.landLate (s : State) (rs : List LateRed) (ws : List LateWin) : State := ws.foldl winIn (rs.foldl State.redIn s)

/-- Everything that is on its way arrives. -/
def State.flush (s : State) : State := { s.landLate s.reds s.wins with lags := [], reds := [], wins := [] }

/-- The reductions and window stores chosen by p and q arrive. -/
def State.landSome (s : State) (p : LateRed → Bool) (q : LateWin → Bool) : State :=
  { s.landLate (s.reds.filter p) (s.wins.filter q) with reds := s.reds.filter (fun x => !p x), wins := s.wins.filter (fun x => !q x) }

/-- What runs on memory with the bytes bs in place, which stand again as they were afterwards; where `ok` refuses what it left, or it
has changed one of them, it runs on memory as it is, every store having reached every observer. -/
def underView (bs : AMap Byte) (ok : State → State → Bool) (f : State → Host.Outcome State Fault Refusal) (s : State) :
    Host.Outcome State Fault Refusal :=
  match f (s.withBytes bs) with
  | .next s1 =>
    if ok (s.withBytes bs) s1 && bs.all (fun e => s1.homeByte e.1 == e.2) then .next (s1.withBytes (bs.map (fun e => (e.1, s.homeByte e.1))))
    else f s.flush
  | _ => f s.flush

/-- No byte on its way lies in a line of a combining buffer, an L1, a stash or a home slice. -/
def State.lagsApart (s : State) : Bool :=
  s.lags.all (fun l => match l with
    | .rel _ _ => true
    | .store a _ _ _ =>
      !s.clus.any (fun e => e.2.comb.any (fun x => x.line == a / 256))
        && !s.cores.any (fun e => (AMap.look e.2.l1 (a / 64)).isSome || e.2.stash.any (fun m => m.page == a / 4096 * 4096))
        && !s.slice.any (fun e => e.1 % 2 ^ 46 == a / 64))

/-- Items that write memory or act on more than their strand: they let every store reach every observer first. -/
def hardItem (i : Instr) : Bool :=
  match i with
  | .sts _ _ _ _ => true | .sts2 _ _ _ _ => true | .atoms _ _ _ _ _ _ => true | .st _ => true | .atom _ => true | .red _ => true
  | .stsc _ => true | .atomsc _ => true | .mstore _ => true | .mma _ => true
  | .shtCopyin _ _ _ => true | .shtCopyout _ _ _ => true | .shtGather _ _ _ => true | .shtStash _ _ _ => true
  | .shtUnstash _ _ _ => true | .shtFill _ _ _ => true
  | .claspInit _ _ => true | .claspArrive _ _ => true | .claspArrivetx _ _ => true | .claspWait _ _ => true | .claspTest _ _ => true
  | .claspReg _ _ _ => true | .claspUnreg _ => true | .claspInval _ => true
  | .attach _ _ _ => true | .detach _ => true | .grow _ _ => true | .launch _ _ => true | .exit => true | .rft => true
  | .trap _ => true | .bkpt _ => true | .csrr _ _ => true | .csrw _ _ => true
  | .tbegin _ _ => true | .tend _ => true | .tabort _ => true | .tserial _ _ => true
  | .fence kind _ => kind == 3
  | _ => false

/-- The strand that a turn has served, before and after it, with its item. -/
def State.turnOf (s s1 : State) : Option (Strand × Strand × Option Instr) :=
  match s.strand? s1.cur, s1.strand? s1.cur with
  | some t, some t1 => some (t, t1, if t.edge then none else (match s.nextItem s1.cur t with | .ok i => some i | .error _ => none))
  | _, _ => none

/-- A turn that only reads memory, or only waits: its strand neither stops nor is in a transaction. -/
def softTurn (s s1 : State) : Bool :=
  match s.turnOf s1 with
  | none => false
  | some (t, t1, i) =>
    State.stands t t1 || (t.tx.isNone && t1.pend.isNone && t1.hnd == t.hnd && t1.run == t.run && t1.leave == .no
      && (match i with | some i => !hardItem i | none => t.edge))

/-- A turn that has run a release fence puts its barrier among the stores on their way. -/
def noteBarrier (s s1 : State) : State :=
  match s.turnOf s1 with
  | some (t, t1, some (.fence kind scope)) =>
    if s1.lags ≠ [] ∧ (kind = 1 ∨ kind = 2) ∧ !State.stands t t1 then { s1 with lags := s1.lags ++ [.rel t.core scope] } else s1
  | _ => s1

/-- The accesses of a plain store: virtual address and size; its release's scope where it is one. -/
def storeAccs (t : Strand) (i : Instr) : Option (List (Nat × Nat) × Option Nat) :=
  match i with
  | .st f => some ((lanesOf t.exec).map (fun l => (State.gAddr t f l, sizeBytes (f.sub % 8))), if f.sub / 8 = 2 then some (f.mod % 8) else none)
  | .sts _ p _ off => some ([(smAddr t p off, 4)], none)
  | .sts2 _ p _ off => some ([(smAddr t p off, 8)], none)
  | _ => none

/-! ### Reductions and window stores on their way (R78, R99, R197, R240, log 50) -/

/-- Items that read memory, scratch or the window. -/
def readItem (i : Instr) : Bool :=
  match i with
  | .lds _ _ _ _ => true | .lds2 _ _ _ _ => true | .lds4 _ _ _ _ => true | .ld _ => true | .pref _ => true
  | .ldsc _ => true | .ldwn _ => true | .stwn _ => true
  | _ => false

/-- The addresses that an item of strand t writes, where it may write. -/
def State.storePas (s : State) (t : Strand) (i : Instr) : List Nat :=
  match storeAccs t i with
  | none => []
  | some (vs, _) => vs.filterMap (fun v => match s.xlate t.part t.ctx t.core v.1 t.priv .write with | .ok e => some (State.physOf e v.1) | .error _ => none)

/-- What is on its way may stay so past item i: a plain store that is no release beyond the cluster, a release fence of such a scope, or
an item that neither writes memory nor reads it. -/
def passes (t : Strand) (i : Instr) : Bool :=
  match storeAccs t i with
  | some (_, rel) => rel.all (fun sc => decide (sc ≤ 2))
  | none => (match i with | .fence kind scope => kind == 1 && decide (scope ≤ 2) | _ => !hardItem i && !readItem i)

/-- A reduction arrives before item i of strand t: one of the strand's cluster that the item may not pass, or whose line it writes (R99, R100);
of another cluster before an item that acts on more than its strand. -/
def State.redFirst (s : State) (t : Strand) (i : Instr) (x : LateRed) : Bool :=
  if x.core / 2 = t.core / 2 then !passes t i || (s.storePas t i).any (fun pa => pa / 256 == x.pa / 256)
  else hardItem i && (storeAccs t i).isNone

/-- A window store arrives before item i of strand t, of key k: the strand's own before what it may not pass and before any release, another's
before an item that acts on more than its strand (R78, R92). -/
def winFirst (k : Nat) (t : Strand) (i : Instr) (x : LateWin) : Bool :=
  (hardItem i && (storeAccs t i).isNone) || (x.me == k &&
    (!passes t i || (match storeAccs t i with | some (_, rel) => rel.isSome | none => (match i with | .fence _ _ => true | _ => false))))

/-- The state in which strand k takes its turn: what its item may not pass has arrived. -/
def State.lateFor (s : State) (k : Nat) : State :=
  if s.reds = [] ∧ s.wins = [] then s else
  match s.strand? k with
  | none => s
  | some t =>
    if ccBase ≤ k then s.flush else
    match (if t.edge then .error .wait else s.nextItem k t) with
    | .ok i => s.landSome (s.redFirst t i) (winFirst k t i)
    | .error _ => s

/-- Strand k takes its turn on memory as its core sees it. -/
def seenTurn (k : Nat) (s : State) : Host.Outcome State Fault Refusal :=
  let s := if s.lagsApart && decide (k < ccBase) then s else { s with lags := [] }
  match s.strand? k with
  | none => .fault .noStrand
  | some t =>
    if s.lags = [] then issueTurn k t s
    else thenDo (underView (s.view t.core) softTurn (issueTurn k t) s) (noteBarrier s)

/-- Strand k takes its turn; where its spindle serves another strand while reductions or window stores are on their way, they arrive
first. -/
def viewTurn (k : Nat) (s : State) : Host.Outcome State Fault Refusal :=
  let s1 := s.lateFor k
  match seenTurn k s1 with
  | .next s2 => if s2.cur = k ∨ (s1.reds = [] ∧ s1.wins = []) then .next s2 else seenTurn k s1.flush
  | o => o

/-! ### A store that reaches other observers later -/

/-- Two stores that share a byte. -/
def overlap (a b : Lag) : Bool :=
  match a, b with
  | .store x o _ _, .store y p _ _ => decide (x < y + p.length) && decide (y < x + o.length)
  | _, _ => false

/-- Core o, or with none some other agent, lies within a scope of a core; scope weave is taken as its cluster (R93, R89). -/
def inScope (core scope : Nat) (o : Option Nat) : Bool :=
  match scope, o with
  | 0, _ => false
  | _, none => true
  | 1, some o => o / 2 == core / 2
  | 2, some o => o / 2 == core / 2
  | 3, some o => o / 64 == core / 64
  | _, some _ => true

/-- A release that includes o stands between stores j and i of the list: it is by i's core, which sees j (R95). -/
def barred (ls : List Lag) (o : Option Nat) (j i : Nat) : Bool :=
  match ls[j]?, ls[i]? with
  | some (.store _ _ cj seen), some (.store _ _ ci _) =>
    seenBy ci cj seen && ((ls.drop (j + 1)).take (i - j - 1)).any (fun l => match l with | .rel c sc => c == ci && inScope c sc o | _ => false)
  | _, _ => false

/-- What becomes visible with the stores shown to core o and those that reach every observer: below j, the earlier stores to the same
bytes, and what a release puts before them, which reaches every observer (R91, R95). -/
def reach (ls : List Lag) (o : Nat) : Nat → List Nat × List Nat → List Nat × List Nat
  | 0, x => x
  | j + 1, x =>
    let meets := fun (i : Nat) => match ls[j]?, ls[i]? with | some a, some b => overlap a b | _, _ => false
    if x.2.any (fun i => meets i || barred ls none j i) || x.1.any (fun i => barred ls (some o) j i) then reach ls o j (x.1, j :: x.2)
    else if x.1.any meets then reach ls o j (j :: x.1, x.2)
    else reach ls o j x

/-- The stores of `all` have reached every observer, those of `one` core o. -/
def reached (ls : List Lag) (o : Nat) (one all : List Nat) : List Lag :=
  ((ls.zipIdx.filter (fun e => !all.contains e.2)).map (fun e =>
    match e.1 with
    | .store a old c seen => if one.contains e.2 then .store a old c (o :: seen) else e.1
    | .rel _ _ => e.1)).dropWhile (fun l => match l with | .rel _ _ => true | _ => false)

/-- Store i becomes visible to core o. -/
def State.showTo (s : State) (i o : Nat) : State :=
  let x := reach s.lags o i ([i], [])
  { s with lags := reached s.lags o x.1 x.2 }

/-- Store i becomes visible to every observer. -/
def State.showAll (s : State) (i : Nat) : State := { s with lags := reached s.lags 0 [] (reach s.lags 0 i ([], [i])).2 }

/-- The plain store that strand k runs next, if what it stores may reach other observers later: physical ranges, release scope.  It is
to HC pages of the part's own memory, outside a transaction, and stores no byte twice. -/
def State.lateStore (s : State) (k : Nat) (t : Strand) : Option (List (Nat × Nat) × Option Nat) :=
  if t.edge || t.tx.isSome || decide (ccBase ≤ k) then none else
  match s.nextItem k t with
  | .error _ => none
  | .ok i =>
    if decide (0 < t.item) && decide (t.item ≤ t.nl) && s.stageOff t then none else
    match storeAccs t i with
    | none => none
    | some (vs, rel) =>
      let ps := vs.filterMap (fun v => match s.xlate t.part t.ctx t.core v.1 t.priv .write with
        | .ok e => if e.coh = 0 ∧ e.peer = false ∧ isSys (State.physOf e v.1) = false then some (State.physOf e v.1, v.2) else none
        | .error _ => none)
      let apart := ps.zipIdx.all (fun a => ps.zipIdx.all (fun b => a.2 == b.2 || decide (a.1.1 + a.1.2 ≤ b.1.1) || decide (b.1.1 + b.1.2 ≤ a.1.1)))
      if ps.length = vs.length ∧ ps ≠ [] ∧ apart then some (ps, rel) else none

/-- The stores of others to these bytes become visible to core o. -/
def State.seeOthers (s : State) (o : Nat) (ps : List (Nat × Nat)) : State :=
  (List.range s.lags.length).reverse.foldl (fun (s : State) i =>
    match s.lags[i]? with
    | some l => if ps.any (fun p => overlap l (.store p.1 (List.replicate p.2 0#8) o [])) then s.showTo i o else s
    | none => s) s

/-- The item that strand k runs next is a reduction or a window store, no release and outside a transaction: what it writes may be on its
way. -/
def State.lateItem (s : State) (k : Nat) (t : Strand) : Bool :=
  !t.edge && t.tx.isNone && decide (k < ccBase) && (match s.nextItem k t with
    | .ok (.red f) => f.sub / 16 != 2
    | .ok (.stwn f) => f.sub / 8 != 2
    | _ => false)

/-- Strand k takes its turn; what its reduction or window store writes is on its way (R78, R99). -/
def slowTurn (k : Nat) (t : Strand) (s : State) : Host.Outcome State Fault Refusal :=
  match issueTurn k t { s with lags := [], late := true } with
  | .next s1 => if s1.cur = k then .next { s1 with late := false } else viewTurn k s
  | _ => viewTurn k s

/-- Strand k takes its turn; what a plain store stores is on its way to the other observers (R97, R113). -/
def lateTurn (k : Nat) (s : State) : Host.Outcome State Fault Refusal :=
  let s := s.lateFor k
  match s.strand? k with
  | none => .fault .noStrand
  | some t =>
    if s.lateItem k t then slowTurn k t s else
    match s.lateStore k t with
    | none => viewTurn k s
    | some (ps, rel) =>
      let s0 := s.seeOthers t.core ps
      let bar : List Lag := match rel with | some sc => if s0.lags = [] then [] else [.rel t.core sc] | none => []
      let new : List Lag := ps.map (fun p => .store p.1 (s0.homeBytes p.1 p.2) t.core [])
      match issueTurn k t s0 with
      | .next s1 =>
        (match s1.strand? k with
          | some t1 =>
            if s1.cur = k ∧ !State.stands t t1 ∧ t1.pend.isNone ∧ t1.hnd = t.hnd ∧ t1.run = t.run
            then (let s2 : State := { s1 with lags := s0.lags ++ bar ++ new }
                  .next (if s2.lagsApart then s2 else { s2 with lags := [] }))
            else viewTurn k s
          | none => viewTurn k s)
      | _ => viewTurn k s

/-! ### Read-only lines that a peer forwards (R82, R296) -/

/-- The cluster that the predictor of cluster c names for a line (R296). -/
def State.predicted (s : State) (c line : Nat) : Nat := ((AMap.look (s.clu c).pred (line % 256)).getD (Config.predictor c (line % 256)))

/-- The words of a line that the predicted cluster forwards to strand t: it lies on the same die and in the same partition, and holds
them from since the strand's bolt began (R82, R296). -/
def State.forwarded (s : State) (t : Strand) (line : Nat) : AMap (Nat × Word) :=
  let c := t.core / 2
  let p := s.predicted c line
  let began := ((s.weave? t.weave).bind (fun w => s.bolt? w.bolt)).map (·.time)
  if p = c ∨ p / 32 ≠ c / 32 ∨ s.ownerOf p ≠ s.ownerOf c then []
  else (s.clu p).ro.filter (fun e => e.1 / 64 == line && (match began with | some b => decide (b ≤ e.2.1) | none => false))

/-- The lines of the read-only load that strand k runs next, with what is forwarded of them. -/
def State.roLoad (s : State) (k : Nat) (t : Strand) : List (Nat × AMap (Nat × Word)) :=
  if t.edge || t.tx.isSome || decide (ccBase ≤ k) then [] else
  match s.nextItem k t with
  | .ok (.ld f) =>
    let ps := (lanesOf t.exec).filterMap (fun l => match s.xlate t.part t.ctx t.core (State.gAddr t f l) t.priv .read with
      | .ok e => if e.coh = 2 ∨ isSys (State.physOf e (State.gAddr t f l)) then none else some (State.physOf e (State.gAddr t f l), e)
      | .error _ => none)
    (State.roLines (f.mod.testBit 3) ps).filterMap (fun x => let ws := s.forwarded t x.1; if ws = [] then none else some (x.1, ws))
  | _ => []

/-- The forwarded copies are now the requesting cluster's too, as old as they were; both clusters' predictors name the other (R296). -/
def State.noteForward (s0 s : State) (c : Nat) (ls : List (Nat × AMap (Nat × Word))) : State :=
  ls.foldl (fun (s : State) x =>
    let p := s0.predicted c x.1
    let s := s.setClu c { s.clu c with ro := x.2.foldl (fun m e => AMap.put m e.1 e.2) (s.clu c).ro, pred := AMap.put (s.clu c).pred (x.1 % 256) p }
    s.setClu p { s.clu p with pred := AMap.put (s.clu p).pred (x.1 % 256) c }) s

/-- Strand k takes its turn, its read-only load served by the cluster that the predictor names (R82). -/
def forwardTurn (k : Nat) (s : State) : Host.Outcome State Fault Refusal :=
  let s := s.flush
  match s.strand? k with
  | none => .fault .noStrand
  | some t =>
    let ls := s.roLoad k t
    if ls = [] then issueTurn k t s else
    let bs := (ls.flatMap (·.2)).flatMap (fun e => (List.range 4).map (fun i => (4 * e.1 + i, byteAt e.2.2.toNat i)))
    underView bs (fun s0 s1 => s1.cur == k && softTurn s0 s1)
      (fun s1 => thenDo (issueTurn k t s1) (fun s2 => State.noteForward s s2 (t.core / 2) ls)) s

end Sys2Proof.Machine
end

