-- ==== Sys2Proof/Machine/Notes.lean ====
section
/-!
DEFINITION. What the model notes after an act or a step: the register elements and scale tiles whose last write the matrix engine may
miss (spec/03 R103, R104, log 51), and what the learner's sensors gather (spec/12 R258, R259, log 61).
-/
namespace Sys2Proof.Machine
open Sys2Proof

/-! ### What the matrix engine may miss (R103) -/

/-- The vector elements that differ, with their earlier values. -/
def changedEls (a b : Strand) : List (Nat × Word) :=
  if a.v = b.v then [] else
  (List.range b.budget).flatMap (fun r =>
    let x := a.getV r; let y := b.getV r
    if x = y then [] else
    (List.range 128).filterMap (fun l => if Vec.lane x l = Vec.lane y l then none else some (512 + 128 * r + l, Vec.lane x l)))

/-- The addresses at which two memories differ; fuel for both lists. -/
def diffKeys : Nat → AMap Byte → AMap Byte → List Nat
  | 0, _, _ => []
  | _ + 1, [], ys => ys.map (·.1)
  | _ + 1, xs, [] => xs.map (·.1)
  | n + 1, x :: xs, y :: ys =>
    if x.1 < y.1 then x.1 :: diffKeys n xs (y :: ys)
    else if y.1 < x.1 then y.1 :: diffKeys n (x :: xs) ys
    else if x.2 = y.2 then diffKeys n xs ys else x.1 :: diffKeys n xs ys

/-- The scratch words that differ, numbered as Mx.old numbers them, with their earlier values. -/
def changedTiles (a b : Weave) : List (Nat × Word) :=
  if a.scr = b.scr then [] else
  (((diffKeys (a.scr.length + b.scr.length + 1) a.scr b.scr).map (· / 4)).eraseDups).map (fun w =>
    (2 ^ 20 + w, BitVec.ofNat 32 (natOf ((List.range 4).map (fun i => AMap.get a.scr (4 * w + i) 0#8)))))

/-- Every MMA that has been posted and has not met may miss these writes too. -/
def missNow (es : List (Nat × Word)) (q : List MxOp) : List MxOp :=
  q.map (fun o => match o with
    | .mma p => .mma { p with miss := p.miss ++ es.map (fun e => (e.1, e.2, true)) }
    | o => o)

/-- These elements have been written, each with its value before: an MMA posted later may miss that as the tag says (Mx.old); with none the
write is of a lane ALU instruction of the strand, which it sees, and with it every earlier write of the element (R103). -/
def keepOld (tag : Option Nat) (es : List (Nat × Word)) (t : Strand) : Strand :=
  if es = [] then t else
  { t with mx := { t.mx with
    old := match tag with
      | some g => oldKept t ++ es.map (fun e => (e.1, e.2, g))
      | none => t.mx.old.filter (fun o => !(es.map (·.1)).contains o.1),
    q := missNow es t.mx.q } }

/-- The engine has written these elements: of what came before nothing is left to miss. -/
def engineWrote (es : List Nat) (t : Strand) : Strand :=
  { t with mx := { t.mx with
    old := t.mx.old.filter (fun o => !es.contains o.1),
    q := t.mx.q.map (fun o => match o with
      | .mma p => .mma { p with miss := p.miss.filter (fun o => !es.contains o.1) }
      | o => o) } }

/-- The operation that an act completes or delivers, if it is strand m's: by path, or by number. -/
def landedOp (a : Act) (m : Nat) (t : Strand) : Option Nat :=
  match a with
  | .event (.retComplete k p) => if k = m then (t.ops.find? (fun o => o.path == pathOf p)).map (·.id) else none
  | .event (.shuttleComplete k) => if k = m then (t.ops.find? (fun o => o.path == .sh)).map (·.id) else none
  | .land k id _ => if k = m then some id else none
  | _ => none

/-- How the engine may miss what an act has written in strand m's registers, or in the scratch of its weave (R103): those of
lane ALU instructions are seen, those of an operation of the strand by a MOPF after it, others by any MOPF. -/
def missTag (a : Act) (cur m : Nat) (t t1 : Strand) (tile : Bool) : Option Nat :=
  match landedOp a m t with
    | some id => some (id + 1)
    | none =>
      if (match a with | .issue _ => true | .issueLate _ => true | .issueFwd _ => true | _ => false) && cur == m then
        (if tile || t1.ops.any (fun o => o.path == .sc && o.id == t.nextOp) then some (t.nextOp + 1) else none)
      else some (2 ^ 64)

/-- What an act has left for the matrix engine to miss, in every strand with a quad (R103, log 51). -/
def noteMx (a : Act) (s s1 : State) : State :=
  (s1.strands.filter (fun e => e.2.mx.quad != 0)).foldl (fun (s1 : State) e =>
    match s.strand? e.1 with
    | none => s1
    | some t =>
      if t.sid ≠ e.2.sid ∨ t.weave ≠ e.2.weave then s1 else
      let els := changedEls t e.2
      let tiles := match s.weave? t.weave, s1.weave? t.weave with | some x, some y => changedTiles x y | _, _ => []
      if els = [] ∧ tiles = [] then s1 else
      if (mmasOf e.2).length < (mmasOf t).length then s1.setStrand e.1 (engineWrote (els.map (·.1)) e.2) else
      s1.setStrand e.1 (keepOld (missTag a s1.cur e.1 t e.2 true) tiles (keepOld (missTag a s1.cur e.1 t e.2 false) els e.2))) s1

/-! ### What the sensors gather (R258, R259) -/

/-- n more under a key. -/
def addAt (m : AMap Nat) (k n : Nat) : AMap Nat := if n = 0 then m else AMap.set m k (AMap.get m k 0 + n) 0

/-- A bolt's weaves given out, and retired, over its dies. -/
def Bolt.placed (b : Bolt) : Nat := (b.dies.map (fun r => r.next - r.start)).sum
def Bolt.ended (b : Bolt) : Nat := (b.dies.map (·.retired)).sum

/-- What a step does for one bolt's context: weaves retired; a bolt that is gone has retired all, unless a SAVE has taken it away. -/
def measBolt (s1 : State) (e : Nat × Bolt) (m : Meas) : Meas :=
  let away := (s1.part? e.2.part).any (fun p => p.saved.any (fun v => v.out && v.bolts.any (fun b => b.1 == e.1)))
  match s1.bolt? e.1 with
  | none => if away then m else { m with thru := addAt m.thru e.2.ctx ((e.2.dies.map (fun r => r.stop - r.start)).sum - e.2.ended) }
  | some b =>
    let placed := b.placed - e.2.placed
    let first := !e.2.started && b.started
    { m with
      thru := addAt m.thru b.ctx (b.ended - e.2.ended), waitN := m.waitN + placed, wait := m.wait + placed * (s1.time - b.time),
      latN := addAt m.latN b.ctx (bitIf first 0), lat := addAt m.lat b.ctx (if first then s1.time - b.time else 0) }

/-- The contexts of a partition that have a strand, an enabled queue or a launch. -/
def liveContexts (s : State) (p : Nat) : List Nat :=
  (List.range 16).filter (fun c =>
    s.strands.any (fun e => decide (e.1 < ccBase) && e.2.part == p && e.2.ctx == c)
      || (List.range 8).any (fun q => s.laneOn (8 * p + q) && s.qctx (8 * p + q) == c)
      || s.bolts.any (fun e => e.2.part == p && e.2.ctx == c))

/-- Fifths of a cycle that the spindles of strands of a partition have run in dt ns, on the rails of their clusters: 20 to the ns at 4.0 GHz,
13 at 2.6 GHz (R18, R258). -/
def spunIn (s : State) (mine : List (Nat × Strand)) (dt : Nat) : Nat :=
  dt * (((mine.map (fun e => (e.2.core, e.2.slot / 24))).eraseDups).map (fun c => if (s.clu (c.1 / 2)).hi then 20 else 13)).sum

/-- What a step adds to a partition's utilisation, and to the interval of partition p, where its learner runs. -/
def measPart (s s1 : State) (p : Nat) (x : Part) : Part :=
  let dt := s1.time - s.time
  let mine := s.strands.filter (fun e => decide (e.1 < ccBase) && e.2.part == p)
  let x := if dt = 0 then x else { x with spun := x.spun + spunIn s mine dt }
  if x.learnOn = false then x else
  let m := x.meas
  let m := { m with
    hi := m.hi + dt * ((partClusters x.cfg).filter (fun c => (s.clu c).hi)).length,
    strands := if dt = 0 then m.strands else mine.foldl (fun a e => addAt a e.2.ctx dt) m.strands,
    live := (m.live ++ liveContexts s1 p).eraseDups }
  { x with meas := (s.bolts.filter (fun e => e.2.part == p)).foldl (fun m e => measBolt s1 e m) m }

/-- What a step from s to s1 adds to the sensors of every partition. -/
def measure (s s1 : State) : State := { s1 with parts := s1.parts.map (fun e => (e.1, measPart s s1 e.1 e.2)) }

end Sys2Proof.Machine
end

