-- ==== Sys2Proof/Machine/Sched.lean ====
section
/-!
DEFINITION. The acts of a plan, and the events that happen by themselves when the plan is empty (logs 1 and 5).
-/
namespace Sys2Proof.Machine
open Sys2Proof

/-- Strand k issues, as an act; of the command core a word of a prologue, once the round has come to it (R248, R249). -/
def issue (k : Nat) (s : State) : Host.Outcome State Fault Refusal := thenDo (viewTurn k (if ccBase ≤ k then toWords s else s)) State.settle

/-! ### Events -/

/-- A packet's type and lane: its turn comes in its group of a round (R248). -/
def packetOf (i : Instr) : Option (Nat × Nat) :=
  match i with
  | .writeSignal ln => some (1, ln) | .waitSignal ln => some (2, ln) | .launchInd ln => some (3, ln)
  | .launchPacket ln => some (4, ln) | .copy ln => some (5, ln) | .marker ln => some (6, ln)
  | _ => none

/-- An event happens: its meaning, of a packet in its place of the round (R248, R249), and the packets of the traced strands it changed (R310). -/
def happen (i : Instr) (s : State) : Host.Outcome State Fault Refusal :=
  if i.isItem then .fault .noStrand else
  thenDo (match packetOf i with | some (type, ln) => .next (packetTurn type ln s) | none => exec i s) (fun s1 =>
    let back := match i with | .backEdge => true | _ => false
    ((s.strands.filter (fun e => e.2.tr.on)).foldl (fun (s1 : State) e =>
      s1.traceChange e.1 none (if back && e.1 == s.cur then s.edgeBits e.2 else []) e.2) s1).settle)

/-! ### Acts of the plan (log 1) -/

/-- One element or chunk of an operation lands before the operation completes (R101, R152). -/
def landOne (k id e : Nat) (s : State) : State :=
  match s.strand? k with
  | none => s
  | some t =>
    match t.ops.find? (fun o => o.id == id) with
    | some o => if o.path = .sh then s.landChunk k id e else s.setStrand k (t.landEarly id e)
    | none => s

/-- A sector leaves the L1 of a core, unless its dirty words lie in the footprint of a serial transaction (R111). -/
def evictSector (core sector : Nat) (s : State) : State :=
  let held := match AMap.look (s.core core).l1 sector with
    | some x => x.dirty != 0#16 && s.serialHolds hwAgent (64 * sector) true
    | none => false
  if held then s else s.l1Clean core sector true

/-- The oldest line of a cluster's combining buffer goes home (R99), unless a serial transaction holds it (R111). -/
def evictOldest (c : Nat) (s : State) : State :=
  match (s.clu c).comb with
  | l :: _ => if s.serialMeets hwAgent (256 * l.line) 256 true then s else s.sendLine c l
  | [] => s

/-- The host or a peer writes n bytes of its own memory, within one sector (R300, R301); what a home slice holds of a peer's stays as it is. -/
def farStore (pa n v : Nat) (s : State) : State :=
  if isSys pa = false ∨ 8 < n ∨ 64 < pa % 64 + n ∨ s.serialHolds hwAgent pa true then s else
  let s := (s.combine pa).doomBut (fun _ _ => false) pa true
  { s with mem := State.writeBytes s.mem pa (bytesOf v n), poison := s.poison.filter (fun w => !(State.wholeWords pa n).contains w) }

/-- The acts that leave on its way what is on its way: turns, which see to it themselves, what only shows such a store, what only completes an
operation or drops a copy, and time. -/
def keepsLags (a : Act) (s : State) : Bool :=
  match a with
  | .issue _ => true | .issueLate _ => true | .issueFwd _ => true | .tick _ => true | .show _ _ => true | .home _ => true
  | .redIn _ => true | .winIn _ => true | .evictTlb _ _ => true | .evictCc _ _ => true | .evictL2 _ => true | .partialMma _ _ _ _ => true
  | .event (.retComplete _ _) => true | .event (.srcComplete _ _) => true | .event .backEdge => true | .event (.batchRetire _) => true
  | .land k id _ => (match s.strand? k with | some t => !t.ops.any (fun o => o.id == id && o.path == .sh) | none => true)
  | _ => false

/-- What act a needs to have arrived: everything, or only what the operation that it completes has written (R37). -/
def flushFor (a : Act) (s : State) : State :=
  if !keepsLags a s then s.flush else
  match a with
  | .event (.srcComplete k p) => if s.reds = [] ∧ s.wins = [] then s else s.landSome (fun x => x.me == k && p == 1) (fun x => x.me == k && p == 2)
  | _ => s

/-- The act's effect. -/
def actGo (a : Act) (s : State) : Host.Outcome State Fault Refusal :=
  match a with
  | .issue k => issue k s
  | .event i => happen i s
  | .tick n => .next { s with time := s.time + n }
  | .land k id e => .next (landOne k id e s).settle
  | .evictL1 core sector => .next (evictSector core sector s).settle
  | .evictTlb core key => .next (if core < 512 then s.setCore core { s.core core with tlb := AMap.del (s.core core).tlb key }
      else s.setClu (core - 512) { s.clu (core - 512) with tlb := AMap.del (s.clu (core - 512)).tlb key })
  | .evictCc core unit => .next (s.setCore core { s.core core with cc := AMap.del (s.core core).cc unit })
  | .evictComb c => .next (evictOldest c s).settle
  | .evictL2 line => .next (s.l2Evict line)
  | .evictSlice sector => .next (s.parts.foldl (fun (s : State) e => s.sliceEvict e.1 (64 * sector)) s)
  | .issueLate k => thenDo (lateTurn k s) State.settle
  | .show i o => .next (s.showTo i o)
  | .home i => .next (s.showAll i)
  | .redIn i => .next (match s.reds[i]? with | some x => { s.redIn x with reds := s.reds.eraseIdx i } | none => s)
  | .winIn i => .next (match s.wins[i]? with | some x => { winIn s x with wins := s.wins.eraseIdx i } | none => s)
  | .issueFwd k => thenDo (forwardTurn k s) State.settle
  | .meetOld k els kept =>
    let of_ := fun (es : List (Nat × Nat)) (m : Nat) => (es.filter (fun e => e.1 == m)).map (·.2)
    .next (s.meet (of_ els) (of_ kept) k).settle
  | .partialMma k l n b => .next (s.partialSum k l n b)
  | .copyIn ln c i => .next (copyIn ln c i s).settle
  | .newImage r => .next (newImage r s)
  | .farStore pa n v => .next (farStore pa n v s).settle
  | .winRead off => .next (s.winLatch off)

/-- The act, with what it leaves for the matrix engine to miss (R103). -/
def act (a : Act) (s : State) : Host.Outcome State Fault Refusal :=
  let s0 := flushFor a s
  match a with
  | .partialMma _ _ _ _ => actGo a s0
  | _ => thenDo (actGo a s0) (noteMx a s0)

/-! ### What happens by itself when the plan is empty (log 5) -/

namespace State
variable (s : State)

/-- An event of strand k that is due: a trap entry, its departure, an arrival, a joint MMA, a batch, the watchdog, a trace block, a denied GROW. -/
def strandEvent (k : Nat) (t : Strand) : Option Instr :=
  if t.run != .halted && (s.clu (t.core / 2)).change.isNone
      && (match t.pend with | some pe => pe.halt.isSome || (t.drained3 && !s.entryWaits k t) | none => false) then some (.trapEntry k)
  else if canDepart t && !s.claspsWait k t then some (.departure k)
  else if s.quadReady t then some (.mmaMeet k)
  else if (match t.ops.find? (fun o => o.path == .mx) with | some o => o.batch.all (fun b => batchDone t b) | none => false) then some (.batchRetire k)
  else match (s.weave? t.weave).bind (fun w => w.helds.find? (fun a => s.arrivalDue k t a)) with
    | some a => some (.heldArrival k a.h)
    | none =>
      let wd := (s.csr t.part 0xE1C).toNat
      if wd ≠ 0 ∧ t.run ≠ .halted ∧ t.pend.isNone ∧ t.since + 1000 * wd < s.time ∧ (timeoutOf s t).isSome then some (.timeout k)
      else if t.tr.on ∧ t.tr.block ≠ [] ∧ t.tr.holding = false ∧ t.tr.last + 1000 ≤ s.time then some (.traceTimeout k)
      else if growBlocked t ∧ allGrow s t.core then some (.growDecided k)
      else none

/-- The completion of strand k's oldest operation off the matrix path. -/
def completion (k : Nat) (t : Strand) : Option Instr :=
  match t.ops.find? (fun o => o.path != .mx) with
  | none => none
  | some o => match o.path with
    | .sh => some (.shuttleComplete k)
    | .st => some (.srcComplete k 1)
    | p => some (.retComplete k p.code)

/-- An event of partition p that is due. -/
def partEvent (p : Nat) (x : Part) : Option Instr :=
  if (decisionDue x s.time).isSome then some (.decision p (Config.sensed p s.time))
  else if hallmarkDue s x && !hallmarkWaits s x then some (.periodicHallmark p)
  else match (if hallmarkWaits s x then none else x.ctxEnd.find? (fun c => decide (16 ≤ c))) with
    | some c => some (.contextEndHallmark p (c - 16))
    | none =>
      let w := x.rd 0xE00
      if (attrDone s p).isSome then some (.attrSignal p)
      else if w.getLsbD 4 && saveReady s p (pctx x) then some (.save p 0)
      else if w.getLsbD 5 && restoreReady s p then some (.restore p 0)
      else if w.getLsbD 6 && killReady s p (pctx x) then some (.kill p 0)
      else if prstReady s p then some (.prstGo 0)
      else if (partClusters x.cfg).any (wantsWake s) then some (.slewStep p)
      else match (List.range 8).find? (fun q => (copyDone s (8 * p + q)).isSome) with
        | some q => some (.copyComplete (8 * p + q))
        | none =>
          if s.bolts.isEmpty then none else
          (List.range 4).findSome? (fun d => (s.admChoose p d).map (fun c => .weaveAdmission p d c))

/-- The event that happens next by itself, if one is due: the control boundary, an anchor, rails, strands, bolts, partitions. -/
def dueEvent : Option Instr :=
  if s.parts ≠ [] ∧ s.bound + 2000 ≤ s.time then some (.controlBoundary (Config.measured (s.bound + 2000)))
  else if s.anchorDue ≤ s.time then some (.anchorWrite 1)
  else match s.clus.find? (fun e => e.2.change.any (fun c => decide (c.2 ≤ s.time))) with
    | some e => some (.railChange e.1)
    | none =>
      match (s.strands.filter (fun e => decide (e.1 < ccBase))).findSome? (fun e => s.strandEvent e.1 e.2) with
      | some i => some i
      | none =>
        match s.bolts.find? (fun e => s.boltReady e.2) with
        | some e => some (.boltComplete e.1)
        | none => s.parts.findSome? (fun e => s.partEvent e.1 e.2)

/-- Where `cur` stands when the strands have all had their turn. -/
def wrapMark : Nat := 2 ^ 20

/-- A queue of the command core has something to do. -/
def ccWork : Bool := s.ccGroup != 0 || (List.range 64).any (fun ln => s.mayStart ln || (s.queue ln).phase == .prologue)

/-- The next strand that may issue or has an operation in flight, in ascending order after the present one. -/
def nextStrand : Option (Nat × Strand) :=
  s.strands.find? (fun e => (decide (s.cur < e.1) || decide (wrapMark ≤ s.cur))
    && (mayIssue s e.1 e.2 || !e.2.ops.isEmpty || leaveMeets e.2))

end State

/-- The step of an empty plan: a due event; else the next strand's completion or item; else a round of the command core; else
time passes. -/
def autoStep (s : State) : Host.Outcome State Fault Refusal :=
  let s := s.flush
  match s.dueEvent with
  | some i => happen i s
  | none =>
    let s := { s with time := s.time + 1 }
    match s.nextStrand with
    | some (k, t) =>
      (match State.completion k t with
        | some i =>
          let s1 := stateOr s (happen i s)
          if ((s1.strand? k).map (fun (t1 : Strand) => t1.ops.length)).getD 0 < t.ops.length then .next s1 else issue k s
        | none => issue k s)
    | none => if s.ccWork then happen .ccRound { s with cur := State.wrapMark } else .next { s with cur := State.wrapMark }

end Sys2Proof.Machine
end

