-- ==== Sys2Proof/Machine/Step.lean ====
section
/-!
DEFINITION. One step of the part: the next act of the plan, or what happens by itself (logs 1 and 5); and how one
instruction is placed where the next step fetches it (log 2).
-/
namespace Sys2Proof.Machine
open Sys2Proof

/-- One step: the plan's next act, or what happens by itself when it has none, with what it adds to the learner's sensors. -/
def step (s : State) : Host.Outcome State Fault Refusal :=
  thenDo (match s.plan with | a :: rest => act a { s with plan := rest } | [] => autoStep s) (measure s)

/-! ### A program of one instruction (log 2) -/

/-- The page tables of context 0 of partition 0: one page at virtual 0, all permissions, HC, at physical 0x5000. -/
def placeTables (m : AMap Byte) : AMap Byte :=
  [(0x1000, 0x2000), (0x2000, 0x3000), (0x3000, 0x4000), (0x4000, 0x5000)].foldl (fun m e => State.writeBytes m e.1 (bytesOf (e.2 + 15) 8)) m

/-- The partition a placed program runs in. -/
def placePart : Part :=
  (newPart { p := 0, dies := 1, x0 := 0, x1 := 7, y0 := 0, y1 := 3, ioshare := 0, lpmask := 0, pb := 800 }).wr64 0x200 0x1001

/-- The weave and the bolt of the placed strand. -/
def placeWeave : Weave :=
  { wid := 0, bolt := 1, home := 0, part := 0, ctx := 0, wmin := 1, wmax := 64, y := 0, resv := [0, 0, 0], attSeq := 0, binds := [],
    recs := [], helds := [], scr := [], scrLen := 4096, scrPoison := [], children := 0 }
def placeBolt : Bolt :=
  { bid := 0, desc := descOfWords 0 (fun _ => 0#32) [], depth := 0, parent := none, part := 0, ctx := 0, priv := true, lane := none,
    signal := false, dies := [{ die := 0, start := 0, next := 1, stop := 1, retired := 0 }], started := true, time := 0 }

/-- The placed strand: privileged, 128 registers, its clause's header at 0x100, its lane section at 0x800, lane 0 active. -/
def placeStrand (now item nl ns : Nat) : Strand :=
  { newStrand 0 1 0 0 0 0 128 0 0 true 0#64 0x800#64 0x100#64 0#32 0 now with
    item := item, nl := nl, ns := ns, exec := 1#128, live := 1#128 }

/-- s with an instruction of table bits w stored where the next step fetches: on a strand of core 0, or on lane 0 of the
command core for GO, CANCEL and REPEAT. -/
def State.withFetchWord (s : State) (nbits w : Nat) : State :=
  let scalar := decide (nbits ≤ 64)
  let header := scalar && fld w 26 6 == 63
  let cc := scalar && fld w 26 6 == 53 && [7, 8, 9].contains (fld w 20 6)
  let n := scalarWords w
  let t := if header then placeStrand s.time 0 0 0 else if scalar then placeStrand s.time 1 0 n else placeStrand s.time 1 1 0
  let head := 0xFC003FC0 + (if scalar then n else 8)
  let m := placeTables s.mem
  let m := if header then State.writeBytes m 0x5100 (bytesOf w 4)
    else if scalar then State.writeBytes m 0x5100 (bytesOf head 4 ++ bytesOf w 8)
    else State.writeBytes (State.writeBytes m 0x5100 (bytesOf head 4)) 0x5800 (bytesOf w 12)
  let p := if cc then { placePart.wr 0x808 0x101#32 with queues := [(0, { State.queueDefault with phase := .prologue })] } else placePart
  let k := if cc then ccBase else 0
  let t := if cc then { t with core := 256, weave := 0 } else t
  let clu0 := s.clu 0
  let s1 := { s with
    plan := [.issue k], mem := m, parts := [(0, p)], weaves := [(1, placeWeave)], bolts := [(1, placeBolt)], strands := [(k, t)] }
  s1.setClu 0 { clu0 with active := true, change := none }

end Sys2Proof.Machine
end

