-- ==== Sys2Proof/Safety.lean ====
section
/-!
DEFINITION. What the claims call sound: the invariants of every step, the conditions under which an item runs, and the frames:
what an item that goes on leaves alone.
-/
namespace Sys2Proof.Machine
open Sys2Proof

/-- The state invariant: memory is in its canonical form. -/
def State.Inv (s : State) : Prop := Memory.wf s.mem = true

/-- EXEC lies within LIVE in every strand (spec/02 R50, R53).  No invariant of every step: a demotion swaps EXEC whole (R55), and
software may have put a lane that has exited into the save area. -/
def State.ExecInLive (s : State) : Prop := ∀ k t, s.strand? k = some t → t.exec &&& ~~~ t.live = 0#128

/-- The running strand is t. -/
def State.runs (s : State) (t : Strand) : Prop := s.strand? s.cur = some t

/-! ### Frames -/

namespace Strand

/-- A strand with its place in the program left open: what an item that only moves on leaves alone. -/
def besidesPlace (t : Strand) : Strand :=
  { t with hspc := 0#64, first := 0#32, item := 0, nl := 0, ns := 0, seta := 15, setb := 15, capt := [], lost := false, edge := false }

/-- The spin detector's notes left open too (R54: it sees every register write). -/
def besidesNotes (t : Strand) : Strand := { t.besidesPlace with spin := { log := [], hash := none, count := 0, wrote := false } }

/-- The scalar file and its check bits left open too. -/
def besidesScalars (t : Strand) : Strand := { t.besidesNotes with s := [], bad := [] }

/-- The vector file and its check bits left open too. -/
def besidesVectors (t : Strand) : Strand := { t.besidesNotes with v := [], bad := [] }

/-- Every scalar register but those listed holds what it held. -/
def sameScalars (t t' : Strand) (but : List Nat) : Prop := ∀ r, r ∉ but → t'.getS r = t.getS r

/-- Every vector register but those listed holds what it held. -/
def sameVectors (t t' : Strand) (but : List Nat) : Prop := ∀ r, r ∉ but → t'.getV r = t.getV r

/-- Register r holds val l in the lanes of m, and what it held in the others (R50, R155). -/
def lanesHold (t t' : Strand) (r : Nat) (m : Mask) (val : Nat → Word) : Prop :=
  ∀ l, l < 128 → Vec.lane (t'.getV r) l = if m.getLsbD l then val l else Vec.lane (t.getV r) l

/-- The quad from q holds the mask m (R156). -/
def quadHolds (t' : Strand) (q : Nat) (m : Mask) : Prop := ∀ w, w < 4 → t'.getS (q + w) = maskW m w

/-- The four registers of a quad. -/
def quadRegs (q : Nat) : List Nat := [q, q + 1, q + 2, q + 3]

end Strand

/-- Every byte reads as before, through every core's view of memory (R72, R81). -/
def State.sameMemory (s s' : State) : Prop :=
  s'.mem = s.mem ∧ ∀ core pa coh, s'.coreRead core pa 1 coh = s.coreRead core pa 1 coh

/-- Every byte outside the n bytes at pa reads as before, at the home and through the L1 of every core. -/
def State.sameBut (s s' : State) (pa n : Nat) : Prop :=
  ∀ a, (a < pa ∨ pa + n ≤ a) → s'.homeByte a = s.homeByte a ∧
    ∀ core coh, s'.coreRead core a 1 coh = s.coreRead core a 1 coh

end Sys2Proof.Machine
end

