-- ==== Sys2Proof/Certificates/Slice0/Obligations.lean ====
section
/-!
DEFINITION. The statements for the provers: what each instruction and event does, by the numbered rules of spec/, the frames of
what it leaves alone, the codec both ways, what a step runs, and the invariants of every step.  Statements of one kind are
gathered at the end.
-/

/-! ### Scalar arithmetic -/

section
namespace Sys2Proof.Rules
open Sys2Proof Sys2Proof.Machine

/-- n bits of x from p up, bits above 31 read as 0 (R160). -/
def field (x : Word) (p w : Nat) : Nat := x.toNat / 2 ^ p % 2 ^ w

/-- Whether a and b, read as two's complement, stand in order. -/
def below (a b : Word) : Bool := decide (a.toInt < b.toInt)

/-- A truth value as R157 writes it. -/
def flag (b : Bool) : Word := BitVec.ofNat 32 b.toNat

/-- The destination and the value that R157 to R160 give a scalar arithmetic or bit word, from the registers S. -/
def scalarResult (S : Nat → Word) : Instr → Option (Nat × Word)
  | .add d a b => some (d, BitVec.ofNat 32 ((S a).toNat + (S b).toNat))
  | .sub d a b => some (d, BitVec.ofInt 32 ((S a).toNat - (S b).toNat : Int))
  | .mul d a b => some (d, BitVec.ofNat 32 ((S a).toNat * (S b).toNat))
  | .mulh d a b => some (d, BitVec.ofInt 32 ((S a).toInt * (S b).toInt / 2 ^ 32))
  | .mulhu d a b => some (d, BitVec.ofNat 32 ((S a).toNat * (S b).toNat / 2 ^ 32))
  | .and d a b => some (d, S a &&& S b)
  | .or d a b => some (d, S a ||| S b)
  | .xor d a b => some (d, S a ^^^ S b)
  | .andn d a b => some (d, S a &&& ~~~ S b)
  | .shl d a b => some (d, BitVec.ofNat 32 ((S a).toNat * 2 ^ ((S b).toNat % 32)))
  | .shr d a b => some (d, BitVec.ofNat 32 ((S a).toNat / 2 ^ ((S b).toNat % 32)))
  | .sar d a b => some (d, BitVec.ofInt 32 ((S a).toInt / 2 ^ ((S b).toNat % 32)))
  | .min d a b => some (d, if below (S a) (S b) then S a else S b)
  | .max d a b => some (d, if below (S a) (S b) then S b else S a)
  | .minu d a b => some (d, BitVec.ofNat 32 (Nat.min (S a).toNat (S b).toNat))
  | .maxu d a b => some (d, BitVec.ofNat 32 (Nat.max (S a).toNat (S b).toNat))
  | .seq d a b => some (d, flag (decide (S a = S b)))
  | .sne d a b => some (d, flag (decide (S a ≠ S b)))
  | .slt d a b => some (d, flag (below (S a) (S b)))
  | .sltu d a b => some (d, flag (decide ((S a).toNat < (S b).toNat)))
  | .addi d a imm => some (d, BitVec.ofInt 32 ((S a).toInt + sextI imm 8))
  | .andi d a imm => some (d, S a &&& BitVec.ofNat 32 imm)
  | .ori d a imm => some (d, S a ||| BitVec.ofNat 32 imm)
  | .xori d a imm => some (d, S a ^^^ BitVec.ofNat 32 imm)
  | .shli d a imm => some (d, BitVec.ofNat 32 ((S a).toNat * 2 ^ (imm % 32)))
  | .shri d a imm => some (d, BitVec.ofNat 32 ((S a).toNat / 2 ^ (imm % 32)))
  | .sari d a imm => some (d, BitVec.ofInt 32 ((S a).toInt / 2 ^ (imm % 32)))
  | .slti d a imm => some (d, flag (decide ((S a).toInt < sextI imm 8)))
  | .movi d imm => some (d, BitVec.ofInt 32 (sextI imm 17))
  | .movhi d imm => some (d, BitVec.ofNat 32 (imm * 2 ^ 15) ||| (S d &&& 0x7FFF#32))
  | .popc d a => some (d, BitVec.ofNat 32 ((List.range 32).countP (fun i => (S a).getLsbD i)))
  | .clz d a => some (d, BitVec.ofNat 32 (if (S a).toNat = 0 then 32 else 31 - Nat.log2 (S a).toNat))
  | .ctz d a => some (d, BitVec.ofNat 32 (((List.range 32).find? (fun i => (S a).getLsbD i)).getD 32))
  | .brev d a => some (d, (List.range 32).foldl (fun x i => x ||| (if (S a).getLsbD (31 - i) then 1#32 <<< i else 0#32)) 0#32)
  | .bfe d ctl =>
    let p := ctl % 32
    let w := ctl / 32 % 32 + 1
    some (d, if ctl.testBit 10 then BitVec.ofInt 32 (sextI (field (S d) p w) (Nat.min w (32 - p))) else BitVec.ofNat 32 (field (S d) p w))
  | .bfi d a =>
    let p := (S (a + 1)).toNat % 32
    let w := (S (a + 1)).toNat / 32 % 32 + 1
    let m : Word := BitVec.ofNat 32 ((2 ^ w - 1) * 2 ^ p)
    some (d, (S d &&& ~~~ m) ||| (BitVec.ofNat 32 ((S a).toNat * 2 ^ p) &&& m))
  | .mov d a => some (d, S a)
  | .not d a => some (d, BitVec.ofNat 32 (2 ^ 32 - 1 - (S a).toNat))
  | .sext8 d a => some (d, BitVec.ofInt 32 (sextI ((S a).toNat % 2 ^ 8) 8))
  | .sext16 d a => some (d, BitVec.ofInt 32 (sextI ((S a).toNat % 2 ^ 16) 16))
  | _ => none

/-- The instruction of a scalar arithmetic, immediate or BIT word, field by field (R157 to R160). -/
def scalarWordOf (w : Nat) : Option Instr :=
  let d := fld w 17 9; let a := fld w 8 9; let b := fld w 0 8
  let x := fld w 11 9; let y := fld w 2 9
  match fld w 26 6 with
  | 0x01 => some (.add d a b) | 0x02 => some (.sub d a b) | 0x03 => some (.mul d a b) | 0x04 => some (.mulh d a b)
  | 0x05 => some (.mulhu d a b) | 0x06 => some (.and d a b) | 0x07 => some (.or d a b) | 0x08 => some (.xor d a b)
  | 0x09 => some (.andn d a b) | 0x0A => some (.shl d a b) | 0x0B => some (.shr d a b) | 0x0C => some (.sar d a b)
  | 0x0D => some (.min d a b) | 0x0E => some (.max d a b) | 0x0F => some (.minu d a b) | 0x10 => some (.maxu d a b)
  | 0x11 => some (.seq d a b) | 0x12 => some (.sne d a b) | 0x13 => some (.slt d a b) | 0x14 => some (.sltu d a b)
  | 0x15 => some (.addi d a b) | 0x16 => some (.andi d a b) | 0x17 => some (.ori d a b) | 0x18 => some (.xori d a b)
  | 0x19 => if b < 32 then some (.shli d a b) else none
  | 0x1A => if b < 32 then some (.shri d a b) else none
  | 0x1B => if b < 32 then some (.sari d a b) else none
  | 0x1C => some (.slti d a b)
  | 0x1D => some (.movi d (fld w 0 17)) | 0x1E => some (.movhi d (fld w 0 17))
  | 0x1F =>
    if fld w 20 6 = 4 then some (.bfe x (fld w 0 11)) else
    if fld w 0 2 ≠ 0 then none else
    match fld w 20 6 with
    | 0 => some (.popc x y) | 1 => some (.clz x y) | 2 => some (.ctz x y) | 3 => some (.brev x y) | 5 => some (.bfi x y)
    | 6 => some (.mov x y) | 7 => some (.not x y) | 8 => some (.sext8 x y) | 9 => some (.sext16 x y)
    | _ => none
  | _ => none

end Sys2Proof.Rules

/-- ADD to SLTU, ADDI to SLTI, MOVI, MOVHI and the BIT sub-ops complete with the value of their rule in S[d]; every other
scalar register, every vector register and special register, and memory are unchanged (R157 to R160). -/
def Sys2Proof.Rules.ScalarWordsWriteTheirResultAndNothingElse : Prop :=
  ∀ (s : Sys2Proof.Machine.State) (t : Sys2Proof.Machine.Strand) (i : Sys2Proof.Instr) (d : Nat) (v : Sys2Proof.Word),
    s.runs t → i.wf = true → Sys2Proof.Rules.scalarResult t.getS i = some (d, v) →
    ∃ t', Sys2Proof.Machine.exec i s = .next (s.setCur t') ∧ t'.getS d = v ∧ t.sameScalars t' [d] ∧
      t'.besidesScalars = t.besidesScalars ∧ s.sameMemory (s.setCur t')

/-- The scalar arithmetic, immediate and BIT words decode field by field, as their rules' examples do; a shift immediate of 32
or more, an unassigned BIT sub-op and an operand outside its range decode to nothing; and MOVI with MOVHI builds any constant. -/
def Sys2Proof.Rules.ScalarWordsDecodeFieldByField : Prop :=
  (∀ w i, Sys2Proof.Rules.scalarWordOf w = some i →
    (i.wf = true → Sys2Proof.decodeScalar w 0 = .ok i) ∧ (i.wf = false → ∃ e, Sys2Proof.decodeScalar w 0 = .error e)) ∧
  (∀ w, 1 ≤ Sys2Proof.fld w 26 6 → Sys2Proof.fld w 26 6 ≤ 0x1F → Sys2Proof.Rules.scalarWordOf w = none →
    ∃ e, Sys2Proof.decodeScalar w 0 = .error e) ∧
  Sys2Proof.decodeScalar 0x040A0607 0 = .ok (.add 5 6 7) ∧ Sys2Proof.decodeScalar 0x6C120903 0 = .ok (.sari 9 9 3) ∧
  Sys2Proof.decodeScalar 0x740A5678 0 = .ok (.movi 5 0x5678) ∧ Sys2Proof.decodeScalar 0x780A2468 0 = .ok (.movhi 5 0x2468) ∧
  Sys2Proof.decodeScalar 0x7C403C68 0 = .ok (.bfe 7 (8 + 3 * 32 + 1024)) ∧
  (∀ (s : Sys2Proof.Machine.State) (t : Sys2Proof.Machine.Strand) (d : Nat) (v : Sys2Proof.Word), s.runs t → d < 384 → ∃ t1 t2,
    Sys2Proof.Machine.exec (.movi d (v.toNat % 2 ^ 15)) s = .next (s.setCur t1) ∧
    Sys2Proof.Machine.exec (.movhi d (v.toNat / 2 ^ 15)) (s.setCur t1) = .next ((s.setCur t1).setCur t2) ∧ t2.getS d = v)
end

/-! ### Lane arithmetic -/

section
namespace Sys2Proof.Rules
open Sys2Proof Sys2Proof.Machine

/-- The lane item f runs in strand t of s: not suppressed by its stage predicate, every vector register it names inside the
budget, and FMT legal where it reads it (R59, R142, R119). -/
def laneRuns (t : Strand) (f : LaneF) (regs : List Nat) (readsFmt : Bool) : Prop :=
  t.suppressed f = false ∧ (∀ r ∈ regs, r < t.budget) ∧ (readsFmt = true → t.fmtBad = false)

/-- Saturation of an exact result under SAT, its wrap otherwise (R199). -/
def settled (f : LaneF) (r : Int) : Word :=
  if f.mod % 2 = 0 then BitVec.ofInt 32 r
  else if f.sub % 2 = 1 then BitVec.ofInt 32 (min (2 ^ 32 - 1) (max 0 r))
  else BitVec.ofInt 32 (min (2 ^ 31 - 1) (max (-(2 ^ 31)) r))

/-- A 32-bit operand as an integer, unsigned under the U bit (R198). -/
def asInt (f : LaneF) (x : Word) : Int := if f.sub % 2 = 1 then (x.toNat : Int) else x.toInt

/-- The shift count: five bits, or eight under W (R199). -/
def shiftBy (f : LaneF) (b : Word) : Nat := if f.sub % 2 = 1 then b.toNat % 256 else b.toNat % 32

/-- The byte that a PRMT selector names among the eight bytes of b:a (R199). -/
def permuted (a b : Word) (sel : Nat) : Nat :=
  let y := (a.toNat + b.toNat * 2 ^ 32) / 256 ^ (sel % 8) % 256
  if sel / 8 % 2 = 1 then (if 128 ≤ y then 255 else 0) else y

/-- One 32-bit result of lane l that R198 to R201 give an integer instruction from its operands a, b, c and the mask quad of
SEL, with the registers it names. -/
def intLane (t : Strand) (l : Nat) (a b c : Word) : Instr → Option (LaneF × List Nat × Word)
  | .iadd f => some (f, laneRegs f true true false, settled f (asInt f a + asInt f b))
  | .isub f => some (f, laneRegs f true true false, settled f (asInt f a - asInt f b))
  | .imul f => some (f, laneRegs f true true false, BitVec.ofNat 32 (a.toNat * b.toNat))
  | .imulh f => some (f, laneRegs f true true false, BitVec.ofInt 32 (asInt f a * asInt f b / 2 ^ 32))
  | .imad f => some (f, laneRegs f true true true, settled f (asInt f a * asInt f b + asInt f c))
  | .iand f => some (f, laneRegs f true true false, a &&& b)
  | .ior f => some (f, laneRegs f true true false, a ||| b)
  | .ixor f => some (f, laneRegs f true true false, a ^^^ b)
  | .tern f => some (f, laneRegs f true true true,
      (List.range 32).foldl (fun x i =>
        if f.sub.testBit ((a.getLsbD i).toNat + 2 * (b.getLsbD i).toNat + 4 * (c.getLsbD i).toNat) then x + BitVec.ofNat 32 (2 ^ i) else x) 0#32)
  | .shlL f => some (f, laneRegs f true true false, BitVec.ofNat 32 (a.toNat * 2 ^ shiftBy f b))
  | .shrL f => some (f, laneRegs f true true false, BitVec.ofNat 32 (a.toNat / 2 ^ shiftBy f b))
  | .sarL f => some (f, laneRegs f true true false, BitVec.ofInt 32 (a.toInt / 2 ^ shiftBy f b))
  | .shf f => some (f, laneRegs f true true true,
      let x := a.toNat + c.toNat * 2 ^ 32
      if f.sub % 2 = 1 then BitVec.ofNat 32 (x * 2 ^ (b.toNat % 32) / 2 ^ 32) else BitVec.ofNat 32 (x / 2 ^ (b.toNat % 32)))
  | .imin f => some (f, laneRegs f true true false, if asInt f a ≤ asInt f b then a else b)
  | .imax f => some (f, laneRegs f true true false, if asInt f a ≤ asInt f b then b else a)
  | .iabs f => some (f, laneRegs f true false false,
      if f.mod % 2 = 1 then BitVec.ofInt 32 (min (2 ^ 31 - 1) a.toInt.natAbs) else BitVec.ofInt 32 a.toInt.natAbs)
  | .sel f => some (f, laneRegs f true true false, if (selQuad t f).getLsbD l then a else b)
  | .popcL f => some (f, laneRegs f true false false, BitVec.ofNat 32 ((List.range 32).countP (fun i => a.getLsbD i)))
  | .clzL f => some (f, laneRegs f true false false, BitVec.ofNat 32 (if a.toNat = 0 then 32 else 31 - Nat.log2 a.toNat))
  | .brevL f => some (f, laneRegs f true false false,
      (List.range 32).foldl (fun x i => x ||| (if a.getLsbD (31 - i) then 1#32 <<< i else 0#32)) 0#32)
  | .bfeL f =>
    let p := b.toNat % 32
    let w := b.toNat / 32 % 32 + 1
    let x := a.toNat / 2 ^ p % 2 ^ w
    some (f, laneRegs f true true false, if f.sub % 2 = 1 then BitVec.ofInt 32 (sextI x (Nat.min w (32 - p))) else BitVec.ofNat 32 x)
  | .bfiL f =>
    let p := b.toNat % 32
    let m : Word := BitVec.ofNat 32 ((2 ^ (b.toNat / 32 % 32 + 1) - 1) * 2 ^ p)
    some (f, laneRegs f true true true, (c &&& ~~~ m) ||| (BitVec.ofNat 32 (a.toNat * 2 ^ p) &&& m))
  | .prmt f => some (f, laneRegs f true true true,
      BitVec.ofNat 32 (permuted a b (c.toNat % 16) + permuted a b (c.toNat / 16 % 16) * 256 + permuted a b (c.toNat / 256 % 16) * 65536
        + permuted a b (c.toNat / 4096 % 16) * 16777216))
  | .movL f => some (f, laneRegs f false true false, b)
  | .laneId f => some (f, laneRegs f false false false, BitVec.ofNat 32 (if f.sub % 2 = 1 then 128 * t.widx + l else l))
  | _ => none

/-- The 64-bit result of IMADW and IADDC (R198, R199), with the registers they name. -/
def pairLane (t : Strand) (l : Nat) : Instr → Option (LaneF × List Nat × DWord)
  | .imadw f => some (f, [f.vd, f.vd + 1, f.va, f.vc, f.vc + 1] ++ (if f.bsrc = 0 then [f.vb] else []),
      BitVec.ofInt 64 (asInt f (t.opA f l) * asInt f (t.opB f l) + (t.pairV f.vc l).toNat))
  | .iaddc f => some (f, [f.vd, f.vd + 1, f.va, f.va + 1] ++ (if f.bsrc = 0 then [f.vb, f.vb + 1] else []),
      BitVec.ofNat 64 ((t.pairV f.va l).toNat +
        (if f.bsrc = 0 then (t.pairV f.vb l).toNat else if f.bsrc = 1 then (t.cap f 0).toNat + (t.cap f 1).toNat * 2 ^ 32
         else (BitVec.ofInt 64 (sextI f.imm 32)).toNat)))
  | _ => none

/-- SAT on a rounded FP32 word (R204). -/
def satFp (f : LaneF) (x : Word) : Word := if f.mod % 2 = 1 then BitVec.ofNat 32 (satF fp32 x.toNat) else x

/-- A rounded FP32 result (R121, R122, R204). -/
def rounded (t : Strand) (f : LaneF) (v : FVal) : Word := satFp f (toF32 (t.mode f) t.ftz v)

/-- Both elements of a rounded packed-half result (R202, R204). -/
def roundedHalves (t : Strand) (f : LaneF) (v : Nat → FVal) : Word :=
  let fm := if f.sub % 2 = 1 then bf16 else fp16
  let e := fun i => let x := fm.pack (t.mode f) false t.ftz (v i); if f.mod % 2 = 1 then satF fm x else x
  BitVec.ofNat 32 (e 0 + 65536 * e 1)

/-- An exact sum and an exact product that is added to, -0 where RDN gives an exact zero its sign (R121, R132). -/
def plus (t : Strand) (f : LaneF) (x y : FVal) : FVal := FVal.add (decide (t.mode f = 2)) x y

/-- The result of lane l that R202 and R203 give a floating-point instruction from its modified operands, with the registers
it names. -/
def floatLane (t : Strand) (l : Nat) : Instr → Option (LaneF × List Nat × Word)
  | .fadd f => some (f, laneRegs f true true false, rounded t f (plus t f (f32 t.ftz (fA t f l)) (f32 t.ftz (fB t f l))))
  | .fmul f => some (f, laneRegs f true true false, rounded t f (FVal.mul (f32 t.ftz (fA t f l)) (f32 t.ftz (fB t f l))))
  | .ffma f => some (f, laneRegs f true true true,
      rounded t f (plus t f (FVal.mul (f32 t.ftz (fA t f l)) (f32 t.ftz (fB t f l))) (f32 t.ftz (fC t f l))))
  | .fmin f => some (f, laneRegs f true true false, toF32 1 t.ftz (fminV (f32 t.ftz (fA t f l)) (f32 t.ftz (fB t f l))))
  | .fmax f => some (f, laneRegs f true true false, toF32 1 t.ftz (fmaxV (f32 t.ftz (fA t f l)) (f32 t.ftz (fB t f l))))
  | .frnd f => some (f, laneRegs f true false false, rounded t f (frndV (t.mode f) (f32 t.ftz (fA t f l))))
  | .fscl f => some (f, laneRegs f true true false,
      rounded t f (let e := (t.opB f l).toNat / 2 ^ (8 * (f.sub % 4)) % 256
        if e = 255 then .nan else FVal.scale ((e : Int) - 127) (f32 t.ftz (fA t f l))))
  | .hadd2 f => some (f, laneRegs f true true false, roundedHalves t f (fun i =>
      plus t f (halfV t f (f.mod.testBit 1) (t.opA f l) i) (halfV t f (f.mod.testBit 2) (t.opB f l) i)))
  | .hmul2 f => some (f, laneRegs f true true false, roundedHalves t f (fun i =>
      FVal.mul (halfV t f (f.mod.testBit 1) (t.opA f l) i) (halfV t f (f.mod.testBit 2) (t.opB f l) i)))
  | .hfma2 f => some (f, laneRegs f true true true, roundedHalves t f (fun i =>
      plus t f (FVal.mul (halfV t f (f.mod.testBit 1) (t.opA f l) i) (halfV t f (f.mod.testBit 2) (t.opB f l) i))
        (halfV t f (f.mod.testBit 3) (t.opC f l) i)))
  | _ => none

/-- The number of a special function (R205). -/
def specialNo : Instr → Option (LaneF × Nat)
  | .rcp f => some (f, 0) | .rsq f => some (f, 1) | .sqrt f => some (f, 2) | .exp2 f => some (f, 3)
  | .log2 f => some (f, 4) | .sin f => some (f, 5) | .cos f => some (f, 6) | .tanh f => some (f, 7)
  | _ => none

/-- The special values of R205, FP32 words; none where the result is bounded, not given. -/
def specialWord (fn : Nat) (ftz : Bool) (w : Word) : Option Word :=
  let x := w.toNat % 2 ^ 31
  let neg := w.msb
  let sub := decide (0 < x) && decide (x < 0x800000)
  let z := decide (x = 0) || (ftz && sub)
  let inf := decide (x = 0x7F800000)
  let sgn : Word := if neg then 0x80000000#32 else 0#32
  if 0x7F800000 < x then some 0x7FC00000#32 else
  match fn with
  | 0 => if z then some (sgn ||| 0x7F800000#32) else if inf then some sgn else if x ≤ 0x200000 then some (sgn ||| 0x7F800000#32) else none
  | 1 => if z then some (sgn ||| 0x7F800000#32) else if neg then some 0x7FC00000#32 else if inf then some 0#32 else none
  | 2 => if z then some sgn else if neg then some 0x7FC00000#32 else if inf then some 0x7F800000#32 else none
  | 3 => if z then some 0x3F800000#32 else if inf then some (if neg then 0#32 else 0x7F800000#32) else none
  | 4 => if z then some 0xFF800000#32 else if neg then some 0x7FC00000#32 else if inf then some 0x7F800000#32
         else if x = 0x3F800000 then some 0#32 else none
  | 5 => if z then some sgn else if inf then some 0x7FC00000#32 else none
  | 6 => if z then some 0x3F800000#32 else if inf then some 0x7FC00000#32 else none
  | _ => if z then some sgn else if 0x41200000 ≤ x then some (sgn ||| 0x3F800000#32) else none

/-- The lane that lane l of SHFL reads, counted from 0, before the bounds of its segment of z lanes (R212). -/
def shuffleFrom (mode z k l : Nat) : Int :=
  match mode with
  | 0 => (l / z * z + k % z : Nat)
  | 1 => (l : Int) - k
  | 2 => (l : Int) + k
  | _ => (l ^^^ (k % z) : Nat)

/-- What lane l of SHFL receives of the values a (R212). -/
def shuffled (f : LaneF) (a : Nat → Word) (k l : Nat) : Word :=
  let z : Nat := 128 / 2 ^ (f.sub / 4)
  let j := shuffleFrom (f.sub % 4) z k l
  if (l / z * z : Int) ≤ j ∧ j < l / z * z + z then a j.toNat else a l

/-- One 32-bit result of a lane instruction whose value the rules give from the strand alone: shuffles and scans (R212,
R214). -/
def crossLane (t : Strand) (l : Nat) : Instr → Option (LaneF × List Nat × Bool × Word)
  | .shfl f => some (f, laneRegs f true true false, false, shuffled f (t.opA f) ((t.opB f l).toNat % 128) l)
  | .scan f => some (f, [f.vd, f.va], decide (f.sub % 16 ≤ 2), (scanVals t f).getD l 0#32)
  | _ => none

/-- What an instruction that writes one vector register leaves: the active lanes' results, everything else as it was. -/
def writesLanes (s : State) (t : Strand) (i : Instr) (vd : Nat) (val : Nat → Word) : Prop :=
  ∃ t', exec i s = .next (s.setCur t') ∧ t.lanesHold t' (t.rotN vd) t.exec val ∧ t.sameVectors t' [t.rotN vd] ∧
    t'.besidesVectors = t.besidesVectors ∧ s.sameMemory (s.setCur t')

/-- What an instruction that writes a mask quad leaves. -/
def writesQuad (s : State) (t : Strand) (i : Instr) (q : Nat) (m : Mask) : Prop :=
  ∃ t', exec i s = .next (s.setCur t') ∧ t'.quadHolds q m ∧ t.sameScalars t' (Strand.quadRegs q) ∧
    t'.besidesScalars = t.besidesScalars ∧ s.sameMemory (s.setCur t')

/-- What an instruction that writes one scalar register leaves. -/
def writesScalar (s : State) (t : Strand) (i : Instr) (d : Nat) (v : Word) : Prop :=
  ∃ t', exec i s = .next (s.setCur t') ∧ t'.getS d = v ∧ t.sameScalars t' [d] ∧
    t'.besidesScalars = t.besidesScalars ∧ s.sameMemory (s.setCur t')

end Sys2Proof.Rules

open Sys2Proof Sys2Proof.Machine Sys2Proof.Rules

/-- The integer lane instructions of one result complete; each active lane of D holds its rule's value of that lane's
operands, every other lane and register, and memory, are unchanged. -/
def Sys2Proof.Rules.IntegerLaneInstructionsWriteActiveLanes : Prop :=
  ∀ (s : State) (t : Strand) (i : Instr) (f : LaneF) (regs : List Nat) (val : Nat → Word),
    s.runs t → i.wf = true →
    (∀ l, l < 128 → intLane t l (t.opA f l) (t.opB f l) (t.opC f l) i = some (f, regs, val l)) → laneRuns t f regs false →
    writesLanes s t i f.vd val

/-- IMADW and IADDC write the low word to D and the high word to D+1, each mapped by the rotating region. -/
def Sys2Proof.Rules.PairLaneInstructionsWriteBothWords : Prop :=
  ∀ (s : State) (t : Strand) (i : Instr) (f : LaneF) (regs : List Nat) (val : Nat → DWord),
    s.runs t → i.wf = true → (∀ l, l < 128 → pairLane t l i = some (f, regs, val l)) → laneRuns t f regs false →
    ∃ t', exec i s = .next (s.setCur t') ∧
      (t.rotN f.vd ≠ t.rotN (f.vd + 1) → t.lanesHold t' (t.rotN f.vd) t.exec (fun l => BitVec.ofNat 32 (val l).toNat)) ∧
      t.lanesHold t' (t.rotN (f.vd + 1)) t.exec (fun l => BitVec.ofNat 32 ((val l).toNat / 2 ^ 32)) ∧
      t.sameVectors t' [t.rotN f.vd, t.rotN (f.vd + 1)] ∧ t'.besidesVectors = t.besidesVectors ∧ s.sameMemory (s.setCur t')

/-- The FP32 and packed-half instructions complete; each active lane of D holds the exact value of its rule rounded
once under the instruction's mode, every other lane and register, and memory, are unchanged. -/
def Sys2Proof.Rules.FloatLaneInstructionsRoundOncePerLane : Prop :=
  ∀ (s : State) (t : Strand) (i : Instr) (f : LaneF) (regs : List Nat) (val : Nat → Word),
    s.runs t → i.wf = true → (∀ l, l < 128 → floatLane t l i = some (f, regs, val l)) → laneRuns t f regs true →
    writesLanes s t i f.vd val

/-- The special functions complete, and give the special values of R205. All else within their bounds is free (log 9).
-/
def Sys2Proof.Rules.SpecialFunctionsGiveTheirSpecialValues : Prop :=
  ∀ (s : State) (t : Strand) (i : Instr) (f : LaneF) (fn : Nat), s.runs t → i.wf = true → specialNo i = some (f, fn) →
    laneRuns t f [f.vd, f.va] true →
    ∃ val, writesLanes s t i f.vd val ∧ ∀ l w, l < 128 → specialWord fn t.ftz (fA t f l) = some w → val l = w

/-- SHFL and SCAN read every lane before they write any. -/
def Sys2Proof.Rules.ShuffleAndScanReadAllLanesFirst : Prop :=
  ∀ (s : State) (t : Strand) (i : Instr) (f : LaneF) (regs : List Nat) (fmt : Bool) (val : Nat → Word),
    s.runs t → i.wf = true → (∀ l, l < 128 → crossLane t l i = some (f, regs, fmt, val l)) → laneRuns t f regs fmt →
    writesLanes s t i f.vd val
end

/-! ### Cross-lane instructions, conversions and dots -/

section
namespace Sys2Proof.Rules
open Sys2Proof Sys2Proof.Machine

/-- A comparison by its code: 0 EQ, 1 NE, 2 LT, 3 LE, 4 GT, 5 GE (R200). -/
def compared (cond : Nat) (x y : Int) : Bool :=
  match cond with
  | 0 => decide (x = y) | 1 => decide (x ≠ y) | 2 => decide (x < y) | 3 => decide (x ≤ y) | 4 => decide (x > y) | _ => decide (x ≥ y)

/-- Equality and order of two values that may be NaN (R203). -/
def comparedF (cond : Nat) (x y : FVal) : Bool :=
  let nan := x.isNan || y.isNan
  let eq := !nan && !FVal.lt false x y && !FVal.lt false y x
  match cond with
  | 0 => eq | 1 => !eq | 2 => FVal.lt false x y | 3 => eq || FVal.lt false x y | 4 => FVal.lt false y x
  | 5 => eq || FVal.lt false y x | 6 => !nan | _ => nan

/-- The quad number and the bit of lane l that ICMP, FCMP and BALLOT write, with the vector registers they name and whether
they read FMT (R200, R203, R213). -/
def quadLane (t : Strand) (l : Nat) : Instr → Option (LaneF × List Nat × Bool × Bool)
  | .icmp f => some (f, if f.bsrc = 0 then [f.va, f.vb] else [f.va], false,
      t.exec.getLsbD l && compared (f.sub % 8)
        (if f.sub.testBit 3 then ((t.opA f l).toNat : Int) else (t.opA f l).toInt) (if f.sub.testBit 3 then ((t.opB f l).toNat : Int) else (t.opB f l).toInt))
  | .fcmp f => some (f, if f.bsrc = 0 then [f.va, f.vb] else [f.va], true,
      t.exec.getLsbD l && comparedF f.sub (f32 t.ftz (fA t f l)) (f32 t.ftz (fB t f l)))
  | .ballot f => some (f, [f.va], false, t.exec.getLsbD l && decide (t.opA f l ≠ 0#32))
  | _ => none

/-- The values of the active lanes, in lane order. -/
def activeVals (t : Strand) (f : LaneF) : List Word := ((List.range 128).filter (fun l => t.exec.getLsbD l)).map (t.opA f)

/-- The scalar that V2S, VOTE and the integer REDL write (R213, R214, R133), with the registers they name. -/
def scalarLane (t : Strand) : Instr → Option (LaneF × List Nat × Bool × Word)
  | .v2s f => some (f, [f.va], false,
      if f.sub = 0 then t.opA f ((t.opB f 0).toNat % 128) else ((activeVals t f).head?).getD 0#32)
  | .vote f => some (f, [f.va], false,
      match f.sub with
      | 0 => BitVec.ofNat 32 (decide (∀ x ∈ activeVals t f, x ≠ 0#32)).toNat
      | 1 => BitVec.ofNat 32 (decide (∃ x ∈ activeVals t f, x ≠ 0#32)).toNat
      | 2 => BitVec.ofNat 32 (decide (∀ x ∈ activeVals t f, ∀ y ∈ activeVals t f, x = y)).toNat
      | _ => BitVec.ofNat 32 ((activeVals t f).countP (· != 0#32)))
  | .redl f =>
    let op := redOp (t.mode f) t.ftz f.sub
    some (f, [f.va], decide (f.sub ≤ 2),
      match f.sub with
      | 3 => (activeVals t f).foldl (· + ·) 0#32
      | 4 => (activeVals t f).foldl (· &&& ·) 0xFFFFFFFF#32
      | 5 => (activeVals t f).foldl (· ||| ·) 0#32
      | 6 => (activeVals t f).foldl (· ^^^ ·) 0#32
      | _ => redTree op 7 (redIn t f f.sub))
  | _ => none

/-- The instructions of the lane stream, by their fields (R141). -/
def laneOfInstr : Instr → Option LaneF
  | .iadd f | .isub f | .imul f | .imulh f | .imad f | .imadw f | .iand f | .ior f | .ixor f | .tern f | .shlL f | .shrL f | .sarL f
  | .shf f | .imin f | .imax f | .iabs f | .icmp f | .sel f | .popcL f | .clzL f | .brevL f | .bfeL f | .bfiL f | .prmt f | .movL f
  | .iaddc f | .laneId f | .fadd f | .fmul f | .ffma f | .fmin f | .fmax f | .fcmp f | .frnd f | .fscl f | .hadd2 f | .hmul2 f
  | .hfma2 f | .rcp f | .rsq f | .sqrt f | .exp2 f | .log2 f | .sin f | .cos f | .tanh f | .cvt f | .pack8 f | .pack4 f | .unpk f
  | .dot8 f | .dot4 f | .idot4 f | .idot8 f | .doth2 f | .shfl f | .ballot f | .redl f | .scan f | .v2s f | .vote f | .ld f | .st f
  | .ldsc f | .stsc f | .ldwn f | .stwn f | .atom f | .atomsc f | .red f | .pref f | .mma f | .mopf f | .mbatch f | .mstore f
  | .mzero f | .lnop f => some f
  | _ => none

/-- Conversion of CVT's element (R208): the source code, the destination code and the element converted with the LFSR's draw. -/
def converted (t : Strand) (f : LaneF) (l : Nat) : Nat :=
  convert (cvtMode t f (f.sub / 16) (f.sub % 16)) (f.sub / 16) (f.sub % 16) (fld (t.lfsr.getD l 0#32).toNat 16 16) (cvtSrc t f l)

/-- The LFSRs after n draws by each active lane where stochastic rounding draws, unchanged otherwise (R125). -/
def drawn (t : Strand) (draws : Bool) (n : Nat) : List Word :=
  if draws then (List.range 128).map (fun l => if t.exec.getLsbD l then lfsrAt t l n else t.lfsr.getD l 0#32) else t.lfsr

/-- Element i that PACK8 (n = 4) and PACK4 (n = 8) narrow from VA + i (R209). -/
def packed (t : Strand) (f : LaneF) (i l : Nat) : Nat :=
  let dst := f.sub % 16
  let src := if cvtIsFloat dst then 0 else 6
  convert (cvtMode t f src dst) src dst (draw t l i)
    (packScale (decide (128 ≤ f.sub)) true ((t.opB f l).toNat % 256) (cvtRead src false (Vec.lane (t.getV (t.rotN (f.va + i))) l).toNat))

/-- The exact integer dot product of lane l, elements of w bits (R210, R211, R131). -/
def intDot (t : Strand) (f : LaneF) (w l : Nat) : Int :=
  let el := fun (x : Word) (i : Nat) (u : Bool) =>
    let y := x.toNat / 2 ^ (w * i) % 2 ^ w
    if u then (y : Int) else sextI y w
  let sum := ((List.range (32 / w)).map (fun i => el (t.opA f l) i (f.sub.testBit 0) * el (t.opB f l) i (f.sub.testBit 1))).sum
  let k : Int := if t.scaleFmt = 0 then 0 else (f.imm % 256 : Nat) + (f.imm / 256 % 256 : Nat) - 254
  (t.opC f l).toInt + (if 0 ≤ k then sum * 2 ^ k.toNat else Int.tdiv sum (2 ^ (-k).toNat))

/-- The result of a dot instruction in lane l, its element width and the class of FMT it needs (R120, R210, R211). -/
def dotLane (t : Strand) (l : Nat) : Instr → Option (LaneF × Nat × Bool × Word)
  | .dot8 f => some (f, 1, false, fdotLane t f 8 l)
  | .dot4 f => some (f, 3, false, fdotLane t f 4 l)
  | .doth2 f => some (f, 0, false, fdotLane t f 16 l)
  | .idot8 f => some (f, 2, true, if f.mod % 2 = 1 then BitVec.ofInt 32 (min (2 ^ 31 - 1) (max (-(2 ^ 31)) (intDot t f 8 l))) else BitVec.ofInt 32 (intDot t f 8 l))
  | .idot4 f => some (f, 4, true, if f.mod % 2 = 1 then BitVec.ofInt 32 (min (2 ^ 31 - 1) (max (-(2 ^ 31)) (intDot t f 4 l))) else BitVec.ofInt 32 (intDot t f 4 l))
  | _ => none

/-- The vector registers that a lane instruction which accesses no memory names, and whether it reads FMT; the dot instructions apart
(R142). -/
def aluRegs (t : Strand) (i : Instr) : Option (LaneF × List Nat × Bool) :=
  ((intLane t 0 0#32 0#32 0#32 i).map (fun x => (x.1, x.2.1, false))).or
    (((pairLane t 0 i).map (fun x => (x.1, x.2.1, false))).or
      (((floatLane t 0 i).map (fun x => (x.1, x.2.1, true))).or
        (((specialNo i).map (fun x => (x.1, [x.1.vd, x.1.va], true))).or
          (((crossLane t 0 i).map (fun x => (x.1, x.2.1, x.2.2.1))).or
            (((quadLane t 0 i).map (fun x => (x.1, x.2.1, x.2.2.1))).or
              (((scalarLane t i).map (fun x => (x.1, x.2.1, x.2.2.1))).or
                (match i with
                  | .cvt f => some (f, [f.vd, f.va], true)
                  | .pack8 f => some (f, [f.vd] ++ (List.range 4).map (f.va + ·) ++ (if 128 ≤ f.sub ∧ f.bsrc = 0 then [f.vb] else []), true)
                  | .pack4 f => some (f, [f.vd] ++ (List.range 8).map (f.va + ·) ++ (if 128 ≤ f.sub ∧ f.bsrc = 0 then [f.vb] else []), true)
                  | .unpk f => some (f, (List.range (cvtN (f.sub % 16))).map (f.vd + ·) ++ [f.va] ++ (if 128 ≤ f.sub ∧ f.bsrc = 0 then [f.vb] else []), true)
                  | _ => none)))))))

/-- Item i raises REG_BOUND with the number of a register of regs that lies at or beyond the budget (R142, R328). -/
def raisesRegBound (s : State) (t : Strand) (i : Instr) (regs : List Nat) : Prop :=
  ∃ r ∈ regs, t.budget ≤ r ∧ exec i s = s.raise t { code := 0x08, arg := r, lanes := t.exec }

end Sys2Proof.Rules

open Sys2Proof Sys2Proof.Machine Sys2Proof.Rules

/-- ICMP, FCMP and BALLOT write one quad, inactive lanes 0. -/
def Sys2Proof.Rules.ComparesAndBallotWriteTheirMaskQuad : Prop :=
  ∀ (s : State) (t : Strand) (i : Instr) (f : LaneF) (regs : List Nat) (fmt : Bool) (m : Mask),
    s.runs t → i.wf = true → (∀ l, l < 128 → quadLane t l i = some (f, regs, fmt, m.getLsbD l)) → laneRuns t f regs fmt →
    writesQuad s t i (4 * f.vd) m

/-- V2S, VOTE and REDL write one scalar, whatever EXEC holds. -/
def Sys2Proof.Rules.ReductionsWriteOneScalar : Prop :=
  ∀ (s : State) (t : Strand) (i : Instr) (f : LaneF) (regs : List Nat) (fmt : Bool) (v : Word),
    s.runs t → i.wf = true → scalarLane t i = some (f, regs, fmt, v) → laneRuns t f regs fmt →
    writesScalar s t i (f.vc * 256 + f.vd) v

/-- A lane instruction that its stage predicate suppresses has no effect at all, and LNOP never has one. -/
def Sys2Proof.Rules.SuppressedLaneInstructionsHaveNoEffect : Prop :=
  ∀ (s : State) (t : Strand) (i : Instr) (f : LaneF), s.runs t → laneOfInstr i = some f →
    ((1 ≤ f.stg ∧ t.stage.getLsbD (f.stg - 1) = false) ∨ i = .lnop f) → exec i s = .next (s.setCur (t.advance 1))

/-- A register at or beyond the budget raises REG_BOUND before anything is written: integer, pair, float, cross-lane, compare, scalar
reduction and conversion instructions; the dot instructions where FMT and the scales agree with their class. -/
def Sys2Proof.Rules.LaneRegistersBeyondTheBudgetRaiseRegBound : Prop :=
  (∀ (s : State) (t : Strand) (i : Instr) (f : LaneF) (regs : List Nat) (fmt : Bool), s.runs t → i.wf = true →
    aluRegs t i = some (f, regs, fmt) → t.suppressed f = false → (fmt = true → t.fmtBad = false) → (∃ r ∈ regs, t.budget ≤ r) →
    raisesRegBound s t i regs) ∧
  (∀ (s : State) (t : Strand) (i : Instr) (f : LaneF) (cls : Nat) (int : Bool) (v : Word), s.runs t → i.wf = true →
    dotLane t 0 i = some (f, cls, int, v) → t.suppressed f = false → t.fmtBad = false → fmtClass t = some cls →
    (if t.scaleFmt = 0 then f.bsrc = 0 → f.imm = 0 else f.bsrc = 0) →
    (int = true → t.scaleFmt ≠ 0 → f.imm % 256 ≠ 255 ∧ f.imm / 256 % 256 ≠ 255) →
    (∃ r ∈ laneRegs f true true true, t.budget ≤ r) → raisesRegBound s t i (laneRegs f true true true))

/-- CVT converts one element into its place of D, and leaves D's other elements. -/
def Sys2Proof.Rules.CvtConvertsOneElementInPlace : Prop :=
  ∀ (s : State) (t : Strand) (f : LaneF), s.runs t → (Instr.cvt f).wf = true → laneRuns t f [f.vd, f.va] true →
    ∃ t', exec (.cvt f) s = .next (s.setCur t') ∧
      (∀ l k, l < 128 → k < cvtN (f.sub % 16) →
        elem (Vec.lane (t'.getV (t.rotN f.vd)) l) k (cvtW (f.sub % 16)) =
          if t.exec.getLsbD l ∧ k = f.imm / 16 % 8 then converted t f l % 2 ^ cvtW (f.sub % 16)
          else elem (Vec.lane (t.getV (t.rotN f.vd)) l) k (cvtW (f.sub % 16))) ∧
      t'.lfsr = drawn t (cvtDraws (cvtMode t f (f.sub / 16) (f.sub % 16)) (f.sub % 16)) 1 ∧
      t.sameVectors t' [t.rotN f.vd] ∧ { t'.besidesVectors with lfsr := t.lfsr } = t.besidesVectors ∧ s.sameMemory (s.setCur t')

/-- PACK8 and PACK4 narrow four or eight registers into one word per lane. -/
def Sys2Proof.Rules.PackNarrowsItsRegistersIntoOneWord : Prop :=
  ∀ (s : State) (t : Strand) (i : Instr) (f : LaneF) (n : Nat), s.runs t → i.wf = true → (i = .pack8 f ∧ n = 4 ∨ i = .pack4 f ∧ n = 8) →
    laneRuns t f ([f.vd] ++ (List.range n).map (f.va + ·) ++ (if 128 ≤ f.sub ∧ f.bsrc = 0 then [f.vb] else [])) true →
    ∃ t', exec i s = .next (s.setCur t') ∧
      (∀ l k, l < 128 → k < n → t.exec.getLsbD l = true →
        elem (Vec.lane (t'.getV (t.rotN f.vd)) l) k (32 / n) = packed t f k l % 2 ^ (32 / n)) ∧
      (∀ l, l < 128 → t.exec.getLsbD l = false → Vec.lane (t'.getV (t.rotN f.vd)) l = Vec.lane (t.getV (t.rotN f.vd)) l) ∧
      t'.lfsr = drawn t (cvtDraws (cvtMode t f 0 (f.sub % 16)) (f.sub % 16)) n ∧
      t.sameVectors t' [t.rotN f.vd] ∧ { t'.besidesVectors with lfsr := t.lfsr } = t.besidesVectors ∧ s.sameMemory (s.setCur t')

/-- UNPK widens element i of A into register D + i, all read before any is written. -/
def Sys2Proof.Rules.UnpkWidensEachElementIntoItsRegister : Prop :=
  ∀ (s : State) (t : Strand) (f : LaneF), s.runs t → (Instr.unpk f).wf = true →
    laneRuns t f ((List.range (cvtN (f.sub % 16))).map (f.vd + ·) ++ [f.va] ++ (if 128 ≤ f.sub ∧ f.bsrc = 0 then [f.vb] else [])) true →
    ((List.range (cvtN (f.sub % 16))).map (fun i => t.rotN (f.vd + i))).Nodup →
    ∃ t', exec (.unpk f) s = .next (s.setCur t') ∧
      (∀ i, i < cvtN (f.sub % 16) → t.lanesHold t' (t.rotN (f.vd + i)) t.exec (unpkLane t f i)) ∧
      t.sameVectors t' ((List.range (cvtN (f.sub % 16))).map (fun i => t.rotN (f.vd + i))) ∧
      t'.besidesVectors = t.besidesVectors ∧ s.sameMemory (s.setCur t')

/-- The dot instructions add their exact block sum to C, where FMT is of their class and the scales agree with it. -/
def Obligations.DotInstructionsAddTheirBlockSum : Prop :=
  ∀ (s : State) (t : Strand) (i : Instr) (f : LaneF) (cls : Nat) (int : Bool) (val : Nat → Word),
    s.runs t → i.wf = true → (∀ l, l < 128 → dotLane t l i = some (f, cls, int, val l)) →
    laneRuns t f (laneRegs f true true true) true → fmtClass t = some cls →
    (if t.scaleFmt = 0 then f.bsrc = 0 → f.imm = 0 else f.bsrc = 0) →
    (int = true → t.scaleFmt ≠ 0 → f.imm % 256 ≠ 255 ∧ f.imm / 256 % 256 ≠ 255) →
    writesLanes s t i f.vd val
end

/-! ### Special registers, branches and masks -/

section
namespace Sys2Proof.Rules
open Sys2Proof Sys2Proof.Machine

/-- What SGET returns for special register y (R144). -/
def specialRegister (s : State) (t : Strand) (y : Nat) : Word :=
  if y < 4 then t.exec.extractLsb' (32 * y) 32
  else if y < 8 then t.live.extractLsb' (32 * (y - 4)) 32
  else if 0x20 ≤ y then t.loopReg ((y - 0x20) / 16) ((y - 0x20) % 16)
  else match y with
    | 0x08 => t.fmt | 0x09 => t.rot | 0x0A => BitVec.ofNat 32 t.stage.toNat | 0x0B => t.region | 0x0C => t.status | 0x0D => t.txstat
    | 0x10 => BitVec.ofNat 32 s.time | 0x11 => BitVec.ofNat 32 (t.clk.toNat / 2 ^ 32) | 0x12 => BitVec.ofNat 32 t.sid
    | 0x13 => (match s.weave? t.weave with | some w => BitVec.ofNat 32 w.wid | none => 0#32)
    | 0x14 => BitVec.ofNat 32 t.part | 0x15 => BitVec.ofNat 32 t.ctx
    | _ => 0#32

/-- The strand that SSET leaves when it writes v to special register y, but for its place and the detector's notes (R144, R183,
R3, R126). -/
def afterSset (t : Strand) (y : Nat) (v : Word) : Strand :=
  match y with
  | 0 => { t with exec := maskW t.exec 3 ++ maskW t.exec 2 ++ maskW t.exec 1 ++ (v &&& maskW t.live 0) }
  | 1 => { t with exec := maskW t.exec 3 ++ maskW t.exec 2 ++ (v &&& maskW t.live 1) ++ maskW t.exec 0 }
  | 2 => { t with exec := maskW t.exec 3 ++ (v &&& maskW t.live 2) ++ maskW t.exec 1 ++ maskW t.exec 0 }
  | 3 => { t with exec := (v &&& maskW t.live 3) ++ maskW t.exec 2 ++ maskW t.exec 1 ++ maskW t.exec 0 }
  | 0x08 => { t with fmt := v }
  | 0x09 => { t with rot := BitVec.ofNat 32 (v.toNat % 2 ^ 23) }
  | 0x0A => { t with stage := BitVec.ofNat 8 v.toNat }
  | 0x0B => { t with region := BitVec.ofNat 32 (v.toNat % 2 ^ 10) }
  | 0x0C => { t with status := if v.getLsbD 0 then t.status &&& 0xFFFFFFFE#32 else t.status }
  | 0x0E => { t with lfsr := (List.range 128).map (fun l => let x := v ^^^ BitVec.ofNat 32 (l * 0x01000193); if x = 0#32 then 1#32 else x) }
  | _ => t

/-- A target that a transfer may take: a multiple of 4, canonical (R166). -/
def legalTarget (a : DWord) : Prop := a.toNat % 4 = 0 ∧ (a.toNat < 2 ^ 47 ∨ 2 ^ 64 - 2 ^ 47 ≤ a.toNat)

/-- No demotion can follow a crossing: no region is open, or no path of it waits (R54, R55). -/
def unwatched (t : Strand) : Prop := t.regionOpen = false ∨ (t.getS (t.regionBase + 7)).getLsbD 10 = false

/-- A taken branch to spc leaves the body of loop l, opened at the present call depth (R165). -/
def leaves (t : Strand) (spc : DWord) (l : LoopFrame) : Bool :=
  decide (l.depth = t.rets.length) && (decide (spc.toNat < l.startSpc.toNat) || decide (l.endSpc.toNat < spc.toNat))

/-- The strand t' stands at the header at spc with lane index lpc (R163). -/
def standsAt (t' : Strand) (spc : DWord) (lpc : Word) : Prop := t'.hspc = spc ∧ t'.first = lpc ∧ t'.item = 0

/-- What a taken branch, not a call, leaves: its target, the loops it is still in, and everything else where it leaves none. -/
def branched (s : State) (t : Strand) (i : Instr) (spc : DWord) (lpc : Word) : Prop :=
  ∃ t', exec i s = .next (s.setCur t') ∧ standsAt t' spc lpc ∧ t'.s = t.s ∧ t'.v = t.v ∧ t'.rets = t.rets ∧
    t'.loops = t.loops.dropWhile (leaves t spc) ∧
    ((t.loops.head?.any (leaves t spc)) = false → t'.besidesNotes = t.besidesNotes) ∧ s.sameMemory (s.setCur t')

/-- The condition and the fields of the two-word branches (R163). -/
def branchOf (t : Strand) : Instr → Option (Bool × Nat × Nat)
  | .bra soff loff => some (true, soff, loff)
  | .bz r soff loff => some (decide (t.getS r = 0#32), soff, loff)
  | .bnz r soff loff => some (decide (t.getS r ≠ 0#32), soff, loff)
  | .bexz soff loff => some (decide (t.exec = 0#128), soff, loff)
  | _ => none

/-- SPC(word 1) + 4 x Sext(SOFF, 17), and LPC + LOFF (R163). -/
def targetOf (t : Strand) (soff : Nat) : DWord := BitVec.ofInt 64 (t.itemAddr.toNat + 4 * sextI soff 17)
def laneTarget (t : Strand) (loff : Nat) : Word := BitVec.ofNat 32 (t.first.toNat + t.nl + loff)

/-- What a call from an item of n words leaves (R164). -/
def called (s : State) (t : Strand) (i : Instr) (n : Nat) (spc : DWord) (lpc : Word) : Prop :=
  ∃ t', exec i s = .next (s.setCur t') ∧ standsAt t' spc lpc ∧
    t'.rets = { spc := t.itemAddr + BitVec.ofNat 64 (4 * n), lpc := t.first + BitVec.ofNat 32 t.nl, loops := t.loops.length } :: t.rets ∧
    { t'.besidesNotes with rets := t.rets } = t.besidesNotes ∧ s.sameMemory (s.setCur t')

/-- Every active lane holds a in register x and b in register y, some lane being active (R166). -/
def uniformPair (t : Strand) (x y : Nat) (a b : Word) : Prop :=
  t.exec ≠ 0#128 ∧ ∀ l, l < 128 → t.exec.getLsbD l = true →
    Vec.lane (t.getV (t.rotN x)) l = a ∧ Vec.lane (t.getV (t.rotN y)) l = b

/-- The operand of the MSK sub-ops: a quad, EXEC or LIVE (R169). -/
def maskOperand (t : Strand) (y z : Nat) : Mask := if z = 0 then t.getQ y else if z = 1 then t.exec else t.live

/-- The scalars that a MSK sub-op writes: a quad and its mask (R169). -/
def maskResult (t : Strand) : Instr → Option (Nat × Mask)
  | .mget x y z => some (x, maskOperand t y z)
  | .mand x y z => some (x, t.getQ x &&& maskOperand t y z)
  | .mor x y z => some (x, t.getQ x ||| maskOperand t y z)
  | .mnot x y z => some (x, BitVec.allOnes 128 ^^^ maskOperand t y z)
  | _ => none

/-- The twelve registers of a save area. -/
def saveArea (sv : Nat) : List Nat := (List.range 12).map (sv + ·)

end Sys2Proof.Rules

open Sys2Proof Sys2Proof.Machine Sys2Proof.Rules

/-- SGET returns the special register (a loop frame that is not open reads free values, log 12); reading clk.lo latches device
time for the strand. -/
def Sys2Proof.Rules.SgetReturnsTheSpecialRegister : Prop :=
  ∀ (s : State) (t : Strand) (x y : Nat), s.runs t → (Instr.sget x y).wf = true →
    ∃ t', exec (.sget x y) s = .next (s.setCur t') ∧ t'.getS x = specialRegister s t y ∧ t.sameScalars t' [x] ∧
      { t'.besidesScalars with clk := t.clk } = t.besidesScalars ∧
      t'.clk = (if y = 0x10 then BitVec.ofNat 64 s.time else t.clk) ∧ s.sameMemory (s.setCur t')

/-- SSET writes the special register under its own rule and nothing else; one that it may not write raises ILLEGAL. -/
def Sys2Proof.Rules.SsetWritesTheSpecialRegisterUnderItsRule : Prop :=
  ∀ (s : State) (t : Strand) (x y : Nat), s.runs t → x < 384 →
    (isSprW y = true → ∃ t', exec (.sset x y) s = .next (s.setCur t') ∧
      t'.besidesNotes = (afterSset t y (t.getS x)).besidesNotes ∧ s.sameMemory (s.setCur t')) ∧
    (isSprW y = false → exec (.sset x y) s = s.raise t { code := 1, arg := s.wordAt t t.itemAddr })

/-- BRA, BZ, BNZ and BEXZ: taken they stand at their target with the loops they are still in, untaken they fall through. -/
def Sys2Proof.Rules.BranchesGoToTheirTargetOrFallThrough : Prop :=
  ∀ (s : State) (t : Strand) (i : Instr) (c : Bool) (soff loff : Nat), s.runs t → s.cur < ccBase → i.wf = true →
    branchOf t i = some (c, soff, loff) →
    (c = false → exec i s = .next (s.setCur (t.advance 2))) ∧
    (c = true → legalTarget (targetOf t soff) → unwatched t → t.loops.length ≤ 4 →
      branched s t i (targetOf t soff) (laneTarget t loff))

/-- CALL and CALLI push the return address, the lane index and the loop depth, and close no loop. -/
def Sys2Proof.Rules.CallsPushTheReturnEntry : Prop :=
  ∀ (s : State) (t : Strand), s.runs t → unwatched t → t.rets.length < 16 →
    (∀ soff loff, s.cur < ccBase → (Instr.call soff loff).wf = true → legalTarget (targetOf t soff) →
      called s t (.call soff loff) 2 (targetOf t soff) (laneTarget t loff)) ∧
    (∀ x y, legalTarget (t.getPair x) → called s t (.calli x y) 1 (t.getPair x) (t.getS y))

/-- RET pops the entry and continues at its SPC and LPC; an empty stack and loops left open raise their faults. -/
def Sys2Proof.Rules.RetPopsTheReturnStack : Prop :=
  ∀ (s : State) (t : Strand), s.runs t →
    (t.rets = [] → exec .ret s = s.raise t { code := 0x0A, sub := 2 }) ∧
    (∀ e es, t.rets = e :: es → legalTarget e.spc →
      (e.loops < t.loops.length → exec .ret s = s.raise t { code := 0x09, sub := 3, arg := t.loops.length }) ∧
      (t.loops.length ≤ e.loops → unwatched t → ∃ t', exec .ret s = .next (s.setCur t') ∧ standsAt t' e.spc e.lpc ∧ t'.rets = es ∧
        { t'.besidesNotes with rets := t.rets } = t.besidesNotes ∧ s.sameMemory (s.setCur t')))

/-- JMPI, JMPV and CALLV continue at the target their operands hold; with EXEC zero JMPV and CALLV fall through. -/
def Sys2Proof.Rules.IndirectJumpsTakeTheirOperands : Prop :=
  ∀ (s : State) (t : Strand) (x y : Nat), s.runs t →
    (legalTarget (t.getPair x) → unwatched t → t.loops.length ≤ 4 → branched s t (.jmpi x y) (t.getPair x) (t.getS y)) ∧
    (x < t.budget → y < t.budget →
      (t.exec = 0#128 → exec (.jmpv x y) s = .next (s.setCur (t.advance 1)) ∧ exec (.callv x y) s = .next (s.setCur (t.advance 1))) ∧
      (∀ a b, uniformPair t x y a b → legalTarget (t.secBase + a.setWidth 64) → unwatched t →
        (t.loops.length ≤ 4 → branched s t (.jmpv x y) (t.secBase + a.setWidth 64) b) ∧
        (t.rets.length < 16 → called s t (.callv x y) 1 (t.secBase + a.setWidth 64) b)))

/-- The 64th crossing of a watched region demotes the current path: SPC, LPC and EXEC swap with words 5, 6 and 8 to 11, FMT or,
after a demotion, its low half is exchanged, DEMOTED is set, SPINDEM counts, and the former pending entry runs. -/
def Obligations.TheSixtyFourthCrossingDemotesThePath : Prop :=
  ∀ (t : Strand), t.regionOpen = true → (t.getS (t.regionBase + 7)).getLsbD 10 = true → t.spin.wrote = false →
    t.spin.hash = some (Config.spinHash t.spin.log) →
    (t.spin.count < 63 → t.cross.spin.count = t.spin.count + 1 ∧ t.cross.hspc = t.hspc ∧ t.cross.exec = t.exec) ∧
    (t.spin.count = 63 →
      standsAt t.cross (t.secBase + (t.getS (t.regionBase + 5)).setWidth 64) (t.getS (t.regionBase + 6)) ∧
      t.cross.exec = t.getQ (t.regionBase + 8) ∧
      t.cross.getS (t.regionBase + 5) = BitVec.ofNat 32 (t.hspc - t.secBase).toNat ∧ t.cross.getS (t.regionBase + 6) = t.first ∧
      t.cross.quadHolds (t.regionBase + 8) t.exec ∧ (t.cross.getS (t.regionBase + 7)).getLsbD 11 = true ∧
      (t.cross.getS (t.regionBase + 7)).getLsbD 10 = true ∧
      t.cross.fmt = (if (t.getS (t.regionBase + 7)).getLsbD 11 then
          BitVec.ofNat 32 (t.fmt.toNat / 2 ^ 16 * 2 ^ 16 + (t.getS (t.regionBase + 7)).toNat / 2 ^ 16)
        else t.getS (t.regionBase + 4)) ∧
      (t.cross.getS (t.regionBase + 7)).toNat / 2 ^ 16 = t.fmt.toNat % 2 ^ 16 ∧
      t.cross.status.toNat / 2 ^ 8 % 2 ^ 16 = min 0xFFFF (t.status.toNat / 2 ^ 8 % 2 ^ 16 + 1) ∧ t.cross.loops = t.loops)

/-- MSPLIT writes its save area, narrows EXEC to the condition, and names the area in the region pointer. -/
def Sys2Proof.Rules.MsplitSavesThePathAndNarrowsExec : Prop :=
  ∀ (s : State) (t : Strand) (c sv soff loff : Nat), s.runs t → (Instr.msplit c sv soff loff).wf = true →
    ∃ t', exec (.msplit c sv soff loff) s = .next (s.setCur t') ∧ t'.exec = t.exec &&& t.getQ c ∧
      t'.quadHolds sv t.exec ∧ t'.getS (sv + 4) = t.fmt ∧
      t'.getS (sv + 5) = BitVec.ofInt 32 ((t.itemAddr.toNat : Int) + 4 * sextI soff 16 - t.secBase.toNat) ∧
      t'.getS (sv + 6) = BitVec.ofInt 32 ((t.first.toNat : Int) + t.nl + sextI loff 16) ∧
      t'.quadHolds (sv + 8) (t.exec &&& ~~~ t.getQ c) ∧
      (t'.getS (sv + 7)).getLsbD 9 = true ∧ (t'.getS (sv + 7)).getLsbD 11 = false ∧
      ((t'.getS (sv + 7)).getLsbD 10 = true ↔ t.exec &&& ~~~ t.getQ c ≠ 0#128) ∧
      (t.regionOpen = true → fld (t'.getS (sv + 7)).toNat 0 9 = t.regionBase) ∧
      t'.region = BitVec.ofNat 32 (sv + 0x200) ∧ t.sameScalars t' (saveArea sv) ∧
      { t'.besidesScalars with exec := t.exec, region := t.region, seqNo := t.seqNo, splits := t.splits } = t.besidesScalars ∧
      s.sameMemory (s.setCur t')

/-- MJOIN runs the pending path, or restores the old EXEC and FMT and falls through. -/
def Sys2Proof.Rules.MjoinRunsThePendingPathOrRestores : Prop :=
  ∀ (s : State) (t : Strand) (sv : Nat), s.runs t → (Instr.mjoin sv).wf = true → (t.getS (sv + 7)).getLsbD 9 = true →
    ((t.getS (sv + 7)).getLsbD 10 = true → ∃ t', exec (.mjoin sv) s = .next (s.setCur t') ∧
      standsAt t' (t.secBase + (t.getS (sv + 5)).setWidth 64) (t.getS (sv + 6)) ∧ t'.exec = t.getQ (sv + 8) &&& t.live ∧
      t'.fmt = (if (t.getS (sv + 7)).getLsbD 11 then BitVec.ofNat 32 ((t.getS (sv + 7)).toNat / 2 ^ 16) else t.getS (sv + 4)) ∧
      t'.getS (sv + 7) = t.getS (sv + 7) &&& 0xFFFFFBFF#32 ∧ t.sameScalars t' [sv + 7] ∧
      { t'.besidesScalars with exec := t.exec, fmt := t.fmt } = t.besidesScalars ∧ s.sameMemory (s.setCur t')) ∧
    ((t.getS (sv + 7)).getLsbD 10 = false → ∃ t', exec (.mjoin sv) s = .next (s.setCur t') ∧
      t'.exec = t.getQ sv &&& t.live &&& ~~~ joinExclude t sv ∧ t'.fmt = t.getS (sv + 4) ∧
      t'.getS (sv + 7) = t.getS (sv + 7) &&& 0xFFFFFDFF#32 ∧ t.sameScalars t' [sv + 7] ∧
      t'.region = (if fld (t.getS (sv + 7)).toNat 0 9 = 0x1FF then 0x1FF#32 else BitVec.ofNat 32 (fld (t.getS (sv + 7)).toNat 0 9 + 0x200)) ∧
      { t'.besidesScalars with exec := t.exec, fmt := t.fmt, region := t.region } = t.besidesScalars ∧
      t'.hspc = (t.advance 1).hspc ∧ t'.item = (t.advance 1).item ∧ s.sameMemory (s.setCur t'))

/-- MSET writes EXEC within LIVE; MGET, MAND, MOR and MNOT write a quad; MPOPC counts. -/
def Sys2Proof.Rules.MaskWordsWriteExecOrTheirQuad : Prop :=
  ∀ (s : State) (t : Strand), s.runs t →
    (∀ y z, (Instr.mset y z).wf = true → ∃ t', exec (.mset y z) s = .next (s.setCur t') ∧ t'.exec = maskOperand t y z &&& t.live ∧
      { t'.besidesPlace with exec := t.exec } = t.besidesPlace ∧ s.sameMemory (s.setCur t')) ∧
    (∀ i q m, i.wf = true → maskResult t i = some (q, m) → writesQuad s t i q m) ∧
    (∀ x y z, (Instr.mpopc x y z).wf = true →
      writesScalar s t (.mpopc x y z) x (BitVec.ofNat 32 ((List.range 128).countP (fun l => (maskOperand t y z).getLsbD l))))

/-- MSK's sub-ops 2 to 7 decode as R169 lists them; z = 3, a register with z other than 0, and an x where there is none decode
to nothing. -/
def Sys2Proof.Rules.MaskWordsDecodeFieldByField : Prop :=
  (∀ w, fld w 26 6 = 0x2C → 2 ≤ fld w 20 6 → fld w 20 6 ≤ 7 →
    let x := fld w 11 9; let y := fld w 2 9; let z := fld w 0 2
    let i : Instr := match fld w 20 6 with | 2 => .mset y z | 3 => .mget x y z | 4 => .mand x y z | 5 => .mor x y z | 6 => .mnot x y z | _ => .mpopc x y z
    (i.wf = true → (fld w 20 6 = 2 → x = 0) → decodeScalar w 0 = .ok i) ∧
    ((i.wf = false ∨ z = 3 ∨ z ≠ 0 ∧ y ≠ 0 ∨ fld w 20 6 = 2 ∧ x ≠ 0) → ∃ e, decodeScalar w 0 = .error e)) ∧
  decodeScalar 0xB040A001 0 = .ok (.mand 20 0 1)
end

/-! ### Clauses, scalar memory, loops and waits -/

section
namespace Sys2Proof.Rules
open Sys2Proof Sys2Proof.Machine

/-- One access of strand t passes every check: no watchpoint covers it, it is aligned, mapped and permitted, and no serial
transaction holds its sector (R305, R338, R111); e is its translation. -/
def passes (s : State) (t : Strand) (a : Acc) (e : Tlb) : Prop := s.watchHit t a = none ∧ s.checkAcc s.cur t a true = .ok e

/-- The core's L1 has room for n more lines, so that a miss drives none out (R16, R81). -/
def roomy (s : State) (core n : Nat) : Prop :=
  ((s.core core).l1.map (fun e => e.1 / 4)).eraseDups.length + n ≤ State.l1Lines (s.core core)

/-- Nothing but the access itself moves in memory: no reduction waits in a combining buffer (R99), the L1 has room (R81), the
translation is held by the core's TLB, with its dirty bit where the access writes (R74), and the home slices hold no copy of a peer's
sector there (R300). -/
def quiet (s : State) (t : Strand) (va : Nat) (wr : Bool) : Prop :=
  (∀ c, (s.clu c).comb = []) ∧ roomy s t.core 1 ∧
    ∃ e, AMap.look (s.core t.core).tlb (State.tlbKey t.part t.ctx va) = some e ∧ (wr = true → e.dirty = true) ∧
      AMap.look s.slice (State.sliceKey (s.homePart t.core) (State.physOf e va)) = none

/-- None of the n bytes at pa is poisoned as core t sees it (R345, R365). -/
def clean (s : State) (t : Strand) (pa n coh : Nat) : Prop := ∀ i, i < n → s.readPoison t.core (pa + i) coh = false

/-- The home takes stores to pa: it is not system space behind a link that is down (R365). -/
def reachable (s : State) (pa : Nat) : Prop := isSys pa = false ∨ s.linkUp = true

/-- Strand t of s issued one operation on path p under flag fs, with these elements to land (R36, R37, R152). -/
def issuedOp (t t' : Strand) (p : Path) (fs : Nat) (lands : List (Dst × Word)) : Prop :=
  ∃ o, t'.ops = t.ops ++ [o] ∧ o.path = p ∧ o.flag = t.flagOf fs ∧ o.id = t.nextOp ∧ o.lands.map (fun x => (x.dst, x.val)) = lands

/-- The access of a scalar load or store (R161). -/
def scalarAcc (t : Strand) (p off n : Nat) (wr : Bool) : Acc :=
  { lane := 0, va := (BitVec.ofNat 64 ((t.getPair (2 * p)).toNat + 4 * off)).toNat, size := n, rd := !wr, wr := wr }

/-- Destination, pair, flag, offset and words of LDS, LDS2 and LDS4 (R161). -/
def scalarLoad : Instr → Option (Nat × Nat × Nat × Nat × Nat)
  | .lds d p fs off => some (d, p, fs, off, 1)
  | .lds2 d p fs off => some (d, p, fs, off, 2)
  | .lds4 d p fs off => some (d, p, fs, off, 4)
  | _ => none

/-- The same of STS and STS2 (R161). -/
def scalarStore : Instr → Option (Nat × Nat × Nat × Nat × Nat)
  | .sts d p fs off => some (d, p, fs, off, 1)
  | .sts2 d p fs off => some (d, p, fs, off, 2)
  | _ => none

/-- Word i at pa as a scalar load obtains it: the copy in the constant cache, where it holds the 16 bytes and the strand has not
written them since, or the value the core reads (R83, R91). -/
def scalarWord (s : State) (t : Strand) (pa i coh : Nat) : Word :=
  match (if t.core < 256 then AMap.look (s.core t.core).cc (pa / 16) else none) with
  | some x => if s.cur ∈ x.no then BitVec.ofNat 32 (s.coreRead t.core (pa + 4 * i) 4 coh) else x.words.getD (pa / 4 % 4 + i) 0#32
  | none => BitVec.ofNat 32 (s.coreRead t.core (pa + 4 * i) 4 coh)

/-- Nothing makes an item with these accesses wait before it issues on path p: its counter is below 1023, the core's 1024 requests
suffice, the memory arbiters grant it and the channels have bytes left where it needs one, and what a release at scope sc or an
acquire at scope ac writes back is in no serial transaction's footprint (R173, R81, R268, R277, R111). -/
def issues (s : State) (t : Strand) (p : Path) (accs : List (Acc × Tlb)) (sc ac : Nat) : Prop := s.mustWait t p accs sc ac = false

/-- ATOMS's new value of the word old for OPC, v = S[d] and w = S[d+1] (R162, R224). -/
def atomsNew (opc : Nat) (old v w : Word) : Word :=
  match opc with
  | 0 => old + v
  | 1 => if old.toInt ≤ v.toInt then old else v
  | 2 => if v.toInt ≤ old.toInt then old else v
  | 3 => if old.toNat ≤ v.toNat then old else v
  | 4 => if v.toNat ≤ old.toNat then old else v
  | 5 => v
  | _ => if old = v then w else old

/-- Register dst holds v. -/
def holds (t : Strand) (dst : Dst) (v : Word) : Prop :=
  match dst with
  | .s r => t.getS r = v
  | .v r l => l < 128 → Vec.lane (t.getV r) l = v

/-- The trip count of R57: n + s - 1 without wrapping. -/
def trips (n : Word) (stages : Nat) : Word :=
  BitVec.ofNat 32 (if 0xFFFFFFFF - (stages - 1) < n.toNat then 0xFFFFFFFF else n.toNat + (stages - 1))

/-- The header after the clause whose final word stands at fw, past both words of a two-word instruction (R57, R60). -/
def headerAfter (s : State) (t : Strand) (fw : DWord) : DWord := fw + BitVec.ofNat 64 (4 * scalarWords (s.wordAt t fw))

/-- What ExitLoop leaves of the innermost loop l, where the next enclosing loop does not end there too (R60). -/
def exited (s : State) (t t' : Strand) (l : LoopFrame) (ls : List LoopFrame) : Prop :=
  standsAt t' (headerAfter s t l.endSpc) l.endLpc ∧ t'.loops = ls ∧ t'.exec = l.entry &&& t.live ∧ t'.stage = l.stage ∧ t'.rot = t.rot

/-- The next enclosing loop does not end at fw (R58). -/
def endsAlone (t : Strand) (fw : DWord) (ls : List LoopFrame) : Prop :=
  ∀ m ∈ ls.head?, ¬ (m.endSpc = fw ∧ m.depth = t.rets.length)

/-- The item indices waiting in skein k of strand t's core (R62). -/
def skein (s : State) (t : Strand) (k : Nat) : List Word := if k = 0 then (s.core t.core).sk0 else (s.core t.core).sk1

/-- Register r of t' holds the first of the indices q in the lanes ls, in order, and what it held in t in the others; every
other vector register is as it was (R62). -/
def refilled (t t' : Strand) (r : Nat) (ls : List Nat) (q : List Word) : Prop :=
  (∀ i l, ls[i]? = some l → Vec.lane (t'.getV r) l = q.getD i 0#32) ∧
    (∀ l, l < 128 → l ∉ ls → Vec.lane (t'.getV r) l = Vec.lane (t.getV r) l) ∧ t.sameVectors t' [r]

end Sys2Proof.Rules

open Sys2Proof Sys2Proof.Machine Sys2Proof.Rules

/-- A header whose wait mask is clear, and which no acquire holds, opens its clause and captures the scalars; otherwise it waits
and nothing else changes. -/
def Sys2Proof.Rules.ClauseHeaderWaitsForItsFlagsThenOpensTheClause : Prop :=
  ∀ (s : State) (t : Strand) (wm sa sb nl ns : Nat), s.runs t → (Instr.clauseHeader wm sa sb nl ns).wf = true → t.item = 0 →
    ((∃ i, i < 12 ∧ wm.testBit i = true ∧ t.busy i = true) ∨ acqBusy t = true → ∃ t', exec (.clauseHeader wm sa sb nl ns) s = .next (s.setCur t') ∧
      { t' with wait := t.wait, since := t.since } = t) ∧
    ((∀ i, i < 12 → wm.testBit i = true → t.busy i = false) → acqBusy t = false → ∃ t', exec (.clauseHeader wm sa sb nl ns) s = .next (s.setCur t') ∧
      t'.capS = t.s ∧
      (0 < nl + ns → t'.item = 1 ∧ t'.hspc = t.hspc ∧ t'.first = t.first ∧ t'.nl = nl ∧ t'.ns = ns ∧
        (∀ i, i < 12 → (sa = i ∨ sb = i) → t'.busy i = true)) ∧
      (nl = 0 ∧ ns = 0 → t'.item = 0 ∧ t'.hspc = t.hspc + 4#64) ∧
      { t'.besidesPlace with capS := t.capS, claims := t.claims } = t.besidesPlace ∧ s.sameMemory (s.setCur t'))

/-- LDS, LDS2 and LDS4 issue one ld operation that lands the words read; memory keeps every byte. That a load reads
memory when it issues is the model's choice (log 4). -/
def Sys2Proof.Rules.ScalarLoadsIssueAReadOfTheirWords : Prop :=
  ∀ (s : State) (t : Strand) (i : Instr) (d p fs off n : Nat) (e : Tlb), s.runs t → i.wf = true →
    scalarLoad i = some (d, p, fs, off, n) → passes s t (scalarAcc t p off (4 * n) false) e →
    issues s t .ld [(scalarAcc t p off (4 * n) false, e)] 0 0 →
    quiet s t (scalarAcc t p off (4 * n) false).va false →
    clean s t (State.physOf e (scalarAcc t p off (4 * n) false).va) (4 * n) e.coh →
    ∃ s' t', exec i s = .next s' ∧ s'.runs t' ∧
      issuedOp t t' .ld fs ((List.range n).map (fun j => (Dst.s (d + j),
        scalarWord s t (State.physOf e (scalarAcc t p off (4 * n) false).va) j e.coh))) ∧
      t'.s = t.s ∧ t'.v = t.v ∧ t'.exec = t.exec ∧ t'.loops = t.loops ∧ t'.rets = t.rets ∧ t'.fmt = t.fmt ∧ s.sameMemory s'

/-- STS and STS2 store their words at the address of R161, on the st path, and change no other byte and no register. -/
def Sys2Proof.Rules.ScalarStoresWriteTheirBytesAlone : Prop :=
  ∀ (s : State) (t : Strand) (i : Instr) (d p fs off n : Nat) (e : Tlb), s.runs t → i.wf = true →
    scalarStore i = some (d, p, fs, off, n) → passes s t (scalarAcc t p off (4 * n) true) e →
    issues s t .st [(scalarAcc t p off (4 * n) true, e)] 0 0 →
    quiet s t (scalarAcc t p off (4 * n) true).va true → reachable s (State.physOf e (scalarAcc t p off (4 * n) true).va) →
    ∃ s' t', exec i s = .next s' ∧ s'.runs t' ∧ issuedOp t t' .st fs [] ∧
      (∀ j, j < n → s'.coreRead t.core (State.physOf e (scalarAcc t p off (4 * n) true).va + 4 * j) 4 e.coh = (t.getS (d + j)).toNat) ∧
      s.sameBut s' (State.physOf e (scalarAcc t p off (4 * n) true).va) (4 * n) ∧
      t'.s = t.s ∧ t'.v = t.v ∧ t'.exec = t.exec ∧ t'.loops = t.loops ∧ t'.rets = t.rets ∧ t'.fmt = t.fmt

/-- ATOMS reads the old word, writes the new one and returns the old on the at path; relaxed, nothing else changes.  That it reads and
writes memory in the step that issues it is the model's choice (log 4). -/
def Sys2Proof.Rules.AtomsReturnsTheOldWordAndWritesTheNew : Prop :=
  ∀ (s : State) (t : Strand) (d p fs opc ord scope : Nat) (e : Tlb), s.runs t → (Instr.atoms d p fs opc ord scope).wf = true →
    passes s t { scalarAcc t p 0 4 true with rd := true } e →
    issues s t .atm [({ scalarAcc t p 0 4 true with rd := true }, e)] (if 2 ≤ ord then scope else 0) (if ord % 2 = 1 then scope else 0) →
    (∃ s' t', exec (.atoms d p fs opc ord scope) s = .next s' ∧ s'.runs t' ∧ ∃ old, issuedOp t t' .atm fs [(Dst.s d, old)]) ∧
    (ord = 0 → (e.coh % 4 = 1 → AMap.look (s.core t.core).l1 (State.physOf e (scalarAcc t p 0 4 true).va / 64) = none) →
      AMap.look s.slice (State.sliceKey t.part (State.physOf e (scalarAcc t p 0 4 true).va)) = none →
      quiet s t (scalarAcc t p 0 4 true).va true → reachable s (State.physOf e (scalarAcc t p 0 4 true).va) →
      clean s t (State.physOf e (scalarAcc t p 0 4 true).va) 4 e.coh →
      ∃ s' t', exec (.atoms d p fs opc ord scope) s = .next s' ∧ s'.runs t' ∧
        issuedOp t t' .atm fs [(Dst.s d, BitVec.ofNat 32 (s.coreRead t.core (State.physOf e (scalarAcc t p 0 4 true).va) 4 e.coh))] ∧
        s'.coreRead t.core (State.physOf e (scalarAcc t p 0 4 true).va) 4 (if e.coh = 2 then 2 else 0) =
          (atomsNew opc (BitVec.ofNat 32 (s.coreRead t.core (State.physOf e (scalarAcc t p 0 4 true).va) 4 e.coh)) (t.getS d) (t.getS (d + 1))).toNat ∧
        s.sameBut s' (State.physOf e (scalarAcc t p 0 4 true).va) 4 ∧
        t'.s = t.s ∧ t'.v = t.v ∧ t'.exec = t.exec ∧ t'.loops = t.loops ∧ t'.rets = t.rets ∧ t'.fmt = t.fmt)

/-- A returning access completes: its elements land, its path's counter falls by one. -/
def Sys2Proof.Rules.ReturningAccessesLandWhenTheyComplete : Prop :=
  ∀ (s : State) (k : Nat) (t : Strand) (p : Path) (o : Op), s.strand? k = some t → t.pend = none →
    (p = .ld ∨ p = .sc ∨ p = .atm) → t.ops.find? (fun x => x.path == p) = some o → o.err = none →
    (∀ x ∈ o.lands, x.done = false) → (o.lands.map (·.dst)).Nodup → (t.ops.map (·.id)).Nodup →
    ∃ t', exec (.retComplete k p.code) s = .next (s.setStrand k t') ∧ (∀ x ∈ o.lands, holds t' x.dst x.val) ∧
      t'.ops = t.ops.filter (fun x => x.id != o.id) ∧ t'.count p + 1 = t.count p ∧
      { t' with s := t.s, v := t.v, bad := t.bad, spin := t.spin, ops := t.ops } = t ∧ s.sameMemory (s.setStrand k t')

/-- A sourcing access completes: its path's counter falls by one and nothing else changes. -/
def Sys2Proof.Rules.SourcingAccessesOnlyLowerTheirCounter : Prop :=
  ∀ (s : State) (k : Nat) (t : Strand) (p : Path) (o : Op), s.strand? k = some t → t.pend = none →
    (p = .st ∨ p = .sc ∨ p = .ld) → t.ops.find? (fun x => x.path == p) = some o → o.err = none → o.lands = [] →
    (t.ops.map (·.id)).Nodup →
    exec (.srcComplete k p.code) s = .next (s.setStrand k { t with ops := t.ops.filter (fun x => x.id != o.id) }) ∧
      (t.ops.filter (fun x => x.id != o.id)).length + 1 = t.ops.length

/-- LOOP opens a frame with the trip count of R57 and STAGE 1, or skips the loop on a count of 0; a wrong level raises
LOOP_NEST. -/
def Sys2Proof.Rules.LoopOpensAFrameOrSkips : Prop :=
  ∀ (s : State) (t : Strand) (lvl cnt nstg rot ireg send llen : Nat), s.runs t →
    (Instr.loop lvl cnt nstg rot 0 ireg send llen).wf = true →
    (t.loops.length < 4 → lvl ≠ t.loops.length → exec (.loop lvl cnt nstg rot 0 ireg send llen) s =
      s.raise t { code := 0x09, sub := 1, arg := t.loops.length }) ∧
    (lvl = t.loops.length → t.loops.length < 4 → t.getS cnt ≠ 0#32 →
      ∃ t' l, exec (.loop lvl cnt nstg rot 0 ireg send llen) s = .next (s.setCur t') ∧ t'.loops = l :: t.loops ∧
        l.startSpc = t.hspc + BitVec.ofNat 64 (4 * (t.ns + 1)) ∧ l.startLpc = t.first + BitVec.ofNat 32 t.nl ∧
        l.endSpc = t.itemAddr + BitVec.ofNat 64 (4 * send) ∧ l.endLpc = t.first + BitVec.ofNat 32 (t.nl + llen) ∧
        l.trips = trips (t.getS cnt) nstg ∧ l.entry = t.exec ∧ l.lexit = 0#128 ∧ l.depth = t.rets.length ∧ l.stage = t.stage ∧
        l.stages = nstg ∧ l.rot = decide (rot = 1) ∧ l.item = false ∧ t'.stage = 1#8 ∧
        { t'.besidesPlace with loops := t.loops, stage := t.stage, seqNo := t.seqNo, lfTop := t.lfTop } = t.besidesPlace) ∧
    (lvl = t.loops.length → t.loops.length < 4 → t.getS cnt = 0#32 →
      exec (.loop lvl cnt nstg rot 0 ireg send llen) s =
        .next (s.setCur (t.jump (headerAfter s t (t.itemAddr + BitVec.ofNat 64 (4 * send))) (t.first + BitVec.ofNat 32 (t.nl + llen)))))

/-- ITEM loops take their lanes' indices from the skein: LOOP opens with the lanes that the skein serves, in ascending order, or
is skipped when it is dry; a back edge refills the lanes that left, and ends the loop when no lane is active. -/
def Obligations.ItemLoopsTakeIndicesFromTheSkein : Prop :=
  (∀ (s : State) (t : Strand) (cnt nstg rot ireg send llen k : Nat), s.runs t → k < 2 → s.skeinOf t = some k →
    (Instr.loop t.loops.length cnt nstg rot 1 ireg send llen).wf = true → t.loops.length < 4 → ireg < t.budget →
    let q := skein s t k
    let ls := (lanesOf t.exec).take q.length
    ((t.getS cnt = 0#32 ∨ ls = []) → ∃ s', exec (.loop t.loops.length cnt nstg rot 1 ireg send llen) s = .next s' ∧
      s'.runs (t.jump (headerAfter s t (t.itemAddr + BitVec.ofNat 64 (4 * send))) (t.first + BitVec.ofNat 32 (t.nl + llen))) ∧
      skein s' t k = q ∧ s.sameMemory s') ∧
    (t.getS cnt ≠ 0#32 → ls ≠ [] → ∃ s' t' l, exec (.loop t.loops.length cnt nstg rot 1 ireg send llen) s = .next s' ∧ s'.runs t' ∧
      t'.loops = l :: t.loops ∧ l.item = true ∧ l.trips = trips (t.getS cnt) nstg ∧ l.ireg = ireg ∧ l.entry = t.exec ∧
      t'.exec = maskOfLanes ls ∧ l.lexit = t.exec &&& ~~~ maskOfLanes ls ∧ t'.stage = 1#8 ∧ refilled t t' (t.rotN ireg) ls q ∧
      skein s' t k = q.drop ls.length ∧ t'.s = t.s ∧ s.sameMemory s')) ∧
  (∀ (s : State) (t : Strand) (l : LoopFrame) (fs : List LoopFrame) (k : Nat), s.runs t → t.edge = true → t.loops = l :: fs →
    l.item = true → l.rot = false → k < 2 → s.skeinOf t = some k → (l.trips = 0xFFFFFFFF#32 ∨ 1 < l.trips.toNat) →
    let q := skein s t k
    let ls := (lanesOf (l.lexit &&& t.live)).take q.length
    (t.exec ||| maskOfLanes ls ≠ 0#128 → unwatched t → ∃ s' t', exec .backEdge s = .next s' ∧ s'.runs t' ∧
      standsAt t' l.startSpc l.startLpc ∧ t'.exec = t.exec ||| maskOfLanes ls ∧ refilled t t' (t.rotN l.ireg) ls q ∧
      (∃ m, t'.loops = m :: fs ∧ m.lexit = l.lexit &&& ~~~ maskOfLanes ls ∧
        m.trips = if l.trips = 0xFFFFFFFF#32 then l.trips else l.trips - 1#32) ∧ skein s' t k = q.drop ls.length ∧ t'.s = t.s ∧ s.sameMemory s') ∧
    (t.exec ||| maskOfLanes ls = 0#128 → endsAlone t l.endSpc fs → ∃ s' t', exec .backEdge s = .next s' ∧ s'.runs t' ∧
      exited s t t' l fs ∧ t'.s = t.s ∧ s.sameMemory s'))

/-- The back edge of a counted loop rewinds with one trip fewer, or ends the loop. -/
def Sys2Proof.Rules.TheBackEdgeRewindsOrExitsTheLoop : Prop :=
  ∀ (s : State) (t : Strand) (l : LoopFrame) (ls : List LoopFrame), s.runs t → t.edge = true → t.loops = l :: ls → l.item = false →
    (1 < l.trips.toNat → unwatched t → ∃ t', exec .backEdge s = .next (s.setCur t') ∧ standsAt t' l.startSpc l.startLpc ∧
      t'.loops = { l with trips := BitVec.ofNat 32 (l.trips.toNat - 1) } :: ls ∧ t'.exec = t.exec ∧
      t'.stage = (t.stage <<< 1) ||| (if l.stages - 1 < l.trips.toNat - 1 then 1#8 else 0#8) ∧
      (l.rot = false → t'.rot = t.rot) ∧
      (l.rot = true → 0 < t.rotSize → t.rot.toNat < 2 ^ 23 → t.rotRb < t.rotSize →
        t'.rotBase = t.rotBase ∧ t'.rotSize = t.rotSize ∧ t'.rotRb = (t.rotRb + t.rotSize - 1) % t.rotSize) ∧
      t'.s = t.s ∧ t'.v = t.v ∧ t'.rets = t.rets) ∧
    (l.trips.toNat ≤ 1 → endsAlone t l.endSpc ls → ∃ t', exec .backEdge s = .next (s.setCur t') ∧ exited s t t' l ls ∧
      t'.s = t.s ∧ t'.v = t.v ∧ t'.rets = t.rets)

/-- LEXIT and LBRK take lanes out of EXEC and add them to the frame's LEXIT mask; the last lane out ends a counted loop. -/
def Sys2Proof.Rules.LexitAndLbrkTakeLanesOutOfTheLoop : Prop :=
  ∀ (s : State) (t : Strand) (i : Instr) (m : Mask) (l : LoopFrame) (ls : List LoopFrame), s.runs t →
    (i = .lbrk ∧ m = t.exec ∨ ∃ x, i = .lexit x ∧ m = t.getQ x) → t.loops = l :: ls →
    ((t.exec = 0#128 ∨ t.exec &&& ~~~ m ≠ 0#128) → ∃ t', exec i s = .next (s.setCur t') ∧ t'.exec = t.exec &&& ~~~ m ∧
      t'.loops = { l with lexit := l.lexit ||| m } :: ls ∧
      { t'.besidesPlace with exec := t.exec, loops := t.loops } = t.besidesPlace) ∧
    (t.exec ≠ 0#128 → t.exec &&& ~~~ m = 0#128 → l.item = false → endsAlone t l.endSpc ls →
      ∃ t', exec i s = .next (s.setCur t') ∧ exited s t t' l ls ∧ t'.s = t.s ∧ t'.v = t.v ∧ t'.rets = t.rets)

/-- ROTSET sets the rotating region and clears RB, or raises REG_BOUND beyond the budget; SKPUT appends the indices
that fit to the skein and returns their number; LDEPTH reads the open loops and return entries. -/
def Sys2Proof.Rules.RotsetSkputAndLdepthSetTheirRegisters : Prop :=
  ∀ (s : State) (t : Strand), s.runs t →
    (∀ base size, (Instr.rotset base size).wf = true →
      (base + size ≤ t.budget → ∃ t', exec (.rotset base size) s = .next (s.setCur t') ∧ t'.rotBase = base ∧ t'.rotSize = size ∧
        t'.rotRb = 0 ∧ { t'.besidesPlace with rot := t.rot } = t.besidesPlace) ∧
      (t.budget < base + size → exec (.rotset base size) s = s.raise t { code := 0x08, arg := base + size - 1 })) ∧
    (∀ x y z k, (Instr.skput x y z).wf = true → s.skeinOf t = some k →
      ∃ s' t' n, exec (.skput x y z) s = .next s' ∧ s'.runs t' ∧
        n = Nat.min (t.getS y).toNat (4096 - (if z = 0 then (s.core t.core).sk0 else (s.core t.core).sk1).length) ∧
        t'.getS y = BitVec.ofNat 32 n ∧ t.sameScalars t' [y] ∧ t'.besidesScalars = t.besidesScalars ∧
        (if z = 0 then (s'.core t.core).sk0 else (s'.core t.core).sk1) =
          (if z = 0 then (s.core t.core).sk0 else (s.core t.core).sk1) ++ (List.range n).map (fun j => t.getS x + BitVec.ofNat 32 j) ∧
        s'.mem = s.mem) ∧
    (∀ x, writesScalar s t (.ldepth x) x (BitVec.ofNat 32 (t.loops.length + 8 * t.rets.length)))

/-- WAITP completes at its threshold and waits above it; a FENCE completes when the accesses before it are done, and, where it is
a release or an acquire, no serial transaction holds what it writes back. -/
def Sys2Proof.Rules.WaitpAndFenceWaitForTheirCounters : Prop :=
  ∀ (s : State) (t : Strand), s.runs t →
    (∀ path idx n, (Instr.waitp path idx n).wf = true →
      (t.count (pathOf path) ≤ (if idx = 1 then n else (t.getS n).toNat) → exec (.waitp path idx n) s = .next (s.setCur (t.advance 1))) ∧
      ((if idx = 1 then n else (t.getS n).toNat) < t.count (pathOf path) → ∃ t', exec (.waitp path idx n) s = .next (s.setCur t') ∧
        { t' with wait := t.wait, since := t.since } = t)) ∧
    (∀ kind scope, (Instr.fence kind scope).wf = true →
      ((kind = 1 ∨ t.count .ld = 0 ∧ t.count .sc = 0 ∧ t.count .atm = 0 ∧ (kind = 3 → t.count .st = 0)) →
        (kind ≠ 0 → s.releaseWaits s.cur t scope = false) → (kind ≠ 1 → s.acquireWaits s.cur t scope = false) →
        ∃ s', exec (.fence kind scope) s = .next s' ∧ s'.strand? s.cur = some (t.advance 1)))
end

/-! ### Clasps -/

section
namespace Sys2Proof.Rules
open Sys2Proof Sys2Proof.Machine

/-- Handle h of strand t reaches the object at p, through binding b of its weave w (R175, R177). -/
def reaches (s : State) (t : Strand) (h : Nat) (wr : Bool) (w : Weave) (b : Bind) (p : CPlace) : Prop :=
  s.weave? t.weave = some w ∧ AMap.look w.binds h = some b ∧ s.claspObj s.cur t h wr = .ok (w, b, p)

/-- No maintenance that a release or an acquire carries moves a byte (R80, R88, R100): no stash, no dirty sector and no line of
a combining buffer stands; the object holds no poison, and a bolt clasp's page is translated and reachable. -/
def still (s : State) (t : Strand) (w : Weave) (b : Bind) (p : CPlace) : Prop :=
  (s.core t.core).stash = [] ∧ (s.core w.home).stash = [] ∧ (∀ e ∈ (s.core t.core).l1, e.2.dirty = 0#16) ∧
  (∀ c, (s.clu c).comb = []) ∧ s.claspPoison p = [] ∧
  match p with
  | .scr _ _ => True
  | .mem pa => reachable s pa ∧ quiet s t b.addr true

/-- Memory keeps every byte but the object's six words. -/
def onlyObject (s s' : State) (p : CPlace) : Prop :=
  match p with
  | .scr _ _ => s'.mem = s.mem
  | .mem pa => ∀ a, (a < pa ∨ pa + 24 ≤ a) → s'.homeByte a = s.homeByte a

/-- An item that writes scalar x and moves on; s' is the state it leaves, memory keeping all but the object. -/
def claspDone (s : State) (t : Strand) (i : Instr) (x : Nat) (v : Word) (p : CPlace) (post : State → Prop) : Prop :=
  ∃ s' t', exec i s = .next s' ∧ s'.runs t' ∧ t'.getS x = v ∧ t.sameScalars t' [x] ∧ t'.besidesScalars = t.besidesScalars ∧
    onlyObject s s' p ∧ post s'

/-- The next phase of the object c, WAITERS apart (R175). -/
def nextPhase (c c' : Clasp) : Prop :=
  c'.seq = (c.seq + 1) % 65536 ∧ c'.inv = c.inv ∧ c'.e = c.e + c.j ∧ c'.a = c.early ∧ c'.j = 0#32 ∧
    c'.early = 0#32 ∧ c'.held = c.held

/-- No strand waits at any clasp. -/
def nobodyWaits (s : State) : Prop := ∀ e ∈ s.strands, ∀ h x, e.2.wait ≠ .clasp h x

/-- What the object of s reads after its counts became c and A = E was tested: WAITERS is 0 after a completion that leaves nobody
waiting (R175). -/
def tested (s : State) (c c' : Clasp) : Prop :=
  (c.a ≠ c.e → c' = c) ∧
  (c.a = c.e → (∃ d, nextPhase c d ∧ (d.a = d.e ∧ d.e ≠ 0#32 → nextPhase d c') ∧ (¬ (d.a = d.e ∧ d.e ≠ 0#32) → nextPhase c c')) ∧
    (nobodyWaits s → c'.waiters = false))

/-- The record of strand t at handle h (R175). -/
def record (w : Weave) (t : Strand) (h : Nat) : CRec := AMap.get w.recs (State.recKey w h t.widx) { arrived := false, early := false, joins := false }

/-- The token's phase has completed (R176). -/
def tokenDone (c : Clasp) (tok : Word) : Bool :=
  decide (1 ≤ ((c.seq : Int) - tok.toNat % 65536) % 65536) && decide (((c.seq : Int) - tok.toNat % 65536) % 65536 ≤ 0x7FFF)

/-- Commands tagged for handle h are in flight (R187). -/
def tagged (t : Strand) (h : Nat) : Bool := t.ops.any (fun o => o.tag == some h)

end Sys2Proof.Rules

open Sys2Proof Sys2Proof.Machine Sys2Proof.Rules

/-- INIT writes the object anew; INVAL sets INV and clears WAITERS; REG binds and UNREG unbinds the handle. -/
def Sys2Proof.Rules.ClaspInitInvalRegAndUnregSetTheObjectOrItsHandle : Prop :=
  ∀ (s : State) (t : Strand) (x h : Nat), s.runs t → x < 384 → h < 16 →
    (∀ w b p, reaches s t h true w b p → still s t w b p →
      ((s.claspRead p).waiters = true ∨ (s.claspRead p).held ≠ 0#32 →
        exec (.claspInit x h) s = (s.claspPrep s.cur p).raise t { code := 0xE, sub := 2, arg := h }) ∧
      ((s.claspRead p).waiters = false → (s.claspRead p).held = 0#32 →
        claspDone s t (.claspInit x h) x (t.getS x) p (fun s' => let c := s'.claspRead p
          c.seq = 0 ∧ c.inv = false ∧ c.waiters = false ∧ c.e = t.getS x ∧ c.a = 0#32 ∧ c.j = 0#32 ∧ c.early = 0#32 ∧ c.held = 0#32 ∧
          ∀ k u w', s'.strand? k = some u → k < ccBase → u.weave = t.weave → s'.weave? t.weave = some w' →
            record w' u h = { arrived := false, early := false, joins := false })) ∧
      claspDone s t (.claspInval h) x (t.getS x) p (fun s' => let c := s'.claspRead p
        c.inv = true ∧ c.waiters = false ∧ c.seq = (s.claspRead p).seq ∧ c.e = (s.claspRead p).e ∧ c.a = (s.claspRead p).a ∧
        c.j = (s.claspRead p).j ∧ c.early = (s.claspRead p).early ∧ c.held = (s.claspRead p).held)) ∧
    (∀ bolt, (Instr.claspReg x h bolt).wf = true → ∀ w, s.weave? t.weave = some w →
      ∃ s' w', exec (.claspReg x h bolt) s = .next s' ∧ s'.strand? s.cur = some (t.advance 1) ∧ s'.mem = s.mem ∧ s'.weave? t.weave = some w' ∧
        AMap.look w'.binds h = some { bolt := decide (bolt = 1), addr := if bolt = 1 then (t.getPair x).toNat else (t.getS x).toNat } ∧
        (∀ g, g ≠ h → AMap.look w'.binds g = AMap.look w.binds g) ∧ w'.scr = w.scr) ∧
    (∀ w, s.weave? t.weave = some w →
      (AMap.look w.binds h = none → exec (.claspUnreg h) s = s.raise t { code := 0xE, sub := 1, arg := h }) ∧
      (AMap.look w.binds h ≠ none → ∃ s' w', exec (.claspUnreg h) s = .next s' ∧ s'.strand? s.cur = some (t.advance 1) ∧ s'.mem = s.mem ∧
        s'.weave? t.weave = some w' ∧ AMap.look w'.binds h = none ∧ (∀ g, g ≠ h → AMap.look w'.binds g = AMap.look w.binds g) ∧ w'.scr = w.scr))

/-- ARRIVE counts in the current phase, or early in the next, and returns the token; ARRIVETX does so at once unless tagged
commands are in flight, and then holds the arrival. -/
def Sys2Proof.Rules.ArrivalsCountTheirPhaseAndReturnItsToken : Prop :=
  ∀ (s : State) (t : Strand) (i : Instr) (x h : Nat) (w : Weave) (b : Bind) (p : CPlace), s.runs t → i.wf = true →
    (i = .claspArrive x h ∨ i = .claspArrivetx x h ∧ tagged t h = false) → reaches s t h true w b p → still s t w b p →
    ((s.claspRead p).inv = true → claspDone s t i x (BitVec.ofNat 32 (s.claspRead p).seq) p (fun s' => s'.claspRead p = s.claspRead p)) ∧
    ((s.claspRead p).inv = false → (record w t h).joins = false → (record w t h).arrived = false →
      claspDone s t i x (BitVec.ofNat 32 (s.claspRead p).seq) p (fun s' =>
        tested s { s.claspRead p with a := (s.claspRead p).a + 1 } (s'.claspRead p))) ∧
    ((s.claspRead p).inv = false → ((record w t h).joins = true ∨ (record w t h).arrived = true) → (record w t h).early = false →
      claspDone s t i x (BitVec.ofNat 32 (((s.claspRead p).seq + 1) % 65536)) p (fun s' =>
        s'.claspRead p = { s.claspRead p with early := (s.claspRead p).early + 1 } ∧
        ∀ w', s'.weave? t.weave = some w' → (record w' t h).early = true)) ∧
    ((s.claspRead p).inv = false → ((record w t h).joins = true ∨ (record w t h).arrived = true) → (record w t h).early = true →
      ∃ t', exec i s = .next ((s.claspPrep s.cur p).setCur t') ∧ { t' with wait := t.wait, since := t.since } = t)

/-- ARRIVETX holds its arrival while commands tagged for the handle are in flight; HELD_ARRIVAL_TAKES_EFFECT counts it. -/
def Sys2Proof.Rules.HeldArrivalsWaitForTheirTaggedCommands : Prop :=
  ∀ (s : State) (t : Strand) (x h : Nat) (w : Weave) (b : Bind) (p : CPlace), s.runs t → x < 384 → h < 16 → reaches s t h true w b p →
    still s t w b p → (s.claspRead p).inv = false →
    (tagged t h = true → (record w t h).joins = false → (record w t h).arrived = false →
      claspDone s t (.claspArrivetx x h) x (BitVec.ofNat 32 (s.claspRead p).seq) p (fun s' =>
        s'.claspRead p = { s.claspRead p with held := (s.claspRead p).held + 1 } ∧
        ∀ w', s'.weave? t.weave = some w' → (record w' t h).arrived = true ∧
          w'.helds = w.helds ++ [{ h := h, bind := b, token := (s.claspRead p).seq, widx := t.widx, upto := t.nextOp }])) ∧
    (∀ a, w.helds = [a] → a.h = h → a.bind = b → a.widx = t.widx → tagged t h = false →
      ∃ s', exec (.heldArrival s.cur h) s = .next s' ∧ onlyObject s s' p ∧
        (∀ w', s'.weave? t.weave = some w' → w'.helds = []) ∧
        (a.token = (s.claspRead p).seq →
          tested s { s.claspRead p with held := (s.claspRead p).held - 1, a := (s.claspRead p).a + 1 } (s'.claspRead p)) ∧
        (a.token ≠ (s.claspRead p).seq →
          s'.claspRead p = { s.claspRead p with held := (s.claspRead p).held - 1, early := (s.claspRead p).early + 1 }))

/-- WAIT returns 0 once its token's phase has completed and 1 once INV is set, and otherwise waits with WAITERS set; a wait that
has been released returns the status it was released with, whatever the handle names and the object reads now; TEST returns 1, 2 or
0 and never waits.  Where the phase is complete and INV is set as well, that WAIT returns 0 and TEST 1 is the model's reading (log 27):
the rule says whichever is observed first. -/
def Sys2Proof.Rules.ClaspWaitAndTestReportTheirTokensPhase : Prop :=
  ∀ (s : State) (t : Strand) (x h : Nat) (w : Weave) (b : Bind) (p : CPlace), s.runs t → x < 384 → h < 16 →
    still s t w b p →
    (∀ v scope, v < 2 → scope ≤ 4 → t.wait = .woke v scope →
      ∃ s' t', exec (.claspWait x h) s = .next s' ∧ s'.runs t' ∧ t'.getS x = BitVec.ofNat 32 v ∧ t.sameScalars t' [x] ∧
        t'.besidesScalars = { t with wait := .none }.besidesScalars ∧ onlyObject s s' p ∧ s'.claspRead p = s.claspRead p) ∧
    (reaches s t h true w b p → (∀ v scope, t.wait ≠ .woke v scope) →
      (tokenDone (s.claspRead p) (t.getS x) = true → claspDone s t (.claspWait x h) x 0#32 p (fun s' => s'.claspRead p = s.claspRead p)) ∧
      (tokenDone (s.claspRead p) (t.getS x) = false → (s.claspRead p).inv = true →
        claspDone s t (.claspWait x h) x 1#32 p (fun s' => s'.claspRead p = s.claspRead p)) ∧
      (tokenDone (s.claspRead p) (t.getS x) = false → (s.claspRead p).inv = false →
        ∃ s' t', exec (.claspWait x h) s = .next s' ∧ s'.runs t' ∧ { t' with wait := t.wait, since := t.since } = t ∧
          onlyObject s s' p ∧ (s'.claspRead p).waiters = true ∧ (s'.claspRead p).seq = (s.claspRead p).seq ∧
          (s'.claspRead p).a = (s.claspRead p).a ∧ (s'.claspRead p).e = (s.claspRead p).e)) ∧
    (reaches s t h false w b p →
      claspDone s t (.claspTest x h) x (if tokenDone (s.claspRead p) (t.getS x) then 1#32 else if (s.claspRead p).inv then 2#32 else 0#32) p
        (fun s' => s'.claspRead p = s.claspRead p))
end

/-! ### Membership -/

section
namespace Sys2Proof.Rules
open Sys2Proof Sys2Proof.Machine

/-- The strands that count as members of a weave (R180): a departure that DETACH has reserved counts as gone. -/
def memberCount (s : State) (wk : Nat) : Nat :=
  s.strands.countP (fun e => decide (e.1 < ccBase) && e.2.weave == wk && e.2.leave != .detach)

/-- Members of t's weave of a lower weave-relative index (R180). -/
def rankOf (s : State) (wk i : Nat) : Nat :=
  s.strands.countP (fun e => decide (e.1 < ccBase) && e.2.weave == wk && e.2.leave != .detach && decide (e.2.widx < i))

/-- The word of R180 for member u. -/
def whoOf (s : State) (w : Weave) (u : Strand) : Word :=
  BitVec.ofNat 32 (rankOf s u.weave u.widx + 2 ^ 7 * u.widx + 2 ^ 14 * u.slot + 2 ^ 21 * (if u.core = w.home then 0 else 1) + 2 ^ 22 * (u.slot / 24))

/-- A strand as ATTACH starts it (R42, R179). -/
def started (t u : Strand) (w : Weave) (x widx role core slot : Nat) : Prop :=
  u.weave = t.weave ∧ u.widx = widx ∧ u.role = role ∧ u.core = core ∧ u.slot = slot ∧ u.part = t.part ∧ u.ctx = t.ctx ∧ u.priv = t.priv ∧
  u.hspc = t.secBase + (t.getS (x + 1)).setWidth 64 ∧ u.first = t.getS (x + 2) ∧ u.item = 0 ∧
  u.exec = BitVec.allOnes 128 ∧ u.live = BitVec.allOnes 128 ∧ u.fmt = 0#32 ∧ u.rot = 0#32 ∧ u.stage = 0#8 ∧
  u.getS 0 = BitVec.ofNat 32 u.sid ∧ u.getS 1 = BitVec.ofNat 32 widx ∧ u.getS 2 = BitVec.ofNat 32 t.widx ∧
  u.getS 3 = BitVec.ofNat 32 (w.attSeq + 1) ∧ (∀ r, 4 ≤ r → u.getS r = 0#32) ∧ ∀ r l, Vec.lane (u.getV r) l = 0#32

/-- A granted or refused membership request: S[x] := v and the next item. -/
def answers (s s' : State) (t : Strand) (i : Instr) (x : Nat) (v : Word) : Prop :=
  ∃ t', exec i s = .next s' ∧ s'.runs t' ∧ t'.getS x = v ∧ t.sameScalars t' [x] ∧ t'.besidesScalars = t.besidesScalars ∧ s'.mem = s.mem

/-- n more slots would take the weave past its maximum or the context's maxstr (R181). -/
def pastCeiling (s : State) (t : Strand) (w : Weave) (p : Part) (n : Nat) : Prop :=
  w.wmax < memberCount s t.weave + w.resv.sum + n ∨ p.knob (4 * t.ctx + 1) < memberCount s t.weave + w.resv.sum + n

/-- A pending GROW of strand u ends with v in its register x. -/
def grown (s' : State) (k : Nat) (u : Strand) (x : Nat) (v : Word) : Prop :=
  ∃ u', s'.strand? k = some u' ∧ u'.getS x = v ∧ u.sameScalars u' [x] ∧ u'.wait = .none ∧
    { u'.besidesScalars with wait := u.wait, since := u.since } = u.besidesScalars

end Sys2Proof.Rules

open Sys2Proof Sys2Proof.Machine Sys2Proof.Rules

/-- ATTACH places all its strands, each as R42 starts it, and returns k; or it places none and returns 0, past the weave's maximum,
past the context's attach ceiling (R260, R272) or where the slots do not suffice; a misaligned SPC, a k of 0 or above 64, a matrix k
that is no multiple of 4 and a coordinate outside the weave's cluster raise ALIGN or WEAVE. -/
def Obligations.AttachPlacesAllItsStrandsOrNone : Prop :=
  ∀ (s : State) (t : Strand) (x coord role : Nat) (w : Weave) (d : Desc) (p : Part), s.runs t → (Instr.attach x coord role).wf = true →
    s.weave? t.weave = some w → s.descOf w = some d → s.part? t.part = some p →
    ((t.getS (x + 1)).toNat % 4 ≠ 0 → exec (.attach x coord role) s = s.raise t { code := 3, sub := 1, arg := (t.getS (x + 1)).toNat }) ∧
    ((t.getS (x + 1)).toNat % 4 = 0 → ((t.getS x).toNat = 0 ∨ 64 < (t.getS x).toNat) →
      exec (.attach x coord role) s = s.raise t { code := 0xF, sub := 1, arg := (t.getS x).toNat }) ∧
    ((t.getS (x + 1)).toNat % 4 = 0 → 0 < (t.getS x).toNat → (t.getS x).toNat ≤ 64 →
      (role = 1 → (t.getS x).toNat % 4 ≠ 0 → exec (.attach x coord role) s = s.raise t { code := 0xF, sub := 2, arg := (t.getS x).toNat }) ∧
      ((role = 1 → (t.getS x).toNat % 4 = 0) → State.coordCore w coord / 2 ≠ w.home / 2 →
        exec (.attach x coord role) s = s.raise t { code := 0xF, sub := 3, arg := coord })) ∧
    ((t.getS (x + 1)).toNat % 4 = 0 → 0 < (t.getS x).toNat → (t.getS x).toNat ≤ 64 → (role = 1 → (t.getS x).toNat % 4 = 0) →
      State.coordCore w coord / 2 = w.home / 2 →
      ((w.wmax < memberCount s t.weave + (t.getS x).toNat ∨ p.knob (4 * t.ctx + 1) < memberCount s t.weave + (t.getS x).toNat ∨
          s.attachSlots t.weave w d role (State.coordCore w coord) (t.getS x).toNat = none) →
        answers s (s.setCur ((t.setS x 0#32).advance 1)) t (.attach x coord role) x 0#32) ∧
      (∀ slots, s.cur = 96 * t.core + t.slot → t.slot < 96 → s.cur < ccBase → memberCount s t.weave + (t.getS x).toNat ≤ w.wmax →
        memberCount s t.weave + (t.getS x).toNat ≤ p.knob (4 * t.ctx + 1) → s.claspsWait s.cur t = false →
        s.takeWaits (State.coordCore w coord) t.ctx d.creg d.cscr = false → (t.getS x).toNat ≤ (s.freeIdx t.weave (t.getS x).toNat).length →
        s.chargeFits p (State.coordCore w coord / 2) (shareUp d.enw (t.getS x).toNat d.size) (shareUp d.ipk (t.getS x).toNat d.size) = true →
        s.attachSlots t.weave w d role (State.coordCore w coord) (t.getS x).toNat = some slots →
        ∃ s' t', exec (.attach x coord role) s = .next s' ∧ s'.runs t' ∧ t'.getS x = t.getS x ∧ t'.besidesScalars = t.besidesScalars ∧
          t.sameScalars t' [x] ∧ slots.length = (t.getS x).toNat ∧
          (∀ e ∈ (s.freeIdx t.weave (t.getS x).toNat).zip slots, ∃ u, s'.strand? (96 * State.coordCore w coord + e.2) = some u ∧
            started t u w x e.1 role (State.coordCore w coord) e.2) ∧
          (∀ h b, AMap.look w.binds h = some b → (w.binds.map (·.1)).Nodup → b.bolt = false → b.addr % 32 = 0 → b.addr + 32 ≤ w.scrLen →
            (s.core w.home).stash = [] → s.claspPoison (.scr t.weave b.addr) = [] →
            (s'.claspRead (.scr t.weave b.addr)).j = (s.claspRead (.scr t.weave b.addr)).j + t.getS x)))

/-- DETACH is refused below the weave's minimum and otherwise reserves the departure; the departure, once every path counter is
zero, releases the slot and leaves each registered clasp. -/
def Obligations.DetachIsRefusedOrLeavesEveryClasp : Prop :=
  ∀ (s : State) (k : Nat) (t : Strand) (w : Weave), s.strand? k = some t → s.weave? t.weave = some w →
    (∀ x, x < 384 → s.cur = k →
      (memberCount s t.weave ≤ w.wmin → answers s (s.setCur ((t.setS x 0#32).advance 1)) t (.detach x) x 0#32) ∧
      (w.wmin < memberCount s t.weave → ∃ s' t', exec (.detach x) s = .next s' ∧ s'.runs t' ∧ t'.leave = .detach ∧ t'.tx = none ∧
        (t.tx = none → t.mx.opened = 0 → t.mx.q = [] → t.mx.quad = 0 →
          { t' with leave := t.leave, wait := t.wait, since := t.since } = t) ∧ (t.mx.q = [] → s'.mem = s.mem))) ∧
    (t.leave ≠ .no → t.ops = [] → t.held = [] → (∀ a ∈ w.helds, a.widx ≠ t.widx) →
      ∃ s', exec (.departure k) s = .next s' ∧ s'.strand? k = none ∧ (∀ j, j ≠ k → (s'.strand? j).isSome = (s.strand? j).isSome) ∧
        (∀ h b p, AMap.look w.binds h = some b → (w.binds.map (·.1)).Nodup → (b.bolt = false ∨ w.binds.length = 1) → t.tr.on = false →
          s.claspPlace t w b = some p → still s t w b p →
          tested s (if (record w t h).joins = true ∨ (record w t h).arrived = true then
              { s.claspRead p with j := (s.claspRead p).j - 1, early := if (record w t h).early then (s.claspRead p).early - 1 else (s.claspRead p).early }
            else { s.claspRead p with e := (s.claspRead p).e - 1 }) (s'.claspRead p)))

/-- YIELDQ, COUNT, WHO, SHRINK and GROW answer as R48 and R180 to R181 say. -/
def Sys2Proof.Rules.MembershipReportsAnswerFromTheWeave : Prop :=
  ∀ (s : State) (t : Strand) (x : Nat) (w : Weave), s.runs t → x < 384 → s.weave? t.weave = some w →
    (∃ s', answers s s' t (.yieldq x) x (if w.y = 0 then 0#32 else 1#32) ∧ s'.weave? t.weave = some { w with y := w.y - 1 }) ∧
    (∃ s', answers s s' t (.count x) x (BitVec.ofNat 32 (memberCount s t.weave + 2 ^ 8 * w.wmin + 2 ^ 16 * w.wmax)) ∧
      s'.weave? t.weave = some w) ∧
    (∃ s', answers s s' t (.who x 0 0) x (whoOf s w t)) ∧
    (∀ y, y < 384 →
      ((∀ e ∈ s.strands, e.1 < ccBase → e.2.weave = t.weave → e.2.leave ≠ .detach → e.2.widx ≠ (t.getS y).toNat) →
        ∃ s', answers s s' t (.who x y 1) x 0xFFFFFFFF#32) ∧
      (∀ e ∈ s.strands, e.1 < ccBase → e.2.weave = t.weave → e.2.leave ≠ .detach → e.2.widx = (t.getS y).toNat →
        (∀ g ∈ s.strands, g.2.weave = t.weave → g.2.widx = e.2.widx → g = e) → ∃ s', answers s s' t (.who x y 1) x (whoOf s w e.2))) ∧
    (∀ role, role < 3 →
      ∃ s', answers s s' t (.shrink x role) x (BitVec.ofNat 32 (w.resv.getD role 0 - (t.getS x).toNat)) ∧
        s'.weave? t.weave = some { w with resv := w.resv.set role (w.resv.getD role 0 - (t.getS x).toNat) }) ∧
    (∀ role p, role < 3 → s.part? t.part = some p →
      (pastCeiling s t w p (t.getS x).toNat → ∃ s', answers s s' t (.grow x role) x 0#32 ∧ s'.weave? t.weave = some w) ∧
      (¬ pastCeiling s t w p (t.getS x).toNat → growFits s w role (t.getS x).toNat = true →
        ∃ s', answers s s' t (.grow x role) x (t.getS x) ∧
          s'.weave? t.weave = some { w with resv := w.resv.set role (w.resv.getD role 0 + (t.getS x).toNat) }) ∧
      (¬ pastCeiling s t w p (t.getS x).toNat → growFits s w role (t.getS x).toNat = false →
        ∃ t', exec (.grow x role) s = .next (s.setCur t') ∧ t'.wait = .grow ∧ { t' with wait := t.wait, since := t.since } = t))

/-- A blocked GROW is granted when its slots can be reserved; when every strand of its core is blocked in GROW, all of
them are denied. That the slots lie on the weave's home core is the model's reading (log 30). -/
def Sys2Proof.Rules.PendingGrowIsGrantedOrDeniedForTheWholeCore : Prop :=
  ∀ (s : State) (k : Nat) (t : Strand) (x role : Nat) (w : Weave) (p : Part), s.strand? k = some t → growBlocked t = true →
    growItem s t = some (x, role) → s.weave? t.weave = some w → s.part? t.part = some p → ¬ pastCeiling s t w p (t.getS x).toNat →
    (growFits s w role (t.getS x).toNat = true → ∃ s', exec (.growDecided k) s = .next s' ∧ grown s' k t x (t.getS x) ∧
      s'.weave? t.weave = some { w with resv := w.resv.set role (w.resv.getD role 0 + (t.getS x).toNat) } ∧ s'.mem = s.mem) ∧
    (growFits s w role (t.getS x).toNat = false → k < ccBase → (∀ e ∈ s.strands, e.1 < ccBase → e.2.core = t.core → growBlocked e.2 = true) →
      ∃ s', exec (.growDecided k) s = .next s' ∧ s'.mem = s.mem ∧
        ∀ j u y r, j < ccBase → s.strand? j = some u → u.core = t.core → growItem s u = some (y, r) → grown s' j u y 0#32)
end

/-! ### Lane memory -/

section
namespace Sys2Proof.Rules
open Sys2Proof Sys2Proof.Machine

/-- Lane l of the mapped register r (R63). -/
def laneWord (t : Strand) (r l : Nat) : Word := Vec.lane (t.getV (t.rotN r)) l

/-- n registers from r of lane l as one value, the lowest register first (R218). -/
def laneGroup (t : Strand) (r n l : Nat) : Nat := ((List.range n).map (fun i => (laneWord t (r + i) l).toNat * 2 ^ (32 * i))).sum

/-- Bytes and registers of a SIZE code (R216, R218). -/
def bytesOfSize (z : Nat) : Nat := [1, 1, 2, 2, 4, 8, 16].getD z 16
def regsOfSize (z : Nat) : Nat := if z < 5 then 1 else if z = 5 then 2 else 4

/-- Word i that a load of SIZE z gives for the value v (R218). -/
def loadedWord (z v i : Nat) : Word :=
  if z = 1 then BitVec.ofInt 32 (sextI v 8) else if z = 3 then BitVec.ofInt 32 (sextI v 16) else BitVec.ofNat 32 (v / 2 ^ (32 * i))

/-- The global address of lane l (R217). -/
def globalAddr (t : Strand) (f : LaneF) (l : Nat) : Nat :=
  (if f.bsrc = 0 then (BitVec.ofInt 64 ((pair (laneWord t f.va l) (laneWord t (f.va + 1) l)).toNat + sextI f.imm 32) : DWord)
   else BitVec.ofInt 64 ((pair (t.cap f 0) (t.cap f 1)).toNat + (laneWord t f.va l).toNat + sextI (f.imm / 2 ^ 9) 23)).toNat

/-- The scratch or window offset of lane l (R217). -/
def localAddr (t : Strand) (f : LaneF) (l : Nat) : Nat :=
  (if f.bsrc = 0 then (BitVec.ofNat 32 ((laneWord t f.va l).toNat + f.imm) : Word)
   else BitVec.ofInt 32 ((t.cap f 0).toNat + (laneWord t f.va l).toNat + sextI (f.imm / 2 ^ 9) 23)).toNat

def addrRegs (f : LaneF) : List Nat := if f.bsrc = 0 then [f.va, f.va + 1] else [f.va]
def regsFrom (r n : Nat) : List Nat := (List.range n).map (r + ·)

/-- The access of lane l. -/
def laneAcc (t : Strand) (f : LaneF) (n : Nat) (rd wr : Bool) (l : Nat) : Acc :=
  { lane := l, va := globalAddr t f l, size := n, rd := rd, wr := wr }

/-- Every active lane's access passes its checks, outside a transaction, and the item, a release at scope sc and an acquire at scope ac,
need not wait before it issues on path p; e gives the translations. -/
def lanesPass (s : State) (t : Strand) (f : LaneF) (p : Path) (n : Nat) (rd wr : Bool) (sc ac : Nat) (e : Nat → Tlb) : Prop :=
  t.tx = none ∧ issues s t p ((lanesOf t.exec).map (fun l => (laneAcc t f n rd wr l, e l))) sc ac ∧
  ∀ l, l < 128 → t.exec.getLsbD l = true → passes s t (laneAcc t f n rd wr l) (e l)

/-- The physical address of lane l. -/
def lanePa (t : Strand) (f : LaneF) (e : Nat → Tlb) (l : Nat) : Nat := State.physOf (e l) (globalAddr t f l)

/-- Nothing but the accesses moves memory: translations stand, no word is poisoned, no link is down, no sector is dirty, the
stash and the combining buffers are empty, no line of a peer stands in a home slice, and the L1 has room for every lane's line. -/
def lanesQuiet (s : State) (t : Strand) (f : LaneF) (n : Nat) (wr : Bool) (e : Nat → Tlb) : Prop :=
  (s.core t.core).stash = [] ∧ (∀ k, ∀ x ∈ (s.core k).l1, x.2.dirty = 0#16) ∧ (∀ c, (s.clu c).comb = []) ∧ s.slice = [] ∧
  roomy s t.core 128 ∧ ∀ l, l < 128 → t.exec.getLsbD l = true → quiet s t (globalAddr t f l) wr ∧ clean s t (lanePa t f e l) n (e l).coh ∧ reachable s (lanePa t f e l)

/-- Lane l's n bytes meet no other active lane's. -/
def alone (t : Strand) (addr : Nat → Nat) (n l : Nat) : Prop :=
  ∀ m, m < 128 → t.exec.getLsbD m = true → m ≠ l → addr m + n ≤ addr l ∨ addr l + n ≤ addr m

/-- Every byte outside the active lanes' n bytes reads as before at the home. -/
def othersKept (s s' : State) (t : Strand) (addr : Nat → Nat) (n : Nat) : Prop :=
  ∀ a, (∀ l, l < 128 → t.exec.getLsbD l = true → a < addr l ∨ addr l + n ≤ a) → s'.homeByte a = s.homeByte a

/-- The elements a load of SIZE z lands in lanes of the group at vd (R218, R221). -/
def landsFor (t : Strand) (vd z : Nat) (val : Nat → Nat) : List (Dst × Word) :=
  (lanesOf t.exec).flatMap (fun l => (List.range (regsOfSize z)).map (fun i => (Dst.v (t.rotN (vd + i)) l, loadedWord z (val l) i)))

/-- The mask of pinned lanes landing in quad q, where the PIN bit asks for it: a line is pinned for the strand's context, or was
pinned already for a context of its partition (R86, R222). -/
def pinLands (t : Strand) (s' : State) (pin : Bool) (q : Nat) (pa : Nat → Nat) (lands : List (Dst × Word)) : Prop :=
  if pin then ∃ m : Mask, lands = (List.range 4).map (fun w => (Dst.s (4 * q + w), maskW m w)) ∧
      ∀ l, l < 128 → m.getLsbD l = true → t.exec.getLsbD l = true ∧
        (AMap.look s'.pins (pa l / 256) = some (16 * t.part + t.ctx) ∨ ∃ o, AMap.look s'.pins (pa l / 256) = some o ∧ o / 16 = t.part)
  else lands = []

/-- Registers, masks and loops that a memory lane item leaves alone at its issue. -/
def keepsRegisters (t t' : Strand) : Prop :=
  t'.s = t.s ∧ t'.v = t.v ∧ t'.exec = t.exec ∧ t'.live = t.live ∧ t'.fmt = t.fmt ∧ t'.rot = t.rot ∧ t'.loops = t.loops ∧ t'.rets = t.rets

/-- The new value of an atomic or reduction (R224): of n bits, old, v and w. -/
def atomicNew (opc old v w : Nat) : Nat :=
  let o : Word := BitVec.ofNat 32 old; let x : Word := BitVec.ofNat 32 v
  match opc with
  | 0 => (old + v) % 2 ^ 32
  | 1 => (if x.toInt < o.toInt then x else o).toNat
  | 2 => (if o.toInt < x.toInt then x else o).toNat
  | 3 => if v < old then v else old
  | 4 => if old < v then v else old
  | 5 => (o &&& x).toNat | 6 => (o ||| x).toNat | 7 => (o ^^^ x).toNat
  | 8 => v
  | 9 => if old = v then w else old
  | 10 => (rneF32 (FVal.add false (f32 false o) (f32 false x))).toNat
  | 11 => (rneF32 (fminV (f32 false o) (f32 false x))).toNat
  | 12 => (rneF32 (fmaxV (f32 false o) (f32 false x))).toNat
  | 13 => (old + v) % 2 ^ 64
  | 14 => v
  | _ => if old = v then w else old

/-- Registers of an OPC's word, and its operands v and w in lane l (R224). -/
def opcRegs (opc : Nat) : Nat := if opc < 13 then 1 else 2
def operandV (t : Strand) (f : LaneF) (opc l : Nat) : Nat := laneGroup t f.vc (opcRegs opc) l
def operandW (t : Strand) (f : LaneF) (opc l : Nat) : Nat :=
  if opc = 9 then (laneWord t (f.vc + 1) l).toNat else if opc = 15 then laneGroup t (f.vc + 2) 2 l else 0
def operandRegs (opc : Nat) : Nat := if opc = 9 ∨ opc = 13 ∨ opc = 14 then 2 else if opc = 15 then 4 else 1

/-- The sector of lane l stands in no L1 on an SC page, so its one copy is the home's (R81, R225). -/
def scCold (s : State) (t : Strand) (f : LaneF) (e : Nat → Tlb) (l : Nat) : Prop :=
  (e l).coh % 4 = 1 → AMap.look (s.core t.core).l1 (lanePa t f e l / 64) = none

end Sys2Proof.Rules

open Sys2Proof Sys2Proof.Machine Sys2Proof.Rules

/-- LD issues one ld operation that lands each active lane's value, extended by SIZE, and the pin mask; no byte
changes. That a load reads memory when it issues is the model's choice (log 4). -/
def Sys2Proof.Rules.LdLandsEachActiveLanesValue : Prop :=
  ∀ (s : State) (t : Strand) (f : LaneF) (e : Nat → Tlb), s.runs t → (Instr.ld f).wf = true →
    laneRuns t f (regsFrom f.vd (regsOfSize (f.sub % 8)) ++ addrRegs f) false → lanesPass s t f .ld (bytesOfSize (f.sub % 8)) true false 0
      (if f.sub / 8 = 1 then f.mod % 8 else 0) e →
    (∃ s' t' lands, exec (.ld f) s = .next s' ∧ s'.runs t' ∧ issuedOp t t' .ld f.fs lands ∧ keepsRegisters t t') ∧
    (lanesQuiet s t f (bytesOfSize (f.sub % 8)) false e →
      ∃ s' t' pins, exec (.ld f) s = .next s' ∧ s'.runs t' ∧
        issuedOp t t' .ld f.fs (landsFor t f.vd (f.sub % 8) (fun l => s.coreRead t.core (lanePa t f e l) (bytesOfSize (f.sub % 8)) (e l).coh) ++ pins) ∧
        pinLands t s' (f.mod.testBit 4) f.vc (lanePa t f e) pins ∧ (∀ a, s'.homeByte a = s.homeByte a) ∧ (f.sub / 8 = 0 → s.sameMemory s'))

/-- ST stores each active lane's group at its address, in ascending lane order; no other byte changes. -/
def Obligations.StStoresEachActiveLanesGroup : Prop :=
  ∀ (s : State) (t : Strand) (f : LaneF) (e : Nat → Tlb), s.runs t → (Instr.st f).wf = true →
    laneRuns t f (regsFrom f.vc (regsOfSize (f.sub % 8)) ++ addrRegs f) false → 
    lanesPass s t f .st (bytesOfSize (f.sub % 8)) false true (if f.sub / 8 = 2 then f.mod % 8 else 0) 0 e →
    (∃ s' t', exec (.st f) s = .next s' ∧ s'.runs t' ∧ issuedOp t t' .st f.fs [] ∧ keepsRegisters t t') ∧
    (lanesQuiet s t f (bytesOfSize (f.sub % 8)) true e → ∃ s', exec (.st f) s = .next s' ∧
      (∀ l, l < 128 → t.exec.getLsbD l = true →
        (∀ m, l < m → m < 128 → t.exec.getLsbD m = true → lanePa t f e m + bytesOfSize (f.sub % 8) ≤ lanePa t f e l ∨
          lanePa t f e l + bytesOfSize (f.sub % 8) ≤ lanePa t f e m) →
        s'.coreRead t.core (lanePa t f e l) (bytesOfSize (f.sub % 8)) (e l).coh =
          laneGroup t f.vc (regsOfSize (f.sub % 8)) l % 2 ^ (8 * bytesOfSize (f.sub % 8))) ∧
      othersKept s s' t (lanePa t f e) (bytesOfSize (f.sub % 8)))

/-- ATOM returns each lane's old value and leaves the new one; RED leaves the new one once its line is combined at the home, of a RED
on a page of a command core (CP) at its issue.  Outside transactions; that ATOM reads and writes memory in the step that issues it, and
that a RED not delayed enters the combining buffer in its own, is the model's choice (log 4, log 50). -/
def Sys2Proof.Rules.AtomAndRedApplyTheirOperationInEachLane : Prop :=
  ∀ (s : State) (t : Strand) (f : LaneF) (e : Nat → Tlb), s.runs t → laneRuns t f (addrRegs f) false →
    (let opc := f.sub % 16; let n := 4 * opcRegs opc
     (Instr.atom f).wf = true → (∀ r ∈ regsFrom f.vd (opcRegs opc) ++ regsFrom f.vc (operandRegs opc), r < t.budget) →
      lanesPass s t f .atm n true true (if 2 ≤ f.sub / 16 then f.mod % 8 else 0)
        (if f.sub / 16 % 2 = 1 then f.mod % 8 else 0) e →
      (∃ s' t' lands, exec (.atom f) s = .next s' ∧ s'.runs t' ∧ issuedOp t t' .atm f.fs lands ∧ keepsRegisters t t') ∧
      (lanesQuiet s t f n true e → (∀ l, l < 128 → t.exec.getLsbD l = true → alone t (lanePa t f e) n l ∧ scCold s t f e l) →
        ∃ s' t', exec (.atom f) s = .next s' ∧ s'.runs t' ∧
          issuedOp t t' .atm f.fs ((lanesOf t.exec).flatMap (fun l => (List.range (opcRegs opc)).map (fun i =>
            (Dst.v (t.rotN (f.vd + i)) l, BitVec.ofNat 32 (s.coreRead t.core (lanePa t f e l) n (e l).coh / 2 ^ (32 * i)))))) ∧
          (∀ l, l < 128 → t.exec.getLsbD l = true → s'.coreRead t.core (lanePa t f e l) n (if (e l).coh = 2 then 2 else 0) =
            atomicNew opc (s.coreRead t.core (lanePa t f e l) n (e l).coh) (operandV t f opc l) (operandW t f opc l)) ∧
          othersKept s s' t (lanePa t f e) n)) ∧
    (let opc := f.sub % 16; let n := 4 * opcRegs opc
     (Instr.red f).wf = true → (∀ r ∈ regsFrom f.vc (operandRegs opc), r < t.budget) →
      lanesPass s t f .st n true true (if f.sub / 16 = 2 then f.mod % 8 else 0) 0 e →
      (∃ s' t', exec (.red f) s = .next s' ∧ s'.runs t' ∧ issuedOp t t' .st f.fs [] ∧ keepsRegisters t t') ∧
      (lanesQuiet s t f n true e → s.late = false → s.frozenClu (t.core / 2) = false →
        (∀ l, l < 128 → t.exec.getLsbD l = true → alone t (lanePa t f e) n l ∧ ∀ i, i < n → s.isPoison (lanePa t f e l + i) = false) →
        ∃ s', exec (.red f) s = .next s' ∧
          (∀ l, l < 128 → t.exec.getLsbD l = true → (e l).coh = 2 → t.core < 256 → s'.coreRead t.core (lanePa t f e l) n 2 =
            atomicNew opc (s.coreRead t.core (lanePa t f e l) n 2) (operandV t f opc l) 0) ∧
          (∀ l, l < 128 → t.exec.getLsbD l = true → (e l).coh ≠ 2 →
            (s'.combine (lanePa t f e l)).homeRead (lanePa t f e l) n = atomicNew opc (s.homeRead (lanePa t f e l) n) (operandV t f opc l) 0) ∧
          othersKept s s' t (lanePa t f e) n))

/-- PREF fetches for its active lanes: it changes no register and no byte, faults for no address, and returns the pin mask. -/
def Sys2Proof.Rules.PrefChangesNoRegisterAndNoByte : Prop :=
  ∀ (s : State) (t : Strand) (f : LaneF), s.runs t → (Instr.pref f).wf = true → laneRuns t f (addrRegs f) false →
    issues s t .ld (prefAccs f t s) 0 0 →
    ∃ s' t' lands, exec (.pref f) s = .next s' ∧ s'.runs t' ∧ issuedOp t t' .ld f.fs lands ∧ keepsRegisters t t' ∧
      (f.mod.testBit 4 = false → lands = []) ∧
      (f.mod.testBit 4 = true → ∃ m : Mask, lands = (List.range 4).map (fun w => (Dst.s (4 * f.vd + w), maskW m w)) ∧ m &&& ~~~ t.exec = 0#128) ∧
      ((∀ l, l < 128 → t.exec.getLsbD l = true → quiet s t (globalAddr t f l) false) → (∀ c, (s.clu c).comb = []) →
        roomy s t.core 128 → s.sameMemory s')

/-- LDSC, STSC and ATOMSC read and write the weave's scratch in each active lane; no byte of memory changes.  That they do so in the
step that issues them is the model's choice (log 4). -/
def Sys2Proof.Rules.ScratchAccessesReadAndWriteTheWeavesRegion : Prop :=
  ∀ (s : State) (t : Strand) (f : LaneF) (w : Weave), s.runs t → s.weave? t.weave = some w → w.scrPoison = [] →
    (s.core w.home).stash = [] → (s.core t.core).stash = [] → (∀ x ∈ (s.core t.core).l1, x.2.dirty = 0#16) → (∀ c, (s.clu c).comb = []) →
    s.slice = [] → laneRuns t f [f.va] false →
    (let n := bytesOfSize (f.sub % 8); let k := regsOfSize (f.sub % 8)
     (∀ l, l < 128 → t.exec.getLsbD l = true → localAddr t f l % n = 0 ∧ localAddr t f l + n ≤ w.scrLen) →
      issues s t .sc [] (if f.sub / 8 = 2 then f.mod % 8 else 0) (if f.sub / 8 = 1 then f.mod % 8 else 0) →
      ((Instr.ldsc f).wf = true → (∀ r ∈ regsFrom f.vd k, r < t.budget) → ∃ s' t', exec (.ldsc f) s = .next s' ∧ s'.runs t' ∧
        issuedOp t t' .sc f.fs (landsFor t f.vd (f.sub % 8) (fun l => s.scrRead t.weave (localAddr t f l) n)) ∧ keepsRegisters t t' ∧
        s'.mem = s.mem ∧ ∀ o, s'.scrRead t.weave o 1 = s.scrRead t.weave o 1) ∧
      ((Instr.stsc f).wf = true → (∀ r ∈ regsFrom f.vc k, r < t.budget) → ∃ s' t', exec (.stsc f) s = .next s' ∧ s'.runs t' ∧
        issuedOp t t' .sc f.fs [] ∧ keepsRegisters t t' ∧ s'.mem = s.mem ∧
        (∀ l, l < 128 → t.exec.getLsbD l = true → alone t (localAddr t f) n l →
          s'.scrRead t.weave (localAddr t f l) n = laneGroup t f.vc k l % 2 ^ (8 * n)) ∧
        ∀ o, (∀ l, l < 128 → t.exec.getLsbD l = true → o < localAddr t f l ∨ localAddr t f l + n ≤ o) → s'.scrRead t.weave o 1 = s.scrRead t.weave o 1)) ∧
    (let opc := f.sub % 16; let n := 4 * opcRegs opc
     (Instr.atomsc f).wf = true → (∀ r ∈ regsFrom f.vd (opcRegs opc) ++ regsFrom f.vc (operandRegs opc), r < t.budget) →
      issues s t .atm [] (if 2 ≤ f.sub / 16 then f.mod % 8 else 0) (if f.sub / 16 % 2 = 1 then f.mod % 8 else 0) →
      (∀ l, l < 128 → t.exec.getLsbD l = true → localAddr t f l % n = 0 ∧ localAddr t f l + n ≤ w.scrLen ∧ alone t (localAddr t f) n l) →
      ∃ s' t', exec (.atomsc f) s = .next s' ∧ s'.runs t' ∧
        issuedOp t t' .atm f.fs ((lanesOf t.exec).flatMap (fun l => (List.range (opcRegs opc)).map (fun i =>
          (Dst.v (t.rotN (f.vd + i)) l, BitVec.ofNat 32 (s.scrRead t.weave (localAddr t f l) n / 2 ^ (32 * i)))))) ∧
        keepsRegisters t t' ∧ s'.mem = s.mem ∧
        (∀ l, l < 128 → t.exec.getLsbD l = true → s'.scrRead t.weave (localAddr t f l) n =
          atomicNew opc (s.scrRead t.weave (localAddr t f l) n) (operandV t f opc l) (operandW t f opc l)) ∧
        ∀ o, (∀ l, l < 128 → t.exec.getLsbD l = true → o < localAddr t f l ∨ localAddr t f l + n ≤ o) → s'.scrRead t.weave o 1 = s.scrRead t.weave o 1)

/-- LDWN and STWN reach the vector registers of the weave's strands on the two cores of the cluster, in the step that issues them unless
a plan delays a store: the model's choice (log 4, log 50). -/
def Sys2Proof.Rules.WindowAccessesReachTheRegistersOfTheWeave : Prop :=
  ∀ (s : State) (t : Strand) (f : LaneF) (tgt : Nat → Nat × Nat × Nat), s.runs t → laneRuns t f [f.va] false →
    issues s t .sc [] (if f.sub / 8 = 2 then f.mod % 8 else 0) (if f.sub / 8 = 1 then f.mod % 8 else 0) → s.late = false →
    (s.core t.core).stash = [] → (∀ x ∈ (s.core t.core).l1, x.2.dirty = 0#16) → (∀ c, (s.clu c).comb = []) → s.slice = [] →
    (∀ l, l < 128 → t.exec.getLsbD l = true → localAddr t f l % bytesOfSize (f.sub % 8) = 0 ∧ s.winTarget t (localAddr t f l) = .ok (tgt l)) →
    (let n := bytesOfSize (f.sub % 8)
     let reg := fun (z : State) (x : Nat × Nat × Nat) => (match z.strand? x.1 with | some u => Vec.lane (u.getV x.2.1) x.2.2 | none => 0#32)
     ((Instr.ldwn f).wf = true → f.vd < t.budget →
      (∀ l u, l < 128 → t.exec.getLsbD l = true → s.strand? (tgt l).1 = some u → 512 + 128 * (tgt l).2.1 + (tgt l).2.2 ∉ u.bad) → ∃ s' t', exec (.ldwn f) s = .next s' ∧ s'.runs t' ∧
        issuedOp t t' .sc f.fs (landsFor t f.vd (f.sub % 8) (fun l => (reg s (tgt l)).toNat / 2 ^ (8 * (localAddr t f l % 4)) % 2 ^ (8 * n))) ∧
        keepsRegisters t t' ∧ s'.mem = s.mem) ∧
     ((Instr.stwn f).wf = true → f.vc < t.budget → ∃ s' t', exec (.stwn f) s = .next s' ∧ s'.runs t' ∧ issuedOp t t' .sc f.fs [] ∧
        t'.s = t.s ∧ t'.exec = t.exec ∧ s'.mem = s.mem ∧
        (∀ l, l < 128 → t.exec.getLsbD l = true → (∀ m, m < 128 → t.exec.getLsbD m = true → m ≠ l → tgt m ≠ tgt l) →
          (reg s' (tgt l)).toNat = (reg s (tgt l)).toNat - (reg s (tgt l)).toNat / 2 ^ (8 * (localAddr t f l % 4)) % 2 ^ (8 * n) * 2 ^ (8 * (localAddr t f l % 4))
            + (laneWord t f.vc l).toNat % 2 ^ (8 * n) * 2 ^ (8 * (localAddr t f l % 4))) ∧
        ∀ x, (∀ l, l < 128 → t.exec.getLsbD l = true → tgt l ≠ x) → reg s' x = reg s x))
end

/-! ### Matrix instructions -/

section
namespace Sys2Proof.Rules
open Sys2Proof Sys2Proof.Machine

/-- Bits of an element of a class, and elements along K (R118, R120, R229): 0 16-bit float, 1 8-bit float, 2 8-bit integer, 3 4-bit
float. -/
def elBits (cls : Nat) : Nat := [16, 8, 8, 4].getD cls 8
def alongK (cls : Nat) : Nat := 512 / elBits cls

/-- Element k of A row l of the posted MMA p of strand t (R118, R229). -/
def aElem (cls : Nat) (t : Strand) (p : Posted) (l k : Nat) : Nat :=
  let n := 32 / elBits cls
  (Vec.lane (t.getV (Strand.rotOf p.rot (p.f.va + k / n))) l).toNat / 2 ^ (elBits cls * (k % n)) % 2 ^ elBits cls

/-- Element k of B column n of the quad: spindle n / 8 supplies it in lanes 16 (n mod 8) on (R229). -/
def bElem (cls : Nat) (ms : List (Nat × Strand × Posted)) (n k : Nat) : Nat :=
  let w := 32 / elBits cls
  match ms[n / 8]? with
  | some m => (Vec.lane (m.2.1.getV (Strand.rotOf m.2.2.rot m.2.2.f.vb)) (16 * (n % 8) + k / w)).toNat / 2 ^ (elBits cls * (k % w)) % 2 ^ elBits cls
  | none => 0

/-- FMT.SCALE of a posted MMA, and the fields of its IMM: the two tiles, the first block, the per-tensor scales (R119, R230). -/
def scaleMode (p : Posted) : Nat := p.fmt.toNat / 2 ^ 14 % 4
def tiles (p : Posted) : Nat × Nat × Nat := (p.f.imm % 2 ^ 14 * 128, p.f.imm / 2 ^ 14 % 2 ^ 14 * 128, p.f.imm / 2 ^ 28 % 4)

/-- The E8M0 scales of row l and column n in block b (R129, R231). -/
def scalesAt (s : State) (t : Strand) (p : Posted) (l n b : Nat) : Nat × Nat :=
  match scaleMode p with
  | 0 => (127, 127)
  | 2 => (p.f.imm % 256, p.f.imm / 256 % 256)
  | _ =>
    let j := (tiles p).2.2 + b
    (s.scrRead t.weave ((tiles p).1 + 128 * j + 4 * (l % 32) + ((l / 32) ^^^ j)) 1, s.scrRead t.weave ((tiles p).2.1 + 4 * n + (j ^^^ (n % 4))) 1)

/-- The exact products of a block, in ascending K (R131). -/
def floatProducts (cls : Nat) (ms : List (Nat × Strand × Posted)) (t : Strand) (p : Posted) (l n b : Nat) : List FVal :=
  (List.range 32).map (fun i => FVal.mul ((fpOfFmt (p.fmt.toNat % 8)).unpack false (aElem cls t p l (32 * b + i)))
    ((fpOfFmt (p.fmt.toNat / 8 % 8)).unpack false (bElem cls ms n (32 * b + i))))
def intProducts (ms : List (Nat × Strand × Posted)) (t : Strand) (p : Posted) (l n b : Nat) : List Int :=
  (List.range 32).map (fun i => sextI (aElem 2 t p l (32 * b + i)) 8 * sextI (bElem 2 ms n (32 * b + i)) 8)

/-- An MX scale tile gives an integer block the scale 0xFF (R131). -/
def noScale (s : State) (t : Strand) (p : Posted) (l n b : Nat) : Bool :=
  decide (scaleMode p = 1) && (decide ((scalesAt s t p l n b).1 = 255) || decide ((scalesAt s t p l n b).2 = 255))

/-- The accumulator after one block (R131, R231): the exact scaled sum added with one rounding; of an integer class it is truncated
towards zero, then wrapped, or clamped under SAT. -/
def blockStep (s : State) (cls : Nat) (ms : List (Nat × Strand × Posted)) (t : Strand) (p : Posted) (l n : Nat) (acc : Word) (b : Nat) : Word :=
  let sc := scalesAt s t p l n b
  if cls = 2 then
    let sum := (intProducts ms t p l n b).sum
    let k : Int := (sc.1 : Int) + sc.2 - 254
    let x : Int := acc.toInt + (if noScale s t p l n b then 0 else if 0 ≤ k then sum * 2 ^ k.toNat else Int.tdiv sum (2 ^ (-k).toNat))
    if p.f.mod % 2 = 1 then BitVec.ofInt 32 (min (2 ^ 31 - 1) (max (-(2 ^ 31)) x)) else BitVec.ofInt 32 x
  else
    let ps := floatProducts cls ms t p l n b
    let sum := ps.tail.foldl (FVal.add false) (ps.head?.getD .nan)
    rneF32 (FVal.add false (f32 false acc) (if scaleMode p = 0 then sum else FVal.mul (FVal.mul sum (e8m0 sc.1)) (e8m0 sc.2)))

/-- The new accumulator of row l and column n: the blocks in ascending K (R231). -/
def accumulated (s : State) (cls : Nat) (ms : List (Nat × Strand × Posted)) (t : Strand) (p : Posted) (l n : Nat) : Word :=
  (List.range (alongK cls / 32)).foldl (blockStep s cls ms t p l n) (Vec.lane (t.getV (Strand.rotOf p.rot (p.f.vd + n))) l)

/-- The quad's members with their only posted MMA, all of one class, their B registers within the budget, no element and no scale
tile's word uncorrectable, and no stash at their scratch. -/
def oneClassQuad (s : State) (cls : Nat) (ms : List (Nat × Strand × Posted)) (q : Nat) : Prop :=
  ms.map (fun m => (m.1, m.2.1)) = s.quadOf q ∧ (ms.map (·.1)).Nodup ∧ ms.length = 4 ∧ cls < 4 ∧
  ∀ m ∈ ms, m.2.1.mx.q = [.mma m.2.2] ∧ m.2.1.mx.save = [] ∧ m.2.1.bad = [] ∧ fmtClass { m.2.1 with fmt := m.2.2.fmt } = some cls ∧
    Strand.rotOf m.2.2.rot m.2.2.f.vb < m.2.1.budget ∧
    (∀ w, s.weave? m.2.1.weave = some w → w.scrPoison = [] ∧ (s.core w.home).stash = []) ∧
    (m.2.2.batch, m.2.2.pos) = ((ms.head?.map (fun x => (x.2.2.batch, x.2.2.pos))).getD (0, 0))

/-- The pieces of the active lanes' rows. -/
def rowPieces (t : Strand) (f : LaneF) : List Acc := (lanesOf t.exec).flatMap (fun l => msPieces f l (msAddr t f l))

/-- The operation of an MSTORE, on the st path; with stochastic rounding the lanes' generators advance (R125, R239). -/
def mstored (t t' : Strand) (f : LaneF) : Prop :=
  issuedOp t t' .st f.fs [] ∧ t'.s = t.s ∧ t'.v = t.v ∧ t'.exec = t.exec ∧ t'.loops = t.loops ∧ t'.rets = t.rets ∧ (t.srOn = false → t'.lfsr = t.lfsr)

end Sys2Proof.Rules

open Sys2Proof Sys2Proof.Machine Sys2Proof.Rules

/-- MMA, its checks passed, posts one operation in its batch, with the fields, FMT, rotation and EXEC it was posted with; with EXEC
zero it raises nothing and posts as well. -/
def Sys2Proof.Rules.MmaPostsItsOperationInItsBatch : Prop :=
  ∀ (s : State) (t : Strand) (f : LaneF), s.runs t → (Instr.mma f).wf = true → t.suppressed f = false →
    (mmaIllegal t f = false → mmaFormat t f = false →
      (f.vb < t.budget ∧ (t.exec ≠ 0#128 → ∀ r ∈ regsFrom f.vd 32 ++ regsFrom f.va 16, r < t.budget)) →
      mmaLayout (s.scrLen t.weave) t f = none → (mmasOf t).length < 2 → mopfClear t = true → mmaQuad s s.cur t f = none →
      ∃ t' p, exec (.mma f) s = .next (s.setCur t') ∧ t'.mx.q = t.mx.q ++ [.mma p] ∧ p.f = f ∧ p.fmt = t.fmt ∧ p.rot = t.rot ∧
        p.exec = t.exec ∧ p.batch = t.mx.batch ∧ p.pos = mmaCount t t.mx.batch ∧ mmaCount t' t.mx.batch = mmaCount t t.mx.batch + 1 ∧
        t'.mx.batch = t.mx.batch ∧ t'.mx.quad = t.mx.quad ∧ { t'.besidesPlace with mx := t.mx } = t.besidesPlace) ∧
    (t.exec = 0#128 → t.mx.quad ≠ 0 → (mmasOf t).length < 2 → mopfClear t = true →
      ∃ t' p, exec (.mma f) s = .next (s.setCur t') ∧ t'.mx.q = t.mx.q ++ [.mma p] ∧ p.f = f ∧ p.fmt = t.fmt ∧ p.rot = t.rot ∧
        p.exec = 0#128 ∧ p.batch = t.mx.batch ∧ p.pos = mmaCount t t.mx.batch ∧ { t'.besidesPlace with mx := t.mx } = t.besidesPlace) ∧
    (mmaIllegal t f = false → mmaFormat t f = true →
      exec (.mma f) s = s.raise t { code := 0x17, arg := t.fmt.toNat, lanes := t.exec }) ∧
    (mmaIllegal t f = false → mmaFormat t f = false → (∀ r ∈ regsFrom f.vd 32 ++ regsFrom f.va 16 ++ [f.vb], r < t.budget) →
      mmaLayout (s.scrLen t.weave) t f = none → 2 ≤ (mmasOf t).length → t.mx.quad ≠ 0 →
      ∃ t', exec (.mma f) s = .next (s.setCur t') ∧ { t' with wait := t.wait, since := t.since } = t)

/-- The four members of a quad meet: each active lane's accumulator of column n takes in the blocks of its row and that column, of every
class and under every scale mode, before any of it is written; an integer block with a NaN scale adds 0 and sets MXERR.  That the
engine reads A, B and the accumulators at the meeting is the model's choice (log 51). -/
def Obligations.MmaMeetAddsTheProductsInEveryMember : Prop :=
  ∀ (s : State) (k cls : Nat) (t : Strand) (ms : List (Nat × Strand × Posted)), s.strand? k = some t → t.mx.quad ≠ 0 →
    headPos t = (ms.head?.map (fun x => (x.2.2.batch, x.2.2.pos))) → oneClassQuad s cls ms t.mx.quad →
    ∃ s', exec (.mmaMeet k) s = .next s' ∧ s'.mem = s.mem ∧
      (∀ j, (∀ m ∈ ms, m.1 ≠ j) → s'.strand? j = s.strand? j) ∧
      ∀ m ∈ ms, ∃ u, s'.strand? m.1 = some u ∧ u.mx.q = [] ∧
        (∀ l n, l < 128 → n < 32 → Vec.lane (u.getV (Strand.rotOf m.2.2.rot (m.2.2.f.vd + n))) l =
          (if m.2.2.exec.getLsbD l then accumulated s cls ms m.2.1 m.2.2 l n
           else Vec.lane (m.2.1.getV (Strand.rotOf m.2.2.rot (m.2.2.f.vd + n))) l)) ∧
        (∀ r, (∀ n, n < 32 → r ≠ Strand.rotOf m.2.2.rot (m.2.2.f.vd + n)) → u.getV r = m.2.1.getV r) ∧
        { u with v := m.2.1.v, mx := m.2.1.mx, status := m.2.1.status } = m.2.1 ∧
        u.status = m.2.1.status ||| (if cls = 2 && (List.range 128).any (fun l => m.2.2.exec.getLsbD l &&
          (List.range 32).any (fun n => (List.range 2).any (noScale s m.2.1 m.2.2 l n))) then 1#32 else 0#32)

/-- MOPF orders later MMAs, MBATCH closes the batch as one operation of the mx path, MZERO zeroes its registers in matrix order,
and a batch retires once its operations are done. -/
def Sys2Proof.Rules.MopfMbatchMzeroAndBatchRetireKeepMatrixOrder : Prop :=
  ∀ (s : State) (t : Strand) (f : LaneF), s.runs t → t.suppressed f = false →
    ((Instr.mopf f).wf = true → ∃ t', exec (.mopf f) s = .next (s.setCur t') ∧ t'.mx.mopf = t.nextOp ∧ t'.mx.q = t.mx.q ∧
      (∀ e ∈ t'.mx.old, e.2.2 ≠ 2 ^ 64) ∧ { t'.besidesPlace with mx := t.mx } = t.besidesPlace) ∧
    ((Instr.mbatch f).wf = true →
      ((∃ e ∈ s.quadOf t.mx.quad, e.1 ≠ s.cur ∧ mmaCount t t.mx.batch < mmaCount e.2 t.mx.batch) →
        exec (.mbatch f) s = s.raise t { code := 0xD, arg := t.mx.batch, lanes := t.exec }) ∧
      ((∀ e ∈ s.quadOf t.mx.quad, e.1 ≠ s.cur → mmaCount e.2 t.mx.batch ≤ mmaCount t t.mx.batch) → t.count .mx < 1023 →
        (∀ x ∈ t.mx.dis, x.1 ≠ t.mx.batch) →
        ∃ t' o, exec (.mbatch f) s = .next (s.setCur t') ∧ t'.ops = t.ops ++ [o] ∧ o.path = .mx ∧ o.batch = some t.mx.batch ∧
          o.flag = t.flagOf f.fs ∧ o.err = none ∧ t'.mx.batch = t.mx.batch + 1 ∧ t'.mx.opened = 0 ∧ t'.mx.q = t.mx.q ∧
          t'.s = t.s ∧ t'.v = t.v ∧ t'.exec = t.exec ∧ t'.loops = t.loops)) ∧
    ((Instr.mzero f).wf = true → (∀ r ∈ regsFrom f.vd 32, r < t.budget) → mopfClear t = true →
      (t.mx.q = [] → ∃ t', exec (.mzero f) s = .next (s.setCur t') ∧ t'.mx.q = [] ∧
        (∀ n l, n < 32 → l < 128 → Vec.lane (t'.getV (t.rotN (f.vd + n))) l =
          if t.exec.getLsbD l then 0#32 else Vec.lane (t.getV (t.rotN (f.vd + n))) l) ∧
        (∀ r, (∀ n, n < 32 → r ≠ t.rotN (f.vd + n)) → t'.getV r = t.getV r) ∧
        { t'.besidesVectors with mx := t.mx } = t.besidesVectors) ∧
      (∀ p q, t.mx.q = .mma p :: q → ∃ t' rs, exec (.mzero f) s = .next (s.setCur t') ∧
        t'.mx.q = t.mx.q ++ [.zero rs t.exec t.mx.batch] ∧ rs = (List.range 32).map (fun n => t.rotN (f.vd + n)) ∧ t'.v = t.v)) ∧
    (∀ o b, t.ops.find? (fun x => x.path == .mx) = some o → o.batch = some b → o.err = none → o.lands = [] → t.pend = none →
      (t.ops.map (·.id)).Nodup →
      (batchDone t b = true → exec (.batchRetire s.cur) s = .next (s.setCur { t with ops := t.ops.filter (fun x => x.id != o.id) }) ∧
        (t.ops.filter (fun x => x.id != o.id)).length + 1 = t.ops.length) ∧
      (batchDone t b = false → exec (.batchRetire s.cur) s = .next s))

/-- The vector registers that a memory or matrix lane instruction names (R142, R216 to R226, R230, R236, R238). -/
def Sys2Proof.Rules.memRegs : Instr → Option (LaneF × List Nat)
  | .ld f => some (f, addrRegs f ++ regsFrom f.vd (sizeRegs (f.sub % 8)))
  | .st f => some (f, addrRegs f ++ regsFrom f.vc (sizeRegs (f.sub % 8)))
  | .atom f => some (f, addrRegs f ++ regsFrom f.vd (opcRegs (f.sub % 16)) ++ regsFrom f.vc (operandRegs (f.sub % 16)))
  | .red f => some (f, addrRegs f ++ regsFrom f.vc (operandRegs (f.sub % 16)))
  | .pref f => some (f, addrRegs f)
  | .ldsc f => some (f, regsFrom f.vd (sizeRegs (f.sub % 8)) ++ [f.va])
  | .stsc f => some (f, regsFrom f.vc (sizeRegs (f.sub % 8)) ++ [f.va])
  | .atomsc f => some (f, regsFrom f.vd (opcRegs (f.sub % 16)) ++ regsFrom f.vc (operandRegs (f.sub % 16)) ++ [f.va])
  | .ldwn f => some (f, [f.vd, f.va])
  | .stwn f => some (f, [f.vc, f.va])
  | .mma f => some (f, regsFrom f.vd 32 ++ regsFrom f.va 16 ++ [f.vb])
  | .mzero f => some (f, regsFrom f.vd 32)
  | .mstore f => some (f, regsFrom f.va (msNc f) ++ [f.vc] ++ (if msScr f then [] else [f.vc + 1]))
  | _ => none

/-- A register at or beyond the budget raises REG_BOUND before any lane's access, where the item has an active lane (R241) and nothing
that R327 puts before it: a watch stop, ILLEGAL and FORMAT of MMA, FORMAT of MSTORE. -/
def Sys2Proof.Rules.MemoryAndMatrixRegistersBeyondTheBudgetRaiseRegBound : Prop :=
  ∀ (s : State) (t : Strand) (i : Instr) (f : LaneF) (regs : List Nat), s.runs t → i.wf = true → memRegs i = some (f, regs) →
    t.suppressed f = false → t.exec ≠ 0#128 → (∀ a, s.watchHit t a = none) → (i = .mma f → mmaIllegal t f = false ∧ mmaFormat t f = false) →
    (i = .mstore f → t.fmtBad = false ∧ (t.accFmt = 1 → msSc f = 0 ∧ msAmax f = false)) → (∃ r ∈ regs, t.budget ≤ r) →
    raisesRegBound s t i regs

/-- MSTORE stores each active lane's converted row at its address, global or scratch, and at the home; no other byte changes. -/
def Obligations.MstoreStoresEachActiveLanesRow : Prop :=
  ∀ (s : State) (t : Strand) (f : LaneF) (w : Weave), s.runs t → (Instr.mstore f).wf = true → t.suppressed f = false →
    t.fmtBad = false → (t.accFmt = 1 → msSc f = 0) → msAmax f = false → t.tx = none → s.weave? t.weave = some w →
    (∀ r ∈ regsFrom f.va (msNc f) ++ [f.vc], r < t.budget) → (msScr f = false → f.vc + 1 < t.budget) →
    (msScr f = false → ∀ e : Acc → Tlb, (∀ a ∈ rowPieces t f, passes s t a (e a)) →
      issues s t .st ((rowPieces t f).map (fun a => (a, e a))) 0 0 →
      (∃ s' t', exec (.mstore f) s = .next s' ∧ s'.runs t' ∧ mstored t t' f) ∧
      ((∀ a ∈ rowPieces t f, quiet s t a.va true ∧ reachable s (State.physOf (e a) a.va) ∧
          ((e a).coh % 4 = 1 → AMap.look (s.core t.core).l1 (State.physOf (e a) a.va / 64) = none)) → roomy s t.core 256 → ∃ s', exec (.mstore f) s = .next s' ∧
        (∀ a ∈ rowPieces t f, (∀ b ∈ rowPieces t f, b ≠ a → State.physOf (e b) b.va + b.size ≤ State.physOf (e a) a.va ∨
            State.physOf (e a) a.va + a.size ≤ State.physOf (e b) b.va) →
          s'.coreRead t.core (State.physOf (e a) a.va) a.size (e a).coh = natOf (((msRow t f a.lane).drop (a.va - msAddr t f a.lane)).take a.size) ∧
          ((e a).coh < 2 → t.core < 256 → s.frozenClu (t.core / 2) = false →
            s'.homeRead (State.physOf (e a) a.va) a.size = natOf (((msRow t f a.lane).drop (a.va - msAddr t f a.lane)).take a.size))) ∧
        ∀ x, (∀ a ∈ rowPieces t f, x < State.physOf (e a) a.va ∨ State.physOf (e a) a.va + a.size ≤ x) → s'.homeByte x = s.homeByte x)) ∧
    (msScr f = true → (∀ l, l < 128 → t.exec.getLsbD l = true → msAddr t f l % 4 = 0 ∧ msAddr t f l + msBytes f ≤ w.scrLen) →
      issues s t .st [] 0 0 →
      (∀ l, l < 128 → t.exec.getLsbD l = true → ∀ a ∈ msPieces f l (msAddr t f l), s.stashWaits s.cur t.weave a.va = false) →
      (∃ s' t', exec (.mstore f) s = .next s' ∧ s'.runs t' ∧ mstored t t' f) ∧
      ((s.core w.home).stash = [] → ∃ s', exec (.mstore f) s = .next s' ∧ s'.mem = s.mem ∧
        (∀ l, l < 128 → t.exec.getLsbD l = true → alone t (msAddr t f) (msBytes f) l →
          s'.scrRead t.weave (msAddr t f l) (msBytes f) = natOf (msRow t f l)) ∧
        ∀ o, (∀ l, l < 128 → t.exec.getLsbD l = true → o < msAddr t f l ∨ msAddr t f l + msBytes f ≤ o) →
          s'.scrRead t.weave o 1 = s.scrRead t.weave o 1))
end

/-! ### Shuttle, transactions and launch -/

section
namespace Sys2Proof.Rules
open Sys2Proof Sys2Proof.Machine

/-- Sub-op number, quads and flag of the box commands (R186, R187). -/
def boxCommand : Instr → Option (Nat × Nat × Nat × Nat)
  | .shtCopyin x y fs => some (0, x, y, fs)
  | .shtCopyout x y fs => some (1, x, y, fs)
  | .shtGather x y fs => some (2, x, y, fs)
  | .shtFill x y fs => some (5, x, y, fs)
  | _ => none

/-- Four registers from r. -/
def quadOfRegs (t : Strand) (r : Nat) : List Word := (List.range 4).map (fun i => t.getS (r + i))

/-- Strand t issued one shuttle command, and nothing else of it changed but its place. -/
def commanded (t t' : Strand) (fs : Nat) (h : Sht) (tag : Option Nat) : Prop :=
  ∃ o, t'.ops = t.ops ++ [o] ∧ o.path = .sh ∧ o.flag = t.flagOf fs ∧ o.sht = some h ∧ o.tag = tag ∧ o.lands = [] ∧ o.err = none ∧
    t'.s = t.s ∧ t'.v = t.v ∧ t'.exec = t.exec ∧ t'.loops = t.loops ∧ t'.rets = t.rets

/-- A shuttle command completed: it left the sh path and changed no register but r. -/
def shuttled (t t' : Strand) (o : Op) (r : Option Nat) : Prop :=
  t'.ops = t.ops.filter (fun x => x.id != o.id) ∧ t'.count .sh + 1 = t.count .sh ∧ (∀ q, r ≠ some q → t'.getS q = t.getS q) ∧ t'.v = t.v ∧
    t'.exec = t.exec ∧ t'.held = t.held

/-- The global address of chunk c: GATHER takes its row's index from scratch (R186, R187). -/
def chunkAddr (s : State) (t : Strand) (h : Sht) (c : Nat) : Nat :=
  if h.kind = 2 then (boxOf h.x h.y).gath c (s.scrRead t.weave ((boxOf h.x h.y).idxOff c) 4) else (boxOf h.x h.y).glob c

/-- Memory and caches stand still around strand t and its weave w: no stash, no dirty sector, no buffered reduction, no peer's line in
a home slice. -/
def calm (s : State) (t : Strand) (w : Weave) : Prop :=
  (s.core t.core).stash = [] ∧ (s.core w.home).stash = [] ∧ (∀ k, ∀ x ∈ (s.core k).l1, x.2.dirty = 0#16) ∧ (∀ c, (s.clu c).comb = []) ∧
    s.slice = []

/-- The transaction x of strand t ended: its fail target and the state of R70 (of rot its RB alone), its code in txstat, no register
rolled back. -/
def rolledBack (t t' : Strand) (x : Tx) (code arg : Nat) : Prop :=
  t'.hspc = x.failSpc ∧ t'.first = x.failLpc ∧ t'.item = 0 ∧ t'.exec = x.exec &&& t.live ∧ t'.loops = x.loops ∧
    t'.rot = BitVec.ofNat 32 (t.rot.toNat / 2 ^ 23 * 2 ^ 23 + x.rot.toNat / 2 ^ 16 % 2 ^ 7 * 2 ^ 16 + t.rot.toNat % 2 ^ 16) ∧
    t'.stage = x.stage ∧ t'.region = x.region ∧ t'.tx = none ∧ t'.v = t.v ∧ t'.fmt = t.fmt ∧ t'.rets = t.rets ∧
    t'.txstat = BitVec.ofNat 32 (code + 2 ^ 4 * (if code = 4 then arg else 0) + 2 ^ 12 * (if code = 1 ∨ code = 2 ∨ code = 6 then 1 else 0))

/-- The transaction that TBEGIN or TSERIAL opens (R70, R105, R111). -/
def opened (t t' : Strand) (soff loff : Nat) (serial : Bool) : Prop :=
  ∃ x, t'.tx = some x ∧ x.failSpc = BitVec.ofInt 64 (t.itemAddr.toNat + 4 * sextI soff 16) ∧
    x.failLpc = BitVec.ofInt 32 ((t.first.toNat : Int) + t.nl + sextI loff 16) ∧ x.depth = 1 ∧ x.lanes = t.exec ∧ x.serial = serial ∧
    x.exec = t.exec ∧ x.loops = t.loops ∧ x.rot = t.rot ∧ x.stage = t.stage ∧ x.region = t.region ∧ x.reads = [] ∧ x.writes = [] ∧
    x.reds = [] ∧ x.dead = [] ∧ x.doom = 0#128 ∧
    t'.txstat = BitVec.ofNat 32 (2 ^ 13 + (if serial then 2 ^ 16 else 0)) ∧
    { t'.besidesPlace with tx := t.tx, txstat := t.txstat } = t.besidesPlace

end Sys2Proof.Rules

open Sys2Proof Sys2Proof.Machine Sys2Proof.Rules

/-- SHT.COPYIN, COPYOUT, GATHER, FILL, STASH and UNSTASH check their operands and issue one operation on the sh path.
That STASH checks its page at issue is the model's reading (log 29). -/
def Sys2Proof.Rules.ShuttleCommandsIssueOneOperation : Prop :=
  ∀ (s : State) (t : Strand), s.runs t → t.count .sh < 1023 →
    (∀ i kind x y fs, i.wf = true → boxCommand i = some (kind, x, y, fs) →
      let b := boxOf (quadOfRegs t x) (quadOfRegs t y)
      (shapeBad kind (quadOfRegs t x) = true → exec i s = s.raise t { code := 1, arg := s.wordAt t t.itemAddr }) ∧
      (∀ a, shapeBad kind (quadOfRegs t x) = false → boxAlign kind b = some a → exec i s = s.raise t { code := 3, arg := a }) ∧
      (∀ o, shapeBad kind (quadOfRegs t x) = false → boxAlign kind b = none → boxBound kind (s.scrLen t.weave) b = some o →
        exec i s = s.raise t { code := 7, sub := 1, arg := o }) ∧
      (∀ w, shapeBad kind (quadOfRegs t x) = false → boxAlign kind b = none → boxBound kind (s.scrLen t.weave) b = none →
        s.weave? t.weave = some w →
        (b.ce = true → AMap.look w.binds b.ch = none → exec i s = s.raise t { code := 0xE, sub := 1, arg := b.ch }) ∧
        ((b.ce = true → AMap.look w.binds b.ch ≠ none) → ∃ t', exec i s = .next (s.setCur t') ∧
          commanded t t' fs { kind := kind, x := quadOfRegs t x, y := quadOfRegs t y, done := [] } (if b.ce then some b.ch else none)))) ∧
    (∀ x y fs e, (Instr.shtStash x y fs).wf = true → (t.getS x).toNat % 4096 = 0 → (t.getPair y).toNat % 4096 = 0 →
      s.xlate t.part t.ctx t.core (t.getPair y).toNat t.priv .read = .ok e →
      (e.coh = 0 → exec (.shtStash x y fs) s = s.raise t { code := 6, sub := 1, arg := (t.getPair y).toNat }) ∧
      (e.coh ≠ 0 → s.scrLen t.weave < (t.getS x).toNat + 4096 →
        exec (.shtStash x y fs) s = s.raise t { code := 7, sub := 1, arg := (t.getS x).toNat }) ∧
      (e.coh ≠ 0 → (t.getS x).toNat + 4096 ≤ s.scrLen t.weave → ∃ s' t', exec (.shtStash x y fs) s = .next s' ∧ s'.runs t' ∧ commanded t t' fs (Sht.mk 3 [t.getS x, BitVec.ofNat 32 x]
        [BitVec.ofNat 32 e.coh, BitVec.ofNat 32 (State.physOf e (t.getPair y).toNat),
         BitVec.ofNat 32 (State.physOf e (t.getPair y).toNat / 2 ^ 32)] []) none)) ∧
    (∀ x y fs, (Instr.shtUnstash x y fs).wf = true → (t.getS x).toNat % 4096 = 0 → (t.getS x).toNat + 4096 ≤ s.scrLen t.weave →
      ∃ t', exec (.shtUnstash x y fs) s = .next (s.setCur t') ∧ commanded t t' fs { kind := 4, x := [t.getS x], y := [], done := [] } none)

/-- A shuttle command completes, while the memory channels have bytes left and the partition is not frozen, with every chunk moved
between its scratch offset and its global address, at the home slices; STASH, where no page is mapped, maps its page and returns 1. That a command acts when it completes is the model's choice (log 4).
-/
def Sys2Proof.Rules.ShuttleCompleteMovesEveryChunk : Prop :=
  ∀ (s : State) (k : Nat) (t : Strand) (w : Weave) (o : Op) (h : Sht), s.strand? k = some t → t.pend = none → s.weave? t.weave = some w →
    t.ops.find? (fun x => x.path == .sh) = some o → o.sht = some h → o.lands = [] → o.err = none → (t.ops.map (·.id)).Nodup →
    calm s t w → w.scrPoison = [] → h.done = [] → s.chanSpent t.part t.ctx = false → s.frozenAt t.part = false →
    (let b := boxOf h.x h.y
     let wins := fun (c : Nat) => ∀ c', c < c' → c' < b.chunks → b.off c' ≠ b.off c
     b.base % 16 = 0 →
     (∀ e : Nat → Tlb, (h.kind = 0 ∨ h.kind = 2) →
       (∀ c, c < b.chunks → s.xlate t.part t.ctx t.core (chunkAddr s t h c) t.priv .read = .ok (e c) ∧ quiet s t (chunkAddr s t h c) false ∧
         s.serialHolds k (State.physOf (e c) (chunkAddr s t h c)) false = false ∧ clean s t (State.physOf (e c) (chunkAddr s t h c)) 16 0) →
       (h.kind = 2 → ∀ c c', c < b.chunks → c' < b.chunks → b.off c + 16 ≤ b.idxOff c' ∨ b.idxOff c' + 4 ≤ b.off c) →
       ∃ s' t', exec (.shuttleComplete k) s = .next s' ∧ s'.strand? k = some t' ∧ shuttled t t' o none ∧ s'.mem = s.mem ∧
         ∀ c, c < b.chunks → wins c → s'.scrRead t.weave (b.off c) 16 = s.homeRead (State.physOf (e c) (chunkAddr s t h c)) 16) ∧
     (∀ e : Nat → Tlb, h.kind = 1 →
       (∀ c, c < b.chunks → s.xlate t.part t.ctx t.core (b.glob c) t.priv .write = .ok (e c) ∧ quiet s t (b.glob c) true ∧
         s.serialHolds k (State.physOf (e c) (b.glob c)) true = false ∧ reachable s (State.physOf (e c) (b.glob c))) →
       ∃ s' t', exec (.shuttleComplete k) s = .next s' ∧ s'.strand? k = some t' ∧ shuttled t t' o none ∧
         (∀ c, c < b.chunks → (∀ c', c < c' → c' < b.chunks → State.physOf (e c') (b.glob c') + 16 ≤ State.physOf (e c) (b.glob c) ∨
             State.physOf (e c) (b.glob c) + 16 ≤ State.physOf (e c') (b.glob c')) →
           s'.nearRead t.part (State.physOf (e c) (b.glob c)) 16 (e c).coh = s.scrRead t.weave (b.off c) 16) ∧
         ∀ a, (∀ c, c < b.chunks → a < State.physOf (e c) (b.glob c) ∨ State.physOf (e c) (b.glob c) + 16 ≤ a) → s'.homeByte a = s.homeByte a) ∧
     (h.kind = 5 → ∃ s' t', exec (.shuttleComplete k) s = .next s' ∧ s'.strand? k = some t' ∧ shuttled t t' o none ∧ s'.mem = s.mem ∧
       ∀ c j, c < b.chunks → j < 4 → s'.scrRead t.weave (b.off c + 4 * j) 4 = (h.y.getD 0 0#32).toNat)) ∧
    (∀ off r coh lo hi, h = { kind := 3, x := [off, r], y := [coh, lo, hi], done := [] } →
      ∃ s' t', exec (.shuttleComplete k) s = .next s' ∧ s'.strand? k = some t' ∧ shuttled t t' o (some r.toNat) ∧
        t'.getS r.toNat = 1#32 ∧ (s'.core w.home).stash.map (fun m => (m.weave, m.off, m.page)) = [(t.weave, off.toNat, (hi ++ lo).toNat)]) ∧
    (∀ off, h = { kind := 4, x := [off], y := [], done := [] } →
      ∃ s' t', exec (.shuttleComplete k) s = .next s' ∧ s'.strand? k = some t' ∧ shuttled t t' o none ∧ s'.mem = s.mem)

/-- TBEGIN and TSERIAL open a transaction or go one level deeper; level 8 and TABORT end it at its fail target. That
EXEC after an abort leaves out lanes that have exited since is the model's reading (log 26). -/
def Sys2Proof.Rules.TransactionsOpenNestAndAbortToTheirFailTarget : Prop :=
  ∀ (s : State) (t : Strand) (soff loff : Nat), s.runs t → (Instr.tbegin soff loff).wf = true →
    (t.tx = none →
      (∃ t', exec (.tbegin soff loff) s = .next (s.setCur t') ∧ opened t t' soff loff false) ∧
      ((∀ e ∈ s.strands, e.2.part = t.part → ∀ x, e.2.tx = some x → x.serial = false) →
        ∃ t', exec (.tserial soff loff) s = .next (s.setCur t') ∧ opened t t' soff loff true) ∧
      (∀ e ∈ s.strands, e.2.part = t.part → ∀ x, e.2.tx = some x → x.serial = true →
        ∃ t', exec (.tserial soff loff) s = .next (s.setCur t') ∧ t'.wait = .token ∧ { t' with wait := t.wait, since := t.since } = t) ∧
      ∀ arg, exec (.tabort arg) s = .next (s.setCur (t.advance 1))) ∧
    (∀ x, t.tx = some x →
      (x.depth < 7 → ∀ i, (i = .tbegin soff loff ∨ i = .tserial soff loff ∧ x.serial = true) → ∃ t', exec i s = .next (s.setCur t') ∧
        t'.tx = some { x with depth := x.depth + 1 } ∧ { t'.besidesPlace with tx := t.tx, txstat := t.txstat } = t.besidesPlace) ∧
      (x.dead = [] → x.poisoned = false →
        (7 ≤ x.depth → ∃ t', exec (.tbegin soff loff) s = .next (s.setCur t') ∧ rolledBack t t' x 9 0 ∧ t'.s = t.s) ∧
        (x.serial = false → ∃ t', exec (.tserial soff loff) s = .next (s.setCur t') ∧ rolledBack t t' x 9 0 ∧ t'.s = t.s) ∧
        ∀ arg, arg < 256 → ∃ t', exec (.tabort arg) s = .next (s.setCur t') ∧ rolledBack t t' x 4 arg ∧ t'.s = t.s))

/-- TEND returns the success mask: outside a transaction EXEC; at depth 1 the writes of the surviving lanes become visible, all
of them in one step, or, with no lane left, the transaction aborts with CONFLICT. -/
def Sys2Proof.Rules.TendCommitsTheSurvivingLanesInOneStep : Prop :=
  ∀ (s : State) (t : Strand) (q : Nat), s.runs t → (Instr.tend q).wf = true →
    (t.tx = none → writesQuad s t (.tend q) q t.exec) ∧
    (∀ x, t.tx = some x → x.dead = [] → x.lanes ≠ 0#128 →
      (1 < x.depth → ∃ t', exec (.tend q) s = .next (s.setCur t') ∧ t'.quadHolds q x.lanes ∧ t'.tx = some { x with depth := x.depth - 1 }) ∧
      (x.depth = 1 → t.count .ld = 0 → t.count .sc = 0 → t.count .atm = 0 → x.poisoned = false →
        (∀ a b, a < 128 → b < 128 → x.lanes.getLsbD a = true → x.lanes.getLsbD b = true → a ≠ b → x.conflict a b = false) →
        s.releaseWaits s.cur t (if x.sys then 5 else 4) = false → s.acquireWaits s.cur t (if x.sys then 5 else 4) = false →
        (x.doom = 0#128 → (s.core t.core).stash = [] → (∀ k, ∀ y ∈ (s.core k).l1, y.2.dirty = 0#16) → (∀ c, (s.clu c).comb = []) →
          s.slice = [] → x.reds = [] → (∀ r ∈ x.reads, r.coh = 0 ∧ s.homeByte r.addr = r.val) →
          (∀ y ∈ x.writes, y.coh = 0 ∧ x.lanes.getLsbD y.lane = true ∧ y.lane < 128 ∧ reachable s (y.addr / 4 * 4)) →
          (∀ y ∈ x.writes, ∀ z ∈ x.writes, y.addr = z.addr → y = z) →
          ∃ s' t', exec (.tend q) s = .next s' ∧ s'.runs t' ∧ t'.quadHolds q x.lanes ∧ t'.tx = none ∧ t'.txstat = 0#32 ∧ t'.exec = t.exec ∧
            t'.v = t.v ∧ t.sameScalars t' (Strand.quadRegs q) ∧ t'.hspc = (t.advance 1).hspc ∧ t'.item = (t.advance 1).item ∧
            (∀ y ∈ x.writes, s'.homeByte y.addr = y.val) ∧ ∀ a, (∀ y ∈ x.writes, y.addr ≠ a) → s'.homeByte a = s.homeByte a) ∧
        (x.lanes &&& ~~~ x.doom = 0#128 → ∃ t', exec (.tend q) s = .next (s.setCur t') ∧ rolledBack t t' x 1 0 ∧ t'.quadHolds q 0#128 ∧
          t.sameScalars t' (Strand.quadRegs q) ∧ s.sameMemory (s.setCur t'))))

/-- LAUNCH submits a child bolt one level deeper and returns its id; at depth 10 it raises LAUNCH_DEPTH, with 1024 children
pending it returns 0, for a descriptor that breaks R252 it returns all ones, and nothing is launched.  That a descriptor which breaks
R252 answers all ones though 1024 children are pending is the model's choice (log 22). -/
def Sys2Proof.Rules.LaunchSubmitsAChildBoltOneLevelDeeper : Prop :=
  ∀ (s s1 : State) (t : Strand) (d p : Nat) (w : Weave) (b : Bolt) (x : Part), s.runs t → (Instr.launch d p).wf = true →
    s.weave? t.weave = some w → s.bolt? w.bolt = some b → s.part? t.part = some x →
    ((t.getPair (2 * p)).toNat % 64 ≠ 0 → exec (.launch d p) s = s.raise t { code := 3, arg := (t.getPair (2 * p)).toNat }) ∧
    ((t.getPair (2 * p)).toNat % 64 = 0 →
      (∀ desc, s.readDesc s.cur t (t.getPair (2 * p)).toNat = (.ok desc, s1) →
        (b.depth = 10 → exec (.launch d p) s = s.raise t { code := 0x14, arg := 10 }) ∧
        (b.depth ≠ 10 → 1024 ≤ x.children → s1.releaseWaits s.cur t 4 = false → ∃ s' t', exec (.launch d p) s = .next s' ∧ s'.runs t' ∧ t'.getS d = 0#32 ∧ t.sameScalars t' [d] ∧
          t'.besidesScalars = t.besidesScalars ∧ s'.bolts = s.bolts) ∧
        (b.depth ≠ 10 → x.children < 1024 → s1.releaseWaits s.cur t 4 = false → ∃ s' t' k c, exec (.launch d p) s = .next s' ∧ s'.runs t' ∧ t'.getS d ≠ 0#32 ∧
          t'.getS d ≠ 0xFFFFFFFF#32 ∧ t.sameScalars t' [d] ∧ t'.besidesScalars = t.besidesScalars ∧ s'.bolt? k = some c ∧ c.desc = desc ∧
          c.depth = b.depth + 1 ∧ c.parent = some t.weave ∧ c.part = t.part ∧ c.ctx = t.ctx ∧ c.priv = (desc.priv && t.priv) ∧
          c.bid = (t'.getS d).toNat ∧ (∃ w', s'.weave? t.weave = some w' ∧ w'.children = w.children + 1) ∧
          ∃ x', s'.part? t.part = some x' ∧ x'.children = x.children + 1)) ∧
      (s.readDesc s.cur t (t.getPair (2 * p)).toNat = (.bad, s1) → b.depth ≠ 10 → s1.releaseWaits s.cur t 4 = false →
        ∃ s' t', exec (.launch d p) s = .next s' ∧ s'.runs t' ∧
        t'.getS d = 0xFFFFFFFF#32 ∧ t.sameScalars t' [d] ∧ t'.besidesScalars = t.besidesScalars ∧ s'.bolts = s.bolts))
end

/-! ### The front end -/

section
namespace Sys2Proof.Rules
open Sys2Proof Sys2Proof.Machine

/-- Lane ln's head packet is k; s1 is the state that reading it leaves; nothing holds it (R244 to R246). -/
def headIs (s : State) (ln : Nat) (k : Packet) (s1 : State) : Prop :=
  s.mayStart ln = true ∧ s.headPacket ln = .ok (k, s1) ∧ s1.barHolds ln k = false ∧ (k.bar = true → (s1.queue ln).failed = [])

/-- The queue of lane ln in a state: its QRD rose by one, it is idle, its BUSY, WAITING and PROLOGUE bits are clear. -/
def packetDone (s s' : State) (ln : Nat) : Prop :=
  s'.qreg ln 0xC = s.qreg ln 0xC + 1#32 ∧ s'.qreg ln 0x14 = 0#32 ∧ (s'.queue ln).phase = .idle

/-- The home slices of partition p hold no peer's line (R300). -/
def noPeers (s : State) (p : Nat) : Prop := ∀ e ∈ s.slice, e.1 / 2 ^ 46 ≠ p

/-- The access of a signal. -/
def signalAcc (a : Nat) (wr : Bool) : Acc := { lane := 0, va := a, size := 8, rd := !wr, wr := wr }

/-- WAIT_SIGNAL's condition on VALUE (R245, R247). -/
def conditionHolds (cond : Nat) (v x : Nat) : Prop := if cond = 0 then v ≤ x else if cond = 1 then x = v else x ≠ v

/-- The bolt that a queue's launch of descriptor d submits (R252, R254). -/
def submitted (s' : State) (ln bk ctx : Nat) (d : Desc) (signal priv : Bool) : Prop :=
  ∃ b, s'.bolt? bk = some b ∧ b.desc = d ∧ b.depth = 0 ∧ b.parent = none ∧ b.part = ln / 8 ∧ b.ctx = ctx ∧ b.lane = some ln ∧
    b.signal = signal ∧ b.priv = (d.priv && priv)

/-- The descriptor with USE's weave count. -/
def counted (d : Desc) (use : Bool) (n : Nat) : Desc := if use then { d with nweave := n } else d

end Sys2Proof.Rules

open Sys2Proof Sys2Proof.Machine Sys2Proof.Rules

/-- Each packet does its own work and finishes: a signal is written or awaited, a prologue starts, a bolt is submitted, a copy is
issued, a marker passes; a packet that is held, or breaks R245, leaves QRD where it was. -/
def Obligations.PacketsDoTheirWorkAndAdvanceTheQueue : Prop :=
  ∀ (s s1 : State) (ln : Nat) (k : Packet), ln < 64 →
    (headIs s ln k s1 → noPeers s1 (ln / 8) →
      (∀ e, k.type = 1 → s1.frozenAt (ln / 8) = false → s1.checkAcc 1000000 (s1.laneAgent ln) (signalAcc k.a true) true = .ok e → reachable s1 (State.physOf e k.a) →
        ∃ s', exec (.writeSignal ln) s = .next s' ∧ packetDone s1 s' ln ∧ s'.homeRead (State.physOf e k.a) 8 = k.b) ∧
      (∀ e, k.type = 2 → s1.checkAcc 1000000 (s1.laneAgent ln) (signalAcc k.a false) true = .ok e → quiet s1 (s1.laneAgent ln) k.a false →
        clean s1 (s1.laneAgent ln) (State.physOf e k.a) 8 e.coh →
        (conditionHolds (k.word 5).toNat (k.word 4).toNat (s1.homeRead (State.physOf e k.a) 4) →
          ∃ s', exec (.waitSignal ln) s = .next s' ∧ packetDone s1 s' ln ∧ s'.mem = s1.mem) ∧
        (¬ conditionHolds (k.word 5).toNat (k.word 4).toNat (s1.homeRead (State.physOf e k.a) 4) →
          ∃ s', exec (.waitSignal ln) s = .next s' ∧ s'.qreg ln 0xC = s1.qreg ln 0xC ∧ s'.qreg ln 0x14 = 3#32 ∧ s'.mem = s1.mem)) ∧
      (k.type = 3 → ∃ s' u, exec (.launchInd ln) s = .next s' ∧ s'.strand? (ccBase + ln) = some u ∧ (s'.queue ln).phase = .prologue ∧
        (s'.queue ln).arg = k.b ∧ s'.qreg ln 0xC = s1.qreg ln 0xC ∧ s'.qreg ln 0x14 = 5#32 ∧ s'.mem = s1.mem ∧
        u.hspc = BitVec.ofNat 64 k.a ∧ u.first = 0#32 ∧ u.item = 0 ∧ u.getPair 0 = BitVec.ofNat 64 k.addr ∧
        u.getPair 2 = BitVec.ofNat 64 k.b ∧ ∀ r, 4 ≤ r → u.getS r = 0#32) ∧
      (∀ d s2, k.type = 4 → s1.readDesc 1000000 (s1.laneAgent ln) k.a = (.ok d, s2) → ∃ s' bk, exec (.launchPacket ln) s = .next s' ∧
        packetDone s1 s' ln ∧ submitted s' ln bk (s1.qctx ln) (counted d ((k.word 5).getLsbD 0) (k.word 4).toNat) true (s1.laneAgent ln).priv ∧
        (s'.queue ln).bolts = (s1.queue ln).bolts ++ [bk]) ∧
      (k.type = 5 → ∃ s', exec (.copy ln) s = .next s' ∧ packetDone s1 s' ln ∧ s'.mem = s1.mem ∧
        (s'.queue ln).copies = (s1.queue ln).copies ++ [(k.idx, k.a, k.b, (k.word 6).toNat, [])]) ∧
      (k.type = 6 → ((s1.csr (ln / 8) 0xA060).getLsbD 0 = false ∨ fld (s1.csr (ln / 8) 0xA060).toNat 1 4 ≠ s1.qctx ln) →
        ∃ s', exec (.marker ln) s = .next s' ∧ packetDone s1 s' ln ∧ s'.mem = s1.mem)) ∧
    (s.mayStart ln = true → s.headPacket ln = .ok (k, s1) → k.type = 4 → s1.barHolds ln k = true →
      ∃ s', exec (.launchPacket ln) s = .next s' ∧ s'.qreg ln 0xC = s1.qreg ln 0xC ∧ s'.qreg ln 0x14 = 2#32 ∧ s'.bolts = s1.bolts) ∧
    (∀ code addr, 0 < code → code < 10 → addr < 2 ^ 64 → s.mayStart ln = true → s.headPacket ln = .error (code, addr) →
      ∃ s', exec (.writeSignal ln) s = .next s' ∧ s'.qreg ln 0xC = s.qreg ln 0xC ∧ s'.qreg ln 0x18 = BitVec.ofNat 32 code ∧
        s'.qreg ln 0x1C = s.qreg ln 0xC ∧ s'.csr64 (ln / 8) (qOff ln + 0x20) = addr ∧ s'.mem = s.mem)

/-- QWR is written, a round runs its one lane's packet, a copy's chunks land before it completes, SKIP passes the packet that
faulted and RETRY leaves it.  That a copy reads and writes its chunks in ascending order in the step that completes it, unless a plan
moves one before, is the model's choice (log 4, log 31). -/
def Obligations.QueuesAdvanceByRoundsCopiesSkipAndRetry : Prop :=
  ∀ (s : State) (ln : Nat), ln < 64 → (s.part? (ln / 8)).isSome = true →
    (∀ v, v < 2 ^ 32 → ∃ s', exec (.qwrWrite ln v) s = .next s' ∧ (s'.qreg ln 0x10).toNat = v ∧ s'.qreg ln 0xC = s.qreg ln 0xC ∧ s'.mem = s.mem) ∧
    (∀ ty, ty ∈ [4, 5, 6] → s.ccGroup = 0 → headType s ln = ty → (∀ j, j < 64 → (s.queue j).phase = .idle) →
      (∀ j, j < 64 → j ≠ ln → s.mayStart j = false) →
      exec .ccRound s = .next { laneTurn ty ln { s with ccGroup := 4, ccElig := [ln], ccDone := [] } with ccGroup := 0, ccElig := [], ccDone := [] }) ∧
    (∀ (idx src dst n : Nat) (cs : List (Nat × Nat × Nat × Nat × List Nat)) (e f : Nat → Tlb), (s.queue ln).copies = (idx, src, dst, n, []) :: cs → src + n ≤ 2 ^ 47 → dst + n ≤ 2 ^ 47 → n % 16 = 0 →
      s.chanSpent (ln / 8) (s.qctx ln) = false → s.frozenAt (ln / 8) = false → noPeers s (ln / 8) → (∀ c, (s.clu c).comb = []) →
      (∀ i, i < n / 16 → s.xlate (ln / 8) (s.qctx ln) (257 + 2 * (ln / 8)) (src + 16 * i) (s.laneAgent ln).priv .read = .ok (e i) ∧
        s.xlate (ln / 8) (s.qctx ln) (257 + 2 * (ln / 8)) (dst + 16 * i) (s.laneAgent ln).priv .write = .ok (f i) ∧
        quiet s (s.laneAgent ln) (src + 16 * i) false ∧ quiet s (s.laneAgent ln) (dst + 16 * i) true ∧
        s.serialHolds 1000000 (State.physOf (e i) (src + 16 * i)) false = false ∧
        s.serialHolds 1000000 (State.physOf (f i) (dst + 16 * i)) true = false ∧
        clean s (s.laneAgent ln) (State.physOf (e i) (src + 16 * i)) 16 0 ∧ reachable s (State.physOf (f i) (dst + 16 * i)) ∧
        AMap.look (s.core (257 + 2 * (ln / 8))).l1 (State.physOf (e i) (src + 16 * i) / 64) = none ∧
        AMap.look (s.core (257 + 2 * (ln / 8))).l1 (State.physOf (f i) (dst + 16 * i) / 64) = none) →
      (∀ i j, i < n / 16 → j < n / 16 → (i ≠ j → State.physOf (f i) (dst + 16 * i) + 16 ≤ State.physOf (f j) (dst + 16 * j) ∨
          State.physOf (f j) (dst + 16 * j) + 16 ≤ State.physOf (f i) (dst + 16 * i)) ∧
        (State.physOf (f i) (dst + 16 * i) + 16 ≤ State.physOf (e j) (src + 16 * j) ∨
          State.physOf (e j) (src + 16 * j) + 16 ≤ State.physOf (f i) (dst + 16 * i))) →
      ∃ s', exec (.copyComplete ln) s = .next s' ∧ (s'.queue ln).copies = cs ∧ (s'.queue ln).failed = (s.queue ln).failed ∧
        ∀ i, i < n / 16 → s'.homeRead (State.physOf (f i) (dst + 16 * i)) 16 = s.homeRead (State.physOf (e i) (src + 16 * i)) 16) ∧
    (fld (s.qreg ln 0x18).toNat 0 8 ≠ 0 → (s.queue ln).failed = [] →
      (∃ s', exec (.skip ln) s = .next s' ∧ s'.qreg ln 0x18 = 0#32 ∧ s'.qreg ln 0xC = s.qreg ln 0x1C + 1#32 ∧ s'.mem = s.mem) ∧
      (∃ s', exec (.retry ln) s = .next s' ∧ s'.qreg ln 0x18 = 0#32 ∧ s'.qreg ln 0xC = s.qreg ln 0xC ∧ s'.mem = s.mem))

/-- GO launches and finishes its packet, REPEAT launches without a signal and waits for its bolt, CANCEL writes the signal
cancelled; outside the command core all three raise ILLEGAL.  That CANCEL takes an ARG pointer that is any multiple of 4, and raises
ALIGN for any other, is the model's reading (log 31). -/
def Sys2Proof.Rules.CommandCoreWordsLaunchRepeatOrCancel : Prop :=
  ∀ (s : State) (t : Strand) (x ln : Nat), s.runs t → x < 380 → ln < 64 →
    (s.cur < ccBase → exec (.go x) s = s.raise t { code := 1, arg := s.wordAt t t.itemAddr } ∧
      exec (.cancel x) s = s.raise t { code := 1, arg := s.wordAt t t.itemAddr } ∧
      exec (.repeatGo x) s = s.raise t { code := 1, arg := s.wordAt t t.itemAddr }) ∧
    (s.cur = ccBase + ln → (s.part? (ln / 8)).isSome = true →
      (∀ d s1, (t.getS (x + 3)).toNat < 2 → (t.getPair x).toNat % 64 = 0 →
        s.readDesc 1000000 (s.laneAgent ln) (t.getPair x).toNat = (.ok d, s1) →
        (∃ s' bk, exec (.go x) s = .next s' ∧ packetDone s s' ln ∧
          submitted s' ln bk (s.qctx ln) (counted d ((t.getS (x + 3)).getLsbD 0) (t.getS (x + 2)).toNat) true (s.laneAgent ln).priv) ∧
        (∃ s' bk, exec (.repeatGo x) s = .next s' ∧ (s'.queue ln).phase = .rerun bk ∧ s'.qreg ln 0xC = s.qreg ln 0xC ∧
          submitted s' ln bk (s.qctx ln) (counted d ((t.getS (x + 3)).getLsbD 0) (t.getS (x + 2)).toNat) false (s.laneAgent ln).priv)) ∧
      ((t.getS (x + 3)).toNat < 2 → (t.getPair x).toNat % 64 ≠ 0 →
        exec (.go x) s = s.raise t { code := 3, arg := (t.getPair x).toNat } ∧ exec (.repeatGo x) s = s.raise t { code := 3, arg := (t.getPair x).toNat }) ∧
      ((s.queue ln).arg % 4 ≠ 0 → exec (.cancel x) s = s.raise t { code := 3, arg := (s.queue ln).arg }) ∧
      (∀ d last s1, (s.queue ln).arg % 4 = 0 → s.argDesc ln (s.queue ln).arg = .ok (d, last, s1) →
        (2 ≤ last.toNat → exec (.cancel x) s = s.raise t { code := 1, arg := s.wordAt t t.itemAddr }) ∧
        (last.toNat < 2 → d % 64 ≠ 0 → exec (.cancel x) s = s.raise t { code := 3, arg := d }) ∧
        (∀ w s2 e, last.toNat < 2 → d % 64 = 0 → State.readWords 1000000 (s.laneAgent ln) (State.wordAddrs d 32) s1 = .ok (w, s2) →
          s2.publishWaits (ln / 8) = false →
          (s2.publish (ln / 8)).checkAcc 1000000 (s.laneAgent ln) (signalAcc (pair (w.getD 14 0#32) (w.getD 15 0#32)).toNat true) true = .ok e →
          noPeers (s2.publish (ln / 8)) (ln / 8) →
          reachable (s2.publish (ln / 8)) (State.physOf e (pair (w.getD 14 0#32) (w.getD 15 0#32)).toNat) →
          ∃ s', exec (.cancel x) s = .next s' ∧ packetDone s s' ln ∧
            s'.homeRead (State.physOf e (pair (w.getD 14 0#32) (w.getD 15 0#32)).toNat) 8 =
              (w.getD 16 0#32).toNat + 2 ^ 32 + (t.getS x).toNat % 2 ^ 16 * 2 ^ 48)))

/-- A weave is admitted with its launched strands placed and their registers set; it retires with its last strand; the bolt
completes when every weave has, and its signal is written. -/
def Obligations.WeavesAreAdmittedRetireAndCompleteTheirBolt : Prop :=
  ∀ (s : State),
    (∀ p die c x bk b r spots, s.part? p = some x → s.admChoose p die = some c → s.nextBoltFor p c die = some (bk, b, r) →
      s.choosePlace x b.desc die = some spots → spots ≠ [] → b.part = p → b.ctx = c →
      ∃ s' w, exec (.weaveAdmission p die c) s = .next s' ∧ s'.weave? s.nextKey = some w ∧ w.wid = r.next ∧ w.bolt = bk ∧
        w.wmin = b.desc.wmin ∧ w.wmax = b.desc.wmax ∧ w.scrLen = b.desc.scrw ∧ w.scr = [] ∧
        (∀ q ∈ spots, ∃ u, s'.strand? (96 * q.core + q.slot) = some u ∧ u.weave = s.nextKey ∧ u.widx = q.widx ∧ u.role = q.role ∧
          u.core = q.core ∧ u.slot = q.slot ∧ u.budget = b.desc.budget q.role ∧ u.part = p ∧ u.ctx = c ∧ u.priv = b.priv ∧
          u.hspc = BitVec.ofNat 64 b.desc.sbase ∧ u.first = 0#32 ∧ u.exec = BitVec.allOnes 128 ∧ u.live = BitVec.allOnes 128 ∧ u.fmt = 0#32 ∧
          u.getS 0 = BitVec.ofNat 32 u.sid ∧ u.getS 1 = BitVec.ofNat 32 q.widx ∧ u.getS 2 = BitVec.ofNat 32 r.next ∧
          u.getS 3 = BitVec.ofNat 32 b.depth ∧ u.getPair 4 = BitVec.ofNat 64 b.desc.args ∧ (∀ i, 6 ≤ i → u.getS i = 0#32) ∧
          ∀ i l, Vec.lane (u.getV i) l = 0#32)) ∧
    (∀ wk w, s.weave? wk = some w → w.children = 0 → (∀ e ∈ s.strands, e.1 < ccBase → e.2.weave ≠ wk) →
      (∀ x, s.part? w.part = some x → ∀ v ∈ x.saved, v.out = false) →
      ∃ s', exec (.weaveRetire wk) s = .next s' ∧ s'.weave? wk = none ∧
        ∀ b, s.bolt? w.bolt = some b → ∃ b', s'.bolt? w.bolt = some b' ∧
          b'.dies = b.dies.map (fun r => if r.die = w.home / 64 then { r with retired := r.retired + 1 } else r)) ∧
    (∀ bk b, s.bolt? bk = some b → (∀ r ∈ b.dies, r.retired = r.stop - r.start) → b.lane = none → b.shown = false →
      s.publishWaits b.part = false →
      ((s.publish b.part).signalWaits b 0 = true → ∃ s', exec (.boltComplete bk) s = .next s' ∧ s'.bolt? bk = some { b with shown := true }) ∧
      ((s.publish b.part).signalWaits b 0 = false → ∃ s', exec (.boltComplete bk) s = .next s' ∧ s'.bolt? bk = none ∧
        (∀ wk w, b.parent = some wk → s.weave? wk = some w → ∃ w', s'.weave? wk = some w' ∧ w'.children = w.children - 1) ∧
        (∀ e, b.signal = true → (s.publish b.part).publishWaits b.part = false →
          ((s.publish b.part).publish b.part).checkAcc 1000000 (State.boltAgent (s.publish b.part) b) (signalAcc b.desc.sigaddr true) true = .ok e →
          reachable ((s.publish b.part).publish b.part) (State.physOf e b.desc.sigaddr) → noPeers ((s.publish b.part).publish b.part) b.part →
          s'.homeRead (State.physOf e b.desc.sigaddr) 8 = b.desc.sigval % 2 ^ 32))) ∧
    (∀ bk b, s.bolt? bk = some b → (∃ r ∈ b.dies, r.retired ≠ r.stop - r.start) → exec (.boltComplete bk) s = .next s)
end

/-! ### Reset, codec and step -/

section
namespace Sys2Proof.Rules
open Sys2Proof Sys2Proof.Machine

/-- Nothing that strand k's next item meets stands before it: no breakpoint, no causal delay, no held error, no register that
cannot be corrected, no word of it that a serial transaction holds; and its clause's header has been read (R111, R305, R307, R326,
R341, R346). -/
def unhindered (s : State) (k : Nat) (t : Strand) (i : Instr) : Prop :=
  t.edge = false ∧ t.lost = false ∧ s.breakpoint t = none ∧ s.delayed t = none ∧ s.fetchHeld k t = false ∧
    State.heldAt t (some i) = none ∧ (s.touchItem k t).badRead t i = none

/-- No store, reduction or window store is still on its way (logs 9 and 50). -/
def allArrived (s : State) : Prop := s.lags = [] ∧ s.reds = [] ∧ s.wins = []

/-- The clause position of strand t holds i: a header at item 0, the lane instruction that the item index names, or a scalar
word of one or two words that ends inside the clause, and at its end where R137 asks it (R34, R137 to R141). -/
def holdsItem (s : State) (t : Strand) (i : Instr) : Prop :=
  (t.item = 0 ∧ ∃ w wm sa sb nl ns, s.fetch t t.hspc.toNat 4 = .ok w ∧ i = .clauseHeader wm sa sb nl ns ∧ decodeScalar w 0 = .ok i) ∨
  (0 < t.item ∧ t.item ≤ t.nl ∧ ∃ w, s.fetchLane t (t.first + BitVec.ofNat 32 (t.item - 1)) = .ok w ∧ decodeLane w = .ok i) ∨
  (t.nl < t.item ∧ ∃ w w2, s.fetch t t.itemAddr.toNat 4 = .ok w ∧ fld w 26 6 ≠ 63 ∧
    (scalarWords w = 1 ∧ w2 = 0 ∨ scalarWords w = 2 ∧ s.fetch t (t.itemAddr + 4#64).toNat 4 = .ok w2) ∧
    decodeScalar w w2 = .ok i ∧ t.item + scalarWords w ≤ t.nl + t.ns + 1 ∧
    (endsClause i = true → t.item + scalarWords w = t.nl + t.ns + 1))

/-- Lane t of the command core stands at a header with no lane instruction, or at a word that it executes (R147). -/
def forCommandCore (s : State) (t : Strand) : Prop :=
  (t.item = 0 ∧ ∀ w, s.fetch t t.hspc.toNat 4 = .ok w → fld w 3 3 = 0) ∨
  (t.nl < t.item ∧ ∀ w, s.fetch t t.itemAddr.toNat 4 = .ok w → ccWord w = true)

/-- Strand t of s may issue (R32, R274, R305). -/
def mayRun (s : State) (t : Strand) : Prop :=
  t.run ≠ .halted ∧ t.pend = none ∧ t.leave = .no ∧ (s.clu (t.core / 2)).change = none ∧ (s.clu (t.core / 2)).active = true

/-- A header none of whose flags is busy. -/
def opens (t : Strand) (i : Instr) : Bool :=
  match i with
  | .clauseHeader wm _ _ _ _ => !(List.range 12).any (fun b => wm.testBit b && t.busy b)
  | _ => false

/-- What strand k's item i leaves of state s, in which the fetch has set the accessed bits, with what the strand owes after it. -/
def itemRun (s : State) (k : Nat) (t : Strand) (i : Instr) : Host.Outcome State Fault Refusal :=
  let u := s.touchItem k t
  thenDo (exec i (if opens t i then u.traceHeader k else u)) (fun s2 => (s2.afterIssue k t (some i) (u.nextBits i t)).edgeNow k)

/-- A context whose floor entitles it to the next grant of an arbiter (R268). -/
def owed (a : Arb) (p : Part) (x : Nat) : Prop := 256 ≤ min 512 (AMap.get a.deficit x 0 + fld (p.rd (0x40A0 + 4 * x)).toNat 0 8)

/-- Slot a comes no later than slot b in the round robin after slot l (R32). -/
def inTurn (l a b : Nat) : Prop := (l < b → l < a ∧ a ≤ b) ∧ (b ≤ l → l < a ∨ a ≤ b)

/-- Strand u is one of the strands es, and the first of them after slot l. -/
def firstOf (l : Nat) (es : Nat × Strand → Prop) (u : Nat × Strand) : Prop := es u ∧ ∀ e, es e → inTurn l u.2.slot e.2.slot

/-- The ranges of OP that the tables leave unassigned, beside the guard 0x00 (R151). -/
def opGaps : List (Nat × Nat) := [(0x1D, 0x1F), (0x2B, 0x3F), (0x4C, 0x4F), (0x55, 0x5F), (0x66, 0x6F), (0x7A, 0x8F), (0x95, 0xFE)]

/-- Partitions in rising order, and the control words of each. -/
def tablesOrdered (s : State) : Prop := AMap.sortedFrom 0 s.parts = true ∧ ∀ e ∈ s.parts, AMap.sortedFrom 0 e.2.csr = true

end Sys2Proof.Rules

open Sys2Proof Sys2Proof.Machine Sys2Proof.Rules

/-- The state after reset: nothing resident, no partition, the link up, and memory canonical (log 13 names the values that
the spec leaves open). -/
def Sys2Proof.Rules.ResetLeavesNothingRunning : Prop :=
  State.reset.Inv ∧ State.reset.strands = [] ∧ State.reset.weaves = [] ∧ State.reset.bolts = [] ∧ State.reset.parts = [] ∧
    State.reset.plan = [] ∧ State.reset.linkUp = true ∧ (∀ p off, State.reset.csr p off = 0#32)

/-- The registers of a partition after a cold boot that accepts its record hold the reset values of their rules: the
geometry of R294, QCTL of R243, the knobs of R260, the learner's of R269, the power block's of R278 and R284, TLOG2 of
R302; the context roots, the trap vectors, the words at 0xE00 and 0xE18 and the DBG bit read 0. -/
def Sys2Proof.Rules.PartitionRegistersComeUpAtTheirResetValues : Prop :=
  ∀ (s s' : State) (r : BootRec) (c : PartRec), exec (.coldBoot r) s = .next s' → r.fwSig % 4 = 0 → r.cfgSig % 4 = 0 →
    s.flash0 = none → s.flash1 = none → layoutOk r.parts = true → c ∈ r.parts →
    s'.csr c.p 0x80 = BitVec.ofNat 32 (1 + c.dies * 2 + c.x0 * 32 + c.x1 * 256 + c.y0 * 2048 + c.y1 * 8192 + c.ioshare * 65536) ∧
      s'.csr64 c.p 0x88 = c.lpmask ∧
      (∀ q, q < 8 → s'.csr c.p (0x808 + 0x40 * q) = 0x100#32 ∧ s'.csr c.p (0x80C + 0x40 * q) = 0#32 ∧ s'.csr c.p (0x814 + 0x40 * q) = 0#32) ∧
      (∀ x, x < 16 → s'.csr c.p (0x4880 + 16 * x) = 8#32 ∧ s'.csr c.p (0x4884 + 16 * x) = 64#32 ∧
        s'.csr c.p (0x4888 + 16 * x) = 12#32 ∧ s'.csr c.p (0x488C + 16 * x) = 8#32) ∧
      s'.csr c.p 0x4980 = BitVec.ofNat 32 (popN c.dies 4 * (c.x1 + 1 - c.x0) * (c.y1 + 1 - c.y0)) ∧
      s'.csr c.p 0x4984 = 64#32 ∧ s'.csr c.p 0x4988 = 192#32 ∧
      s'.csr c.p 0x4000 = 0x0D000010#32 ∧ s'.csr c.p 0x8004 = 128#32 ∧ s'.csr c.p 0x8008 = 20000#32 ∧
      (∀ x, x < 16 → s'.csr64 c.p (0x200 + 8 * x) = 0 ∧ s'.csr c.p (0xC18 + 32 * x) = 0#32) ∧
      s'.csr c.p 0xE00 = 0#32 ∧ s'.csr c.p 0xE18 = 0#32 ∧ s'.csr c.p 0xA0C0 = 0#32 ∧ s'.csr c.p 0xA070 = 6#32

/-- Words written out from the encodings of R137, R141, R147, R148 and R151 decode to the instructions they stand for, and a
major or OP that the tables leave unassigned decodes to none. -/
def Obligations.WordsOfTheTablesDecodeToTheirInstructions : Prop :=
  decodeScalar 0b000001_000000011_000000101_00000111 0 = .ok (.add 3 5 7) ∧
    decodeScalar 0b011101_101111111_11111111111111111 0 = .ok (.movi 383 0x1FFFF) ∧
    decodeScalar 0b011111_000101_000001001_000000100_00 0 = .ok (.bfi 9 4) ∧
    decodeScalar 0b100010_000001000_00000110_1_00000010 0 = .ok (.lds4 8 6 1 2) ∧
    decodeScalar 0b100110_000000000_00000000000010000 0x20 = .ok (.bra 16 32) ∧
    decodeScalar 0b101100_000000_000000100_000001000_00 0x00040002 = .ok (.msplit 4 8 4 2) ∧
    decodeScalar 0b101101_10_000000101_010_1_0_00_00000000 0x00030001 = .ok (.loop 2 5 2 1 0 0 3 1) ∧
    decodeScalar 0b110001_000110_000000010_000000_1_0011 0 = .ok (.claspReg 2 3 1) ∧
    decodeScalar 0b110010_000000_000001000_01_100000000 0 = .ok (.attach 8 256 1) ∧
    decodeScalar 0b110101_000000_000000000_00000000101 0 = .ok (.trap 5) ∧
    decodeScalar 0b110110_000001_000000100_000001000_01 0 = .ok (.shtCopyout 4 8 1) ∧
    decodeScalar 0b110111_000000_00000000000000000000 0x00080004 = .ok (.tbegin 8 4) ∧
    decodeScalar 0b111111_000000000101_0011_1111_010_001 0 = .ok (.clauseHeader 5 3 15 2 1) ∧
    decodeLane 0b00000001_00000001_00000010_00000011_00000000_101_0_00_00_00000000_00000000_00000000000000000000000000000000 =
      .ok (.iadd { vd := 1, va := 2, vb := 3, vc := 0, stg := 5, fs := 0, bsrc := 0, rnd := 0, sub := 0, mod := 0, imm := 0 }) ∧
    decodeLane 0b01110000_00000100_00001010_00000000_00000000_000_1_01_00_00000010_00000000_00000000000000000000000000000110 =
      .ok (.ld { vd := 4, va := 10, vb := 0, vc := 0, stg := 0, fs := 1, bsrc := 1, rnd := 0, sub := 2, mod := 0, imm := 6 }) ∧
    (∀ w w2, (56 ≤ fld w 26 6 ∧ fld w 26 6 ≤ 62 ∨ fld w 26 6 = 0) → decodeScalar w w2 = .error .unassigned) ∧
    (∀ w, (fld w 88 8 = 0 ∨ ∃ g ∈ opGaps, g.1 ≤ fld w 88 8 ∧ fld w 88 8 ≤ g.2) → decodeLane w = .error .unassigned)

/-- Decoding a well-formed instruction's own words gives it back: no operand bit of an encoding is dropped. -/
def Obligations.DecodingAnEncodingGivesTheInstructionBack : Prop :=
  ∀ (i : Instr) (e : Enc), i.wf = true → encode i = some e → e.decode = .ok i

/-- The two streams have no second spelling: bits that decode are the encoder's bits of what they decode to. -/
def Obligations.DecodableWordsAreTheirInstructionsEncoding : Prop :=
  (∀ w w2 i, w < 2 ^ 32 → w2 < 2 ^ 32 → decodeScalar w w2 = .ok i →
    i.wf = true ∧ encode i = some (if scalarWords w = 2 then .two w w2 else .one w)) ∧
  (∀ w i, w < 2 ^ 96 → decodeLane w = .ok i → i.wf = true ∧ encode i = some (.lane w))

/-- A step whose turn falls to a strand that its spindle's arbiter grants runs the instruction that its clause position decodes to,
and then what the strand owes after an item; on the command core, once the round has come to its words, the lanes whose word is next
run it; a step that an event falls to runs that event. -/
def Obligations.AStepRunsTheDecodedInstruction : Prop :=
  (∀ (s : State) (k : Nat) (t : Strand) (i : Instr) (rest : List Act), s.plan = .issue k :: rest → allArrived s → s.strand? k = some t →
    k < ccBase → mayRun s t →
    let s0 : State := { s with plan := rest }
    let s1 : State := { s0 with cur := k }
    let o := itemRun s1 k t i
    let es := s1.readies k t
    holdsItem (s1.touchItem k t) t i → unhindered s1 k t i →
    (State.moved k t o = false →
      step s = thenDo o (fun s2 => measure s (noteMx (.issue k) s0 s2.settle))) ∧
    (State.moved k t o = true → s1.granted t es = some (k, t) →
      step s = thenDo o (fun s2 => measure s (noteMx (.issue k) s0 (s2.noteGrant es (s1.issueFifths t) t t).settle)))) ∧
  (∀ (s : State) (ln : Nat) (t : Strand) (rest : List Act), s.plan = .issue (ccBase + ln) :: rest → allArrived s →
    let s0 : State := { s with plan := rest }
    let s1 : State := { toWords s0 with cur := ccBase + ln }
    allArrived s1 → s1.strand? (ccBase + ln) = some t → ln ∈ proGroup s1 →
    step s = thenDo (runEach ccItem (proGroup s1) s1) (fun s2 => measure s (noteMx (.issue (ccBase + ln)) s0 s2.settle))) ∧
  (∀ (s : State) (ln : Nat) (t : Strand) (i : Instr), s.strand? (ccBase + ln) = some t →
    let s1 : State := { s with cur := ccBase + ln }
    let u := s1.touchItem (ccBase + ln) t
    holdsItem u t i → forCommandCore u t → (s.queue ln).round + itemWords t s1 ≤ 64 → (s.queue ln).words + itemWords t s1 ≤ 4096 →
    s1.fetchHeld (ccBase + ln) t = false → State.heldAt t (some i) = none → u.badRead t i = none →
    ccItem ln s = thenDo (exec i u) (fun s2 => ccSettle ln (itemWords t s1) t u s2)) ∧
  (∀ (s : State) (i : Instr) (rest : List Act), s.plan = .event i :: rest → allArrived s → i.isItem = false → packetOf i = none →
    (∀ e ∈ s.strands, e.2.tr.on = false) →
    let s0 : State := { s with plan := rest }
    step s = thenDo (exec i s0) (fun s1 => measure s (noteMx (.event i) s0 s1.settle)))

/-- A spindle's arbiter grants a ready strand. If the floor of a context with one entitles it, that is the lowest such context, and of
its strands one that the rotation has not served yet, if there is one, the next in slot order after the one served last; otherwise it
is the next strand in slot order that the present rotation has not served, and, where it has served all, the first of the next rotation.
The grant is then charged. That a weight is the number of rotations a context takes part in, and that a counter does not fall below 0,
are the model's choice (log 60). -/
def Obligations.TheIssueArbiterServesOwedContextsFirstAndSlotsInTurn : Prop :=
  ∀ (s : State) (k : Nat) (t : Strand) (p : Part) (c : Nat) (u : Strand), AMap.sortedFrom 0 s.strands = true →
    (∀ e ∈ s.strands, e.1 < ccBase → e.1 = 96 * e.2.core + e.2.slot ∧ e.2.slot < 96 ∧ e.2.ctx < 16) → s.part? t.part = some p →
    let es := s.readies k t
    s.granted t es = some (c, u) →
    let a := s.arbNow p t.core (t.slot / 24)
    let ready := fun (e : Nat × Strand) => e ∈ s.rivals t ∧ (e.1 = k ∨ s.isReady e.1 e.2 = true)
    let unserved := fun (e : Nat × Strand) => e.2.slot ∉ a.served
    let within := fun (i : Nat) (e : Nat × Strand) => ready e ∧ i < p.knob (4 * e.2.ctx)
    let none_ := fun (es : Nat × Strand → Prop) => ∀ e, ¬es e
    (∀ e, e ∈ es ↔ ready e) ∧ ready (c, u) ∧
      (∀ e, ready e → owed a p e.2.ctx →
        owed a p u.ctx ∧ u.ctx ≤ e.2.ctx ∧
          let mine := fun (e : Nat × Strand) => ready e ∧ e.2.ctx = u.ctx
          (¬none_ (fun e => mine e ∧ unserved e) → firstOf (AMap.get a.last u.ctx 127) (fun e => mine e ∧ unserved e) (c, u)) ∧
          (none_ (fun e => mine e ∧ unserved e) → firstOf (AMap.get a.last u.ctx 127) mine (c, u))) ∧
      ((∀ e, ready e → ¬owed a p e.2.ctx) →
        (¬none_ (fun e => within a.left e ∧ unserved e) → firstOf a.turn (fun e => within a.left e ∧ unserved e) (c, u)) ∧
        (none_ (fun e => within a.left e ∧ unserved e) → ¬none_ (within (a.left + 1)) → firstOf a.turn (within (a.left + 1)) (c, u)) ∧
        (none_ (fun e => within a.left e ∧ unserved e) → none_ (within (a.left + 1)) → firstOf a.turn (within 0) (c, u))) ∧
      ∀ n, let b := AMap.get ((s.noteGrant es n t u).core t.core).arb (t.slot / 24) State.arbDefault
        AMap.look b.last u.ctx = some u.slot ∧ (∀ x, x ≠ u.ctx → AMap.look b.last x = AMap.look a.last x) ∧ u.slot ∈ b.served ∧
        ((∀ e, ready e → ¬owed a p e.2.ctx) → b.turn = u.slot) ∧
        ∀ x, x < 16 →
          let d := min 512 (AMap.get a.deficit x 0 + fld (p.rd (0x40A0 + 4 * x)).toNat 0 8)
          let d := if (∃ e ∈ es, e.2.ctx = x) then d else min 256 d
          AMap.get b.deficit x 0 = if x = u.ctx then d - 256 else d

/-- Every step keeps memory in its canonical form. -/
def Obligations.EveryStepKeepsMemoryCanonical : Prop :=
  ∀ (s s' : State), s.Inv → step s = .next s' → s'.Inv

/-- Every step keeps the partition table, and each partition's control words, in their canonical order. -/
def Obligations.EveryStepKeepsThePartitionTablesInOrder : Prop :=
  ∀ (s s' : State), tablesOrdered s → step s = .next s' → tablesOrdered s'
end

/-! ### Faults and traps -/

section
namespace Sys2Proof.Rules
open Sys2Proof Sys2Proof.Machine

/-- The base of the trap vector of strand t's context (R322). -/
def tvec (t : Strand) : Nat := 0xC00 + 32 * t.ctx

/-- The frame of slot n of core k: TFRAME x 4096 + 2048 x (96 k + n) (R322). -/
def frameAt (s : State) (t : Strand) : Nat := s.csr64 t.part (tvec t + 0x18) / 4096 % 2 ^ 40 * 4096 + 2048 * (96 * t.core + t.slot)

/-- The parts of a strand that R324 stores have their lengths: 128 lane LFSRs, and seven captures of eight words. -/
def sized (t : Strand) : Prop := t.lfsr.length = 128 ∧ (t.capt = [] ∨ t.capt.length = 7 ∧ ∀ c ∈ t.capt, c.length = 8)

/-- The frame of strand t, which is strand k, can be written: mapped writable on an HC page that its TLB holds, in lines that its
partition may use, and in no other strand's serial transaction (R111, R293, R322). -/
def frameOk (s : State) (k : Nat) (t : Strand) (e : Tlb) : Prop :=
  t.ctx < 16 ∧ sized t ∧
  s.xlate t.part t.ctx t.core (frameAt s t) t.priv .write = .ok e ∧ e.coh = 0 ∧ quiet s t (frameAt s t) true ∧
    reachable s (State.physOf e (frameAt s t)) ∧ s.serialMeets k (State.physOf e (frameAt s t)) 2048 true = false ∧
    ∀ i, i < 8 → s.usable t.part (State.physOf e (frameAt s t) + 256 * i) = true

/-- Traps of strand t enter the handler: DBG is 0, HND is 0 and TVEC's EN is 1 (R321). -/
def handlerTakes (s : State) (t : Strand) : Prop :=
  (∃ p, s.part? t.part = some p ∧ p.dbg = false) ∧ t.hnd = false ∧ (s.csr t.part (tvec t + 0x18)).getLsbD 0 = true

/-- The item that a TRAP or BKPT saves: the next one, or item 0 at the fail target of the transaction it aborts (R323, R328). -/
def savedAt (t : Strand) : Strand := if t.tx.isSome then t.abortTx 7 0 else t.advance 1

/-- The frame words that RFT restores or that name the fault, of a strand saved as u (R324). -/
def frameWord (s : State) (u : Strand) (f : FaultInfo) (spc : DWord) (item : Nat) (txab : Bool) (i : Nat) : Option Word :=
  if i = 0 then some (BitVec.ofNat 32 (f.code + f.sub * 2 ^ 8 + (if txab then 2 ^ 16 else 0) + u.item * 2 ^ 28))
  else if i = 1 then some (BitVec.ofNat 32 u.sid)
  else if i = 2 then some (loW u.itemAddr) else if i = 3 then some (hiW u.itemAddr)
  else if i = 4 then some (u.first + BitVec.ofNat 32 (min u.item u.nl))
  else if i = 5 then some (s.csr u.part 0xA0D4)
  else if i = 6 then some (BitVec.ofNat 32 f.arg) else if i = 7 then some (BitVec.ofNat 32 (f.arg / 2 ^ 32))
  else if i = 8 then some (loW spc) else if i = 9 then some (hiW spc)
  else if i = 10 then some (BitVec.ofNat 32 s.time) else if i = 11 then some (BitVec.ofNat 32 (s.time / 2 ^ 32))
  else if i < 16 then some (maskW u.exec (i - 12)) else if i < 20 then some (maskW u.live (i - 16))
  else if i < 24 then some (maskW f.lanes (i - 20))
  else if i = 24 then some u.fmt else if i = 25 then some u.rot else if i = 26 then some (u.stage.setWidth 32)
  else if i = 27 then some u.region else if i = 28 then some u.status else if i = 29 then some u.txstat
  else if i = 30 then some (BitVec.ofNat 32 (u.rets.length + u.loops.length * 2 ^ 5 + item * 2 ^ 8))
  else if i = 31 then some 0#32
  else if i < 96 then some (u.loopReg ((i - 32) / 16) ((i - 32) % 16))
  else if 160 ≤ i ∧ i < 192 then some (if u.bad.contains (i - 160) then 0#32 else u.getS (i - 160))
  else if 256 ≤ i ∧ i < 384 then u.lfsr[i - 256]?
  else none

/-- Strand k of s, saved as u, entered its handler: R324's frame stands in memory and R325's state in the strand; every other
register, every counter and every other byte are as they were. Words of loop frames that are not open are free (log 12). -/
def entered (s s' : State) (k : Nat) (u t' : Strand) (e : Tlb) (f : FaultInfo) (spc : DWord) (item : Nat) (txab : Bool) : Prop :=
  let va := frameAt s u
  s'.strand? k = some t' ∧
  t'.hnd = true ∧ t'.pend = none ∧ t'.frame = va ∧
  t'.hspc = BitVec.ofNat 64 (s.csr64 u.part (tvec u) / 4 * 4) ∧ t'.first = 0#32 ∧ t'.item = 0 ∧
  t'.hlbase = BitVec.ofNat 64 (s.csr64 u.part (tvec u + 8) / 64 * 64) ∧
  t'.priv = u.priv ∧ t'.exec = u.live ∧ t'.live = u.live ∧ t'.fmt = 0#32 ∧ t'.rot = 0#32 ∧ t'.stage = 0#8 ∧
  t'.region = 0#32 ∧ t'.loops = [] ∧ t'.rets = [] ∧ t'.status = u.status ∧ t'.lfsr = u.lfsr ∧ t'.ops = u.ops ∧
  (∀ i, i < 12 → t'.busy i = u.busy i) ∧
  t'.getS 0 = BitVec.ofNat 32 va ∧ t'.getS 1 = BitVec.ofNat 32 (va / 2 ^ 32) ∧
  (∀ w, frameWord s u f spc item txab 0 = some w → t'.getS 2 = w) ∧ t'.getS 3 = BitVec.ofNat 32 f.arg ∧
  t'.getS 4 = s.csr u.part (tvec u + 0x10) ∧ t'.getS 5 = s.csr u.part (tvec u + 0x14) ∧
  u.sameScalars t' [0, 1, 2, 3, 4, 5] ∧ t'.v = u.v ∧
  (∀ i w, i < 512 → frameWord s u f spc item txab i = some w → s'.coreRead u.core (State.physOf e va + 4 * i) 4 0 = w.toNat) ∧
  s.sameBut s' (State.physOf e va) 2048

/-- Word i of the stop record of strand u in s (R303): no field but its own is set, ARG only of BKPT and WATCH. -/
def stopWord (s : State) (u : Strand) (eseq : Word) (code arg : Nat) (i : Nat) : Word :=
  let arg := if code = 0x11 ∨ code = 0x12 then arg else 0
  if i = 0 then BitVec.ofNat 32 (2 + u.core * 2 ^ 8 + u.slot * 2 ^ 16 + u.ctx * 2 ^ 24 + u.item * 2 ^ 28)
  else if i = 1 then eseq
  else if i = 2 then BitVec.ofNat 32 s.time else if i = 3 then BitVec.ofNat 32 (s.time / 2 ^ 32)
  else if i = 4 then loW u.itemAddr else if i = 5 then hiW u.itemAddr
  else if i = 6 then u.first + BitVec.ofNat 32 (min u.item u.nl)
  else if i = 7 then BitVec.ofNat 32 u.sid
  else if i < 12 then maskW u.exec (i - 8)
  else if i = 12 then BitVec.ofNat 32 code else if i = 13 then 0#32
  else if i = 14 then BitVec.ofNat 32 arg else BitVec.ofNat 32 (arg / 2 ^ 32)

/-- Strand k, which is u in s, has halted before its next item with a stop record, which has entered the queue if that had room (R303,
R305, R321). -/
def haltedAt (s s' : State) (k : Nat) (u : Strand) (code arg : Nat) : Prop :=
  (∃ t', s'.strand? k = some t' ∧ t'.run = .halted ∧ t'.pend = none ∧
    t'.hspc = u.hspc ∧ t'.first = u.first ∧ t'.item = u.item ∧ t'.nl = u.nl ∧ t'.exec = u.exec ∧ t'.s = u.s ∧ t'.v = u.v) ∧
  ∀ p, s.part? u.part = some p → p.stopWait = [] → (p.rd 0xA0CC - p.rd 0xA0D0).toNat < 16 →
    s'.csr u.part 0xA0CC = BitVec.ofNat 32 ((p.rd 0xA0CC).toNat + 1) ∧
    ∀ i, i < 16 → s'.csr u.part (0xA800 + 64 * ((p.rd 0xA0CC).toNat % 16) + 4 * i) = stopWord s u (p.rd 0xA0D4) code arg i

end Sys2Proof.Rules

open Sys2Proof Sys2Proof.Machine Sys2Proof.Rules

/-- TRAP and BKPT take their exception: with a handler, the next item's frame is written and the handler entered; with DBG
the strand halts at the next item, with a stop record; in a handler, or without one, it halts so and the context's CTXERR bit is set.
A scalar that cannot be corrected stands as 0 in the frame (R346). -/
def Sys2Proof.Rules.TrapAndBkptEnterTheHandlerOrHalt : Prop :=
  ∀ (s : State) (t : Strand) (i : Instr) (code arg : Nat), s.runs t → s.cur < ccBase → i.wf = true →
    (i = .trap arg ∧ code = 0x10 ∨ i = .bkpt arg ∧ code = 0x11) → t.run ≠ .halted → t.pend = none → (savedAt t).edge = false →
    (s.clu (t.core / 2)).change = none →
    (∀ e, handlerTakes s t → frameOk s s.cur t e → t.drained3 = true →
      ∃ s' t', exec i s = .next s' ∧ entered s s' s.cur (savedAt t) t' e { code := code, arg := arg } t.itemAddr t.item t.tx.isSome) ∧
    ((∃ p, s.part? t.part = some p ∧ p.dbg = true) →
      ∃ s', exec i s = .next s' ∧ haltedAt s s' s.cur (savedAt t) code arg ∧ s.sameMemory s') ∧
    ((∃ p, s.part? t.part = some p ∧ p.dbg = false) → t.ctx < 16 →
      (t.hnd = true ∨ (s.csr t.part (tvec t + 0x18)).getLsbD 0 = false) →
      ∃ s', exec i s = .next s' ∧ haltedAt s s' s.cur (savedAt t) code arg ∧ (s'.csr t.part 0xE18).getLsbD t.ctx = true ∧ s.sameMemory s')

/-- A trap that waits is entered once the strand's ld, sc and at counters are zero, and not before; a halt that waits for its cluster's
rail change is taken when the change is over. What becomes of the busy flags is the model's reading (log 46). -/
def Sys2Proof.Rules.APendingTrapIsEnteredWhenTheCountersAreZero : Prop :=
  ∀ (s : State) (k : Nat) (t : Strand) (pe : Pend) (e : Tlb), s.strand? k = some t → t.pend = some pe →
    ((s.clu (t.core / 2)).change ≠ none → exec (.trapEntry k) s = .next s) ∧
    (∀ b, pe.halt = some b → t.run ≠ .halted → t.ctx < 16 → (s.clu (t.core / 2)).change = none → (∃ p, s.part? t.part = some p) →
      ∃ s', exec (.trapEntry k) s = .next s' ∧ haltedAt s s' k t pe.info.code pe.info.arg ∧ (b = true → (s'.csr t.part 0xE18).getLsbD t.ctx = true) ∧ s.sameMemory s') ∧
    (pe.halt = none → t.drained3 = false → exec (.trapEntry k) s = .next s) ∧
    (pe.halt = none → t.drained3 = true → t.run ≠ .halted → (s.clu (t.core / 2)).change = none → frameOk s k t e → (∃ p, s.part? t.part = some p) →
      ∃ s' t', exec (.trapEntry k) s = .next s' ∧ entered s s' k t t' e pe.info pe.spc pe.item pe.txab)

/-- RFT reloads every field that R324 marks from the frame, leaves the handler, and changes no other register and no byte; a
frame that R326 refuses, or no handler, is ILLEGAL. Which header the resume point belongs to is found as log 58 says; where a word that
could be that header cannot be fetched now, the strand stands at its resume point and meets that stop there (log 58). Scalars captured
for a lane item whose word could not be fetched at trap entry are not in the frame (log 58). -/
def Sys2Proof.Rules.RftRestoresWhatTheFrameHolds : Prop :=
  ∀ (s : State) (t : Strand), s.runs t →
    (t.hnd = false → exec .rft s = .next (s.raiseAt s.cur t { code := 1, arg := s.wordAt t t.itemAddr })) ∧
    (t.hnd = true → (t.drained3 = false ∨ s.frameWaits t = true) →
      ∃ t', exec .rft s = .next (s.setCur t') ∧ { t' with wait := t.wait, since := t.since } = t) ∧
    (∀ (e : Tlb), t.hnd = true → t.drained3 = true → s.frameWaits t = false → s.xlate t.part t.ctx t.core t.frame t.priv .read = .ok e →
      (∀ c, (s.clu c).comb = []) →
      let f : Nat → Word := fun i => BitVec.ofNat 32 (s.coreRead t.core (State.physOf e t.frame + 4 * i) 4 e.coh)
      let item := fld (f 0).toNat 28 4
      let rsd := fld (f 30).toNat 0 5
      let ldep := fld (f 30).toNat 5 3
      let place := s.clauseOf { t with hnd := false } (pair (f 2) (f 3)) item
      let fits := rsd ≤ 16 ∧ ldep ≤ 4 ∧ (∀ L, L < 4 → ((f (39 + 16 * L)).getLsbD 2 = true ↔ L < ldep))
      (¬fits ∨ place = .ok none → exec .rft s = .next (s.raiseAt s.cur t { code := 1, arg := s.wordAt t t.itemAddr })) ∧
      (fits → place ≠ .ok none → ∃ t', exec .rft s = .next ((s.frameTaken t).setCur t') ∧ t'.hnd = false ∧ t'.item = item ∧
        (∀ h w, place = .ok (some (h, w)) → t'.hspc = h ∧ t'.lost = false) ∧
        (∀ x, place = .error x → t'.hspc = pair (f 2) (f 3) ∧ t'.lost = true) ∧
        t'.lpc = f 4 ∧ t'.exec = quadMask (f 12) (f 13) (f 14) (f 15) &&& t.live ∧ t'.live = t.live ∧ t'.fmt = f 24 ∧ t'.rot = f 25 &&& 0x7FFFFF#32 ∧
        t'.stage = (f 26).extractLsb' 0 8 ∧ t'.region = BitVec.ofNat 32 ((f 27).toNat % 2 ^ 10) ∧
        t'.loops.length = ldep ∧ t'.rets.length = rsd ∧
        (∀ L w, L < ldep → w < 16 → t'.loopReg L w = if w = 7 then f (39 + 16 * L) &&& 0xFFFF07FF#32 else f (32 + 16 * L + w)) ∧
        (∀ n r, n < rsd → t'.rets.reverse[n]? = some r →
          r.spc = pair (f (96 + 4 * n)) (f (97 + 4 * n)) ∧ r.lpc = f (98 + 4 * n) ∧ r.loops = (f (99 + 4 * n)).toNat % 2 ^ 5) ∧
        (∀ r, r < 32 → t'.getS r = f (160 + r)) ∧ (∀ r, 32 ≤ r → t'.getS r = t.getS r) ∧ t'.v = t.v ∧
        (∀ j, item ≠ 0 → j < 7 → j ∉ t.noCap → t'.capt.getD j [] = (List.range 8).map (fun i => f (192 + 8 * j + i))) ∧
        (∀ l, l < 128 → t'.lfsr[l]? = some (f (256 + l))) ∧
        t'.sbase = t.sbase ∧ t'.lbase = t.lbase ∧
        t'.status = t.status ∧ t'.txstat = t.txstat ∧ t'.ops = t.ops ∧
        (e.coh = 0 → quiet s t t.frame false → s.sameMemory ((s.frameTaken t).setCur t'))))

/-- EXIT takes the lanes of EXEC out of LIVE and leaves EXEC empty; the strand whose last lanes go begins its retirement. -/
def Sys2Proof.Rules.ExitEndsTheActiveLanes : Prop :=
  ∀ (s : State) (t : Strand), s.runs t →
    (t.live &&& ~~~ t.exec ≠ 0#128 → ∃ t', exec .exit s = .next (s.setCur t') ∧ t'.live = t.live &&& ~~~ t.exec ∧ t'.exec = 0#128 ∧
      { t'.besidesPlace with live := t.live, exec := t.exec } = t.besidesPlace ∧ s.sameMemory (s.setCur t')) ∧
    (t.live &&& ~~~ t.exec = 0#128 → ∃ s' t', exec .exit s = .next s' ∧ s'.runs t' ∧ t'.leave = .retire ∧ t'.tx = none ∧
      t'.s = t.s ∧ t'.hspc = t.hspc ∧ t'.item = t.item ∧ t'.live = t.live ∧ s.sameMemory s')

/-- Every fault of an item goes where R321 sends it: with DBG the strand halts; in a handler, or without one, it halts and the
context's CTXERR bit is set; otherwise the trap is entered, at once or when the counters are zero; while the cluster's rail changes, each of these waits. -/
def Sys2Proof.Rules.EveryFaultGoesWhereItsTableSendsIt : Prop :=
  ∀ (s : State) (k : Nat) (t u : Strand) (f : FaultInfo), s.strand? k = some t → k < ccBase → f.next = false → t.run ≠ .halted →
    t.pend = none → u = (if t.tx.isSome then t.abortTx 7 0 else t) →
    ((∃ p, s.part? t.part = some p ∧ p.dbg = true) → (s.clu (t.core / 2)).change = none → haltedAt s (s.raiseAt k t f) k u f.code f.arg ∧ s.sameMemory (s.raiseAt k t f)) ∧
    ((∃ p, s.part? t.part = some p ∧ p.dbg = false) → t.ctx < 16 → (s.clu (t.core / 2)).change = none → (t.hnd = true ∨ (s.csr t.part (tvec t + 0x18)).getLsbD 0 = false) →
      haltedAt s (s.raiseAt k t f) k u f.code f.arg ∧ ((s.raiseAt k t f).csr t.part 0xE18).getLsbD t.ctx = true ∧ s.sameMemory (s.raiseAt k t f)) ∧
    (∀ e, handlerTakes s t → frameOk s k t e → t.drained3 = true → (s.clu (t.core / 2)).change = none →
      ∃ t', entered s (s.raiseAt k t f) k u t' e f t.itemAddr t.item t.tx.isSome) ∧
    (handlerTakes s t ∧ t.drained3 = false ∨ (s.clu (t.core / 2)).change ≠ none →
      ∃ t' pe, (s.raiseAt k t f).strand? k = some t' ∧ t'.pend = some pe ∧ pe.info = f ∧ pe.spc = t.itemAddr ∧ pe.item = t.item ∧
        pe.txab = t.tx.isSome ∧ { t' with pend := none, delay := u.delay, pass := u.pass, passW := u.passW } = u ∧ s.sameMemory (s.raiseAt k t f))
end

/-! ### Control words -/

section
namespace Sys2Proof.Rules
open Sys2Proof Sys2Proof.Machine

/-- 32-bit control registers that only keep what is written, with their writable bits: WDOG (R331), DBG, DSTRAND, the causal
trial's word and the breakpoints (R302), and CLIMAX (R278). -/
def plainMask (off : Nat) : Option Nat :=
  if off = 0xE1C ∨ off = 0xA0C8 then some (2 ^ 32 - 1)
  else if off = 0xA0C0 then some 1
  else if off = 0x8008 then some 0xFFFF
  else if off = 0xA040 then some 0xFFFF001F
  else if 0xA100 ≤ off ∧ off < 0xA180 ∧ off % 16 = 0 then some 0x7F
  else none

/-- 64-bit control registers that only keep what is written: the context roots (R75), the trap vectors (R322), SAVEBASE
(R332) and the breakpoint addresses (R302). -/
def plainMask64 (b : Nat) : Option Nat :=
  if 0x200 ≤ b ∧ b < 0x280 ∧ b % 8 = 0 then some 0x000FFFFFFFFFF001
  else if 0xC00 ≤ b ∧ b < 0xE00 ∧ b % 32 = 0 then some (2 ^ 64 - 4)
  else if 0xC00 ≤ b ∧ b < 0xE00 ∧ b % 32 = 8 then some (2 ^ 64 - 64)
  else if 0xC00 ≤ b ∧ b < 0xE00 ∧ b % 32 = 16 then some (2 ^ 64 - 1)
  else if 0xC00 ≤ b ∧ b < 0xE00 ∧ b % 32 = 24 then some 0x000FFFFFFFFFF001
  else if b = 0xE08 then some 0x000FFFFFFFFFF000
  else if 0xA100 ≤ b ∧ b < 0xA180 ∧ b % 16 = 8 then some (2 ^ 64 - 1)
  else none

/-- s' is s with the control words of partition p as given, and every other control word as it was. -/
def wroteCsr (s s' : State) (p : Nat) (ws : List (Nat × Word)) : Prop :=
  (∀ e ∈ ws, s'.csr p e.1 = e.2) ∧ (∀ off, off ∉ ws.map (·.1) → s'.csr p off = s.csr p off) ∧
    (∀ q off, q ≠ p → s'.csr q off = s.csr q off) ∧ s.sameMemory s'

/-- Control words that a read obtains as they stand: all but the frozen view of R353. -/
def plainRead (off : Nat) : Prop := off < 65536 ∧ off % 4 = 0 ∧ off ≠ 0xE34 ∧ ¬ (0xD000 ≤ off ∧ off < 0xD080)

end Sys2Proof.Rules

open Sys2Proof Sys2Proof.Machine Sys2Proof.Rules

/-- PROG adds one to the counter of its id, and changes nothing else. -/
def Sys2Proof.Rules.ProgCountsOnceWhateverExecHolds : Prop :=
  ∀ (s : State) (t : Strand) (id : Nat) (p : Part), s.runs t → (Instr.prog id).wf = true → s.part? t.part = some p →
    ∃ s' t', exec (.prog id) s = .next s' ∧ s'.runs t' ∧ t'.besidesPlace = t.besidesPlace ∧
      s'.csr64 t.part (0xB000 + 8 * id) = (s.csr64 t.part (0xB000 + 8 * id) + 1) % 2 ^ 64 ∧
      wroteCsr s s' t.part [(0xB000 + 8 * id, BitVec.ofNat 32 (s.csr64 t.part (0xB000 + 8 * id) + 1)),
        (0xB004 + 8 * id, BitVec.ofNat 32 ((s.csr64 t.part (0xB000 + 8 * id) + 1) / 2 ^ 32))]

/-- CSRR and CSRW check privilege, alignment and the block's end, in that order. -/
def Sys2Proof.Rules.ControlWordAccessesAreCheckedInOrder : Prop :=
  ∀ (s : State) (t : Strand) (x y : Nat) (i : Instr), s.runs t → i = .csrr x y ∨ i = .csrw x y → i.wf = true →
    (t.priv = false → exec i s = .next (s.raiseAt s.cur t { code := 2, arg := s.wordAt t t.itemAddr })) ∧
    (t.priv = true → (t.getS y).toNat % 4 ≠ 0 → exec i s = .next (s.raiseAt s.cur t { code := 3, arg := (t.getS y).toNat })) ∧
    (t.priv = true → (t.getS y).toNat % 4 = 0 → 65536 ≤ (t.getS y).toNat →
      exec i s = .next (s.raiseAt s.cur t { code := 5, sub := 4, arg := (t.getS y).toNat }))

/-- CSRR reads the word its register names; the low word of a 64-bit register latches its high word, which the next read of
that high word obtains. -/
def Sys2Proof.Rules.CsrrReadsAWordOrALatchedHalf : Prop :=
  ∀ (s : State) (t : Strand) (x y : Nat), s.runs t → (Instr.csrr x y).wf = true → t.priv = true → plainRead (t.getS y).toNat →
    let off := (t.getS y).toNat
    ∃ t', exec (.csrr x y) s = .next (s.setCur t') ∧ t.sameScalars t' [x] ∧
      { t'.besidesScalars with csrHi := t.csrHi } = t.besidesScalars ∧ s.sameMemory (s.setCur t') ∧
      (is64 off = false → t'.getS x = s.csr t.part off ∧ t'.csrHi = t.csrHi) ∧
      (is64 off = true → off % 8 = 0 → t'.getS x = s.csr t.part off ∧ AMap.look t'.csrHi off = some (s.csr t.part (off + 4))) ∧
      (is64 off = true → off % 8 = 4 → (∀ v, AMap.look t.csrHi (off - 4) = some v → t'.getS x = v) ∧
        (AMap.look t.csrHi (off - 4) = none → t'.getS x = s.csr t.part off) ∧ AMap.look t'.csrHi (off - 4) = none)

/-- CSRW and the host's REGISTER_WRITE store the writable bits of a plain register; the low word of a 64-bit one waits for its
high word. -/
def Sys2Proof.Rules.RegisterWritesStoreTheWritableBits : Prop :=
  (∀ (s : State) (t : Strand) (x y : Nat) (p : Part), s.runs t → (Instr.csrw x y).wf = true → t.priv = true →
    s.part? t.part = some p →
    let off := (t.getS y).toNat
    (∀ m, plainMask off = some m → ∃ s', exec (.csrw x y) s = .next s' ∧ s'.runs (t.advance 1) ∧
      wroteCsr s s' t.part [(off, BitVec.ofNat 32 ((t.getS x).toNat &&& m))]) ∧
    (∀ m, plainMask64 off = some m → ∃ s' t', exec (.csrw x y) s = .next s' ∧ s'.runs t' ∧ AMap.look t'.csrLo off = some (t.getS x) ∧
      { t' with csrLo := t.csrLo } = t.advance 1 ∧ wroteCsr s s' t.part []) ∧
    (∀ m, 4 ≤ off → plainMask64 (off - 4) = some m → ∃ s' t', exec (.csrw x y) s = .next s' ∧ s'.runs t' ∧ AMap.look t'.csrLo (off - 4) = none ∧
      { t' with csrLo := t.csrLo } = t.advance 1 ∧
      let v := (pair ((AMap.look t.csrLo (off - 4)).getD (s.csr t.part (off - 4))) (t.getS x)).toNat &&& m
      wroteCsr s s' t.part [(off - 4, BitVec.ofNat 32 v), (off, BitVec.ofNat 32 (v / 2 ^ 32))])) ∧
  (∀ (s : State) (q off v : Nat) (p : Part), q < 8 → s.part? q = some p →
    (∀ m, plainMask off = some m → v < 2 ^ 32 → ∃ s', exec (.registerWrite q off v) s = .next s' ∧ s'.strands = s.strands ∧
      wroteCsr s s' q [(off, BitVec.ofNat 32 (v &&& m))]) ∧
    (∀ m lo, plainMask64 off = some m → lo < 2 ^ 32 → v < 2 ^ 32 → ∃ s1 s', exec (.registerWrite q off lo) s = .next s1 ∧ wroteCsr s s1 q [] ∧
      exec (.registerWrite q (off + 4) v) s1 = .next s' ∧
      wroteCsr s s' q [(off, BitVec.ofNat 32 ((v * 2 ^ 32 + lo) &&& m)), (off + 4, BitVec.ofNat 32 (((v * 2 ^ 32 + lo) &&& m) / 2 ^ 32))]))
end

/-! ### Power and the learner -/

section
namespace Sys2Proof.Rules
open Sys2Proof Sys2Proof.Machine

/-- The clusters of partition p that stand on the high rail, or change to it (R273, R274). -/
def highRail (s : State) (p : Part) : List Nat :=
  (partClusters p.cfg).filter (fun c => match (s.clu c).change with | some x => x.1 | none => (s.clu c).hi)

/-- Cluster c belongs to partition q and to no other (R292, R293). -/
def ownedBy (s : State) (q c : Nat) : Prop := ∀ q' p', s.part? q' = some p' → (ownsClu p'.cfg c = true ↔ q' = q)

/-- The range of a knob (R260): weight, maxstr and bwshare, l2ways, hirail, slidelo and slidehi. -/
def knobRange (c : PartRec) (kid : Nat) : Int × Int :=
  if kid < 64 then (if kid % 4 = 2 then (0, 12) else (1, 64)) else if kid = 64 then (0, nclu c) else (0, 256)

/-- Knob kid after action x: every delta that names it, added to the value in effect, then clamped to its range (R261, R262). -/
def actedKnob (p : Part) (x kid : Nat) : Nat :=
  let pairOf := fun j => p.rd64 (0x4100 + 8 * x) / 2 ^ (16 * j)
  let d : Int := ((List.range 4).map (fun j => if pairOf j % 2 ^ 8 = kid then sextI (pairOf j / 2 ^ 8) 8 else 0)).sum
  let v := ((p.rd (0x4880 + 4 * kid)).toNat : Int) + d
  (if v < (knobRange p.cfg kid).1 then (knobRange p.cfg kid).1 else if (knobRange p.cfg kid).2 < v then (knobRange p.cfg kid).2 else v).toNat

/-- The next σ of R276, from the bandwidth use and the stall of the interval, in units of 2^-16. -/
def nextSigma (sigma lo hi bwu stall : Nat) : Nat :=
  let x := if 0xE000 < bwu ∧ 0x8000 < stall then max lo (sigma - 16) else if bwu < 0x8000 then min hi (sigma + 16) else sigma
  min (max x lo) hi

/-- What the control interval that ends in s has used in partition q: bandwidth use and stall (R258, R276). -/
def usedIn (s : State) (q : Nat) (p : Part) : Nat × Nat :=
  (bwuOf p.cfg p.utilB (s.utilOf q p) 2000, stallOf p.utilB (s.utilOf q p))

/-- Energy that is carried to the next interval, and the energy that an interval measured, over all sources (R279, R280). -/
def carried (s : State) : Nat := (s.houseRem.map (·.2)).sum + (s.parts.map (fun e => (e.2.rem.map (·.2)).sum)).sum
def measuredEnergy (m : IntervalIn) : Nat := (m.cluE.map (·.2)).sum + (m.railE.map (fun x => x.2.2)).sum

/-- The remainders of s stand in canonical order. -/
def carriesOrdered (s : State) : Prop := AMap.sortedFrom 0 s.houseRem = true ∧ ∀ e ∈ s.parts, AMap.sortedFrom 0 e.2.rem = true

/-- No access of context c of partition q is in flight: neither of a strand, nor of a queue's COPY (R281, R284). -/
def drainedCtx (s : State) (q c : Nat) : Prop :=
  (∀ e ∈ s.strands, e.2.part = q → e.2.ctx = c → e.2.ops = []) ∧
    ∀ j, j < 8 → s.qctx (8 * q + j) = c → (s.queue (8 * q + j)).copies = []

/-- Energy attributed so far: the house meter and every partition's total (R279). -/
def attributed (s : State) : Nat := s.house + (s.parts.map (fun e => e.2.rd64 0x8100)).sum

/-- The sub-meters of a partition sum to its total, and so do its two shares (R281, R283), as 64-bit counters. -/
def metersAgree (p : Part) : Prop :=
  (((List.range 16).map (fun c => p.rd64 (0x8120 + 8 * c))).sum + p.rd64 0x81A0) % 2 ^ 64 = p.rd64 0x8100 ∧
    (p.rd64 0x8108 + p.rd64 0x8110) % 2 ^ 64 = p.rd64 0x8100

/-- An idle cluster one of whose strands is ready (R275). -/
def waiting (s : State) (c : Nat) : Bool :=
  !(s.clu c).active && s.strands.any (fun e => decide (e.1 < ccBase) && e.2.core / 2 == c && e.2.ready)

/-- The waiting clusters of a partition in the limiter's order: ascending from after its pointer, wrapping round (R275). -/
def wakeOrder (s : State) (p : Part) : List Nat :=
  ((partClusters p.cfg).filter (fun c => decide (p.slewPtr < c)) ++ (partClusters p.cfg).filter (fun c => decide (c ≤ p.slewPtr))).filter (waiting s)

/-- A boundary of the learner that no decision answers any more: a decision, or the write of LCFG2 that moved the boundaries, lies at
it or after it (R265). -/
def pastBoundary (p : Part) (b : Nat) : Prop := b ≤ p.reAnchor ∨ ∃ d ∈ p.lastDec, b ≤ d

/-- Decision boundary b of the learner is due at time now: the first that has not been answered (R265). -/
def dueDecision (p : Part) (now b : Nat) : Prop :=
  (p.rd 0x4000).getLsbD 0 = true ∧ 0 < p.interval ∧ (∃ n, 0 < n ∧ b = p.anchor + n * p.interval) ∧ b ≤ now ∧ ¬ pastBoundary p b ∧
    ∀ n, 0 < n → p.anchor + n * p.interval < b → pastBoundary p (p.anchor + n * p.interval)

/-- The sensors of partition q latched, before a decision; m are those that the model leaves free (R258, R259, log 61). -/
def latchedPart (s : State) (q : Nat) (p : Part) (m : List (Nat × Nat)) : Part := latchAll p (s.sensed q p m)

/-- The new value of Q(s, a) from q, the reward and m, the largest Q of the new state (R265). -/
def newQ (q r m : Int) (g k : Nat) : Int :=
  let v := q + (r + m - m / 2 ^ g - q + 2 ^ (k - 1)) / 2 ^ k
  if v < -32768 then -32768 else if 32767 < v then 32767 else v

/-- The fields of a write of LCFG lie in their ranges (R269). -/
def lcfgFits (v : Nat) : Prop :=
  1 ≤ fld v 4 5 ∧ fld v 4 5 ≤ 16 ∧ fld v 9 4 ≤ 8 ∧ fld v 13 3 ≤ 4 ∧ fld v 16 6 ≤ 32 ∧ 1 ≤ fld v 22 4 ∧ 1 ≤ fld v 26 4

/-- A refused write: CFGERR is set and the register keeps its value (R269). -/
def refusedWrite (s s' : State) (q off : Nat) : Prop := (s'.csr q 0x4010).getLsbD 21 = true ∧ s'.csr q off = s.csr q off

end Sys2Proof.Rules

open Sys2Proof Sys2Proof.Machine Sys2Proof.Rules

/-- At a control boundary the action's knob values and then the software's take effect, the slide moves σ, and each cluster of a partition is told
its rail: at most hirail of them the high one, each with a resident strand. That slidelo is lowered to slidehi after software writes
too, and so never exceeds it, is the model's reading (log 19). -/
def Sys2Proof.Rules.ControlBoundaryMovesKnobsSlideAndRails : Prop :=
  ∀ (s : State) (m : IntervalIn), AMap.sortedFrom 0 s.parts = true → (∀ q p, s.part? q = some p → ∀ e ∈ p.knobSw, e.1 ≤ 66) →
    ∃ s', exec (.controlBoundary m) s = .next s' ∧ s'.bound = s.bound + 2000 ∧ s'.time = max s.time (s.bound + 2000) ∧
      s'.strands = s.strands ∧ s'.bolts = s.bolts ∧ s'.cores = s.cores ∧ s.sameMemory s' ∧
      ∀ q p, s.part? q = some p → ∃ p', s'.part? q = some p' ∧
        p'.knobSw = [] ∧ p'.knobAct = none ∧
        (∀ kid v, AMap.look p.knobSw kid = some v → (p.knobSw.map (·.1)).Nodup → v ≤ 256 →
          p'.rd (0x4880 + 4 * kid) = BitVec.ofNat 32 (if kid = 65 then min v (p'.rd 0x4988).toNat else v)) ∧
        (∀ kid, kid ≤ 66 → AMap.look p.knobSw kid = none → (p.knobAct = none ∨ p.knobAct = some 0) → kid ≠ 65 →
          p'.rd (0x4880 + 4 * kid) = p.rd (0x4880 + 4 * kid)) ∧
        (∀ kid x, kid ≤ 66 → AMap.look p.knobSw kid = none → p.knobAct = some x → x ≠ 0 →
          p'.rd (0x4880 + 4 * kid) = BitVec.ofNat 32 (if kid = 65 then min (min (actedKnob p x 65) (actedKnob p x 66)) (p'.rd 0x4988).toNat else actedKnob p x kid)) ∧
        (p'.rd 0x4984).toNat ≤ (p'.rd 0x4988).toNat ∧
        p'.rd 0x8004 = BitVec.ofNat 32 (nextSigma (p.rd 0x8004).toNat (p'.rd 0x4984).toNat (p'.rd 0x4988).toNat
          (usedIn s q p).1 (usedIn s q p).2) ∧
        ((∀ c ∈ partClusters p.cfg, ownedBy s q c) →
          (highRail s' p').length ≤ (p'.rd 0x4980).toNat ∧
          (∀ c ∈ highRail s' p', ∃ e ∈ s.strands, e.2.core / 2 = c) ∧
          (∀ c ∈ partClusters p.cfg, (s'.clu c).hi = (s.clu c).hi ∧
            (∀ x ∈ (s'.clu c).change, x.1 = !(s.clu c).hi ∧ x.2 ≤ s'.time + 20)))

/-- The energy of an interval is attributed once: where no sensor has failed, the meters and what they carry to the next interval rise
together by the energy that the interval measured; the package total rises by what the meters rise by; a partition's sub-meters and
shares go on summing to its total. Where remainders and unowned energy go is the model's reading (log 33). -/
def Obligations.EnergyIsAttributedOnceAndAddsUp : Prop :=
  ∀ (s s' : State) (m : IntervalIn), AMap.sortedFrom 0 s.parts = true → (∀ q p, s.part? q = some p → ∀ e ∈ p.knobSw, e.1 ≤ 66) →
    exec (.controlBoundary m) s = .next s' →
    s'.pkg = s.pkg + (attributed s' - attributed s) ∧ s.house ≤ s'.house ∧
    ((∀ e ∈ s.parts, e.2.failed = []) → carriesOrdered s → attributed s + carried s + measuredEnergy m < 2 ^ 64 →
      attributed s' + carried s' = attributed s + carried s + measuredEnergy m) ∧
    (∀ q p, s.part? q = some p → metersAgree p → ∃ p', s'.part? q = some p' ∧ metersAgree p')

/-- A rail change completes on the rail it was for; a slew step moves time to the next multiple of 20 ns and wakes the
first SLEW waiting clusters of the limiter's order, and no other. That an event of a partition is one step of 20 ns is
the model's reading (log 48). -/
def Sys2Proof.Rules.RailChangesCompleteAndSlewStepsWakeInOrder : Prop :=
  (∀ (s : State) (c : Nat), ∃ s', exec (.railChange c) s = .next s' ∧
    (∀ x, (s.clu c).change = some x → s'.clu c = { s.clu c with hi := x.1, change := none }) ∧
    ((s.clu c).change = none → s' = s) ∧ (∀ d, d ≠ c → s'.clu d = s.clu d) ∧ s'.strands = s.strands ∧ s'.mem = s.mem) ∧
  (∀ (s : State) (q : Nat) (p : Part), s.part? q = some p →
    let n := max 1 (fld p.pwr.1.toNat 16 4)
    ∃ s' p', exec (.slewStep q) s = .next s' ∧ s'.time = (s.time / 20 + 1) * 20 ∧
      (∀ c, s'.clu c = if c ∈ (wakeOrder s p).take n then { s.clu c with active := true } else s.clu c) ∧
      s'.part? q = some p' ∧ { p' with slewPtr := p.slewPtr } = p ∧ p'.slewPtr = ((wakeOrder s p).take n).getLastD p.slewPtr ∧
      s'.strands = s.strands ∧ s'.mem = s.mem)

/-- A decision that is due latches the sensors, updates Q once, steps the LFSR, and applies at the next control boundary an
action that breaches no envelope row, or hold with INFEAS set. -/
def Sys2Proof.Rules.DecisionsLatchUpdateAndStayInTheEnvelope : Prop :=
  ∀ (s : State) (q : Nat) (p : Part) (m : List (Nat × Nat)), s.part? q = some p →
    ((∀ b, ¬ dueDecision p s.time b) → ∃ s', exec (.decision q m) s = .next s' ∧ s'.part? q = some p) ∧
    (∀ b, dueDecision p s.time b → ∃ s' p', exec (.decision q m) s = .next s' ∧ s'.part? q = some p' ∧ p'.lastDec = some b ∧
      (∀ i, i < 144 → p'.rd (0x4600 + 4 * i) = BitVec.ofNat 32 (latch (s.sensed q p m) i)) ∧
      p'.rd 0x401C = p.rd 0x401C + 1#32 ∧ p'.rd 0x400C = Strand.lfsrStep (p.rd 0x400C) ∧
      p'.prevS = stateOf (latchedPart s q p m) ∧ p'.havePrev = true ∧ p'.knobAct = some p'.prevA ∧
      p'.rd 0x4014 = BitVec.ofInt 32 (rsumOf (latchedPart s q p m)) ∧
      (∀ kid, kid ≤ 66 → p'.rd (0x4880 + 4 * kid) = p.rd (0x4880 + 4 * kid)) ∧
      (breach p' p'.prevA = none ∨ p'.prevA = 0 ∧ (p'.rd 0x4010).getLsbD 20 = true) ∧
      (∀ mx, p.havePrev = true → (p.rd 0x4000).getLsbD 1 = false → p.prevS < 256 → p.prevA < 16 → 0 < p.nact → p.nact ≤ 16 →
        (∃ a, a < p.nact ∧ p.q p'.prevS a = mx) → (∀ a, a < p.nact → p.q p'.prevS a ≤ mx) →
        p'.q p.prevS p.prevA = newQ (p.q p.prevS p.prevA) (rewardOf (rsumOf (latchedPart s q p m))) mx p.gshift p.kshift) ∧
      (∀ x a, x < 256 → a < 16 → p.prevS < 256 → p.prevA < 16 →
        ((x, a) ≠ (p.prevS, p.prevA) ∨ p.havePrev = false ∨ (p.rd 0x4000).getLsbD 1 = true) → p'.q x a = p.q x a) ∧
      s'.mem = s.mem ∧ s'.strands = s.strands)

/-- LCFG, LCFG2 and the knobs store what R260 and R269 let them, clamped to their ranges (R261), or refuse the write with CFGERR; writing
EN = 1 starts the learner at this moment, a new interval takes effect at a boundary after the write, and a knob's value waits for the
control boundary. A decision whose boundary has been reached is made before the write takes effect: that boundaries are served late, in
order, is the model's reading (log 32). -/
def Sys2Proof.Rules.LearnerRegisterWritesStoreOrRefuse : Prop :=
  (∀ (s s1 : State) (q b : Nat) (p : Part) (i : Instr), s.part? q = some p → dueDecision p s.time b → s.time < b + p.interval →
    exec (.decision q (Config.sensed q s.time)) s = .next s1 →
    (∃ v, i = .lcfgWrite q v ∨ i = .lcfg2Write q v ∨ ∃ kid, i = .knobWrite q kid v ∧ kid ≤ 66) → exec i s = exec i s1) ∧
  ∀ (s : State) (q : Nat) (p : Part), s.part? q = some p → (∀ b, ¬ dueDecision p s.time b) →
    (∀ v, ∃ s' p', exec (.lcfgWrite q v) s = .next s' ∧ s'.part? q = some p' ∧
      let w := BitVec.ofNat 32 v &&& 0x3FFFFFF7#32
      let starts := p'.anchor = s.time ∧ p'.havePrev = false ∧ p'.lastDec = none
      ((p.rd 0x4000).getLsbD 0 = false → lcfgFits v → p'.rd 0x4000 = w ∧ (w.getLsbD 0 = true → starts)) ∧
      ((p.rd 0x4000).getLsbD 0 = false → ¬ lcfgFits v → refusedWrite s s' q 0x4000) ∧
      ((p.rd 0x4000).getLsbD 0 = true → w ||| 1#32 = p.rd 0x4000 → p'.rd 0x4000 = w ∧ (w.getLsbD 0 = true → starts)) ∧
      ((p.rd 0x4000).getLsbD 0 = true → w ||| 1#32 ≠ p.rd 0x4000 → refusedWrite s s' q 0x4000)) ∧
    (∀ v, ∃ s' p', exec (.lcfg2Write q v) s = .next s' ∧ s'.part? q = some p' ∧
      ((fld v 16 16 < 50 ∨ fld (p.rd 0x4000).toNat 4 5 ≤ fld v 8 4) → refusedWrite s s' q 0x4004) ∧
      (50 ≤ fld v 16 16 → fld v 8 4 < fld (p.rd 0x4000).toNat 4 5 → p'.rd 0x4004 = BitVec.ofNat 32 v ∧
        (∀ d, (p.rd 0x4000).getLsbD 0 = true → fld v 16 16 ≠ fld (p.rd 0x4004).toNat 16 16 → p.lastDec = some d → p'.anchor = d) ∧
        ((p.rd 0x4000).getLsbD 0 = true → fld v 16 16 ≠ fld (p.rd 0x4004).toNat 16 16 → ∀ now b, dueDecision p' now b → s.time < b) ∧
        ((p.rd 0x4000).getLsbD 0 = false ∨ fld v 16 16 = fld (p.rd 0x4004).toNat 16 16 ∨ p.lastDec = none → p'.anchor = p.anchor))) ∧
    (∀ kid v, kid ≤ 66 → v < 2 ^ 32 → ∃ s' p' x, exec (.knobWrite q kid v) s = .next s' ∧ s'.part? q = some p' ∧
      AMap.look p'.knobSw kid = some x ∧ p'.csr = p.csr ∧
      (kid < 64 → kid % 4 ≠ 2 → 1 ≤ x ∧ x ≤ 64 ∧ (1 ≤ v → v ≤ 64 → x = v)) ∧
      (kid < 64 → kid % 4 = 2 → x = min v 12) ∧ (kid = 64 → x = min v (nclu p.cfg)) ∧ (64 < kid → x = min v 256))
end

/-! ### Hallmarks, anchors and boots -/

section
namespace Sys2Proof.Rules
open Sys2Proof Sys2Proof.Machine

/-- HMPER in ns, HMLOG2 and HMBASE (R284). -/
def hallmarkEvery (p : Part) : Nat := max 100 (min 60000 (fld (p.rd 0x8018).toNat 0 16)) * 1000000
def hallmarkSlots (p : Part) : Nat := 2 ^ max 1 (min 12 (fld (p.rd 0x8018).toNat 16 4))
def hallmarkAddr (p : Part) : Nat := p.rd64 0x8010 / 2 ^ 12 % 2 ^ 40 * 2 ^ 12 + 4096 * (p.hmSeq % hallmarkSlots p)

/-- An n-byte field of a hallmark entry at base. -/
def fieldIs (s : State) (base off n v : Nat) : Prop := s.homeRead (base + off) n = v % 256 ^ n

/-- The entry at base says what R285 lists, for partition q of s, with its kind and context. -/
def entryHolds (s s' : State) (q : Nat) (p : Part) (base kind ctx : Nat) : Prop :=
  fieldIs s' base 0 4 (1 + kind * 2 ^ 8 + q * 2 ^ 16 + ctx * 2 ^ 19 + (if p.degr then 2 ^ 23 else 0)) ∧
    fieldIs s' base 8 8 p.hmSeq ∧ fieldIs s' base 0x10 8 (if kind = 2 then 0 else p.hmEnd) ∧ fieldIs s' base 0x18 8 s.bound ∧
    fieldIs s' base 0x20 4 s.boot ∧ fieldIs s' base 0x28 8 (p.rd64 0x8100) ∧ fieldIs s' base 0x30 8 (p.rd64 0x8108) ∧
    fieldIs s' base 0x38 8 (p.rd64 0x8110) ∧ (∀ c, c < 16 → fieldIs s' base (0x40 + 8 * c) 8 (p.rd64 (0x8120 + 8 * c))) ∧
    fieldIs s' base 0xC0 8 (p.rd64 0x81A0) ∧ fieldIs s' base 0xC8 8 s.house ∧
    (∀ g, p.hmFirst = some g → fieldIs s' base 0xD0 8 g.1 ∧ fieldIs s' base 0xD8 8 g.2)

/-- Partition q of s' issued a hallmark at the last boundary of s: SEQ rose by one, TSTART of the next is this boundary, and the
ring, where HMEN is 1, holds the entry and nothing else in memory changed (R284, R285). -/
def hallmarked (s s' : State) (q : Nat) (p : Part) (kind ctx : Nat) : Prop :=
  let kind := if p.hmFirst.isSome then 2 else kind
  ∃ p', s'.part? q = some p' ∧ p'.hmSeq = p.hmSeq + 1 ∧ p'.hmEnd = s.bound ∧ p'.hmFirst = none ∧
    (∀ off, 0x8100 ≤ off → off < 0x81A8 → p'.rd off = p.rd off) ∧
    ((p.rd 0x8018).getLsbD 20 = true →
      entryHolds s s' q p (hallmarkAddr p) kind (if kind = 1 then ctx else 0) ∧ p'.rd 0x801C = p.rd 0x801C + 1#32 ∧
      s.sameBut s' (hallmarkAddr p) 4096) ∧
    ((p.rd 0x8018).getLsbD 20 = false → p'.rd 0x801C = p.rd 0x801C ∧ s.sameMemory s')

/-- The anchor of a slot whose CRC-32 matches (R362). -/
def validSlot (a : Option Anchor) : Option Anchor := a.filter (·.crc)

/-- The valid anchor with the higher SEQ, the first slot where they agree (R362). -/
def newest (s : State) : Option Anchor :=
  match validSlot s.flash0, validSlot s.flash1 with
  | none, b => b
  | some a, none => some a
  | some a, some b => if a.seq < b.seq then some b else some a

/-- The valid slots of module flash hold anchors of different positive SEQ (R362). -/
def slotsDiffer (s : State) : Prop :=
  (∀ a ∈ validSlot s.flash0, 0 < a.seq) ∧ (∀ a ∈ validSlot s.flash1, 0 < a.seq) ∧
    (∀ a ∈ validSlot s.flash0, ∀ b ∈ validSlot s.flash1, a.seq ≠ b.seq)

/-- Partition q came back at reset, but for the always-on island: meters, SEQ, the last hallmark's time, the remainders
(R286, R367). -/
def islandReset (s' : State) (q : Nat) (p : Part) : Prop :=
  ∃ p', s'.part? q = some p' ∧ p'.cfg = p.cfg ∧ p'.hmSeq = p.hmSeq ∧ p'.hmEnd = p.hmEnd ∧ p'.rem = p.rem ∧ p'.queues = [] ∧
    p'.failed = p.failed ∧ p'.saved = p.saved.map (fun v => { v with out := false }) ∧
    (∀ off, 0x8100 ≤ off → off < 0x81A8 → p'.rd off = p.rd off) ∧
    (∀ off, (off < 0x8100 ∨ 0x81A8 ≤ off) → off ≠ 0x8028 → p'.rd off = csrReset p.cfg off)

/-- Nothing runs and nothing is resident. -/
def atRest (s' : State) : Prop := s'.strands = [] ∧ s'.weaves = [] ∧ s'.bolts = [] ∧ s'.cores = [] ∧ s'.clus = []

end Sys2Proof.Rules

open Sys2Proof Sys2Proof.Machine Sys2Proof.Rules

/-- Hallmarks are issued when they are due and hold the format, kind, SEQ, times, boot count and meters that R285
lists: the periodic one at the first boundary HMPER after the last, the context-end one after GO = 1 and a control boundary that finds
its context's accesses drained. -/
def Sys2Proof.Rules.HallmarksAreIssuedWhenDue : Prop :=
  ∀ (s : State) (q : Nat) (p : Part), s.part? q = some p → q < 8 → (∀ c, (s.clu c).comb = []) → reachable s (hallmarkAddr p) → hallmarkWaits s p = false →
    (s.bound < p.hmEnd + hallmarkEvery p → exec (.periodicHallmark q) s = .next s) ∧
    (p.hmEnd + hallmarkEvery p ≤ s.bound → ∃ s', exec (.periodicHallmark q) s = .next s' ∧ hallmarked s s' q p 0 0) ∧
    (∀ v, ∃ s' p', exec (.contextEndRequest q v) s = .next s' ∧ s'.part? q = some p' ∧ { p' with ctxEnd := p.ctxEnd } = p ∧
      (v.testBit 4 = false → s' = s) ∧ (v.testBit 4 = true → v % 16 ∈ p'.ctxEnd ∨ v % 16 + 16 ∈ p'.ctxEnd)) ∧
    (∀ c m, c < 16 → c ∈ p.ctxEnd → AMap.sortedFrom 0 s.parts = true → ∃ s' p', exec (.controlBoundary m) s = .next s' ∧
      s'.part? q = some p' ∧ (drainedCtx s q c → c + 16 ∈ p'.ctxEnd) ∧ (¬ drainedCtx s q c → c ∈ p'.ctxEnd) ∧
      ∀ d, d + 16 ∈ p.ctxEnd → d + 16 ∈ p'.ctxEnd) ∧
    (∀ c, c < 16 → c + 16 ∉ p.ctxEnd → exec (.contextEndHallmark q c) s = .next s) ∧
    (∀ c, c < 16 → c + 16 ∈ p.ctxEnd → ∃ s' p', exec (.contextEndHallmark q c) s = .next s' ∧ hallmarked s s' q p 1 c ∧
      s'.part? q = some p' ∧ c + 16 ∉ p'.ctxEnd)

/-- An anchor goes to the slot that does not hold the newest one, and holds every meter, SEQ and the last hallmark's time, those of
partitions that the present record lacks among them; the next is due 10 s later; a write that fails sets ANCHOR, leaves the newest
anchor, and is tried again 1 s later. That it leaves the other slot as it was, or without a valid CRC-32, is the model's reading (log
34). -/
def Sys2Proof.Rules.AnchorsHoldEveryMeterAndAlternate : Prop :=
  ∀ (s : State) (ok : Nat), slotsDiffer s →
    (ok % 2 = 1 → ∃ s' a, exec (.anchorWrite ok) s = .next s' ∧ slotsDiffer s' ∧ newest s' = some a ∧
      (∀ b, newest s = some b → b.seq < a.seq ∧ (s'.flash0 = some b ∨ s'.flash1 = some b)) ∧ a.crc = true ∧ a.house = s.house ∧ a.pkg = s.pkg ∧
      a.parts.map (·.part) = s.parts.map (·.1) ++ s.lost.map (·.part) ∧ (∀ x ∈ s.lost, x ∈ a.parts) ∧ s'.anchorDue = s.time + 10 ^ 10 ∧
      (∀ e ∈ s.parts, ∃ x ∈ a.parts, x.part = e.1 ∧ x.seq = e.2.hmSeq ∧ x.tend = e.2.hmEnd ∧ x.rem = e.2.rem ∧
        (∀ off, 0x8100 ≤ off → off < 0x81A8 → AMap.look x.meters off = AMap.look e.2.csr off)) ∧
      s'.parts = s.parts ∧ s'.strands = s.strands ∧ s'.mem = s.mem) ∧
    (ok % 2 = 0 → ∃ s', exec (.anchorWrite ok) s = .next s' ∧ newest s' = newest s ∧
      (ok / 2 % 2 = 0 → s'.flash0 = s.flash0 ∧ s'.flash1 = s.flash1) ∧
      s'.anchorDue = s.time + 10 ^ 9 ∧ (∀ q p, s.part? q = some p → (s'.csr q 0x8028).getLsbD 5 = true) ∧ s'.strands = s.strands ∧ s'.mem = s.mem)

/-- Losing the supply leaves module flash and the boot count alone; an orderly shutdown writes an anchor first; a cold
boot restarts device time at 0, raises BOOT, and resumes the meters and every SEQ from the newest anchor. What BOOT
counts is the model's reading (log 34); a layout that R292 to R294 do not allow gives no partition, and a partition that a valid anchor
does not name starts with nothing before it (log 13). That memory lists nothing after the supply has gone is logs 6 and 3. -/
def Sys2Proof.Rules.ColdBootsResumeFromTheNewestAnchor : Prop :=
  (∀ (s : State), ∃ s', exec .coldPowerLoss s = .next s' ∧ s'.flash0 = s.flash0 ∧ s'.flash1 = s.flash1 ∧ s'.boot = s.boot ∧
    s'.time = 0 ∧ s'.mem = [] ∧ s'.parts = [] ∧ atRest s') ∧
  (∀ (s : State), ∃ s' s1, exec .orderlyShutdown s = .next s' ∧ exec (.anchorWrite 1) s = .next s1 ∧ s'.flash0 = s1.flash0 ∧
    s'.flash1 = s1.flash1 ∧ s'.boot = s.boot ∧ s'.time = 0 ∧ s'.mem = [] ∧ s'.parts = [] ∧ atRest s') ∧
  (∀ (s : State) (r : BootRec), ∃ s', exec (.coldBoot r) s = .next s' ∧ s'.time = 0 ∧ s'.bound = 0 ∧ s'.mem = [] ∧ atRest s' ∧
    (newest s = none → s'.boot = 1 ∧ s'.house = 0 ∧ s'.pkg = 0) ∧
    (∀ a, newest s = some a → slotsDiffer s → s'.boot = s.boot + 1 ∧ s'.house = a.house ∧ s'.pkg = a.pkg) ∧
    (r.fwSig % 4 ≠ 0 ∨ r.cfgSig % 4 ≠ 0 ∨ layoutOk r.parts = false → s'.parts = []) ∧
    (∀ a, newest s = some a → slotsDiffer s → ∀ x ∈ a.parts, s'.part? x.part = none → x ∈ s'.lost) ∧
    (r.fwSig % 4 = 0 → r.cfgSig % 4 = 0 → layoutOk r.parts = true → s'.calib = r.calib ∧ ∀ c ∈ r.parts, ∃ p, s'.part? c.p = some p ∧ p.cfg = c ∧
      (newest s = none → p.hmSeq = 0 ∧ p.hmFirst = some (2 ^ 64 - 1, 2 ^ 64 - 1) ∧ (∀ off, p.rd off = csrReset c off)) ∧
      (∀ a, newest s = some a → slotsDiffer s → a.parts.find? (fun y => y.part == c.p) = none → p.hmSeq = 0 ∧ p.hmFirst = some (0, 0)) ∧
      (∀ a x, newest s = some a → slotsDiffer s → a.parts.find? (fun y => y.part == c.p) = some x → (x.meters.map (·.1)).Nodup →
        p.hmSeq = x.seq ∧ p.hmFirst = some (x.seq, x.tend) ∧ p.rem = x.rem ∧ (∀ e ∈ x.meters, p.rd e.1 = e.2))))

/-- A warm reset ends everything but the always-on island, memory and device time, and, where no firmware has been accepted, takes the
image that the host has written since; a partition reset, by PRST or by
function p + 1, ends every strand of its partition and resets its registers but for the island's; function 0 resets
nothing. What neither list of R286 and R368 names is kept, by log 43. -/
def Sys2Proof.Rules.ResetsKeepTheAlwaysOnIsland : Prop :=
  (∀ (s : State) (r : BootRec), s.image = some r → (s.win 0x10).getLsbD 0 = false → r.fwSig % 4 = 0 → r.cfgSig % 4 = 0 → layoutOk r.parts = true →
    ∃ s', exec .warmReset s = .next s' ∧ s'.time = s.time ∧ s'.mem = s.mem ∧ s'.boot = s.boot ∧ (s'.win 0x10).getLsbD 0 = true ∧ atRest s' ∧
      ∀ c ∈ r.parts, ∃ p, s'.part? c.p = some p ∧ p.cfg = c) ∧
  (∀ (s : State), (s.image = none ∨ (s.win 0x10).getLsbD 0 = true) → ∃ s', exec .warmReset s = .next s' ∧ s'.time = s.time ∧ s'.mem = s.mem ∧ s'.house = s.house ∧ s'.pkg = s.pkg ∧
    s'.flash0 = s.flash0 ∧ s'.flash1 = s.flash1 ∧ s'.boot = s.boot ∧ s'.lost = s.lost ∧ s'.anchorDue = s.anchorDue ∧ atRest s' ∧ s'.win 0x18 = s.win 0x18 ∧ s'.win 0x1C = s.win 0x1C ∧
    (∀ q p, s.part? q = some p → AMap.sortedFrom 0 p.csr = true → islandReset s' q p)) ∧
  (∀ (s : State) (q : Nat) (p : Part) (i : Instr), q < 8 → s.part? q = some p → i = .prstGo (2 ^ q) ∨ i = .functionLevelReset (q + 1) →
    s.win 0x20 = 0#32 → (∀ c, c < 16 → s.contextReady q c = true) →
    (∀ c, c < 16 → (stopAll (prstBegin s q) q).opsDone q c = true ∧ endWaits (stopAll (prstBegin s q) q) q c 4 = false) → (∀ e ∈ s.strands, e.2.ctx < 16) → AMap.sortedFrom 0 p.csr = true →
    ∃ s', exec i s = .next s' ∧ (s'.win 0x20).getLsbD (8 + q) = false ∧ (∀ e ∈ s'.strands, e.2.part ≠ q ∨ ccBase ≤ e.1) ∧
      (∀ e ∈ s'.strands, ¬ (ccBase + 8 * q ≤ e.1 ∧ e.1 < ccBase + 8 * q + 8)) ∧ islandReset s' q p) ∧
  (∀ (s : State) (fn : Nat), fn = 0 ∨ 8 < fn → exec (.functionLevelReset fn) s = .next s)
end

/-! ### The host link, errors and attributes -/

section
namespace Sys2Proof.Rules
open Sys2Proof Sys2Proof.Machine

/-- A partition's function decodes byte a: it is device memory that a partition owns (R297). -/
def decoded (s : State) (a : Nat) : Prop := physOk a = true ∧ isSys a = false ∧ ∃ e ∈ s.parts, ownsPa e.2.cfg a = true

/-- An agent outside the part can reach n bytes at a: device memory of a partition, the link up, and no serial transaction on its
sectors (R111, R297, R298, R300, R365). -/
def hostReaches (s : State) (a n : Nat) (wr : Bool) : Prop :=
  s.linkUp = true ∧ (∀ i, i < n → decoded s (a + i)) ∧ 0 < n ∧
    s.serialMeets 1000001 a n wr = false ∧ ∀ c, (s.clu c).comb = []

/-- Every strand keeps its registers, masks, place and operations. -/
def strandsKeep (s s' : State) : Prop :=
  ∀ k t, s.strand? k = some t → ∃ t', s'.strand? k = some t' ∧ { t' with tx := t.tx } = t

/-- Partition q of s' has one more non-fatal log entry than in s: its kind and argument (R330, R354). -/
def loggedNf (s s' : State) (q kind arg : Nat) : Prop :=
  let h := (s.csr q 0xE20).toNat % 64
  (s'.csr q (0xC000 + 16 * h)).toNat % 16 = kind ∧ s'.csr64 q (0xC008 + 16 * h) = arg % 2 ^ 64 ∧
    s'.csr q 0xE20 = BitVec.ofNat 32 ((h + 1) % 64) ∧ s'.csr q 0xE24 = s.csr q 0xE24 + 1#32

/-- The value that element x of an access with failed system-space lanes receives (R345, R365). -/
def poisoned (o : Op) (x : Land) : Word :=
  match x.dst with
  | .s _ => 0#32
  | .v _ l => if o.sys.any (fun y => y.1 == l) then 0#32 else x.val

/-- A counter that stops at its top (R348). -/
def countedUp (x : Word) : Word := if x = 0xFFFFFFFF#32 then x else x + 1#32

/-- The words of the 64 bits at pa (R344), and those of them that partition q's L2 holds dirty, so that its copy is the only one. -/
def eccWords (pa : Nat) : List Nat := [pa / 8 * 8, pa / 8 * 8 + 4]
def onlyInL2 (s : State) (q w : Nat) : Prop := ∃ l, AMap.look s.l2.lines (L2.key q (w / 256)) = some l ∧ L2.dirtyWord l (w / 4 % 64) = true

/-- The partition whose counters an error at a level belongs to: the strand's, the weave's, the core's, or the one named (log
44). -/
def eccOwner (s : State) (lvl k q : Nat) : Prop :=
  (lvl ≤ 1 → ∃ t, s.strand? k = some t ∧ t.part = q) ∧ (lvl = 2 → ∃ w, s.weave? k = some w ∧ w.part = q) ∧
    (lvl = 3 ∨ lvl = 4 → s.ownerOf (k / 2) = some q) ∧ (lvl = 5 ∨ lvl = 6 → k = q)

end Sys2Proof.Rules

open Sys2Proof Sys2Proof.Machine Sys2Proof.Rules

/-- Host CXL.mem accesses and peers' UIO requests act at the home: a read changes no byte, a write its bytes alone, an atomic
its word by the operation of R224; while the link is down they wait, and an access of which no function decodes some byte is none. -/
def Sys2Proof.Rules.HostAndPeerAccessesActAtTheHome : Prop :=
  ∀ (s : State) (a n v : Nat),
    (s.linkUp = false → ∀ wr, exec (.hostCxlAccess wr a n v) s = .next s ∧ exec (.peerUio wr a n v) s = .next s) ∧
    (∀ j, j < n → ¬ decoded s (a + j) → ∀ wr, exec (.hostCxlAccess wr a n v) s = .next s ∧ exec (.peerUio wr a n v) s = .next s) ∧
    (∀ i, i = .hostCxlAccess 0 a n v ∨ i = .peerUio 0 a n v → hostReaches s a n false →
      ∃ s', exec i s = .next s' ∧ s.sameMemory s' ∧ strandsKeep s s') ∧
    (∀ i, i = .hostCxlAccess 1 a n v ∨ i = .peerUio 1 a n v → hostReaches s a n true →
      ∃ s', exec i s = .next s' ∧ s'.homeRead a n = v % 256 ^ n ∧ s.sameBut s' a n ∧ strandsKeep s s') ∧
    (∀ opc, opc < 16 → hostReaches s a n true → (∀ w, w < 2 → s.isPoison (a + 4 * w) = false) →
      let b := if opc < 13 then 4 else 8
      ∃ s', exec (.peerUio (2 + opc) a n v) s = .next s' ∧ s.sameBut s' a b ∧ strandsKeep s s' ∧
        s'.homeRead a b = atomicNew opc (s.homeRead a b) (v % 256 ^ b) (v / 256 ^ b % 256 ^ b) % 256 ^ b)

/-- The link goes down, with a kind-7 entry of LCAUSE 1 in every partition, and comes up; a system-space access whose
completion is late or poisoned lands 0 in the lanes concerned and holds ECC_UNCORR with SUB 7. The partitions that log
a link event are the model's reading (log 38). -/
def Sys2Proof.Rules.LinkFailuresCompleteAccessesAsPoison : Prop :=
  (∀ (s : State), AMap.sortedFrom 0 s.parts = true →
    (s.linkUp = false → exec .linkDown s = .next s) ∧
    (s.linkUp = true → ∃ s', exec .linkDown s = .next s' ∧ s'.linkUp = false ∧ s'.strands = s.strands ∧ s'.mem = s.mem ∧
      ∀ q p, s.part? q = some p → loggedNf s s' q 7 1) ∧
    exec .linkUp s = .next { s with linkUp := true }) ∧
  (∀ (s : State) (k path cause : Nat) (i : Instr) (t : Strand) (o : Op), s.strand? k = some t → t.pend = none →
    (i = .completionTimeout k path ∧ cause = 2 ∨ i = .poisonReceived k path ∧ cause = 3) →
    t.ops.find? (fun y => y.path == pathOf path) = some o → o.err = none →
    (o.sys = [] → exec i s = .next s) ∧
    (∀ x xs p, o.sys = x :: xs → t.tx = none → s.part? t.part = some p → (∀ y ∈ o.lands, y.done = false) →
      (o.lands.map (·.dst)).Nodup → (t.ops.map (·.id)).Nodup →
      ∃ s' t' h, exec i s = .next s' ∧ s'.strand? k = some t' ∧ t'.ops = t.ops.filter (fun y => y.id != o.id) ∧
        (∀ y ∈ o.lands, holds t' y.dst (poisoned o y)) ∧ t'.held = t.held ++ [h] ∧
        h.info.code = 0x15 ∧ h.info.sub = 7 ∧ h.info.arg = x.2 ∧ h.path = o.path ∧ h.flag = o.flag ∧
        t'.hspc = t.hspc ∧ t'.item = t.item ∧ t'.exec = t.exec ∧ loggedNf s s' t.part 7 cause ∧ s.sameMemory s'))

/-- A failed source sets its MSTAT bit until it recovers, marks the next hallmark, and is logged with kind 5; a
corrected error is counted and changes nothing else; an uncorrectable one poisons or drops the register, or the 64 bits, that it meets.
The owner of an error is the model's reading (log 44). -/
def Sys2Proof.Rules.SensorAndMemoryErrorsAreCountedAndMarked : Prop :=
  (∀ (s : State) (q bit idx bad : Nat) (p : Part), s.part? q = some p →
    (3 < bit → exec (.sensorFault q bit idx bad) s = .next s) ∧
    (bit ≤ 3 → ∃ s' p', exec (.sensorFault q bit idx bad) s = .next s' ∧ s'.part? q = some p' ∧
      ((bit, idx) ∈ p'.failed ↔ bad % 2 = 1) ∧ (∀ f, f ≠ (bit, idx) → (f ∈ p'.failed ↔ f ∈ p.failed)) ∧
      (∀ b, b < 4 → ((p'.rd 0x8028).getLsbD b = true ↔ ∃ f ∈ p'.failed, f.1 = b)) ∧
      (p'.degr = true ↔ p.degr = true ∨ bad % 2 = 1) ∧ loggedNf s s' q 5 (bit + idx % 2 ^ 16 * 2 ^ 8) ∧
      s'.strands = s.strands ∧ s'.mem = s.mem)) ∧
  (∀ (s : State) (lvl k a b q : Nat) (p : Part), lvl ≤ 6 → eccOwner s lvl k q → s.part? q = some p →
    (lvl = 3 → (∀ c, (s.clu c).comb = []) ∧ ∀ x, AMap.look (s.core k).l1 (a / 64) = some x → x.coh < 4) →
    (∃ s', exec (.eccError lvl k a b 1) s = .next s' ∧ s'.csr q (0xE40 + 4 * lvl) = countedUp (s.csr q (0xE40 + 4 * lvl)) ∧
      s'.strands = s.strands ∧ s'.weaves = s.weaves ∧ s'.cores = s.cores ∧ s'.poison = s.poison ∧ s.sameMemory s') ∧
    (∃ s', exec (.eccError lvl k a b 0) s = .next s' ∧ s'.csr q (0xE60 + 4 * lvl) = countedUp (s.csr q (0xE60 + 4 * lvl)) ∧ s'.mem = s.mem ∧
      (lvl = 0 → ∃ t', s'.strand? k = some t' ∧ a ∈ t'.bad) ∧
      (lvl = 1 → ∃ t', s'.strand? k = some t' ∧ 512 + 128 * a + b % 128 ∈ t'.bad) ∧
      (lvl = 2 → ∃ w', s'.weave? k = some w' ∧ a / 4 ∈ w'.scrPoison) ∧
      (∀ x, lvl = 3 → AMap.look (s.core k).l1 (a / 64) = some x →
        (x.dirty = 0#16 → AMap.look (s'.core k).l1 (a / 64) = none) ∧
        (x.dirty ≠ 0#16 → x.data.length = 16 → ∃ y, AMap.look (s'.core k).l1 (a / 64) = some y ∧ y.dirty = x.dirty ∧ ∀ w ∈ eccWords a,
          let i := w / 4 % 16
          (x.dirty.getLsbD i = true → y.poison.getLsbD i = true ∧ y.data.getD i 0#32 = x.data.getD i 0#32) ∧
          (x.dirty.getLsbD i = false → y.poison.getLsbD i = s.isPoison w ∧ y.data.getD i 0#32 = BitVec.ofNat 32 (s.homeRead w 4)))) ∧
      (lvl = 4 → AMap.look (s'.core k).cc (a / 16) = none) ∧
      (lvl = 5 → ∀ w ∈ eccWords a, (onlyInL2 s k w → s'.isPoison w = true) ∧ (¬ onlyInL2 s k w → s'.isPoison w = s.isPoison w)) ∧
      (lvl = 6 → ∀ w ∈ eccWords a, (onlyInL2 s k w → s'.isPoison w = s.isPoison w) ∧ (¬ onlyInL2 s k w → s'.isPoison w = true))))

/-- A strand held longer than WDOG microseconds raises TIMEOUT, with the clasp or the batch it waits for, and not before, and waits at
its clasp no more; a
PIN_CLR releases every pin of its context and no other. -/
def Sys2Proof.Rules.TheWatchdogFiresAndPinsAreReleased : Prop :=
  (∀ (s : State) (k : Nat) (t : Strand) (w : Nat), s.strand? k = some t → w = (s.csr t.part 0xE1C).toNat →
    (w = 0 ∨ t.run = .halted ∨ s.time ≤ t.since + 1000 * w ∨ t.pend ≠ none ∨ t.wait = .none ∨ t.wait = .other ∨ t.wait = .fetch →
      exec (.timeout k) s = .next s) ∧
    (0 < w → t.run ≠ .halted → t.since + 1000 * w < s.time → t.pend = none →
      let raised := fun (sub arg : Nat) =>
        exec (.timeout k) s = .next ((s.claspUnwait k).raiseAt k { t with wait := .none, since := s.time } { code := 0x16, sub := sub, arg := arg })
      (∀ h x, t.wait = .clasp h x → raised 1 h) ∧ (t.wait = .grow → raised 1 0) ∧ (t.wait = .token → raised 1 0) ∧
      (∀ x xs, t.wait = .quad → mmasOf t = x :: xs → raised 2 x.batch))) ∧
  (∀ (s : State) (q c : Nat) (p : Part), c < 16 → s.part? q = some p → AMap.sortedFrom 0 s.pins = true →
    ∃ s', exec (.pinClr q c) s = .next s' ∧
      (∀ l, AMap.look s'.pins l = if AMap.look s.pins l = some (16 * q + c) then none else AMap.look s.pins l) ∧
      ((s.csr q (0x604 + 8 * c)).toNat = (s.pins.filter (fun e => e.2 == 16 * q + c)).length → s'.csr q (0x604 + 8 * c) = 0#32) ∧
      s'.strands = s.strands ∧ s'.mem = s.mem)

/-- A write of ATTR_TRANSITION_GO starts a run with the request that the registers hold, or is refused; the run rewrites its
page's leaf, drops its translations, and writes 1 to the signal address. -/
def Obligations.AttributeTransitionsRewriteTheLeafAndSignal : Prop :=
  (∀ (s : State) (q v : Nat) (p : Part), s.part? q = some p → ∃ s' p', exec (.attrGo q v) s = .next s' ∧ s'.part? q = some p' ∧
    s'.strands = s.strands ∧ s'.mem = s.mem ∧
    (∀ r, p.attr = some r → p'.attr = some r ∧ (p'.rd 0x418).getLsbD 3 = true ∧ p'.rd 0x40C = p.rd 0x40C) ∧
    (p.attr = none → v.testBit 31 = false → p'.attr = none ∧ (p'.rd 0x40C).toNat % 2 ^ 14 = v % 2 ^ 14) ∧
    (p.attr = none → v.testBit 31 = true →
      let base := fld (p.rd64 0x400) 12 36
      let len := (p.rd 0x408).toNat
      let refuses := len ≠ 0 ∧ (splitsLarge s q (fld v 0 4) base len = true ∨ fld v 4 2 = 2 ∧ ownsClu p.cfg (fld v 6 8 / 2) = false)
      (refuses → p'.attr = none ∧ (p'.rd 0x40C).getLsbD 30 = true ∧ (p'.rd 0x40C).getLsbD 31 = false) ∧
      (¬ refuses → (p'.rd 0x40C).getLsbD 30 = false ∧ (p'.rd 0x40C).getLsbD 31 = true ∧
        p'.attr = some { base := base, len := len, ctx := fld v 0 4, attr := fld v 4 2, owner := fld v 6 8, sig := p.rd64 0x410 }))) ∧
  (∀ (s : State) (q : Nat) (p : Part), s.part? q = some p → p.attr = none → exec (.attrSignal q) s = .next s) ∧
  (∀ (s : State) (q : Nat) (p : Part) (r : AttrRun) (lv ea v : Nat) (e : Tlb), s.part? q = some p → p.attr = some r → r.len = 1 →
    r.attr < 4 → r.owner < 256 → (∀ c, (s.core c).l1 = [] ∧ (s.core c).stash = [] ∧ (s.clu c).comb = []) → noPeers s q →
    attrWaits s q r = false → pageLeaf s q r.ctx r.base = some (lv, ea, v) → isSys ea = false →
    r.sig % 4 = 0 → r.sig / 4096 % 2 ^ 36 ≠ r.base → s.xlate q r.ctx (257 + 2 * q) r.sig true .write = .ok e → e.coh = 0 → e.dirty = true →
    AMap.look (s.core (257 + 2 * q)).tlb (State.tlbKey q r.ctx r.sig) = some e → s.serialHolds 1000000 (State.physOf e r.sig) true = false →
    isSys (State.physOf e r.sig) = false → (State.physOf e r.sig + 4 ≤ ea ∨ ea + 8 ≤ State.physOf e r.sig) →
    ∃ s' p', exec (.attrSignal q) s = .next s' ∧ s'.part? q = some p' ∧ p'.attr = none ∧ (p'.rd 0x40C).getLsbD 31 = false ∧
      (p'.rd 0x418).getLsbD 2 = false ∧
      (r.attr = 3 → s'.homeRead ea 8 = v) ∧
      (r.attr ≠ 3 → fld (s'.homeRead ea 8) 4 2 = r.attr ∧ fld (s'.homeRead ea 8) 0 4 = fld v 0 4 ∧
        fld (s'.homeRead ea 8) 6 46 = fld v 6 46 ∧ fld (s'.homeRead ea 8) 52 8 = (if r.attr = 2 then r.owner else fld v 52 8)) ∧
      s'.homeRead (State.physOf e r.sig) 4 = 1 ∧
      (∀ a, ¬ (ea ≤ a ∧ a < ea + 8) → ¬ (State.physOf e r.sig ≤ a ∧ a < State.physOf e r.sig + 4) → s'.homeByte a = s.homeByte a) ∧
      (∀ c, AMap.look (s'.core c).tlb (State.tlbKey q r.ctx 0 + r.base) = none))
end

/-! ### Contexts -/

section
namespace Sys2Proof.Rules
open Sys2Proof Sys2Proof.Machine

/-- SAVE, RESTORE and KILL all read 0 (R332). -/
def noRequest (p : Part) : Prop := (p.rd 0xE00).getLsbD 4 = false ∧ (p.rd 0xE00).getLsbD 5 = false ∧ (p.rd 0xE00).getLsbD 6 = false

/-- The request of context c under bit b stands in 0xE00, and no strand, weave or byte has changed (R332, R333 step 1). -/
def requested (s s' : State) (q c b : Nat) : Prop :=
  s'.csr q 0xE00 = BitVec.ofNat 32 (c + 2 ^ b) ∧ s'.strands = s.strands ∧ s'.weaves = s.weaves ∧ s'.bolts = s.bolts ∧ s'.mem = s.mem

/-- Context c of partition q is gone from the machine: no strand, weave or bolt of it is left (R333 step 5, R336). -/
def emptied (s' : State) (q c : Nat) : Prop :=
  (∀ e ∈ s'.strands, ¬ (e.1 < ccBase ∧ e.2.part = q ∧ e.2.ctx = c)) ∧ (∀ e ∈ s'.weaves, ¬ (e.2.part = q ∧ e.2.ctx = c)) ∧
    (∀ e ∈ s'.bolts, ¬ (e.2.part = q ∧ e.2.ctx = c))

/-- A strand that stands at a stop with nothing in flight (R333 steps 2 and 3 change nothing of it). -/
def atStop (t : Strand) : Prop := t.ops = [] ∧ t.tx = none ∧ t.edge = false ∧ t.leave = .no ∧ t.mx.quad = 0 ∧ t.mx.q = []

/-- The state in which the request of bit b, for context v mod 16, has stopped the context (R332, R333 steps 1 to 3). -/
def stoppedFor (s : State) (q v b : Nat) : State := (s.updPart q (fun p => askContext p b v true)).stopContext q (v % 16)

/-- SAVEBASE (R332). -/
def saveAddr (p : Part) : Nat := p.rd64 0xE08 / 2 ^ 12 % 2 ^ 40 * 2 ^ 12

end Sys2Proof.Rules

open Sys2Proof Sys2Proof.Machine Sys2Proof.Rules

/-- The strand record at pa holds strand t at its stop: its frame words but the event's number, s32 to s383, and its vector registers,
an element that cannot be corrected as 0 (R324, R334, R346). -/
def recordHolds (s s' : State) (t : Strand) (pa : Nat) : Prop :=
  (∀ i w, i < 512 → i ≠ 5 → frameWord s t { code := 0 } 0#64 0 false i = some w → s'.homeRead (pa + 4 * i) 4 = w.toNat) ∧
    (∀ r, 32 ≤ r → r < 384 → s'.homeRead (pa + 0x800 + 4 * (r - 32)) 4 = if r ∈ t.bad then 0 else (t.getS r).toNat) ∧
    (∀ r l, r < t.budget → l < 128 → s'.homeRead (pa + 4096 + 512 * r + 4 * l) 4 =
      if 512 + 128 * r + l ∈ t.bad then 0 else (Vec.lane (t.getV r) l).toNat)

/-- SAVE stops the context's queues at once, and when the context can stop writes its area, each strand's record in it with the frame
and the registers as they stood, and leaves nothing of it resident. The order of the records, and what their layout does not say and is
kept beside memory, are the model's (log 41). -/
def Sys2Proof.Rules.SaveWritesTheContextAndEmptiesIt : Prop :=
  ∀ (s : State) (q v : Nat) (p : Part), s.part? q = some p → noRequest p →
    (s.contextReady q (v % 16) = false ∨ (stoppedFor s q v 4).opsDone q (v % 16) = false ∨ saveWaits (stoppedFor s q v 4) q (v % 16) = true →
      ∃ s' p', exec (.save q v) s = .next s' ∧ requested s s' q (v % 16) 4 ∧ s'.part? q = some p' ∧ v % 16 ∈ p'.noAdmit) ∧
    (s.contextReady q (v % 16) = true → (∀ i, i < State.areaLen ((stoppedFor s q v 4).savedOf q (v % 16)) → isSys (saveAddr p + i) = false) →
      (stoppedFor s q v 4).opsDone q (v % 16) = true → saveWaits (stoppedFor s q v 4) q (v % 16) = false →
      (∀ k, (∀ y ∈ ((stoppedFor s q v 4).core k).l1, y.2.dirty = 0#16) ∧ ((stoppedFor s q v 4).core k).stash = []) →
      (∀ c, ((stoppedFor s q v 4).clu c).comb = []) → ∃ s' p' a, exec (.save q v) s = .next s' ∧ emptied s' q (v % 16) ∧
      s'.part? q = some p' ∧ v % 16 ∈ p'.noAdmit ∧ (p'.rd 0xE00).getLsbD 4 = false ∧
      s'.homeRead (saveAddr p) 4 = 1 + v % 16 * 2 ^ 8 ∧ s'.homeRead (saveAddr p + 16) 8 = s.time % 2 ^ 64 ∧
      a ∈ p'.saved ∧ a.ctx = v % 16 ∧ a.time = s.time ∧
      (∀ k t, s.strand? k = some t → k < ccBase → t.part = q → t.ctx = v % 16 → atStop t → sized t → ∃ t' x, (k, t') ∈ a.strands ∧
        x ∈ State.areaPlan a a.weaves (State.areaHead a) ∧ x.2.1 = k + 1 ∧ recordHolds s s' t (saveAddr p + x.2.2) ∧
        t'.s = t.s ∧ t'.v = t.v ∧ t'.exec = t.exec ∧ t'.live = t.live ∧ t'.hspc = t.hspc ∧ t'.item = t.item ∧ t'.loops = t.loops ∧
        t'.rets = t.rets))

/-- RESTORE waits until the saved places are free, and what their cores hold of other contexts can go home, then sets every strand of the area at its place with the registers
that the area holds; an area that names no saved context sets CTXERR and restores nothing. What the area's layout does
not say comes from the record of log 41. -/
def Sys2Proof.Rules.RestoreBringsBackTheSavedStrands : Prop :=
  ∀ (s : State) (q v : Nat) (p : Part), s.part? q = some p → noRequest p →
    (s.frozenAt q = false → areaOf s p (saveAddr p) = none → ∃ s', exec (.restore q v) s = .next s' ∧ (s'.csr q 0xE18).getLsbD (v % 16) = true ∧
      (s'.csr q 0xE00).getLsbD 5 = false ∧ s'.strands = s.strands ∧ s'.weaves = s.weaves ∧ s'.bolts = s.bolts ∧ s'.mem = s.mem) ∧
    (∀ a, areaOf s p (saveAddr p) = some a →
      (restoreReady s q = false → ∃ s', exec (.restore q v) s = .next s' ∧ requested s s' q (v % 16) 5) ∧
      (restoreReady s q = true → (a.strands.map (·.1)).Nodup →
        (∀ e ∈ a.strands, ∃ x t', (State.areaPlan a a.weaves (State.areaHead a)).find? (fun y => y.2.1 == e.1 + 1) = some x ∧
          restoreStrand s (saveAddr p) x.2.2 e.2 = some t') →
        ∃ s' p', exec (.restore q v) s = .next s' ∧ s'.part? q = some p' ∧ a.ctx ∉ p'.noAdmit ∧
          (∀ e ∈ a.bolts, ∃ b, s'.bolt? e.1 = some b) ∧ (∀ e ∈ a.weaves, ∃ w, s'.weave? e.1 = some w) ∧
          ∀ e ∈ a.strands, ∃ x t', (State.areaPlan a a.weaves (State.areaHead a)).find? (fun y => y.2.1 == e.1 + 1) = some x ∧
            s'.strand? e.1 = some t' ∧ t'.sid = e.2.sid ∧ t'.hnd = e.2.hnd ∧
            (let f := fun i => BitVec.ofNat 32 (s.homeRead (saveAddr p + x.2.2 + 4 * i) 4)
             t'.live = quadMask (f 16) (f 17) (f 18) (f 19) ∧ t'.status = f 28 &&& 0x00FFFF01#32 ∧ t'.txstat = f 29 &&& 0x0001FFFF#32 ∧ t'.fmt = f 24) ∧
            (∀ r, r < 32 → t'.getS r = BitVec.ofNat 32 (s.homeRead (saveAddr p + x.2.2 + 0x280 + 4 * r) 4)) ∧
            (∀ r, 32 ≤ r → r < 384 → t'.getS r = BitVec.ofNat 32 (s.homeRead (saveAddr p + x.2.2 + 0x800 + 4 * (r - 32)) 4))))

/-- KILL ends the context, resident and saved, and lets its queues go on. That its areas in memory stand, and can be restored, is the
model's reading (log 41). -/
def Sys2Proof.Rules.KillEndsTheContextResidentAndSaved : Prop :=
  ∀ (s : State) (q v : Nat) (p : Part), s.part? q = some p → noRequest p →
    (s.contextReady q (v % 16) = false ∨ (stoppedFor s q v 6).opsDone q (v % 16) = false ∨ endWaits (stoppedFor s q v 6) q (v % 16) 3 = true →
      ∃ s' p', exec (.kill q v) s = .next s' ∧ requested s s' q (v % 16) 6 ∧
      s'.part? q = some p' ∧ v % 16 ∈ p'.noAdmit) ∧
    (s.contextReady q (v % 16) = true → (stoppedFor s q v 6).opsDone q (v % 16) = true → endWaits (stoppedFor s q v 6) q (v % 16) 3 = false → ∃ s' p', exec (.kill q v) s = .next s' ∧ emptied s' q (v % 16) ∧ s'.part? q = some p' ∧
      v % 16 ∉ p'.noAdmit ∧ (∀ a ∈ p'.saved, a.ctx = v % 16 → a.out = false) ∧ (p'.rd 0xE00).getLsbD 6 = false)
end

/-! ### Debug, samples and trace -/

section
namespace Sys2Proof.Rules
open Sys2Proof Sys2Proof.Machine

/-- The resident strand k that DSTRAND of partition q names: t, and no other strand of q has its id (R302). -/
def names (s : State) (q k : Nat) (t : Strand) : Prop :=
  k < ccBase ∧ (k, t) ∈ s.strands ∧ t.part = q ∧ t.sid = (s.csr q 0xA0C8).toNat ∧
    (∀ e ∈ s.strands, e.1 < ccBase → e.2.part = q → e.2.sid = t.sid → e = (k, t))

/-- No resident strand of q has the id in DSTRAND. -/
def namesNone (s : State) (q : Nat) : Prop := ∀ e ∈ s.strands, e.1 < ccBase → e.2.part = q → e.2.sid ≠ (s.csr q 0xA0C8).toNat

/-- Word i of stop record entry n of partition p (R302). -/
def stopEntry (p : Part) (n i : Nat) : Word := p.rd (0xA800 + 64 * (n % 16) + 4 * i)

/-- Trace and sample rings as taken up (R311, R315): entry n of one of 2^log 64-byte slots. -/
def slotOf (ring : Nat × Nat) (n : Nat) : Nat := ring.1 + 64 * (n % 2 ^ ring.2)

/-- The 64 bytes of a block of strand sid (R308): the strand's id, the length, the packets, zeros. -/
def blockHolds (s' : State) (pa sid : Nat) (pk : List Byte) : Prop :=
  s'.homeRead pa 4 = sid % 2 ^ 32 ∧ s'.homeRead (pa + 4) 4 = pk.length ∧
    (∀ i, i < 56 → s'.homeByte (pa + 8 + i) = pk.getD i 0#8)

end Sys2Proof.Rules

open Sys2Proof Sys2Proof.Machine Sys2Proof.Rules

/-- DCMD halts the strand that DSTRAND names, with a stop record of code 0, and lets a halted one go on as the command
says; a command for no resident strand, or for one that is halted already or not halted, does nothing. That such
commands do nothing is the model's reading (log 35). -/
def Sys2Proof.Rules.DcmdHaltsAndReleasesTheNamedStrand : Prop :=
  ∀ (s : State) (q : Nat) (p : Part), s.part? q = some p →
    (namesNone s q → ∀ i, (i = .halt q ∨ i = .resume q ∨ i = .stepOne q ∨ i = .stepHeader q) → exec i s = .next s) ∧
    (∀ k t, names s q k t → AMap.sortedFrom 0 s.strands = true →
      (t.run = .halted → exec (.halt q) s = .next s) ∧
      (t.run ≠ .halted → t.edge = false → ∃ s' t' p', exec (.halt q) s = .next s' ∧ s'.strand? k = some t' ∧ t'.run = .halted ∧
        { t' with run := t.run, pass := t.pass, passW := t.passW } = t ∧ t'.pass = false ∧ t'.passW = false ∧ s'.part? q = some p' ∧ s'.mem = s.mem ∧
        ((p.rd 0xA0CC - p.rd 0xA0D0).toNat < 16 → p.stopWait = [] →
          p'.rd 0xA0CC = p.rd 0xA0CC + 1#32 ∧ p'.rd 0xA0D4 = p.rd 0xA0D4 + 1#32 ∧
          stopEntry p' (p.rd 0xA0CC).toNat 0 =
            BitVec.ofNat 32 (2 + t.core * 2 ^ 8 + t.slot * 2 ^ 16 + t.ctx * 2 ^ 24 + t.item * 2 ^ 28) ∧
          stopEntry p' (p.rd 0xA0CC).toNat 1 = p.rd 0xA0D4 ∧ stopEntry p' (p.rd 0xA0CC).toNat 4 = loW t.itemAddr ∧
          stopEntry p' (p.rd 0xA0CC).toNat 7 = BitVec.ofNat 32 t.sid ∧ stopEntry p' (p.rd 0xA0CC).toNat 12 = 0#32) ∧
        (16 ≤ (p.rd 0xA0CC - p.rd 0xA0D0).toNat → p'.rd 0xA0CC = p.rd 0xA0CC ∧ p'.stopWait.length = p.stopWait.length + 1)) ∧
      (t.run ≠ .halted → ∀ i, (i = .resume q ∨ i = .stepOne q ∨ i = .stepHeader q) → exec i s = .next s) ∧
      (t.run = .halted → ∀ i r, (i = .resume q ∧ r = .going ∨ i = .stepOne q ∧ r = .stepItem ∨ i = .stepHeader q ∧ r = .stepHeader) →
        ∃ t', exec i s = .next (s.setStrand k t') ∧ t'.run = r ∧
          { t' with run := t.run, wait := t.wait, since := t.since, delay := t.delay } = t))

/-- A write of DSTOPRD frees entries, which waiting records fill in order. -/
def Sys2Proof.Rules.StopQueueEntriesFreeInOrder : Prop :=
  ∀ (s : State) (q v : Nat) (p : Part), s.part? q = some p → v < 2 ^ 32 → (p.rd 0xA0CC - BitVec.ofNat 32 v).toNat ≤ 16 →
    (∀ r ∈ p.stopWait, r.1.length = 64) →
    let n := min p.stopWait.length (16 - (p.rd 0xA0CC - BitVec.ofNat 32 v).toNat)
    ∃ s' p', exec (.dstoprdWrite q v) s = .next s' ∧ s'.part? q = some p' ∧ p'.rd 0xA0D0 = BitVec.ofNat 32 v ∧
      p'.rd 0xA0CC = p.rd 0xA0CC + BitVec.ofNat 32 n ∧ p'.stopWait = p.stopWait.drop n ∧
      (∀ j r, j < n → p.stopWait[j]? = some r → ∀ i, i < 16 →
        stopEntry p' (p.rd 0xA0CC + BitVec.ofNat 32 j).toNat i = BitVec.ofNat 32 (natOf ((r.1.drop (4 * i)).take 4))) ∧
      s'.strands = s.strands ∧ s'.mem = s.mem

/-- A sample goes to the ring entry that SWR names, or is dropped and counted when the ring is full; a write of SEN
stores its fields within their bounds and, from 0 to 1, takes up the ring. How a sample's reason is found is the
model's reading (log 42). -/
def Sys2Proof.Rules.SamplesFillTheRingOrAreCountedDropped : Prop :=
  (∀ (s : State) (core q k : Nat) (p : Part) (t : Strand), s.ownerOf (core / 2) = some q → s.part? q = some p →
    ((p.rd 0xA000).getLsbD 0 = false → exec (.sample core) s = .next s) ∧
    ((p.rd 0xA000).getLsbD 0 = true → nextSample s q p core = some (k, t) →
      s.serialRange 1000000 (slotOf p.sRing (p.rd 0xA010).toNat) 64 = false →
      ((p.rd 0xA010 - p.rd 0xA014).toNat < 2 ^ p.sRing.2 → isSys (slotOf p.sRing (p.rd 0xA010).toNat) = false →
        (∀ c, (s.clu c).comb = []) → t.ctx < 16 → t.item < 16 → t.slot < 128 → t.core < 256 → t.edge = false →
        ∃ s' p', exec (.sample core) s = .next s' ∧ s'.part? q = some p' ∧ p'.rd 0xA010 = p.rd 0xA010 + 1#32 ∧
          (s'.core core).lastSlot = t.slot ∧
          (∃ r, r < 10 ∧ s'.homeRead (slotOf p.sRing (p.rd 0xA010).toNat) 4 =
            1 + r * 2 ^ 4 + t.core * 2 ^ 8 + t.slot * 2 ^ 16 + t.ctx * 2 ^ 24 + t.item * 2 ^ 28) ∧
          s'.homeRead (slotOf p.sRing (p.rd 0xA010).toNat + 8) 8 = s.time % 2 ^ 64 ∧
          s.sameBut s' (slotOf p.sRing (p.rd 0xA010).toNat) 64) ∧
      (2 ^ p.sRing.2 ≤ (p.rd 0xA010 - p.rd 0xA014).toNat → ∃ s' p', exec (.sample core) s = .next s' ∧ s'.part? q = some p' ∧
        p'.rd 0xA018 = countedUp (p.rd 0xA018) ∧ p'.rd 0xA010 = p.rd 0xA010 ∧ s'.mem = s.mem))) ∧
  (∀ (s : State) (q v : Nat) (p : Part), s.part? q = some p → ∃ s' p', exec (.senWrite q v) s = .next s' ∧ s'.part? q = some p' ∧
    (p'.rd 0xA000).getLsbD 0 = v.testBit 0 ∧ fld (p'.rd 0xA000).toNat 1 3 = 0 ∧ fld (p'.rd 0xA000).toNat 4 4 = max 4 (fld v 4 4) ∧
    fld (p'.rd 0xA000).toNat 8 16 = max 16 (fld v 8 16) ∧ fld (p'.rd 0xA000).toNat 24 8 = fld v 24 5 ∧
    ((p.rd 0xA000).getLsbD 0 = false → v.testBit 0 = true → p'.rd 0xA018 = 0#32 ∧
      p'.sRing = (p.rd64 0xA008 / 2 ^ 12 % 2 ^ 40 * 2 ^ 12, max 4 (fld v 4 4)) ∧
      (∀ c, c ∈ partClusters p.cfg → (s'.core (2 * c)).cycles = 0 ∧ (s'.core (2 * c + 1)).cycles = 0)) ∧
    s'.strands = s.strands ∧ s'.mem = s.mem)

/-- Trace control: a write of TEN stores its fields and takes up the ring, TSYNC asks every traced strand of the partition for
a SYNC, or leaves the one that a halt or a trap return owes, a block falls due 1 microsecond after its last packet and enters the ring, and a write of TRD lets held blocks in. -/
def Sys2Proof.Rules.TraceControlsAndBlocksFillTheTraceRing : Prop :=
  (∀ (s : State) (q v : Nat) (p : Part), s.part? q = some p →
    ∃ s' p', exec (.tenWrite q v) s = .next s' ∧ s'.part? q = some p' ∧ p'.rd 0xA060 = (BitVec.ofNat 32 v &&& 0xFFFF003F#32) ∧
      ((p.rd 0xA060).getLsbD 0 = false → v.testBit 0 = true →
        p'.tRing = (p.rd64 0xA068 / 2 ^ 12 % 2 ^ 40 * 2 ^ 12, (p.rd 0xA070).toNat % 32)) ∧
      (p.heldBlocks = [] → (p.rd 0xA060).getLsbD 0 = false ∨ v.testBit 0 = true ∨ (∀ e ∈ s.strands, e.2.tr.on = false) →
        s'.strands = s.strands ∧ s'.mem = s.mem)) ∧
  (∀ (s : State) (q : Nat), ∃ s', exec (.tsync q) s = .next s' ∧ s'.mem = s.mem ∧ s'.parts = s.parts ∧
    ∀ k t, s.strand? k = some t → ∃ t', s'.strand? k = some t' ∧
      (t.part = q → t.tr.on = true → t'.tr = { t.tr with sync := if t.tr.sync = some 4 then some 4 else some 2 } ∧ { t' with tr := t.tr } = t) ∧
      (t.part ≠ q ∨ t.tr.on = false → t' = t)) ∧
  (∀ (s : State) (k : Nat) (t : Strand) (p : Part), s.strand? k = some t → s.part? t.part = some p →
    (s.time < t.tr.last + 1000 ∨ t.tr.block = [] → exec (.traceTimeout k) s = .next s) ∧
    (t.tr.last + 1000 ≤ s.time → t.tr.block ≠ [] → t.tr.block.length ≤ 56 → t.tr.holding = false → p.heldBlocks = [] →
      s.serialRange 1000000 (slotOf p.tRing (p.rd 0xA074).toNat) 64 = false →
      (p.rd 0xA074 - p.rd 0xA078).toNat < 2 ^ p.tRing.2 → (∀ c, (s.clu c).comb = []) →
      isSys (slotOf p.tRing (p.rd 0xA074).toNat) = false →
      ∃ s' t' p', exec (.traceTimeout k) s = .next s' ∧ s'.strand? k = some t' ∧ t'.tr.block = [] ∧ t'.s = t.s ∧ t'.v = t.v ∧
        s'.part? t.part = some p' ∧ p'.rd 0xA074 = p.rd 0xA074 + 1#32 ∧
        blockHolds s' (slotOf p.tRing (p.rd 0xA074).toNat) t.sid t.tr.block ∧ s.sameBut s' (slotOf p.tRing (p.rd 0xA074).toNat) 64)) ∧
  (∀ (s : State) (q v : Nat) (p : Part), s.part? q = some p → ∃ s' p', exec (.trdWrite q v) s = .next s' ∧ s'.part? q = some p' ∧
    p'.rd 0xA078 = BitVec.ofNat 32 v ∧
    (p.heldBlocks = [] → p'.rd 0xA074 = p.rd 0xA074 ∧ s'.strands = s.strands ∧ s'.mem = s.mem) ∧
    (∀ k bs, p.heldBlocks = [(k, bs)] → (p.rd 0xA074 - BitVec.ofNat 32 v).toNat < 2 ^ p.tRing.2 → bs.length = 64 →
      s.serialRange 1000000 (slotOf p.tRing (p.rd 0xA074).toNat) 64 = false → (∀ c, (s.clu c).comb = []) → isSys (slotOf p.tRing (p.rd 0xA074).toNat) = false →
      p'.heldBlocks = [] ∧ p'.rd 0xA074 = p.rd 0xA074 + 1#32 ∧
      s'.homeBytes (slotOf p.tRing (p.rd 0xA074).toNat) 64 = bs ∧
      (∀ t, s.strand? k = some t → t.tr.holding = true → ∃ t', s'.strand? k = some t' ∧ t'.tr.holding = false ∧ t'.tr.freed = true)))

/-- DFREEZE is taken when every strand of the partition is halted or absent, and ignored otherwise. -/
def Sys2Proof.Rules.FreezingNeedsEveryStrandHalted : Prop :=
  ∀ (s : State) (q v : Nat) (p : Part), s.part? q = some p →
    ((∀ e ∈ s.strands, e.1 < ccBase → e.2.part = q → e.2.run = .halted) → ∃ s', exec (.dfreeze q v) s = .next s' ∧
      s'.csr q 0xE30 = BitVec.ofNat 32 (v % 2) ∧ s'.strands = s.strands ∧ s'.mem = s.mem) ∧
    ((∃ e ∈ s.strands, e.1 < ccBase ∧ e.2.part = q ∧ e.2.run ≠ .halted) → exec (.dfreeze q v) s = .next s)
end

/-! ### Statements of several parts -/

/-- Scalar arithmetic, immediate and BIT words compute their rules' results and change nothing else; they decode field by field. -/
def Obligations.ScalarArithmeticFollowsItsRules : Prop :=
  Sys2Proof.Rules.ScalarWordsWriteTheirResultAndNothingElse ∧
    Sys2Proof.Rules.ScalarWordsDecodeFieldByField

/-- Integer and pair lane instructions write their results in the active lanes alone. -/
def Obligations.LaneIntegersWriteTheirActiveLanes : Prop :=
  Sys2Proof.Rules.IntegerLaneInstructionsWriteActiveLanes ∧
    Sys2Proof.Rules.PairLaneInstructionsWriteBothWords

/-- Float lane instructions round once per lane; special functions give the values R205 fixes. -/
def Obligations.LaneFloatsRoundOnceAndSpecialFunctionsKeepTheirValues : Prop :=
  Sys2Proof.Rules.FloatLaneInstructionsRoundOncePerLane ∧
    Sys2Proof.Rules.SpecialFunctionsGiveTheirSpecialValues

/-- SHFL and SCAN, compares and BALLOT, reductions, V2S and VOTE. -/
def Obligations.CrossLaneInstructionsReadAllLanesThenWrite : Prop :=
  Sys2Proof.Rules.ShuffleAndScanReadAllLanesFirst ∧
    Sys2Proof.Rules.ComparesAndBallotWriteTheirMaskQuad ∧
    Sys2Proof.Rules.ReductionsWriteOneScalar

/-- A suppressed lane instruction has no effect; a register beyond the budget of any other raises REG_BOUND. -/
def Obligations.SuppressedOrOutOfBudgetLaneInstructionsWriteNothing : Prop :=
  Sys2Proof.Rules.SuppressedLaneInstructionsHaveNoEffect ∧
    Sys2Proof.Rules.LaneRegistersBeyondTheBudgetRaiseRegBound ∧
    Sys2Proof.Rules.MemoryAndMatrixRegistersBeyondTheBudgetRaiseRegBound

/-- CVT, PACK8, PACK4 and UNPK. -/
def Obligations.ConversionsRoundPackAndUnpackElements : Prop :=
  Sys2Proof.Rules.CvtConvertsOneElementInPlace ∧
    Sys2Proof.Rules.PackNarrowsItsRegistersIntoOneWord ∧
    Sys2Proof.Rules.UnpkWidensEachElementIntoItsRegister

/-- SGET and SSET. -/
def Obligations.SpecialRegistersAreReadAndWrittenUnderTheirRules : Prop :=
  Sys2Proof.Rules.SgetReturnsTheSpecialRegister ∧
    Sys2Proof.Rules.SsetWritesTheSpecialRegisterUnderItsRule

/-- BRA, BZ, BNZ, BEXZ; CALLI, JMPI, CALLV, JMPV. -/
def Obligations.BranchesAndIndirectJumpsGoToTheirTarget : Prop :=
  Sys2Proof.Rules.BranchesGoToTheirTargetOrFallThrough ∧
    Sys2Proof.Rules.IndirectJumpsTakeTheirOperands

/-- CALL and RET. -/
def Obligations.CallsPushAndRetPopsTheReturnEntry : Prop :=
  Sys2Proof.Rules.CallsPushTheReturnEntry ∧
    Sys2Proof.Rules.RetPopsTheReturnStack

/-- MSPLIT and MJOIN. -/
def Obligations.MsplitAndMjoinRunBothPathsOfARegion : Prop :=
  Sys2Proof.Rules.MsplitSavesThePathAndNarrowsExec ∧
    Sys2Proof.Rules.MjoinRunsThePendingPathOrRestores

/-- MSET, MGET, MAND, MOR, MNOT and MPOPC: their effects and their decoding. -/
def Obligations.MaskWordsFollowTheirRule : Prop :=
  Sys2Proof.Rules.MaskWordsWriteExecOrTheirQuad ∧
    Sys2Proof.Rules.MaskWordsDecodeFieldByField

/-- Clause headers, WAITP and FENCE. -/
def Obligations.HeadersWaitpAndFenceWaitForWhatTheyName : Prop :=
  Sys2Proof.Rules.ClauseHeaderWaitsForItsFlagsThenOpensTheClause ∧
    Sys2Proof.Rules.WaitpAndFenceWaitForTheirCounters

/-- LDS, LDS2, LDS4, STS and STS2. -/
def Obligations.ScalarLoadsAndStoresMoveTheirWords : Prop :=
  Sys2Proof.Rules.ScalarLoadsIssueAReadOfTheirWords ∧
    Sys2Proof.Rules.ScalarStoresWriteTheirBytesAlone

/-- ATOMS, ATOM and RED. -/
def Obligations.AtomicsReturnTheOldValueAndWriteTheNew : Prop :=
  Sys2Proof.Rules.AtomsReturnsTheOldWordAndWritesTheNew ∧
    Sys2Proof.Rules.AtomAndRedApplyTheirOperationInEachLane

/-- RETURNING_ACCESS_COMPLETE and SOURCING_ACCESS_COMPLETE. -/
def Obligations.CompletionsLandAndLowerTheirCounter : Prop :=
  Sys2Proof.Rules.ReturningAccessesLandWhenTheyComplete ∧
    Sys2Proof.Rules.SourcingAccessesOnlyLowerTheirCounter

/-- LOOP of counted loops and BACK_EDGE. -/
def Obligations.LoopsOpenRewindAndExit : Prop :=
  Sys2Proof.Rules.LoopOpensAFrameOrSkips ∧
    Sys2Proof.Rules.TheBackEdgeRewindsOrExitsTheLoop

/-- LEXIT, LBRK, ROTSET, SKPUT and LDEPTH. -/
def Obligations.LoopControlWordsChangeMasksRotationAndSkein : Prop :=
  Sys2Proof.Rules.LexitAndLbrkTakeLanesOutOfTheLoop ∧
    Sys2Proof.Rules.RotsetSkputAndLdepthSetTheirRegisters

/-- CLASP.INIT, INVAL, REG, UNREG, WAIT and TEST. -/
def Obligations.ClaspObjectsAreSetWaitedForAndTested : Prop :=
  Sys2Proof.Rules.ClaspInitInvalRegAndUnregSetTheObjectOrItsHandle ∧
    Sys2Proof.Rules.ClaspWaitAndTestReportTheirTokensPhase

/-- CLASP.ARRIVE, ARRIVETX and held arrivals. -/
def Obligations.ArrivalsCountAtOnceOrAfterTheirCommands : Prop :=
  Sys2Proof.Rules.ArrivalsCountTheirPhaseAndReturnItsToken ∧
    Sys2Proof.Rules.HeldArrivalsWaitForTheirTaggedCommands

/-- YIELDQ, COUNT, WHO, GROW, SHRINK and the decision of a pending GROW. -/
def Obligations.MembershipIsReportedGrownAndShrunk : Prop :=
  Sys2Proof.Rules.MembershipReportsAnswerFromTheWeave ∧
    Sys2Proof.Rules.PendingGrowIsGrantedOrDeniedForTheWholeCore

/-- LD and PREF. -/
def Obligations.LdAndPrefReadWithoutWritingMemory : Prop :=
  Sys2Proof.Rules.LdLandsEachActiveLanesValue ∧
    Sys2Proof.Rules.PrefChangesNoRegisterAndNoByte

/-- LDSC, STSC, ATOMSC, LDWN and STWN. -/
def Obligations.ScratchAndWindowAccessesReachTheirWeave : Prop :=
  Sys2Proof.Rules.ScratchAccessesReadAndWriteTheWeavesRegion ∧
    Sys2Proof.Rules.WindowAccessesReachTheRegistersOfTheWeave

/-- MMA at its posting, MOPF, MBATCH, MZERO and BATCH_RETIRE. -/
def Obligations.MatrixOperationsArePostedAndRetireInOrder : Prop :=
  Sys2Proof.Rules.MmaPostsItsOperationInItsBatch ∧
    Sys2Proof.Rules.MopfMbatchMzeroAndBatchRetireKeepMatrixOrder

/-- SHT.COPYIN to FILL and SHUTTLE_COMPLETE. -/
def Obligations.ShuttleCommandsIssueAndMoveTheirChunks : Prop :=
  Sys2Proof.Rules.ShuttleCommandsIssueOneOperation ∧
    Sys2Proof.Rules.ShuttleCompleteMovesEveryChunk

/-- TBEGIN, TSERIAL, TABORT and TEND. -/
def Obligations.TransactionsOpenAbortOrCommitWhole : Prop :=
  Sys2Proof.Rules.TransactionsOpenNestAndAbortToTheirFailTarget ∧
    Sys2Proof.Rules.TendCommitsTheSurvivingLanesInOneStep

/-- LAUNCH; GO, REPEAT and CANCEL. -/
def Obligations.LaunchAndCommandCoreWordsSubmitBolts : Prop :=
  Sys2Proof.Rules.LaunchSubmitsAChildBoltOneLevelDeeper ∧
    Sys2Proof.Rules.CommandCoreWordsLaunchRepeatOrCancel

/-- The state after reset, and a partition's registers after a cold boot. -/
def Obligations.ResetAndColdBootLeaveTheirResetValues : Prop :=
  Sys2Proof.Rules.ResetLeavesNothingRunning ∧
    Sys2Proof.Rules.PartitionRegistersComeUpAtTheirResetValues

/-- TRAP, BKPT and every fault, and the entry of a pending trap. -/
def Obligations.FaultsAndTrapsEnterTheHandlerOrHalt : Prop :=
  Sys2Proof.Rules.TrapAndBkptEnterTheHandlerOrHalt ∧
    Sys2Proof.Rules.EveryFaultGoesWhereItsTableSendsIt ∧
    Sys2Proof.Rules.APendingTrapIsEnteredWhenTheCountersAreZero

/-- RFT and EXIT. -/
def Obligations.RftRestoresAndExitEnds : Prop :=
  Sys2Proof.Rules.RftRestoresWhatTheFrameHolds ∧
    Sys2Proof.Rules.ExitEndsTheActiveLanes

/-- PROG, and the checks of CSRR and CSRW. -/
def Obligations.ProgCountsAndControlWordsAreChecked : Prop :=
  Sys2Proof.Rules.ProgCountsOnceWhateverExecHolds ∧
    Sys2Proof.Rules.ControlWordAccessesAreCheckedInOrder

/-- CSRR, CSRW and REGISTER_WRITE. -/
def Obligations.ControlWordsAreReadAndWritten : Prop :=
  Sys2Proof.Rules.CsrrReadsAWordOrALatchedHalf ∧
    Sys2Proof.Rules.RegisterWritesStoreTheWritableBits

/-- The control boundary's knobs, slide and rails, RAIL_CHANGE and SLEW_STEP. -/
def Obligations.ControlBoundariesRailsAndWakes : Prop :=
  Sys2Proof.Rules.ControlBoundaryMovesKnobsSlideAndRails ∧
    Sys2Proof.Rules.RailChangesCompleteAndSlewStepsWakeInOrder

/-- DECISION, and writes of LCFG, LCFG2 and the knobs. -/
def Obligations.TheLearnerDecidesAndKeepsItsRegisters : Prop :=
  Sys2Proof.Rules.DecisionsLatchUpdateAndStayInTheEnvelope ∧
    Sys2Proof.Rules.LearnerRegisterWritesStoreOrRefuse

/-- Hallmarks, context-end requests and anchors. -/
def Obligations.HallmarksAndAnchorsRecordTheMeters : Prop :=
  Sys2Proof.Rules.HallmarksAreIssuedWhenDue ∧
    Sys2Proof.Rules.AnchorsHoldEveryMeterAndAlternate

/-- Power loss, orderly shutdown, cold boot; warm, partition and function-level resets. -/
def Obligations.BootsAndResetsKeepWhatSurvives : Prop :=
  Sys2Proof.Rules.ColdBootsResumeFromTheNewestAnchor ∧
    Sys2Proof.Rules.ResetsKeepTheAlwaysOnIsland

/-- Host and peer accesses; link events and failed system-space accesses. -/
def Obligations.TheHostLinkServesAndFails : Prop :=
  Sys2Proof.Rules.HostAndPeerAccessesActAtTheHome ∧
    Sys2Proof.Rules.LinkFailuresCompleteAccessesAsPoison

/-- Sensor faults, memory errors, the watchdog and PIN_CLR. -/
def Obligations.ErrorsAreCountedAndHeldStrandsTimeOut : Prop :=
  Sys2Proof.Rules.SensorAndMemoryErrorsAreCountedAndMarked ∧
    Sys2Proof.Rules.TheWatchdogFiresAndPinsAreReleased

/-- SAVE, RESTORE and KILL. -/
def Obligations.ContextsAreSavedRestoredAndKilled : Prop :=
  Sys2Proof.Rules.SaveWritesTheContextAndEmptiesIt ∧
    Sys2Proof.Rules.RestoreBringsBackTheSavedStrands ∧
    Sys2Proof.Rules.KillEndsTheContextResidentAndSaved

/-- DCMD's commands, DSTOPRD and DFREEZE. -/
def Obligations.DebugControlStopsAndFreezes : Prop :=
  Sys2Proof.Rules.DcmdHaltsAndReleasesTheNamedStrand ∧
    Sys2Proof.Rules.StopQueueEntriesFreeInOrder ∧
    Sys2Proof.Rules.FreezingNeedsEveryStrandHalted

/-- Samples and SEN; TEN, TSYNC, trace blocks and TRD. -/
def Obligations.SamplesAndTraceBlocksFillTheirRings : Prop :=
  Sys2Proof.Rules.SamplesFillTheRingOrAreCountedDropped ∧
    Sys2Proof.Rules.TraceControlsAndBlocksFillTheTraceRing
end

