-- ==== Sys2Proof/Laws/Map.lean ====
section
/-!
SUPPORT. The laws of the canonical sparse map: reads after writes, and that every write keeps the canonical form.
-/
namespace Sys2Proof.AMap
variable {β : Type}

@[simp] theorem look_put_self (m : AMap β) (a : Nat) (v : β) : look (put m a v) a = some v := by
  induction m with
  | nil => simp [put, look]
  | cons e m ih =>
    obtain ⟨k, x⟩ := e
    simp only [put]
    split
    · simp [look]
    · split
      · simp [look]
      · rename_i h1 h2
        simp [look, h2, ih]

theorem look_put_ne (m : AMap β) {a b : Nat} (v : β) (h : b ≠ a) : look (put m a v) b = look m b := by
  induction m with
  | nil => simp [put, look, h]
  | cons e m ih =>
    obtain ⟨k, x⟩ := e
    simp only [put]
    split
    · simp [look, h]
    · split
      · rename_i h1 h2
        subst h2
        simp [look, h]
      · simp only [look, ih]

@[simp] theorem look_del_self (m : AMap β) (a : Nat) : look (del m a) a = none := by
  induction m with
  | nil => rfl
  | cons e m ih =>
    obtain ⟨k, x⟩ := e
    simp only [del]
    split
    · exact ih
    · rename_i h
      simp [look, h, ih]

theorem look_del_ne (m : AMap β) {a b : Nat} (h : b ≠ a) : look (del m a) b = look m b := by
  induction m with
  | nil => rfl
  | cons e m ih =>
    obtain ⟨k, x⟩ := e
    simp only [del]
    split
    · rename_i h1
      subst h1
      simp [look, h, ih]
    · simp only [look, ih]

theorem sorted_mono {m : AMap β} {lo lo' : Nat} (h : lo' ≤ lo) (hs : sortedFrom lo m = true) : sortedFrom lo' m = true := by
  cases m with
  | nil => rfl
  | cons e m =>
    simp only [sortedFrom, Bool.and_eq_true, decide_eq_true_eq] at hs ⊢
    exact ⟨by omega, hs.2⟩

theorem sorted_put {m : AMap β} {lo a : Nat} (v : β) (h : lo ≤ a) (hs : sortedFrom lo m = true) : sortedFrom lo (put m a v) = true := by
  induction m generalizing lo with
  | nil => simp [put, sortedFrom, h]
  | cons e m ih =>
    obtain ⟨k, x⟩ := e
    simp only [sortedFrom, Bool.and_eq_true, decide_eq_true_eq] at hs
    simp only [put]
    split
    · simp only [sortedFrom, Bool.and_eq_true, decide_eq_true_eq]
      exact ⟨h, by omega, hs.2⟩
    · split
      · rename_i h1 h2
        subst h2
        simp only [sortedFrom, Bool.and_eq_true, decide_eq_true_eq]
        exact hs
      · simp only [sortedFrom, Bool.and_eq_true, decide_eq_true_eq]
        exact ⟨hs.1, ih (by omega) hs.2⟩

theorem sorted_del {m : AMap β} {lo a : Nat} (hs : sortedFrom lo m = true) : sortedFrom lo (del m a) = true := by
  induction m generalizing lo with
  | nil => rfl
  | cons e m ih =>
    obtain ⟨k, x⟩ := e
    simp only [sortedFrom, Bool.and_eq_true, decide_eq_true_eq] at hs
    simp only [del]
    split
    · exact sorted_mono (by omega) (ih hs.2)
    · simp only [sortedFrom, Bool.and_eq_true, decide_eq_true_eq]
      exact ⟨hs.1, ih hs.2⟩

/-- An entry after a write is the new one or an old one. -/
theorem mem_put {m : AMap β} {a : Nat} {v : β} {e : Nat × β} (h : e ∈ put m a v) : e = (a, v) ∨ e ∈ m := by
  induction m with
  | nil => simpa [put] using h
  | cons x m ih =>
    obtain ⟨k, y⟩ := x
    simp only [put] at h
    split at h
    · simpa using h
    · split at h
      · rcases List.mem_cons.mp h with h | h
        · exact .inl h
        · exact .inr (List.mem_cons_of_mem _ h)
      · rcases List.mem_cons.mp h with h | h
        · exact .inr (h ▸ List.mem_cons_self)
        · rcases ih h with h | h
          · exact .inl h
          · exact .inr (List.mem_cons_of_mem _ h)

theorem mem_del {m : AMap β} {a : Nat} {e : Nat × β} (h : e ∈ del m a) : e ∈ m := by
  induction m with
  | nil => simp [del] at h
  | cons x m ih =>
    obtain ⟨k, y⟩ := x
    simp only [del] at h
    split at h
    · exact List.mem_cons_of_mem _ (ih h)
    · rcases List.mem_cons.mp h with h | h
      · exact h ▸ List.mem_cons_self
      · exact List.mem_cons_of_mem _ (ih h)

section
variable [DecidableEq β]

theorem canon_iff {d : β} {m : AMap β} : canon d m = true ↔ sortedFrom 0 m = true ∧ ∀ e ∈ m, e.2 ≠ d := by
  simp [canon, List.all_eq_true]

/-- Every write keeps the canonical form. -/
theorem canon_set {d : β} {m : AMap β} (a : Nat) (v : β) (h : canon d m = true) : canon d (set m a v d) = true := by
  rw [canon_iff] at h ⊢
  unfold set
  split
  · exact ⟨sorted_del h.1, fun e he => h.2 e (mem_del he)⟩
  · rename_i hv
    refine ⟨sorted_put v (Nat.zero_le a) h.1, fun e he => ?_⟩
    rcases mem_put he with he | he
    · exact he ▸ hv
    · exact h.2 e he

theorem canon_nil (d : β) : canon d ([] : AMap β) = true := rfl

/-- A read after a write of the same key gives the value written. -/
@[simp] theorem get_set_self (m : AMap β) (a : Nat) (v d : β) : get (set m a v d) a d = v := by
  unfold get set
  split
  · rename_i hv
    simp [hv]
  · simp

/-- A write leaves every other key alone. -/
theorem get_set_ne (m : AMap β) {a b : Nat} (v d d' : β) (h : b ≠ a) : get (set m a v d) b d' = get m b d' := by
  unfold get set
  split
  · rw [look_del_ne m h]
  · rw [look_put_ne m v h]

end

theorem look_upd_self {m : AMap β} {a : Nat} {v : β} (f : β → β) (h : look m a = some v) : look (upd m a f) a = some (f v) := by
  simp [upd, h]

theorem look_upd_ne (m : AMap β) {a b : Nat} (f : β → β) (h : b ≠ a) : look (upd m a f) b = look m b := by
  unfold upd
  split
  · exact look_put_ne m _ h
  · rfl

end Sys2Proof.AMap
end

