-- ==== Sys2Proof/Laws/Fields.lean ====
section
/-!
SUPPORT. Bit fields of a word built from its fields, and the order of the partition tables through their updates.
-/
namespace Sys2Proof

theorem fld_lt (w lo n : Nat) : fld w lo n < 2 ^ n := by
  simpa [fld] using Nat.mod_lt _ (by positivity)

/-- A field that starts where the rest ends. -/
theorem fld_above {a b lo : Nat} (n : Nat) (h : b < 2 ^ lo) : fld (a * 2 ^ lo + b) lo n = a % 2 ^ n := by
  have : (a * 2 ^ lo + b) / 2 ^ lo = a := by
    rw [Nat.mul_comm, Nat.mul_add_div (by positivity), Nat.div_eq_of_lt h, Nat.add_zero]
  simp [fld, this]

/-- A field below one that starts at p. -/
theorem fld_below {a b p lo n : Nat} (h : lo + n ≤ p) : fld (a * 2 ^ p + b) lo n = fld b lo n := by
  obtain ⟨d, rfl⟩ := Nat.exists_eq_add_of_le h
  have e : a * 2 ^ (lo + n + d) + b = 2 ^ lo * (a * 2 ^ d * 2 ^ n) + b := by ring
  simp only [fld]
  rw [e, Nat.mul_add_div (by positivity), Nat.add_comm, Nat.mul_comm (a * 2 ^ d), Nat.add_mul_mod_self_left]

/-- A field that holds its value. -/
theorem fld_zero_of_lt {b n : Nat} (h : b < 2 ^ n) : fld b 0 n = b := by
  simp [fld, Nat.mod_eq_of_lt h]

/-- A word is its high part and its low field. -/
theorem split_fld (w lo : Nat) : w / 2 ^ lo * 2 ^ lo + fld w 0 lo = w := by
  simp only [fld, Nat.pow_zero, Nat.div_one]
  rw [Nat.mul_comm]
  exact Nat.div_add_mod w (2 ^ lo)

theorem accept_ok {i j : Instr} {z : Bool} (h : accept i z = .ok j) : j = i ∧ i.wf = true ∧ z = true := by
  unfold accept at h
  split at h
  · cases h
  · split at h
    · cases h
      rename_i hz hw
      exact ⟨rfl, hw, by simpa using hz⟩
    · cases h

theorem accept_of_wf {i : Instr} (h : i.wf = true) : accept i true = .ok i := by
  simp [accept, h]

namespace Machine

theorem sorted_setPart {s : State} (p : Nat) (x : Part) (h : AMap.sortedFrom 0 s.parts = true) :
    AMap.sortedFrom 0 (s.setPart p x).parts = true := AMap.sorted_put x (Nat.zero_le p) h

theorem sorted_updPart {s : State} (p : Nat) (f : Part → Part) (h : AMap.sortedFrom 0 s.parts = true) :
    AMap.sortedFrom 0 (s.updPart p f).parts = true := by
  show AMap.sortedFrom 0 (AMap.upd s.parts p f) = true
  unfold AMap.upd
  split
  · exact AMap.sorted_put _ (Nat.zero_le p) h
  · exact h

theorem sorted_wr {p : Part} (off : Nat) (v : Word) (h : AMap.sortedFrom 0 p.csr = true) :
    AMap.sortedFrom 0 (p.wr off v).csr = true := by
  show AMap.sortedFrom 0 (AMap.set p.csr off v (csrReset p.cfg off)) = true
  unfold AMap.set
  split
  · exact AMap.sorted_del h
  · exact AMap.sorted_put v (Nat.zero_le off) h

theorem sorted_wr64 {p : Part} (off v : Nat) (h : AMap.sortedFrom 0 p.csr = true) :
    AMap.sortedFrom 0 (p.wr64 off v).csr = true := sorted_wr _ _ (sorted_wr _ _ h)

end Machine
end Sys2Proof
end

