-- ==== Sys2Proof/Laws/State.lean ====
section
/-!
SUPPORT. What each update of the state leaves alone, field by field, and what reads of the updated table give.
-/
namespace Sys2Proof.Machine
open Sys2Proof

namespace State
variable (s : State)

@[simp] theorem setPart_time (p : Nat) (x : Part) : (s.setPart p x).time = s.time := rfl
@[simp] theorem setPart_bound (p : Nat) (x : Part) : (s.setPart p x).bound = s.bound := rfl
@[simp] theorem setPart_cur (p : Nat) (x : Part) : (s.setPart p x).cur = s.cur := rfl
@[simp] theorem setPart_plan (p : Nat) (x : Part) : (s.setPart p x).plan = s.plan := rfl
@[simp] theorem setPart_mem (p : Nat) (x : Part) : (s.setPart p x).mem = s.mem := rfl
@[simp] theorem setPart_poison (p : Nat) (x : Part) : (s.setPart p x).poison = s.poison := rfl
@[simp] theorem setPart_window (p : Nat) (x : Part) : (s.setPart p x).window = s.window := rfl
@[simp] theorem setPart_winLo (p : Nat) (x : Part) : (s.setPart p x).winLo = s.winLo := rfl
@[simp] theorem setPart_linkUp (p : Nat) (x : Part) : (s.setPart p x).linkUp = s.linkUp := rfl
@[simp] theorem setPart_boot (p : Nat) (x : Part) : (s.setPart p x).boot = s.boot := rfl
@[simp] theorem setPart_flash0 (p : Nat) (x : Part) : (s.setPart p x).flash0 = s.flash0 := rfl
@[simp] theorem setPart_flash1 (p : Nat) (x : Part) : (s.setPart p x).flash1 = s.flash1 := rfl
@[simp] theorem setPart_house (p : Nat) (x : Part) : (s.setPart p x).house = s.house := rfl
@[simp] theorem setPart_pkg (p : Nat) (x : Part) : (s.setPart p x).pkg = s.pkg := rfl
@[simp] theorem setPart_houseRem (p : Nat) (x : Part) : (s.setPart p x).houseRem = s.houseRem := rfl
@[simp] theorem setPart_calib (p : Nat) (x : Part) : (s.setPart p x).calib = s.calib := rfl
@[simp] theorem setPart_fwDigest (p : Nat) (x : Part) : (s.setPart p x).fwDigest = s.fwDigest := rfl
@[simp] theorem setPart_cfgDigest (p : Nat) (x : Part) : (s.setPart p x).cfgDigest = s.cfgDigest := rfl
@[simp] theorem setPart_image (p : Nat) (x : Part) : (s.setPart p x).image = s.image := rfl
@[simp] theorem setPart_lost (p : Nat) (x : Part) : (s.setPart p x).lost = s.lost := rfl
@[simp] theorem setPart_anchorDue (p : Nat) (x : Part) : (s.setPart p x).anchorDue = s.anchorDue := rfl
@[simp] theorem setPart_l2 (p : Nat) (x : Part) : (s.setPart p x).l2 = s.l2 := rfl
@[simp] theorem setPart_slice (p : Nat) (x : Part) : (s.setPart p x).slice = s.slice := rfl
@[simp] theorem setPart_lags (p : Nat) (x : Part) : (s.setPart p x).lags = s.lags := rfl
@[simp] theorem setPart_reds (p : Nat) (x : Part) : (s.setPart p x).reds = s.reds := rfl
@[simp] theorem setPart_wins (p : Nat) (x : Part) : (s.setPart p x).wins = s.wins := rfl
@[simp] theorem setPart_late (p : Nat) (x : Part) : (s.setPart p x).late = s.late := rfl
@[simp] theorem setPart_winHi (p : Nat) (x : Part) : (s.setPart p x).winHi = s.winHi := rfl
@[simp] theorem setPart_pins (p : Nat) (x : Part) : (s.setPart p x).pins = s.pins := rfl
@[simp] theorem setPart_clus (p : Nat) (x : Part) : (s.setPart p x).clus = s.clus := rfl
@[simp] theorem setPart_cores (p : Nat) (x : Part) : (s.setPart p x).cores = s.cores := rfl
@[simp] theorem setPart_bolts (p : Nat) (x : Part) : (s.setPart p x).bolts = s.bolts := rfl
@[simp] theorem setPart_weaves (p : Nat) (x : Part) : (s.setPart p x).weaves = s.weaves := rfl
@[simp] theorem setPart_strands (p : Nat) (x : Part) : (s.setPart p x).strands = s.strands := rfl
@[simp] theorem setPart_nextKey (p : Nat) (x : Part) : (s.setPart p x).nextKey = s.nextKey := rfl
@[simp] theorem setPart_free (p : Nat) (x : Part) : (s.setPart p x).free = s.free := rfl
@[simp] theorem setPart_ccGroup (p : Nat) (x : Part) : (s.setPart p x).ccGroup = s.ccGroup := rfl
@[simp] theorem setPart_ccElig (p : Nat) (x : Part) : (s.setPart p x).ccElig = s.ccElig := rfl
@[simp] theorem setPart_ccDone (p : Nat) (x : Part) : (s.setPart p x).ccDone = s.ccDone := rfl

@[simp] theorem updPart_time (p : Nat) (f : Part → Part) : (s.updPart p f).time = s.time := rfl
@[simp] theorem updPart_bound (p : Nat) (f : Part → Part) : (s.updPart p f).bound = s.bound := rfl
@[simp] theorem updPart_cur (p : Nat) (f : Part → Part) : (s.updPart p f).cur = s.cur := rfl
@[simp] theorem updPart_plan (p : Nat) (f : Part → Part) : (s.updPart p f).plan = s.plan := rfl
@[simp] theorem updPart_mem (p : Nat) (f : Part → Part) : (s.updPart p f).mem = s.mem := rfl
@[simp] theorem updPart_poison (p : Nat) (f : Part → Part) : (s.updPart p f).poison = s.poison := rfl
@[simp] theorem updPart_window (p : Nat) (f : Part → Part) : (s.updPart p f).window = s.window := rfl
@[simp] theorem updPart_winLo (p : Nat) (f : Part → Part) : (s.updPart p f).winLo = s.winLo := rfl
@[simp] theorem updPart_linkUp (p : Nat) (f : Part → Part) : (s.updPart p f).linkUp = s.linkUp := rfl
@[simp] theorem updPart_boot (p : Nat) (f : Part → Part) : (s.updPart p f).boot = s.boot := rfl
@[simp] theorem updPart_flash0 (p : Nat) (f : Part → Part) : (s.updPart p f).flash0 = s.flash0 := rfl
@[simp] theorem updPart_flash1 (p : Nat) (f : Part → Part) : (s.updPart p f).flash1 = s.flash1 := rfl
@[simp] theorem updPart_house (p : Nat) (f : Part → Part) : (s.updPart p f).house = s.house := rfl
@[simp] theorem updPart_pkg (p : Nat) (f : Part → Part) : (s.updPart p f).pkg = s.pkg := rfl
@[simp] theorem updPart_houseRem (p : Nat) (f : Part → Part) : (s.updPart p f).houseRem = s.houseRem := rfl
@[simp] theorem updPart_calib (p : Nat) (f : Part → Part) : (s.updPart p f).calib = s.calib := rfl
@[simp] theorem updPart_fwDigest (p : Nat) (f : Part → Part) : (s.updPart p f).fwDigest = s.fwDigest := rfl
@[simp] theorem updPart_cfgDigest (p : Nat) (f : Part → Part) : (s.updPart p f).cfgDigest = s.cfgDigest := rfl
@[simp] theorem updPart_image (p : Nat) (f : Part → Part) : (s.updPart p f).image = s.image := rfl
@[simp] theorem updPart_lost (p : Nat) (f : Part → Part) : (s.updPart p f).lost = s.lost := rfl
@[simp] theorem updPart_anchorDue (p : Nat) (f : Part → Part) : (s.updPart p f).anchorDue = s.anchorDue := rfl
@[simp] theorem updPart_l2 (p : Nat) (f : Part → Part) : (s.updPart p f).l2 = s.l2 := rfl
@[simp] theorem updPart_slice (p : Nat) (f : Part → Part) : (s.updPart p f).slice = s.slice := rfl
@[simp] theorem updPart_lags (p : Nat) (f : Part → Part) : (s.updPart p f).lags = s.lags := rfl
@[simp] theorem updPart_reds (p : Nat) (f : Part → Part) : (s.updPart p f).reds = s.reds := rfl
@[simp] theorem updPart_wins (p : Nat) (f : Part → Part) : (s.updPart p f).wins = s.wins := rfl
@[simp] theorem updPart_late (p : Nat) (f : Part → Part) : (s.updPart p f).late = s.late := rfl
@[simp] theorem updPart_winHi (p : Nat) (f : Part → Part) : (s.updPart p f).winHi = s.winHi := rfl
@[simp] theorem updPart_pins (p : Nat) (f : Part → Part) : (s.updPart p f).pins = s.pins := rfl
@[simp] theorem updPart_clus (p : Nat) (f : Part → Part) : (s.updPart p f).clus = s.clus := rfl
@[simp] theorem updPart_cores (p : Nat) (f : Part → Part) : (s.updPart p f).cores = s.cores := rfl
@[simp] theorem updPart_bolts (p : Nat) (f : Part → Part) : (s.updPart p f).bolts = s.bolts := rfl
@[simp] theorem updPart_weaves (p : Nat) (f : Part → Part) : (s.updPart p f).weaves = s.weaves := rfl
@[simp] theorem updPart_strands (p : Nat) (f : Part → Part) : (s.updPart p f).strands = s.strands := rfl
@[simp] theorem updPart_nextKey (p : Nat) (f : Part → Part) : (s.updPart p f).nextKey = s.nextKey := rfl
@[simp] theorem updPart_free (p : Nat) (f : Part → Part) : (s.updPart p f).free = s.free := rfl
@[simp] theorem updPart_ccGroup (p : Nat) (f : Part → Part) : (s.updPart p f).ccGroup = s.ccGroup := rfl
@[simp] theorem updPart_ccElig (p : Nat) (f : Part → Part) : (s.updPart p f).ccElig = s.ccElig := rfl
@[simp] theorem updPart_ccDone (p : Nat) (f : Part → Part) : (s.updPart p f).ccDone = s.ccDone := rfl

@[simp] theorem setCore_time (k : Nat) (c : Cor) : (s.setCore k c).time = s.time := rfl
@[simp] theorem setCore_bound (k : Nat) (c : Cor) : (s.setCore k c).bound = s.bound := rfl
@[simp] theorem setCore_cur (k : Nat) (c : Cor) : (s.setCore k c).cur = s.cur := rfl
@[simp] theorem setCore_plan (k : Nat) (c : Cor) : (s.setCore k c).plan = s.plan := rfl
@[simp] theorem setCore_mem (k : Nat) (c : Cor) : (s.setCore k c).mem = s.mem := rfl
@[simp] theorem setCore_poison (k : Nat) (c : Cor) : (s.setCore k c).poison = s.poison := rfl
@[simp] theorem setCore_window (k : Nat) (c : Cor) : (s.setCore k c).window = s.window := rfl
@[simp] theorem setCore_winLo (k : Nat) (c : Cor) : (s.setCore k c).winLo = s.winLo := rfl
@[simp] theorem setCore_linkUp (k : Nat) (c : Cor) : (s.setCore k c).linkUp = s.linkUp := rfl
@[simp] theorem setCore_boot (k : Nat) (c : Cor) : (s.setCore k c).boot = s.boot := rfl
@[simp] theorem setCore_flash0 (k : Nat) (c : Cor) : (s.setCore k c).flash0 = s.flash0 := rfl
@[simp] theorem setCore_flash1 (k : Nat) (c : Cor) : (s.setCore k c).flash1 = s.flash1 := rfl
@[simp] theorem setCore_house (k : Nat) (c : Cor) : (s.setCore k c).house = s.house := rfl
@[simp] theorem setCore_pkg (k : Nat) (c : Cor) : (s.setCore k c).pkg = s.pkg := rfl
@[simp] theorem setCore_houseRem (k : Nat) (c : Cor) : (s.setCore k c).houseRem = s.houseRem := rfl
@[simp] theorem setCore_calib (k : Nat) (c : Cor) : (s.setCore k c).calib = s.calib := rfl
@[simp] theorem setCore_fwDigest (k : Nat) (c : Cor) : (s.setCore k c).fwDigest = s.fwDigest := rfl
@[simp] theorem setCore_cfgDigest (k : Nat) (c : Cor) : (s.setCore k c).cfgDigest = s.cfgDigest := rfl
@[simp] theorem setCore_image (k : Nat) (c : Cor) : (s.setCore k c).image = s.image := rfl
@[simp] theorem setCore_lost (k : Nat) (c : Cor) : (s.setCore k c).lost = s.lost := rfl
@[simp] theorem setCore_anchorDue (k : Nat) (c : Cor) : (s.setCore k c).anchorDue = s.anchorDue := rfl
@[simp] theorem setCore_l2 (k : Nat) (c : Cor) : (s.setCore k c).l2 = s.l2 := rfl
@[simp] theorem setCore_slice (k : Nat) (c : Cor) : (s.setCore k c).slice = s.slice := rfl
@[simp] theorem setCore_lags (k : Nat) (c : Cor) : (s.setCore k c).lags = s.lags := rfl
@[simp] theorem setCore_reds (k : Nat) (c : Cor) : (s.setCore k c).reds = s.reds := rfl
@[simp] theorem setCore_wins (k : Nat) (c : Cor) : (s.setCore k c).wins = s.wins := rfl
@[simp] theorem setCore_late (k : Nat) (c : Cor) : (s.setCore k c).late = s.late := rfl
@[simp] theorem setCore_winHi (k : Nat) (c : Cor) : (s.setCore k c).winHi = s.winHi := rfl
@[simp] theorem setCore_pins (k : Nat) (c : Cor) : (s.setCore k c).pins = s.pins := rfl
@[simp] theorem setCore_parts (k : Nat) (c : Cor) : (s.setCore k c).parts = s.parts := rfl
@[simp] theorem setCore_clus (k : Nat) (c : Cor) : (s.setCore k c).clus = s.clus := rfl
@[simp] theorem setCore_bolts (k : Nat) (c : Cor) : (s.setCore k c).bolts = s.bolts := rfl
@[simp] theorem setCore_weaves (k : Nat) (c : Cor) : (s.setCore k c).weaves = s.weaves := rfl
@[simp] theorem setCore_strands (k : Nat) (c : Cor) : (s.setCore k c).strands = s.strands := rfl
@[simp] theorem setCore_nextKey (k : Nat) (c : Cor) : (s.setCore k c).nextKey = s.nextKey := rfl
@[simp] theorem setCore_free (k : Nat) (c : Cor) : (s.setCore k c).free = s.free := rfl
@[simp] theorem setCore_ccGroup (k : Nat) (c : Cor) : (s.setCore k c).ccGroup = s.ccGroup := rfl
@[simp] theorem setCore_ccElig (k : Nat) (c : Cor) : (s.setCore k c).ccElig = s.ccElig := rfl
@[simp] theorem setCore_ccDone (k : Nat) (c : Cor) : (s.setCore k c).ccDone = s.ccDone := rfl

@[simp] theorem setClu_time (k : Nat) (c : Clu) : (s.setClu k c).time = s.time := rfl
@[simp] theorem setClu_bound (k : Nat) (c : Clu) : (s.setClu k c).bound = s.bound := rfl
@[simp] theorem setClu_cur (k : Nat) (c : Clu) : (s.setClu k c).cur = s.cur := rfl
@[simp] theorem setClu_plan (k : Nat) (c : Clu) : (s.setClu k c).plan = s.plan := rfl
@[simp] theorem setClu_mem (k : Nat) (c : Clu) : (s.setClu k c).mem = s.mem := rfl
@[simp] theorem setClu_poison (k : Nat) (c : Clu) : (s.setClu k c).poison = s.poison := rfl
@[simp] theorem setClu_window (k : Nat) (c : Clu) : (s.setClu k c).window = s.window := rfl
@[simp] theorem setClu_winLo (k : Nat) (c : Clu) : (s.setClu k c).winLo = s.winLo := rfl
@[simp] theorem setClu_linkUp (k : Nat) (c : Clu) : (s.setClu k c).linkUp = s.linkUp := rfl
@[simp] theorem setClu_boot (k : Nat) (c : Clu) : (s.setClu k c).boot = s.boot := rfl
@[simp] theorem setClu_flash0 (k : Nat) (c : Clu) : (s.setClu k c).flash0 = s.flash0 := rfl
@[simp] theorem setClu_flash1 (k : Nat) (c : Clu) : (s.setClu k c).flash1 = s.flash1 := rfl
@[simp] theorem setClu_house (k : Nat) (c : Clu) : (s.setClu k c).house = s.house := rfl
@[simp] theorem setClu_pkg (k : Nat) (c : Clu) : (s.setClu k c).pkg = s.pkg := rfl
@[simp] theorem setClu_houseRem (k : Nat) (c : Clu) : (s.setClu k c).houseRem = s.houseRem := rfl
@[simp] theorem setClu_calib (k : Nat) (c : Clu) : (s.setClu k c).calib = s.calib := rfl
@[simp] theorem setClu_fwDigest (k : Nat) (c : Clu) : (s.setClu k c).fwDigest = s.fwDigest := rfl
@[simp] theorem setClu_cfgDigest (k : Nat) (c : Clu) : (s.setClu k c).cfgDigest = s.cfgDigest := rfl
@[simp] theorem setClu_image (k : Nat) (c : Clu) : (s.setClu k c).image = s.image := rfl
@[simp] theorem setClu_lost (k : Nat) (c : Clu) : (s.setClu k c).lost = s.lost := rfl
@[simp] theorem setClu_anchorDue (k : Nat) (c : Clu) : (s.setClu k c).anchorDue = s.anchorDue := rfl
@[simp] theorem setClu_l2 (k : Nat) (c : Clu) : (s.setClu k c).l2 = s.l2 := rfl
@[simp] theorem setClu_slice (k : Nat) (c : Clu) : (s.setClu k c).slice = s.slice := rfl
@[simp] theorem setClu_lags (k : Nat) (c : Clu) : (s.setClu k c).lags = s.lags := rfl
@[simp] theorem setClu_reds (k : Nat) (c : Clu) : (s.setClu k c).reds = s.reds := rfl
@[simp] theorem setClu_wins (k : Nat) (c : Clu) : (s.setClu k c).wins = s.wins := rfl
@[simp] theorem setClu_late (k : Nat) (c : Clu) : (s.setClu k c).late = s.late := rfl
@[simp] theorem setClu_winHi (k : Nat) (c : Clu) : (s.setClu k c).winHi = s.winHi := rfl
@[simp] theorem setClu_pins (k : Nat) (c : Clu) : (s.setClu k c).pins = s.pins := rfl
@[simp] theorem setClu_parts (k : Nat) (c : Clu) : (s.setClu k c).parts = s.parts := rfl
@[simp] theorem setClu_cores (k : Nat) (c : Clu) : (s.setClu k c).cores = s.cores := rfl
@[simp] theorem setClu_bolts (k : Nat) (c : Clu) : (s.setClu k c).bolts = s.bolts := rfl
@[simp] theorem setClu_weaves (k : Nat) (c : Clu) : (s.setClu k c).weaves = s.weaves := rfl
@[simp] theorem setClu_strands (k : Nat) (c : Clu) : (s.setClu k c).strands = s.strands := rfl
@[simp] theorem setClu_nextKey (k : Nat) (c : Clu) : (s.setClu k c).nextKey = s.nextKey := rfl
@[simp] theorem setClu_free (k : Nat) (c : Clu) : (s.setClu k c).free = s.free := rfl
@[simp] theorem setClu_ccGroup (k : Nat) (c : Clu) : (s.setClu k c).ccGroup = s.ccGroup := rfl
@[simp] theorem setClu_ccElig (k : Nat) (c : Clu) : (s.setClu k c).ccElig = s.ccElig := rfl
@[simp] theorem setClu_ccDone (k : Nat) (c : Clu) : (s.setClu k c).ccDone = s.ccDone := rfl

@[simp] theorem setStrand_time (k : Nat) (t : Strand) : (s.setStrand k t).time = s.time := rfl
@[simp] theorem setStrand_bound (k : Nat) (t : Strand) : (s.setStrand k t).bound = s.bound := rfl
@[simp] theorem setStrand_cur (k : Nat) (t : Strand) : (s.setStrand k t).cur = s.cur := rfl
@[simp] theorem setStrand_plan (k : Nat) (t : Strand) : (s.setStrand k t).plan = s.plan := rfl
@[simp] theorem setStrand_mem (k : Nat) (t : Strand) : (s.setStrand k t).mem = s.mem := rfl
@[simp] theorem setStrand_poison (k : Nat) (t : Strand) : (s.setStrand k t).poison = s.poison := rfl
@[simp] theorem setStrand_window (k : Nat) (t : Strand) : (s.setStrand k t).window = s.window := rfl
@[simp] theorem setStrand_winLo (k : Nat) (t : Strand) : (s.setStrand k t).winLo = s.winLo := rfl
@[simp] theorem setStrand_linkUp (k : Nat) (t : Strand) : (s.setStrand k t).linkUp = s.linkUp := rfl
@[simp] theorem setStrand_boot (k : Nat) (t : Strand) : (s.setStrand k t).boot = s.boot := rfl
@[simp] theorem setStrand_flash0 (k : Nat) (t : Strand) : (s.setStrand k t).flash0 = s.flash0 := rfl
@[simp] theorem setStrand_flash1 (k : Nat) (t : Strand) : (s.setStrand k t).flash1 = s.flash1 := rfl
@[simp] theorem setStrand_house (k : Nat) (t : Strand) : (s.setStrand k t).house = s.house := rfl
@[simp] theorem setStrand_pkg (k : Nat) (t : Strand) : (s.setStrand k t).pkg = s.pkg := rfl
@[simp] theorem setStrand_houseRem (k : Nat) (t : Strand) : (s.setStrand k t).houseRem = s.houseRem := rfl
@[simp] theorem setStrand_calib (k : Nat) (t : Strand) : (s.setStrand k t).calib = s.calib := rfl
@[simp] theorem setStrand_fwDigest (k : Nat) (t : Strand) : (s.setStrand k t).fwDigest = s.fwDigest := rfl
@[simp] theorem setStrand_cfgDigest (k : Nat) (t : Strand) : (s.setStrand k t).cfgDigest = s.cfgDigest := rfl
@[simp] theorem setStrand_image (k : Nat) (t : Strand) : (s.setStrand k t).image = s.image := rfl
@[simp] theorem setStrand_lost (k : Nat) (t : Strand) : (s.setStrand k t).lost = s.lost := rfl
@[simp] theorem setStrand_anchorDue (k : Nat) (t : Strand) : (s.setStrand k t).anchorDue = s.anchorDue := rfl
@[simp] theorem setStrand_l2 (k : Nat) (t : Strand) : (s.setStrand k t).l2 = s.l2 := rfl
@[simp] theorem setStrand_slice (k : Nat) (t : Strand) : (s.setStrand k t).slice = s.slice := rfl
@[simp] theorem setStrand_lags (k : Nat) (t : Strand) : (s.setStrand k t).lags = s.lags := rfl
@[simp] theorem setStrand_reds (k : Nat) (t : Strand) : (s.setStrand k t).reds = s.reds := rfl
@[simp] theorem setStrand_wins (k : Nat) (t : Strand) : (s.setStrand k t).wins = s.wins := rfl
@[simp] theorem setStrand_late (k : Nat) (t : Strand) : (s.setStrand k t).late = s.late := rfl
@[simp] theorem setStrand_winHi (k : Nat) (t : Strand) : (s.setStrand k t).winHi = s.winHi := rfl
@[simp] theorem setStrand_pins (k : Nat) (t : Strand) : (s.setStrand k t).pins = s.pins := rfl
@[simp] theorem setStrand_parts (k : Nat) (t : Strand) : (s.setStrand k t).parts = s.parts := rfl
@[simp] theorem setStrand_clus (k : Nat) (t : Strand) : (s.setStrand k t).clus = s.clus := rfl
@[simp] theorem setStrand_cores (k : Nat) (t : Strand) : (s.setStrand k t).cores = s.cores := rfl
@[simp] theorem setStrand_bolts (k : Nat) (t : Strand) : (s.setStrand k t).bolts = s.bolts := rfl
@[simp] theorem setStrand_weaves (k : Nat) (t : Strand) : (s.setStrand k t).weaves = s.weaves := rfl
@[simp] theorem setStrand_nextKey (k : Nat) (t : Strand) : (s.setStrand k t).nextKey = s.nextKey := rfl
@[simp] theorem setStrand_free (k : Nat) (t : Strand) : (s.setStrand k t).free = s.free := rfl
@[simp] theorem setStrand_ccGroup (k : Nat) (t : Strand) : (s.setStrand k t).ccGroup = s.ccGroup := rfl
@[simp] theorem setStrand_ccElig (k : Nat) (t : Strand) : (s.setStrand k t).ccElig = s.ccElig := rfl
@[simp] theorem setStrand_ccDone (k : Nat) (t : Strand) : (s.setStrand k t).ccDone = s.ccDone := rfl

@[simp] theorem updStrand_time (k : Nat) (f : Strand → Strand) : (s.updStrand k f).time = s.time := rfl
@[simp] theorem updStrand_bound (k : Nat) (f : Strand → Strand) : (s.updStrand k f).bound = s.bound := rfl
@[simp] theorem updStrand_cur (k : Nat) (f : Strand → Strand) : (s.updStrand k f).cur = s.cur := rfl
@[simp] theorem updStrand_plan (k : Nat) (f : Strand → Strand) : (s.updStrand k f).plan = s.plan := rfl
@[simp] theorem updStrand_mem (k : Nat) (f : Strand → Strand) : (s.updStrand k f).mem = s.mem := rfl
@[simp] theorem updStrand_poison (k : Nat) (f : Strand → Strand) : (s.updStrand k f).poison = s.poison := rfl
@[simp] theorem updStrand_window (k : Nat) (f : Strand → Strand) : (s.updStrand k f).window = s.window := rfl
@[simp] theorem updStrand_winLo (k : Nat) (f : Strand → Strand) : (s.updStrand k f).winLo = s.winLo := rfl
@[simp] theorem updStrand_linkUp (k : Nat) (f : Strand → Strand) : (s.updStrand k f).linkUp = s.linkUp := rfl
@[simp] theorem updStrand_boot (k : Nat) (f : Strand → Strand) : (s.updStrand k f).boot = s.boot := rfl
@[simp] theorem updStrand_flash0 (k : Nat) (f : Strand → Strand) : (s.updStrand k f).flash0 = s.flash0 := rfl
@[simp] theorem updStrand_flash1 (k : Nat) (f : Strand → Strand) : (s.updStrand k f).flash1 = s.flash1 := rfl
@[simp] theorem updStrand_house (k : Nat) (f : Strand → Strand) : (s.updStrand k f).house = s.house := rfl
@[simp] theorem updStrand_pkg (k : Nat) (f : Strand → Strand) : (s.updStrand k f).pkg = s.pkg := rfl
@[simp] theorem updStrand_houseRem (k : Nat) (f : Strand → Strand) : (s.updStrand k f).houseRem = s.houseRem := rfl
@[simp] theorem updStrand_calib (k : Nat) (f : Strand → Strand) : (s.updStrand k f).calib = s.calib := rfl
@[simp] theorem updStrand_fwDigest (k : Nat) (f : Strand → Strand) : (s.updStrand k f).fwDigest = s.fwDigest := rfl
@[simp] theorem updStrand_cfgDigest (k : Nat) (f : Strand → Strand) : (s.updStrand k f).cfgDigest = s.cfgDigest := rfl
@[simp] theorem updStrand_image (k : Nat) (f : Strand → Strand) : (s.updStrand k f).image = s.image := rfl
@[simp] theorem updStrand_lost (k : Nat) (f : Strand → Strand) : (s.updStrand k f).lost = s.lost := rfl
@[simp] theorem updStrand_anchorDue (k : Nat) (f : Strand → Strand) : (s.updStrand k f).anchorDue = s.anchorDue := rfl
@[simp] theorem updStrand_l2 (k : Nat) (f : Strand → Strand) : (s.updStrand k f).l2 = s.l2 := rfl
@[simp] theorem updStrand_slice (k : Nat) (f : Strand → Strand) : (s.updStrand k f).slice = s.slice := rfl
@[simp] theorem updStrand_lags (k : Nat) (f : Strand → Strand) : (s.updStrand k f).lags = s.lags := rfl
@[simp] theorem updStrand_reds (k : Nat) (f : Strand → Strand) : (s.updStrand k f).reds = s.reds := rfl
@[simp] theorem updStrand_wins (k : Nat) (f : Strand → Strand) : (s.updStrand k f).wins = s.wins := rfl
@[simp] theorem updStrand_late (k : Nat) (f : Strand → Strand) : (s.updStrand k f).late = s.late := rfl
@[simp] theorem updStrand_winHi (k : Nat) (f : Strand → Strand) : (s.updStrand k f).winHi = s.winHi := rfl
@[simp] theorem updStrand_pins (k : Nat) (f : Strand → Strand) : (s.updStrand k f).pins = s.pins := rfl
@[simp] theorem updStrand_parts (k : Nat) (f : Strand → Strand) : (s.updStrand k f).parts = s.parts := rfl
@[simp] theorem updStrand_clus (k : Nat) (f : Strand → Strand) : (s.updStrand k f).clus = s.clus := rfl
@[simp] theorem updStrand_cores (k : Nat) (f : Strand → Strand) : (s.updStrand k f).cores = s.cores := rfl
@[simp] theorem updStrand_bolts (k : Nat) (f : Strand → Strand) : (s.updStrand k f).bolts = s.bolts := rfl
@[simp] theorem updStrand_weaves (k : Nat) (f : Strand → Strand) : (s.updStrand k f).weaves = s.weaves := rfl
@[simp] theorem updStrand_nextKey (k : Nat) (f : Strand → Strand) : (s.updStrand k f).nextKey = s.nextKey := rfl
@[simp] theorem updStrand_free (k : Nat) (f : Strand → Strand) : (s.updStrand k f).free = s.free := rfl
@[simp] theorem updStrand_ccGroup (k : Nat) (f : Strand → Strand) : (s.updStrand k f).ccGroup = s.ccGroup := rfl
@[simp] theorem updStrand_ccElig (k : Nat) (f : Strand → Strand) : (s.updStrand k f).ccElig = s.ccElig := rfl
@[simp] theorem updStrand_ccDone (k : Nat) (f : Strand → Strand) : (s.updStrand k f).ccDone = s.ccDone := rfl

@[simp] theorem setCur_time (t : Strand) : (s.setCur t).time = s.time := rfl
@[simp] theorem setCur_bound (t : Strand) : (s.setCur t).bound = s.bound := rfl
@[simp] theorem setCur_cur (t : Strand) : (s.setCur t).cur = s.cur := rfl
@[simp] theorem setCur_plan (t : Strand) : (s.setCur t).plan = s.plan := rfl
@[simp] theorem setCur_mem (t : Strand) : (s.setCur t).mem = s.mem := rfl
@[simp] theorem setCur_poison (t : Strand) : (s.setCur t).poison = s.poison := rfl
@[simp] theorem setCur_window (t : Strand) : (s.setCur t).window = s.window := rfl
@[simp] theorem setCur_winLo (t : Strand) : (s.setCur t).winLo = s.winLo := rfl
@[simp] theorem setCur_linkUp (t : Strand) : (s.setCur t).linkUp = s.linkUp := rfl
@[simp] theorem setCur_boot (t : Strand) : (s.setCur t).boot = s.boot := rfl
@[simp] theorem setCur_flash0 (t : Strand) : (s.setCur t).flash0 = s.flash0 := rfl
@[simp] theorem setCur_flash1 (t : Strand) : (s.setCur t).flash1 = s.flash1 := rfl
@[simp] theorem setCur_house (t : Strand) : (s.setCur t).house = s.house := rfl
@[simp] theorem setCur_pkg (t : Strand) : (s.setCur t).pkg = s.pkg := rfl
@[simp] theorem setCur_houseRem (t : Strand) : (s.setCur t).houseRem = s.houseRem := rfl
@[simp] theorem setCur_calib (t : Strand) : (s.setCur t).calib = s.calib := rfl
@[simp] theorem setCur_fwDigest (t : Strand) : (s.setCur t).fwDigest = s.fwDigest := rfl
@[simp] theorem setCur_cfgDigest (t : Strand) : (s.setCur t).cfgDigest = s.cfgDigest := rfl
@[simp] theorem setCur_image (t : Strand) : (s.setCur t).image = s.image := rfl
@[simp] theorem setCur_lost (t : Strand) : (s.setCur t).lost = s.lost := rfl
@[simp] theorem setCur_anchorDue (t : Strand) : (s.setCur t).anchorDue = s.anchorDue := rfl
@[simp] theorem setCur_l2 (t : Strand) : (s.setCur t).l2 = s.l2 := rfl
@[simp] theorem setCur_slice (t : Strand) : (s.setCur t).slice = s.slice := rfl
@[simp] theorem setCur_lags (t : Strand) : (s.setCur t).lags = s.lags := rfl
@[simp] theorem setCur_reds (t : Strand) : (s.setCur t).reds = s.reds := rfl
@[simp] theorem setCur_wins (t : Strand) : (s.setCur t).wins = s.wins := rfl
@[simp] theorem setCur_late (t : Strand) : (s.setCur t).late = s.late := rfl
@[simp] theorem setCur_winHi (t : Strand) : (s.setCur t).winHi = s.winHi := rfl
@[simp] theorem setCur_pins (t : Strand) : (s.setCur t).pins = s.pins := rfl
@[simp] theorem setCur_parts (t : Strand) : (s.setCur t).parts = s.parts := rfl
@[simp] theorem setCur_clus (t : Strand) : (s.setCur t).clus = s.clus := rfl
@[simp] theorem setCur_cores (t : Strand) : (s.setCur t).cores = s.cores := rfl
@[simp] theorem setCur_bolts (t : Strand) : (s.setCur t).bolts = s.bolts := rfl
@[simp] theorem setCur_weaves (t : Strand) : (s.setCur t).weaves = s.weaves := rfl
@[simp] theorem setCur_nextKey (t : Strand) : (s.setCur t).nextKey = s.nextKey := rfl
@[simp] theorem setCur_free (t : Strand) : (s.setCur t).free = s.free := rfl
@[simp] theorem setCur_ccGroup (t : Strand) : (s.setCur t).ccGroup = s.ccGroup := rfl
@[simp] theorem setCur_ccElig (t : Strand) : (s.setCur t).ccElig = s.ccElig := rfl
@[simp] theorem setCur_ccDone (t : Strand) : (s.setCur t).ccDone = s.ccDone := rfl

@[simp] theorem setWeave_time (k : Nat) (w : Weave) : (s.setWeave k w).time = s.time := rfl
@[simp] theorem setWeave_bound (k : Nat) (w : Weave) : (s.setWeave k w).bound = s.bound := rfl
@[simp] theorem setWeave_cur (k : Nat) (w : Weave) : (s.setWeave k w).cur = s.cur := rfl
@[simp] theorem setWeave_plan (k : Nat) (w : Weave) : (s.setWeave k w).plan = s.plan := rfl
@[simp] theorem setWeave_mem (k : Nat) (w : Weave) : (s.setWeave k w).mem = s.mem := rfl
@[simp] theorem setWeave_poison (k : Nat) (w : Weave) : (s.setWeave k w).poison = s.poison := rfl
@[simp] theorem setWeave_window (k : Nat) (w : Weave) : (s.setWeave k w).window = s.window := rfl
@[simp] theorem setWeave_winLo (k : Nat) (w : Weave) : (s.setWeave k w).winLo = s.winLo := rfl
@[simp] theorem setWeave_linkUp (k : Nat) (w : Weave) : (s.setWeave k w).linkUp = s.linkUp := rfl
@[simp] theorem setWeave_boot (k : Nat) (w : Weave) : (s.setWeave k w).boot = s.boot := rfl
@[simp] theorem setWeave_flash0 (k : Nat) (w : Weave) : (s.setWeave k w).flash0 = s.flash0 := rfl
@[simp] theorem setWeave_flash1 (k : Nat) (w : Weave) : (s.setWeave k w).flash1 = s.flash1 := rfl
@[simp] theorem setWeave_house (k : Nat) (w : Weave) : (s.setWeave k w).house = s.house := rfl
@[simp] theorem setWeave_pkg (k : Nat) (w : Weave) : (s.setWeave k w).pkg = s.pkg := rfl
@[simp] theorem setWeave_houseRem (k : Nat) (w : Weave) : (s.setWeave k w).houseRem = s.houseRem := rfl
@[simp] theorem setWeave_calib (k : Nat) (w : Weave) : (s.setWeave k w).calib = s.calib := rfl
@[simp] theorem setWeave_fwDigest (k : Nat) (w : Weave) : (s.setWeave k w).fwDigest = s.fwDigest := rfl
@[simp] theorem setWeave_cfgDigest (k : Nat) (w : Weave) : (s.setWeave k w).cfgDigest = s.cfgDigest := rfl
@[simp] theorem setWeave_image (k : Nat) (w : Weave) : (s.setWeave k w).image = s.image := rfl
@[simp] theorem setWeave_lost (k : Nat) (w : Weave) : (s.setWeave k w).lost = s.lost := rfl
@[simp] theorem setWeave_anchorDue (k : Nat) (w : Weave) : (s.setWeave k w).anchorDue = s.anchorDue := rfl
@[simp] theorem setWeave_l2 (k : Nat) (w : Weave) : (s.setWeave k w).l2 = s.l2 := rfl
@[simp] theorem setWeave_slice (k : Nat) (w : Weave) : (s.setWeave k w).slice = s.slice := rfl
@[simp] theorem setWeave_lags (k : Nat) (w : Weave) : (s.setWeave k w).lags = s.lags := rfl
@[simp] theorem setWeave_reds (k : Nat) (w : Weave) : (s.setWeave k w).reds = s.reds := rfl
@[simp] theorem setWeave_wins (k : Nat) (w : Weave) : (s.setWeave k w).wins = s.wins := rfl
@[simp] theorem setWeave_late (k : Nat) (w : Weave) : (s.setWeave k w).late = s.late := rfl
@[simp] theorem setWeave_winHi (k : Nat) (w : Weave) : (s.setWeave k w).winHi = s.winHi := rfl
@[simp] theorem setWeave_pins (k : Nat) (w : Weave) : (s.setWeave k w).pins = s.pins := rfl
@[simp] theorem setWeave_parts (k : Nat) (w : Weave) : (s.setWeave k w).parts = s.parts := rfl
@[simp] theorem setWeave_clus (k : Nat) (w : Weave) : (s.setWeave k w).clus = s.clus := rfl
@[simp] theorem setWeave_cores (k : Nat) (w : Weave) : (s.setWeave k w).cores = s.cores := rfl
@[simp] theorem setWeave_bolts (k : Nat) (w : Weave) : (s.setWeave k w).bolts = s.bolts := rfl
@[simp] theorem setWeave_strands (k : Nat) (w : Weave) : (s.setWeave k w).strands = s.strands := rfl
@[simp] theorem setWeave_nextKey (k : Nat) (w : Weave) : (s.setWeave k w).nextKey = s.nextKey := rfl
@[simp] theorem setWeave_free (k : Nat) (w : Weave) : (s.setWeave k w).free = s.free := rfl
@[simp] theorem setWeave_ccGroup (k : Nat) (w : Weave) : (s.setWeave k w).ccGroup = s.ccGroup := rfl
@[simp] theorem setWeave_ccElig (k : Nat) (w : Weave) : (s.setWeave k w).ccElig = s.ccElig := rfl
@[simp] theorem setWeave_ccDone (k : Nat) (w : Weave) : (s.setWeave k w).ccDone = s.ccDone := rfl

@[simp] theorem updWeave_time (k : Nat) (f : Weave → Weave) : (s.updWeave k f).time = s.time := rfl
@[simp] theorem updWeave_bound (k : Nat) (f : Weave → Weave) : (s.updWeave k f).bound = s.bound := rfl
@[simp] theorem updWeave_cur (k : Nat) (f : Weave → Weave) : (s.updWeave k f).cur = s.cur := rfl
@[simp] theorem updWeave_plan (k : Nat) (f : Weave → Weave) : (s.updWeave k f).plan = s.plan := rfl
@[simp] theorem updWeave_mem (k : Nat) (f : Weave → Weave) : (s.updWeave k f).mem = s.mem := rfl
@[simp] theorem updWeave_poison (k : Nat) (f : Weave → Weave) : (s.updWeave k f).poison = s.poison := rfl
@[simp] theorem updWeave_window (k : Nat) (f : Weave → Weave) : (s.updWeave k f).window = s.window := rfl
@[simp] theorem updWeave_winLo (k : Nat) (f : Weave → Weave) : (s.updWeave k f).winLo = s.winLo := rfl
@[simp] theorem updWeave_linkUp (k : Nat) (f : Weave → Weave) : (s.updWeave k f).linkUp = s.linkUp := rfl
@[simp] theorem updWeave_boot (k : Nat) (f : Weave → Weave) : (s.updWeave k f).boot = s.boot := rfl
@[simp] theorem updWeave_flash0 (k : Nat) (f : Weave → Weave) : (s.updWeave k f).flash0 = s.flash0 := rfl
@[simp] theorem updWeave_flash1 (k : Nat) (f : Weave → Weave) : (s.updWeave k f).flash1 = s.flash1 := rfl
@[simp] theorem updWeave_house (k : Nat) (f : Weave → Weave) : (s.updWeave k f).house = s.house := rfl
@[simp] theorem updWeave_pkg (k : Nat) (f : Weave → Weave) : (s.updWeave k f).pkg = s.pkg := rfl
@[simp] theorem updWeave_houseRem (k : Nat) (f : Weave → Weave) : (s.updWeave k f).houseRem = s.houseRem := rfl
@[simp] theorem updWeave_calib (k : Nat) (f : Weave → Weave) : (s.updWeave k f).calib = s.calib := rfl
@[simp] theorem updWeave_fwDigest (k : Nat) (f : Weave → Weave) : (s.updWeave k f).fwDigest = s.fwDigest := rfl
@[simp] theorem updWeave_cfgDigest (k : Nat) (f : Weave → Weave) : (s.updWeave k f).cfgDigest = s.cfgDigest := rfl
@[simp] theorem updWeave_image (k : Nat) (f : Weave → Weave) : (s.updWeave k f).image = s.image := rfl
@[simp] theorem updWeave_lost (k : Nat) (f : Weave → Weave) : (s.updWeave k f).lost = s.lost := rfl
@[simp] theorem updWeave_anchorDue (k : Nat) (f : Weave → Weave) : (s.updWeave k f).anchorDue = s.anchorDue := rfl
@[simp] theorem updWeave_l2 (k : Nat) (f : Weave → Weave) : (s.updWeave k f).l2 = s.l2 := rfl
@[simp] theorem updWeave_slice (k : Nat) (f : Weave → Weave) : (s.updWeave k f).slice = s.slice := rfl
@[simp] theorem updWeave_lags (k : Nat) (f : Weave → Weave) : (s.updWeave k f).lags = s.lags := rfl
@[simp] theorem updWeave_reds (k : Nat) (f : Weave → Weave) : (s.updWeave k f).reds = s.reds := rfl
@[simp] theorem updWeave_wins (k : Nat) (f : Weave → Weave) : (s.updWeave k f).wins = s.wins := rfl
@[simp] theorem updWeave_late (k : Nat) (f : Weave → Weave) : (s.updWeave k f).late = s.late := rfl
@[simp] theorem updWeave_winHi (k : Nat) (f : Weave → Weave) : (s.updWeave k f).winHi = s.winHi := rfl
@[simp] theorem updWeave_pins (k : Nat) (f : Weave → Weave) : (s.updWeave k f).pins = s.pins := rfl
@[simp] theorem updWeave_parts (k : Nat) (f : Weave → Weave) : (s.updWeave k f).parts = s.parts := rfl
@[simp] theorem updWeave_clus (k : Nat) (f : Weave → Weave) : (s.updWeave k f).clus = s.clus := rfl
@[simp] theorem updWeave_cores (k : Nat) (f : Weave → Weave) : (s.updWeave k f).cores = s.cores := rfl
@[simp] theorem updWeave_bolts (k : Nat) (f : Weave → Weave) : (s.updWeave k f).bolts = s.bolts := rfl
@[simp] theorem updWeave_strands (k : Nat) (f : Weave → Weave) : (s.updWeave k f).strands = s.strands := rfl
@[simp] theorem updWeave_nextKey (k : Nat) (f : Weave → Weave) : (s.updWeave k f).nextKey = s.nextKey := rfl
@[simp] theorem updWeave_free (k : Nat) (f : Weave → Weave) : (s.updWeave k f).free = s.free := rfl
@[simp] theorem updWeave_ccGroup (k : Nat) (f : Weave → Weave) : (s.updWeave k f).ccGroup = s.ccGroup := rfl
@[simp] theorem updWeave_ccElig (k : Nat) (f : Weave → Weave) : (s.updWeave k f).ccElig = s.ccElig := rfl
@[simp] theorem updWeave_ccDone (k : Nat) (f : Weave → Weave) : (s.updWeave k f).ccDone = s.ccDone := rfl

@[simp] theorem setBolt_time (k : Nat) (b : Bolt) : (s.setBolt k b).time = s.time := rfl
@[simp] theorem setBolt_bound (k : Nat) (b : Bolt) : (s.setBolt k b).bound = s.bound := rfl
@[simp] theorem setBolt_cur (k : Nat) (b : Bolt) : (s.setBolt k b).cur = s.cur := rfl
@[simp] theorem setBolt_plan (k : Nat) (b : Bolt) : (s.setBolt k b).plan = s.plan := rfl
@[simp] theorem setBolt_mem (k : Nat) (b : Bolt) : (s.setBolt k b).mem = s.mem := rfl
@[simp] theorem setBolt_poison (k : Nat) (b : Bolt) : (s.setBolt k b).poison = s.poison := rfl
@[simp] theorem setBolt_window (k : Nat) (b : Bolt) : (s.setBolt k b).window = s.window := rfl
@[simp] theorem setBolt_winLo (k : Nat) (b : Bolt) : (s.setBolt k b).winLo = s.winLo := rfl
@[simp] theorem setBolt_linkUp (k : Nat) (b : Bolt) : (s.setBolt k b).linkUp = s.linkUp := rfl
@[simp] theorem setBolt_boot (k : Nat) (b : Bolt) : (s.setBolt k b).boot = s.boot := rfl
@[simp] theorem setBolt_flash0 (k : Nat) (b : Bolt) : (s.setBolt k b).flash0 = s.flash0 := rfl
@[simp] theorem setBolt_flash1 (k : Nat) (b : Bolt) : (s.setBolt k b).flash1 = s.flash1 := rfl
@[simp] theorem setBolt_house (k : Nat) (b : Bolt) : (s.setBolt k b).house = s.house := rfl
@[simp] theorem setBolt_pkg (k : Nat) (b : Bolt) : (s.setBolt k b).pkg = s.pkg := rfl
@[simp] theorem setBolt_houseRem (k : Nat) (b : Bolt) : (s.setBolt k b).houseRem = s.houseRem := rfl
@[simp] theorem setBolt_calib (k : Nat) (b : Bolt) : (s.setBolt k b).calib = s.calib := rfl
@[simp] theorem setBolt_fwDigest (k : Nat) (b : Bolt) : (s.setBolt k b).fwDigest = s.fwDigest := rfl
@[simp] theorem setBolt_cfgDigest (k : Nat) (b : Bolt) : (s.setBolt k b).cfgDigest = s.cfgDigest := rfl
@[simp] theorem setBolt_image (k : Nat) (b : Bolt) : (s.setBolt k b).image = s.image := rfl
@[simp] theorem setBolt_lost (k : Nat) (b : Bolt) : (s.setBolt k b).lost = s.lost := rfl
@[simp] theorem setBolt_anchorDue (k : Nat) (b : Bolt) : (s.setBolt k b).anchorDue = s.anchorDue := rfl
@[simp] theorem setBolt_l2 (k : Nat) (b : Bolt) : (s.setBolt k b).l2 = s.l2 := rfl
@[simp] theorem setBolt_slice (k : Nat) (b : Bolt) : (s.setBolt k b).slice = s.slice := rfl
@[simp] theorem setBolt_lags (k : Nat) (b : Bolt) : (s.setBolt k b).lags = s.lags := rfl
@[simp] theorem setBolt_reds (k : Nat) (b : Bolt) : (s.setBolt k b).reds = s.reds := rfl
@[simp] theorem setBolt_wins (k : Nat) (b : Bolt) : (s.setBolt k b).wins = s.wins := rfl
@[simp] theorem setBolt_late (k : Nat) (b : Bolt) : (s.setBolt k b).late = s.late := rfl
@[simp] theorem setBolt_winHi (k : Nat) (b : Bolt) : (s.setBolt k b).winHi = s.winHi := rfl
@[simp] theorem setBolt_pins (k : Nat) (b : Bolt) : (s.setBolt k b).pins = s.pins := rfl
@[simp] theorem setBolt_parts (k : Nat) (b : Bolt) : (s.setBolt k b).parts = s.parts := rfl
@[simp] theorem setBolt_clus (k : Nat) (b : Bolt) : (s.setBolt k b).clus = s.clus := rfl
@[simp] theorem setBolt_cores (k : Nat) (b : Bolt) : (s.setBolt k b).cores = s.cores := rfl
@[simp] theorem setBolt_weaves (k : Nat) (b : Bolt) : (s.setBolt k b).weaves = s.weaves := rfl
@[simp] theorem setBolt_strands (k : Nat) (b : Bolt) : (s.setBolt k b).strands = s.strands := rfl
@[simp] theorem setBolt_nextKey (k : Nat) (b : Bolt) : (s.setBolt k b).nextKey = s.nextKey := rfl
@[simp] theorem setBolt_free (k : Nat) (b : Bolt) : (s.setBolt k b).free = s.free := rfl
@[simp] theorem setBolt_ccGroup (k : Nat) (b : Bolt) : (s.setBolt k b).ccGroup = s.ccGroup := rfl
@[simp] theorem setBolt_ccElig (k : Nat) (b : Bolt) : (s.setBolt k b).ccElig = s.ccElig := rfl
@[simp] theorem setBolt_ccDone (k : Nat) (b : Bolt) : (s.setBolt k b).ccDone = s.ccDone := rfl

@[simp] theorem setWin_time (off : Nat) (v : Word) : (s.setWin off v).time = s.time := rfl
@[simp] theorem setWin_bound (off : Nat) (v : Word) : (s.setWin off v).bound = s.bound := rfl
@[simp] theorem setWin_cur (off : Nat) (v : Word) : (s.setWin off v).cur = s.cur := rfl
@[simp] theorem setWin_plan (off : Nat) (v : Word) : (s.setWin off v).plan = s.plan := rfl
@[simp] theorem setWin_mem (off : Nat) (v : Word) : (s.setWin off v).mem = s.mem := rfl
@[simp] theorem setWin_poison (off : Nat) (v : Word) : (s.setWin off v).poison = s.poison := rfl
@[simp] theorem setWin_winLo (off : Nat) (v : Word) : (s.setWin off v).winLo = s.winLo := rfl
@[simp] theorem setWin_linkUp (off : Nat) (v : Word) : (s.setWin off v).linkUp = s.linkUp := rfl
@[simp] theorem setWin_boot (off : Nat) (v : Word) : (s.setWin off v).boot = s.boot := rfl
@[simp] theorem setWin_flash0 (off : Nat) (v : Word) : (s.setWin off v).flash0 = s.flash0 := rfl
@[simp] theorem setWin_flash1 (off : Nat) (v : Word) : (s.setWin off v).flash1 = s.flash1 := rfl
@[simp] theorem setWin_house (off : Nat) (v : Word) : (s.setWin off v).house = s.house := rfl
@[simp] theorem setWin_pkg (off : Nat) (v : Word) : (s.setWin off v).pkg = s.pkg := rfl
@[simp] theorem setWin_houseRem (off : Nat) (v : Word) : (s.setWin off v).houseRem = s.houseRem := rfl
@[simp] theorem setWin_calib (off : Nat) (v : Word) : (s.setWin off v).calib = s.calib := rfl
@[simp] theorem setWin_fwDigest (off : Nat) (v : Word) : (s.setWin off v).fwDigest = s.fwDigest := rfl
@[simp] theorem setWin_cfgDigest (off : Nat) (v : Word) : (s.setWin off v).cfgDigest = s.cfgDigest := rfl
@[simp] theorem setWin_image (off : Nat) (v : Word) : (s.setWin off v).image = s.image := rfl
@[simp] theorem setWin_lost (off : Nat) (v : Word) : (s.setWin off v).lost = s.lost := rfl
@[simp] theorem setWin_anchorDue (off : Nat) (v : Word) : (s.setWin off v).anchorDue = s.anchorDue := rfl
@[simp] theorem setWin_l2 (off : Nat) (v : Word) : (s.setWin off v).l2 = s.l2 := rfl
@[simp] theorem setWin_slice (off : Nat) (v : Word) : (s.setWin off v).slice = s.slice := rfl
@[simp] theorem setWin_lags (off : Nat) (v : Word) : (s.setWin off v).lags = s.lags := rfl
@[simp] theorem setWin_reds (off : Nat) (v : Word) : (s.setWin off v).reds = s.reds := rfl
@[simp] theorem setWin_wins (off : Nat) (v : Word) : (s.setWin off v).wins = s.wins := rfl
@[simp] theorem setWin_late (off : Nat) (v : Word) : (s.setWin off v).late = s.late := rfl
@[simp] theorem setWin_winHi (off : Nat) (v : Word) : (s.setWin off v).winHi = s.winHi := rfl
@[simp] theorem setWin_pins (off : Nat) (v : Word) : (s.setWin off v).pins = s.pins := rfl
@[simp] theorem setWin_parts (off : Nat) (v : Word) : (s.setWin off v).parts = s.parts := rfl
@[simp] theorem setWin_clus (off : Nat) (v : Word) : (s.setWin off v).clus = s.clus := rfl
@[simp] theorem setWin_cores (off : Nat) (v : Word) : (s.setWin off v).cores = s.cores := rfl
@[simp] theorem setWin_bolts (off : Nat) (v : Word) : (s.setWin off v).bolts = s.bolts := rfl
@[simp] theorem setWin_weaves (off : Nat) (v : Word) : (s.setWin off v).weaves = s.weaves := rfl
@[simp] theorem setWin_strands (off : Nat) (v : Word) : (s.setWin off v).strands = s.strands := rfl
@[simp] theorem setWin_nextKey (off : Nat) (v : Word) : (s.setWin off v).nextKey = s.nextKey := rfl
@[simp] theorem setWin_free (off : Nat) (v : Word) : (s.setWin off v).free = s.free := rfl
@[simp] theorem setWin_ccGroup (off : Nat) (v : Word) : (s.setWin off v).ccGroup = s.ccGroup := rfl
@[simp] theorem setWin_ccElig (off : Nat) (v : Word) : (s.setWin off v).ccElig = s.ccElig := rfl
@[simp] theorem setWin_ccDone (off : Nat) (v : Word) : (s.setWin off v).ccDone = s.ccDone := rfl

@[simp] theorem strand_setStrand (k : Nat) (t : Strand) : (s.setStrand k t).strand? k = some t := AMap.look_put_self _ _ _
theorem strand_setStrand_ne {k j : Nat} (t : Strand) (h : j ≠ k) : (s.setStrand k t).strand? j = s.strand? j := AMap.look_put_ne _ _ h
@[simp] theorem strand_setCur (t : Strand) : (s.setCur t).strand? s.cur = some t := AMap.look_put_self _ _ _
theorem strand_setCur_ne {j : Nat} (t : Strand) (h : j ≠ s.cur) : (s.setCur t).strand? j = s.strand? j := AMap.look_put_ne _ _ h
@[simp] theorem part_setPart (p : Nat) (x : Part) : (s.setPart p x).part? p = some x := AMap.look_put_self _ _ _
theorem part_setPart_ne {p q : Nat} (x : Part) (h : q ≠ p) : (s.setPart p x).part? q = s.part? q := AMap.look_put_ne _ _ h
theorem part_updPart {p : Nat} {x : Part} (f : Part → Part) (h : s.part? p = some x) : (s.updPart p f).part? p = some (f x) :=
  AMap.look_upd_self f h
theorem part_updPart_ne {p q : Nat} (f : Part → Part) (h : q ≠ p) : (s.updPart p f).part? q = s.part? q := AMap.look_upd_ne _ f h
@[simp] theorem core_setCore (k : Nat) (c : Cor) : (s.setCore k c).core k = c := AMap.get_set_self _ _ _ _
theorem core_setCore_ne {k j : Nat} (c : Cor) (h : j ≠ k) : (s.setCore k c).core j = s.core j := AMap.get_set_ne _ _ _ _ h
@[simp] theorem clu_setClu (k : Nat) (c : Clu) : (s.setClu k c).clu k = c := AMap.get_set_self _ _ _ _
theorem clu_setClu_ne {k j : Nat} (c : Clu) (h : j ≠ k) : (s.setClu k c).clu j = s.clu j := AMap.get_set_ne _ _ _ _ h
@[simp] theorem weave_setWeave (k : Nat) (w : Weave) : (s.setWeave k w).weave? k = some w := AMap.look_put_self _ _ _
theorem weave_setWeave_ne {k j : Nat} (w : Weave) (h : j ≠ k) : (s.setWeave k w).weave? j = s.weave? j := AMap.look_put_ne _ _ h
theorem weave_updWeave {k : Nat} {w : Weave} (f : Weave → Weave) (h : s.weave? k = some w) : (s.updWeave k f).weave? k = some (f w) :=
  AMap.look_upd_self f h
@[simp] theorem bolt_setBolt (k : Nat) (b : Bolt) : (s.setBolt k b).bolt? k = some b := AMap.look_put_self _ _ _

/-! A strand's update is seen by nothing but the strands' table. -/
@[simp] theorem setCur_core (t : Strand) (k : Nat) : (s.setCur t).core k = s.core k := rfl
@[simp] theorem setCur_clu (t : Strand) (k : Nat) : (s.setCur t).clu k = s.clu k := rfl
@[simp] theorem setCur_part (t : Strand) (p : Nat) : (s.setCur t).part? p = s.part? p := rfl
@[simp] theorem setCur_csr (t : Strand) (p off : Nat) : (s.setCur t).csr p off = s.csr p off := rfl
@[simp] theorem setCur_weave (t : Strand) (k : Nat) : (s.setCur t).weave? k = s.weave? k := rfl
@[simp] theorem setCur_bolt (t : Strand) (k : Nat) : (s.setCur t).bolt? k = s.bolt? k := rfl
@[simp] theorem setStrand_core (j : Nat) (t : Strand) (k : Nat) : (s.setStrand j t).core k = s.core k := rfl
@[simp] theorem setStrand_clu (j : Nat) (t : Strand) (k : Nat) : (s.setStrand j t).clu k = s.clu k := rfl
@[simp] theorem setStrand_part (j : Nat) (t : Strand) (p : Nat) : (s.setStrand j t).part? p = s.part? p := rfl
@[simp] theorem setStrand_weave (j : Nat) (t : Strand) (k : Nat) : (s.setStrand j t).weave? k = s.weave? k := rfl

end State

namespace Strand
variable (t : Strand)

@[simp] theorem setS_sid (r : Nat) (v : Word) : (t.setS r v).sid = t.sid := rfl
@[simp] theorem setS_weave (r : Nat) (v : Word) : (t.setS r v).weave = t.weave := rfl
@[simp] theorem setS_widx (r : Nat) (v : Word) : (t.setS r v).widx = t.widx := rfl
@[simp] theorem setS_role (r : Nat) (v : Word) : (t.setS r v).role = t.role := rfl
@[simp] theorem setS_core (r : Nat) (v : Word) : (t.setS r v).core = t.core := rfl
@[simp] theorem setS_slot (r : Nat) (v : Word) : (t.setS r v).slot = t.slot := rfl
@[simp] theorem setS_budget (r : Nat) (v : Word) : (t.setS r v).budget = t.budget := rfl
@[simp] theorem setS_part (r : Nat) (v : Word) : (t.setS r v).part = t.part := rfl
@[simp] theorem setS_ctx (r : Nat) (v : Word) : (t.setS r v).ctx = t.ctx := rfl
@[simp] theorem setS_priv (r : Nat) (v : Word) : (t.setS r v).priv = t.priv := rfl
@[simp] theorem setS_hspc (r : Nat) (v : Word) : (t.setS r v).hspc = t.hspc := rfl
@[simp] theorem setS_first (r : Nat) (v : Word) : (t.setS r v).first = t.first := rfl
@[simp] theorem setS_item (r : Nat) (v : Word) : (t.setS r v).item = t.item := rfl
@[simp] theorem setS_nl (r : Nat) (v : Word) : (t.setS r v).nl = t.nl := rfl
@[simp] theorem setS_ns (r : Nat) (v : Word) : (t.setS r v).ns = t.ns := rfl
@[simp] theorem setS_seta (r : Nat) (v : Word) : (t.setS r v).seta = t.seta := rfl
@[simp] theorem setS_setb (r : Nat) (v : Word) : (t.setS r v).setb = t.setb := rfl
@[simp] theorem setS_sbase (r : Nat) (v : Word) : (t.setS r v).sbase = t.sbase := rfl
@[simp] theorem setS_lbase (r : Nat) (v : Word) : (t.setS r v).lbase = t.lbase := rfl
@[simp] theorem setS_hsbase (r : Nat) (v : Word) : (t.setS r v).hsbase = t.hsbase := rfl
@[simp] theorem setS_hlbase (r : Nat) (v : Word) : (t.setS r v).hlbase = t.hlbase := rfl
@[simp] theorem setS_v (r : Nat) (v : Word) : (t.setS r v).v = t.v := rfl
@[simp] theorem setS_capS (r : Nat) (v : Word) : (t.setS r v).capS = t.capS := rfl
@[simp] theorem setS_capt (r : Nat) (v : Word) : (t.setS r v).capt = t.capt := rfl
@[simp] theorem setS_noCap (r : Nat) (v : Word) : (t.setS r v).noCap = t.noCap := rfl
@[simp] theorem setS_capH (r : Nat) (v : Word) : (t.setS r v).capH = t.capH := rfl
@[simp] theorem setS_capBad (r : Nat) (v : Word) : (t.setS r v).capBad = t.capBad := rfl
@[simp] theorem setS_lost (r : Nat) (v : Word) : (t.setS r v).lost = t.lost := rfl
@[simp] theorem setS_exec (r : Nat) (v : Word) : (t.setS r v).exec = t.exec := rfl
@[simp] theorem setS_live (r : Nat) (v : Word) : (t.setS r v).live = t.live := rfl
@[simp] theorem setS_fmt (r : Nat) (v : Word) : (t.setS r v).fmt = t.fmt := rfl
@[simp] theorem setS_rot (r : Nat) (v : Word) : (t.setS r v).rot = t.rot := rfl
@[simp] theorem setS_stage (r : Nat) (v : Word) : (t.setS r v).stage = t.stage := rfl
@[simp] theorem setS_region (r : Nat) (v : Word) : (t.setS r v).region = t.region := rfl
@[simp] theorem setS_status (r : Nat) (v : Word) : (t.setS r v).status = t.status := rfl
@[simp] theorem setS_txstat (r : Nat) (v : Word) : (t.setS r v).txstat = t.txstat := rfl
@[simp] theorem setS_loops (r : Nat) (v : Word) : (t.setS r v).loops = t.loops := rfl
@[simp] theorem setS_lfTop (r : Nat) (v : Word) : (t.setS r v).lfTop = t.lfTop := rfl
@[simp] theorem setS_rets (r : Nat) (v : Word) : (t.setS r v).rets = t.rets := rfl
@[simp] theorem setS_ops (r : Nat) (v : Word) : (t.setS r v).ops = t.ops := rfl
@[simp] theorem setS_nextOp (r : Nat) (v : Word) : (t.setS r v).nextOp = t.nextOp := rfl
@[simp] theorem setS_claims (r : Nat) (v : Word) : (t.setS r v).claims = t.claims := rfl
@[simp] theorem setS_acq (r : Nat) (v : Word) : (t.setS r v).acq = t.acq := rfl
@[simp] theorem setS_lfsr (r : Nat) (v : Word) : (t.setS r v).lfsr = t.lfsr := rfl
@[simp] theorem setS_tx (r : Nat) (v : Word) : (t.setS r v).tx = t.tx := rfl
@[simp] theorem setS_hnd (r : Nat) (v : Word) : (t.setS r v).hnd = t.hnd := rfl
@[simp] theorem setS_frame (r : Nat) (v : Word) : (t.setS r v).frame = t.frame := rfl
@[simp] theorem setS_pend (r : Nat) (v : Word) : (t.setS r v).pend = t.pend := rfl
@[simp] theorem setS_held (r : Nat) (v : Word) : (t.setS r v).held = t.held := rfl
@[simp] theorem setS_run (r : Nat) (v : Word) : (t.setS r v).run = t.run := rfl
@[simp] theorem setS_clk (r : Nat) (v : Word) : (t.setS r v).clk = t.clk := rfl
@[simp] theorem setS_csrLo (r : Nat) (v : Word) : (t.setS r v).csrLo = t.csrLo := rfl
@[simp] theorem setS_csrHi (r : Nat) (v : Word) : (t.setS r v).csrHi = t.csrHi := rfl
@[simp] theorem setS_mx (r : Nat) (v : Word) : (t.setS r v).mx = t.mx := rfl
@[simp] theorem setS_leave (r : Nat) (v : Word) : (t.setS r v).leave = t.leave := rfl
@[simp] theorem setS_wait (r : Nat) (v : Word) : (t.setS r v).wait = t.wait := rfl
@[simp] theorem setS_since (r : Nat) (v : Word) : (t.setS r v).since = t.since := rfl
@[simp] theorem setS_tr (r : Nat) (v : Word) : (t.setS r v).tr = t.tr := rfl
@[simp] theorem setS_delay (r : Nat) (v : Word) : (t.setS r v).delay = t.delay := rfl
@[simp] theorem setS_edge (r : Nat) (v : Word) : (t.setS r v).edge = t.edge := rfl
@[simp] theorem setS_pass (r : Nat) (v : Word) : (t.setS r v).pass = t.pass := rfl
@[simp] theorem setS_passW (r : Nat) (v : Word) : (t.setS r v).passW = t.passW := rfl
@[simp] theorem setS_passH (r : Nat) (v : Word) : (t.setS r v).passH = t.passH := rfl
@[simp] theorem setS_seqNo (r : Nat) (v : Word) : (t.setS r v).seqNo = t.seqNo := rfl
@[simp] theorem setS_splits (r : Nat) (v : Word) : (t.setS r v).splits = t.splits := rfl
@[simp] theorem setS_seqs (r : Nat) (v : Word) : (t.setS r v).seqs = t.seqs := rfl
@[simp] theorem setS_splitsH (r : Nat) (v : Word) : (t.setS r v).splitsH = t.splitsH := rfl

@[simp] theorem putS_sid (r : Nat) (v : Word) : (t.putS r v).sid = t.sid := rfl
@[simp] theorem putS_weave (r : Nat) (v : Word) : (t.putS r v).weave = t.weave := rfl
@[simp] theorem putS_widx (r : Nat) (v : Word) : (t.putS r v).widx = t.widx := rfl
@[simp] theorem putS_role (r : Nat) (v : Word) : (t.putS r v).role = t.role := rfl
@[simp] theorem putS_core (r : Nat) (v : Word) : (t.putS r v).core = t.core := rfl
@[simp] theorem putS_slot (r : Nat) (v : Word) : (t.putS r v).slot = t.slot := rfl
@[simp] theorem putS_budget (r : Nat) (v : Word) : (t.putS r v).budget = t.budget := rfl
@[simp] theorem putS_part (r : Nat) (v : Word) : (t.putS r v).part = t.part := rfl
@[simp] theorem putS_ctx (r : Nat) (v : Word) : (t.putS r v).ctx = t.ctx := rfl
@[simp] theorem putS_priv (r : Nat) (v : Word) : (t.putS r v).priv = t.priv := rfl
@[simp] theorem putS_hspc (r : Nat) (v : Word) : (t.putS r v).hspc = t.hspc := rfl
@[simp] theorem putS_first (r : Nat) (v : Word) : (t.putS r v).first = t.first := rfl
@[simp] theorem putS_item (r : Nat) (v : Word) : (t.putS r v).item = t.item := rfl
@[simp] theorem putS_nl (r : Nat) (v : Word) : (t.putS r v).nl = t.nl := rfl
@[simp] theorem putS_ns (r : Nat) (v : Word) : (t.putS r v).ns = t.ns := rfl
@[simp] theorem putS_seta (r : Nat) (v : Word) : (t.putS r v).seta = t.seta := rfl
@[simp] theorem putS_setb (r : Nat) (v : Word) : (t.putS r v).setb = t.setb := rfl
@[simp] theorem putS_sbase (r : Nat) (v : Word) : (t.putS r v).sbase = t.sbase := rfl
@[simp] theorem putS_lbase (r : Nat) (v : Word) : (t.putS r v).lbase = t.lbase := rfl
@[simp] theorem putS_hsbase (r : Nat) (v : Word) : (t.putS r v).hsbase = t.hsbase := rfl
@[simp] theorem putS_hlbase (r : Nat) (v : Word) : (t.putS r v).hlbase = t.hlbase := rfl
@[simp] theorem putS_v (r : Nat) (v : Word) : (t.putS r v).v = t.v := rfl
@[simp] theorem putS_capS (r : Nat) (v : Word) : (t.putS r v).capS = t.capS := rfl
@[simp] theorem putS_capt (r : Nat) (v : Word) : (t.putS r v).capt = t.capt := rfl
@[simp] theorem putS_noCap (r : Nat) (v : Word) : (t.putS r v).noCap = t.noCap := rfl
@[simp] theorem putS_capH (r : Nat) (v : Word) : (t.putS r v).capH = t.capH := rfl
@[simp] theorem putS_capBad (r : Nat) (v : Word) : (t.putS r v).capBad = t.capBad := rfl
@[simp] theorem putS_lost (r : Nat) (v : Word) : (t.putS r v).lost = t.lost := rfl
@[simp] theorem putS_exec (r : Nat) (v : Word) : (t.putS r v).exec = t.exec := rfl
@[simp] theorem putS_live (r : Nat) (v : Word) : (t.putS r v).live = t.live := rfl
@[simp] theorem putS_fmt (r : Nat) (v : Word) : (t.putS r v).fmt = t.fmt := rfl
@[simp] theorem putS_rot (r : Nat) (v : Word) : (t.putS r v).rot = t.rot := rfl
@[simp] theorem putS_stage (r : Nat) (v : Word) : (t.putS r v).stage = t.stage := rfl
@[simp] theorem putS_region (r : Nat) (v : Word) : (t.putS r v).region = t.region := rfl
@[simp] theorem putS_status (r : Nat) (v : Word) : (t.putS r v).status = t.status := rfl
@[simp] theorem putS_txstat (r : Nat) (v : Word) : (t.putS r v).txstat = t.txstat := rfl
@[simp] theorem putS_loops (r : Nat) (v : Word) : (t.putS r v).loops = t.loops := rfl
@[simp] theorem putS_lfTop (r : Nat) (v : Word) : (t.putS r v).lfTop = t.lfTop := rfl
@[simp] theorem putS_rets (r : Nat) (v : Word) : (t.putS r v).rets = t.rets := rfl
@[simp] theorem putS_ops (r : Nat) (v : Word) : (t.putS r v).ops = t.ops := rfl
@[simp] theorem putS_nextOp (r : Nat) (v : Word) : (t.putS r v).nextOp = t.nextOp := rfl
@[simp] theorem putS_claims (r : Nat) (v : Word) : (t.putS r v).claims = t.claims := rfl
@[simp] theorem putS_acq (r : Nat) (v : Word) : (t.putS r v).acq = t.acq := rfl
@[simp] theorem putS_lfsr (r : Nat) (v : Word) : (t.putS r v).lfsr = t.lfsr := rfl
@[simp] theorem putS_spin (r : Nat) (v : Word) : (t.putS r v).spin = t.spin := rfl
@[simp] theorem putS_tx (r : Nat) (v : Word) : (t.putS r v).tx = t.tx := rfl
@[simp] theorem putS_hnd (r : Nat) (v : Word) : (t.putS r v).hnd = t.hnd := rfl
@[simp] theorem putS_frame (r : Nat) (v : Word) : (t.putS r v).frame = t.frame := rfl
@[simp] theorem putS_pend (r : Nat) (v : Word) : (t.putS r v).pend = t.pend := rfl
@[simp] theorem putS_held (r : Nat) (v : Word) : (t.putS r v).held = t.held := rfl
@[simp] theorem putS_run (r : Nat) (v : Word) : (t.putS r v).run = t.run := rfl
@[simp] theorem putS_clk (r : Nat) (v : Word) : (t.putS r v).clk = t.clk := rfl
@[simp] theorem putS_csrLo (r : Nat) (v : Word) : (t.putS r v).csrLo = t.csrLo := rfl
@[simp] theorem putS_csrHi (r : Nat) (v : Word) : (t.putS r v).csrHi = t.csrHi := rfl
@[simp] theorem putS_mx (r : Nat) (v : Word) : (t.putS r v).mx = t.mx := rfl
@[simp] theorem putS_leave (r : Nat) (v : Word) : (t.putS r v).leave = t.leave := rfl
@[simp] theorem putS_wait (r : Nat) (v : Word) : (t.putS r v).wait = t.wait := rfl
@[simp] theorem putS_since (r : Nat) (v : Word) : (t.putS r v).since = t.since := rfl
@[simp] theorem putS_tr (r : Nat) (v : Word) : (t.putS r v).tr = t.tr := rfl
@[simp] theorem putS_delay (r : Nat) (v : Word) : (t.putS r v).delay = t.delay := rfl
@[simp] theorem putS_edge (r : Nat) (v : Word) : (t.putS r v).edge = t.edge := rfl
@[simp] theorem putS_pass (r : Nat) (v : Word) : (t.putS r v).pass = t.pass := rfl
@[simp] theorem putS_passW (r : Nat) (v : Word) : (t.putS r v).passW = t.passW := rfl
@[simp] theorem putS_passH (r : Nat) (v : Word) : (t.putS r v).passH = t.passH := rfl
@[simp] theorem putS_seqNo (r : Nat) (v : Word) : (t.putS r v).seqNo = t.seqNo := rfl
@[simp] theorem putS_splits (r : Nat) (v : Word) : (t.putS r v).splits = t.splits := rfl
@[simp] theorem putS_seqs (r : Nat) (v : Word) : (t.putS r v).seqs = t.seqs := rfl
@[simp] theorem putS_splitsH (r : Nat) (v : Word) : (t.putS r v).splitsH = t.splitsH := rfl

@[simp] theorem putV_sid (r : Nat) (x : Vec) : (t.putV r x).sid = t.sid := rfl
@[simp] theorem putV_weave (r : Nat) (x : Vec) : (t.putV r x).weave = t.weave := rfl
@[simp] theorem putV_widx (r : Nat) (x : Vec) : (t.putV r x).widx = t.widx := rfl
@[simp] theorem putV_role (r : Nat) (x : Vec) : (t.putV r x).role = t.role := rfl
@[simp] theorem putV_core (r : Nat) (x : Vec) : (t.putV r x).core = t.core := rfl
@[simp] theorem putV_slot (r : Nat) (x : Vec) : (t.putV r x).slot = t.slot := rfl
@[simp] theorem putV_budget (r : Nat) (x : Vec) : (t.putV r x).budget = t.budget := rfl
@[simp] theorem putV_part (r : Nat) (x : Vec) : (t.putV r x).part = t.part := rfl
@[simp] theorem putV_ctx (r : Nat) (x : Vec) : (t.putV r x).ctx = t.ctx := rfl
@[simp] theorem putV_priv (r : Nat) (x : Vec) : (t.putV r x).priv = t.priv := rfl
@[simp] theorem putV_hspc (r : Nat) (x : Vec) : (t.putV r x).hspc = t.hspc := rfl
@[simp] theorem putV_first (r : Nat) (x : Vec) : (t.putV r x).first = t.first := rfl
@[simp] theorem putV_item (r : Nat) (x : Vec) : (t.putV r x).item = t.item := rfl
@[simp] theorem putV_nl (r : Nat) (x : Vec) : (t.putV r x).nl = t.nl := rfl
@[simp] theorem putV_ns (r : Nat) (x : Vec) : (t.putV r x).ns = t.ns := rfl
@[simp] theorem putV_seta (r : Nat) (x : Vec) : (t.putV r x).seta = t.seta := rfl
@[simp] theorem putV_setb (r : Nat) (x : Vec) : (t.putV r x).setb = t.setb := rfl
@[simp] theorem putV_sbase (r : Nat) (x : Vec) : (t.putV r x).sbase = t.sbase := rfl
@[simp] theorem putV_lbase (r : Nat) (x : Vec) : (t.putV r x).lbase = t.lbase := rfl
@[simp] theorem putV_hsbase (r : Nat) (x : Vec) : (t.putV r x).hsbase = t.hsbase := rfl
@[simp] theorem putV_hlbase (r : Nat) (x : Vec) : (t.putV r x).hlbase = t.hlbase := rfl
@[simp] theorem putV_s (r : Nat) (x : Vec) : (t.putV r x).s = t.s := rfl
@[simp] theorem putV_capS (r : Nat) (x : Vec) : (t.putV r x).capS = t.capS := rfl
@[simp] theorem putV_capt (r : Nat) (x : Vec) : (t.putV r x).capt = t.capt := rfl
@[simp] theorem putV_noCap (r : Nat) (x : Vec) : (t.putV r x).noCap = t.noCap := rfl
@[simp] theorem putV_capH (r : Nat) (x : Vec) : (t.putV r x).capH = t.capH := rfl
@[simp] theorem putV_capBad (r : Nat) (x : Vec) : (t.putV r x).capBad = t.capBad := rfl
@[simp] theorem putV_lost (r : Nat) (x : Vec) : (t.putV r x).lost = t.lost := rfl
@[simp] theorem putV_exec (r : Nat) (x : Vec) : (t.putV r x).exec = t.exec := rfl
@[simp] theorem putV_live (r : Nat) (x : Vec) : (t.putV r x).live = t.live := rfl
@[simp] theorem putV_fmt (r : Nat) (x : Vec) : (t.putV r x).fmt = t.fmt := rfl
@[simp] theorem putV_rot (r : Nat) (x : Vec) : (t.putV r x).rot = t.rot := rfl
@[simp] theorem putV_stage (r : Nat) (x : Vec) : (t.putV r x).stage = t.stage := rfl
@[simp] theorem putV_region (r : Nat) (x : Vec) : (t.putV r x).region = t.region := rfl
@[simp] theorem putV_status (r : Nat) (x : Vec) : (t.putV r x).status = t.status := rfl
@[simp] theorem putV_txstat (r : Nat) (x : Vec) : (t.putV r x).txstat = t.txstat := rfl
@[simp] theorem putV_loops (r : Nat) (x : Vec) : (t.putV r x).loops = t.loops := rfl
@[simp] theorem putV_lfTop (r : Nat) (x : Vec) : (t.putV r x).lfTop = t.lfTop := rfl
@[simp] theorem putV_rets (r : Nat) (x : Vec) : (t.putV r x).rets = t.rets := rfl
@[simp] theorem putV_ops (r : Nat) (x : Vec) : (t.putV r x).ops = t.ops := rfl
@[simp] theorem putV_nextOp (r : Nat) (x : Vec) : (t.putV r x).nextOp = t.nextOp := rfl
@[simp] theorem putV_claims (r : Nat) (x : Vec) : (t.putV r x).claims = t.claims := rfl
@[simp] theorem putV_acq (r : Nat) (x : Vec) : (t.putV r x).acq = t.acq := rfl
@[simp] theorem putV_lfsr (r : Nat) (x : Vec) : (t.putV r x).lfsr = t.lfsr := rfl
@[simp] theorem putV_spin (r : Nat) (x : Vec) : (t.putV r x).spin = t.spin := rfl
@[simp] theorem putV_tx (r : Nat) (x : Vec) : (t.putV r x).tx = t.tx := rfl
@[simp] theorem putV_hnd (r : Nat) (x : Vec) : (t.putV r x).hnd = t.hnd := rfl
@[simp] theorem putV_frame (r : Nat) (x : Vec) : (t.putV r x).frame = t.frame := rfl
@[simp] theorem putV_pend (r : Nat) (x : Vec) : (t.putV r x).pend = t.pend := rfl
@[simp] theorem putV_held (r : Nat) (x : Vec) : (t.putV r x).held = t.held := rfl
@[simp] theorem putV_run (r : Nat) (x : Vec) : (t.putV r x).run = t.run := rfl
@[simp] theorem putV_clk (r : Nat) (x : Vec) : (t.putV r x).clk = t.clk := rfl
@[simp] theorem putV_csrLo (r : Nat) (x : Vec) : (t.putV r x).csrLo = t.csrLo := rfl
@[simp] theorem putV_csrHi (r : Nat) (x : Vec) : (t.putV r x).csrHi = t.csrHi := rfl
@[simp] theorem putV_mx (r : Nat) (x : Vec) : (t.putV r x).mx = t.mx := rfl
@[simp] theorem putV_leave (r : Nat) (x : Vec) : (t.putV r x).leave = t.leave := rfl
@[simp] theorem putV_wait (r : Nat) (x : Vec) : (t.putV r x).wait = t.wait := rfl
@[simp] theorem putV_since (r : Nat) (x : Vec) : (t.putV r x).since = t.since := rfl
@[simp] theorem putV_bad (r : Nat) (x : Vec) : (t.putV r x).bad = t.bad := rfl
@[simp] theorem putV_tr (r : Nat) (x : Vec) : (t.putV r x).tr = t.tr := rfl
@[simp] theorem putV_delay (r : Nat) (x : Vec) : (t.putV r x).delay = t.delay := rfl
@[simp] theorem putV_edge (r : Nat) (x : Vec) : (t.putV r x).edge = t.edge := rfl
@[simp] theorem putV_pass (r : Nat) (x : Vec) : (t.putV r x).pass = t.pass := rfl
@[simp] theorem putV_passW (r : Nat) (x : Vec) : (t.putV r x).passW = t.passW := rfl
@[simp] theorem putV_passH (r : Nat) (x : Vec) : (t.putV r x).passH = t.passH := rfl
@[simp] theorem putV_seqNo (r : Nat) (x : Vec) : (t.putV r x).seqNo = t.seqNo := rfl
@[simp] theorem putV_splits (r : Nat) (x : Vec) : (t.putV r x).splits = t.splits := rfl
@[simp] theorem putV_seqs (r : Nat) (x : Vec) : (t.putV r x).seqs = t.seqs := rfl
@[simp] theorem putV_splitsH (r : Nat) (x : Vec) : (t.putV r x).splitsH = t.splitsH := rfl

@[simp] theorem issueOp_sid (o : Op) : (t.issueOp o).sid = t.sid := rfl
@[simp] theorem issueOp_weave (o : Op) : (t.issueOp o).weave = t.weave := rfl
@[simp] theorem issueOp_widx (o : Op) : (t.issueOp o).widx = t.widx := rfl
@[simp] theorem issueOp_role (o : Op) : (t.issueOp o).role = t.role := rfl
@[simp] theorem issueOp_core (o : Op) : (t.issueOp o).core = t.core := rfl
@[simp] theorem issueOp_slot (o : Op) : (t.issueOp o).slot = t.slot := rfl
@[simp] theorem issueOp_budget (o : Op) : (t.issueOp o).budget = t.budget := rfl
@[simp] theorem issueOp_part (o : Op) : (t.issueOp o).part = t.part := rfl
@[simp] theorem issueOp_ctx (o : Op) : (t.issueOp o).ctx = t.ctx := rfl
@[simp] theorem issueOp_priv (o : Op) : (t.issueOp o).priv = t.priv := rfl
@[simp] theorem issueOp_hspc (o : Op) : (t.issueOp o).hspc = t.hspc := rfl
@[simp] theorem issueOp_first (o : Op) : (t.issueOp o).first = t.first := rfl
@[simp] theorem issueOp_item (o : Op) : (t.issueOp o).item = t.item := rfl
@[simp] theorem issueOp_nl (o : Op) : (t.issueOp o).nl = t.nl := rfl
@[simp] theorem issueOp_ns (o : Op) : (t.issueOp o).ns = t.ns := rfl
@[simp] theorem issueOp_seta (o : Op) : (t.issueOp o).seta = t.seta := rfl
@[simp] theorem issueOp_setb (o : Op) : (t.issueOp o).setb = t.setb := rfl
@[simp] theorem issueOp_sbase (o : Op) : (t.issueOp o).sbase = t.sbase := rfl
@[simp] theorem issueOp_lbase (o : Op) : (t.issueOp o).lbase = t.lbase := rfl
@[simp] theorem issueOp_hsbase (o : Op) : (t.issueOp o).hsbase = t.hsbase := rfl
@[simp] theorem issueOp_hlbase (o : Op) : (t.issueOp o).hlbase = t.hlbase := rfl
@[simp] theorem issueOp_s (o : Op) : (t.issueOp o).s = t.s := rfl
@[simp] theorem issueOp_v (o : Op) : (t.issueOp o).v = t.v := rfl
@[simp] theorem issueOp_capS (o : Op) : (t.issueOp o).capS = t.capS := rfl
@[simp] theorem issueOp_capt (o : Op) : (t.issueOp o).capt = t.capt := rfl
@[simp] theorem issueOp_noCap (o : Op) : (t.issueOp o).noCap = t.noCap := rfl
@[simp] theorem issueOp_capH (o : Op) : (t.issueOp o).capH = t.capH := rfl
@[simp] theorem issueOp_capBad (o : Op) : (t.issueOp o).capBad = t.capBad := rfl
@[simp] theorem issueOp_lost (o : Op) : (t.issueOp o).lost = t.lost := rfl
@[simp] theorem issueOp_exec (o : Op) : (t.issueOp o).exec = t.exec := rfl
@[simp] theorem issueOp_live (o : Op) : (t.issueOp o).live = t.live := rfl
@[simp] theorem issueOp_fmt (o : Op) : (t.issueOp o).fmt = t.fmt := rfl
@[simp] theorem issueOp_rot (o : Op) : (t.issueOp o).rot = t.rot := rfl
@[simp] theorem issueOp_stage (o : Op) : (t.issueOp o).stage = t.stage := rfl
@[simp] theorem issueOp_region (o : Op) : (t.issueOp o).region = t.region := rfl
@[simp] theorem issueOp_status (o : Op) : (t.issueOp o).status = t.status := rfl
@[simp] theorem issueOp_txstat (o : Op) : (t.issueOp o).txstat = t.txstat := rfl
@[simp] theorem issueOp_loops (o : Op) : (t.issueOp o).loops = t.loops := rfl
@[simp] theorem issueOp_lfTop (o : Op) : (t.issueOp o).lfTop = t.lfTop := rfl
@[simp] theorem issueOp_rets (o : Op) : (t.issueOp o).rets = t.rets := rfl
@[simp] theorem issueOp_claims (o : Op) : (t.issueOp o).claims = t.claims := rfl
@[simp] theorem issueOp_acq (o : Op) : (t.issueOp o).acq = t.acq := rfl
@[simp] theorem issueOp_lfsr (o : Op) : (t.issueOp o).lfsr = t.lfsr := rfl
@[simp] theorem issueOp_spin (o : Op) : (t.issueOp o).spin = t.spin := rfl
@[simp] theorem issueOp_tx (o : Op) : (t.issueOp o).tx = t.tx := rfl
@[simp] theorem issueOp_hnd (o : Op) : (t.issueOp o).hnd = t.hnd := rfl
@[simp] theorem issueOp_frame (o : Op) : (t.issueOp o).frame = t.frame := rfl
@[simp] theorem issueOp_pend (o : Op) : (t.issueOp o).pend = t.pend := rfl
@[simp] theorem issueOp_run (o : Op) : (t.issueOp o).run = t.run := rfl
@[simp] theorem issueOp_clk (o : Op) : (t.issueOp o).clk = t.clk := rfl
@[simp] theorem issueOp_csrLo (o : Op) : (t.issueOp o).csrLo = t.csrLo := rfl
@[simp] theorem issueOp_csrHi (o : Op) : (t.issueOp o).csrHi = t.csrHi := rfl
@[simp] theorem issueOp_mx (o : Op) : (t.issueOp o).mx = t.mx := rfl
@[simp] theorem issueOp_leave (o : Op) : (t.issueOp o).leave = t.leave := rfl
@[simp] theorem issueOp_wait (o : Op) : (t.issueOp o).wait = t.wait := rfl
@[simp] theorem issueOp_since (o : Op) : (t.issueOp o).since = t.since := rfl
@[simp] theorem issueOp_bad (o : Op) : (t.issueOp o).bad = t.bad := rfl
@[simp] theorem issueOp_tr (o : Op) : (t.issueOp o).tr = t.tr := rfl
@[simp] theorem issueOp_delay (o : Op) : (t.issueOp o).delay = t.delay := rfl
@[simp] theorem issueOp_edge (o : Op) : (t.issueOp o).edge = t.edge := rfl
@[simp] theorem issueOp_pass (o : Op) : (t.issueOp o).pass = t.pass := rfl
@[simp] theorem issueOp_passW (o : Op) : (t.issueOp o).passW = t.passW := rfl
@[simp] theorem issueOp_passH (o : Op) : (t.issueOp o).passH = t.passH := rfl
@[simp] theorem issueOp_seqNo (o : Op) : (t.issueOp o).seqNo = t.seqNo := rfl
@[simp] theorem issueOp_splits (o : Op) : (t.issueOp o).splits = t.splits := rfl
@[simp] theorem issueOp_seqs (o : Op) : (t.issueOp o).seqs = t.seqs := rfl
@[simp] theorem issueOp_splitsH (o : Op) : (t.issueOp o).splitsH = t.splitsH := rfl

@[simp] theorem noteWrite_sid : (t.noteWrite).sid = t.sid := rfl
@[simp] theorem noteWrite_weave : (t.noteWrite).weave = t.weave := rfl
@[simp] theorem noteWrite_widx : (t.noteWrite).widx = t.widx := rfl
@[simp] theorem noteWrite_role : (t.noteWrite).role = t.role := rfl
@[simp] theorem noteWrite_core : (t.noteWrite).core = t.core := rfl
@[simp] theorem noteWrite_slot : (t.noteWrite).slot = t.slot := rfl
@[simp] theorem noteWrite_budget : (t.noteWrite).budget = t.budget := rfl
@[simp] theorem noteWrite_part : (t.noteWrite).part = t.part := rfl
@[simp] theorem noteWrite_ctx : (t.noteWrite).ctx = t.ctx := rfl
@[simp] theorem noteWrite_priv : (t.noteWrite).priv = t.priv := rfl
@[simp] theorem noteWrite_hspc : (t.noteWrite).hspc = t.hspc := rfl
@[simp] theorem noteWrite_first : (t.noteWrite).first = t.first := rfl
@[simp] theorem noteWrite_item : (t.noteWrite).item = t.item := rfl
@[simp] theorem noteWrite_nl : (t.noteWrite).nl = t.nl := rfl
@[simp] theorem noteWrite_ns : (t.noteWrite).ns = t.ns := rfl
@[simp] theorem noteWrite_seta : (t.noteWrite).seta = t.seta := rfl
@[simp] theorem noteWrite_setb : (t.noteWrite).setb = t.setb := rfl
@[simp] theorem noteWrite_sbase : (t.noteWrite).sbase = t.sbase := rfl
@[simp] theorem noteWrite_lbase : (t.noteWrite).lbase = t.lbase := rfl
@[simp] theorem noteWrite_hsbase : (t.noteWrite).hsbase = t.hsbase := rfl
@[simp] theorem noteWrite_hlbase : (t.noteWrite).hlbase = t.hlbase := rfl
@[simp] theorem noteWrite_s : (t.noteWrite).s = t.s := rfl
@[simp] theorem noteWrite_v : (t.noteWrite).v = t.v := rfl
@[simp] theorem noteWrite_capS : (t.noteWrite).capS = t.capS := rfl
@[simp] theorem noteWrite_capt : (t.noteWrite).capt = t.capt := rfl
@[simp] theorem noteWrite_noCap : (t.noteWrite).noCap = t.noCap := rfl
@[simp] theorem noteWrite_capH : (t.noteWrite).capH = t.capH := rfl
@[simp] theorem noteWrite_capBad : (t.noteWrite).capBad = t.capBad := rfl
@[simp] theorem noteWrite_lost : (t.noteWrite).lost = t.lost := rfl
@[simp] theorem noteWrite_exec : (t.noteWrite).exec = t.exec := rfl
@[simp] theorem noteWrite_live : (t.noteWrite).live = t.live := rfl
@[simp] theorem noteWrite_fmt : (t.noteWrite).fmt = t.fmt := rfl
@[simp] theorem noteWrite_rot : (t.noteWrite).rot = t.rot := rfl
@[simp] theorem noteWrite_stage : (t.noteWrite).stage = t.stage := rfl
@[simp] theorem noteWrite_region : (t.noteWrite).region = t.region := rfl
@[simp] theorem noteWrite_status : (t.noteWrite).status = t.status := rfl
@[simp] theorem noteWrite_txstat : (t.noteWrite).txstat = t.txstat := rfl
@[simp] theorem noteWrite_loops : (t.noteWrite).loops = t.loops := rfl
@[simp] theorem noteWrite_lfTop : (t.noteWrite).lfTop = t.lfTop := rfl
@[simp] theorem noteWrite_rets : (t.noteWrite).rets = t.rets := rfl
@[simp] theorem noteWrite_ops : (t.noteWrite).ops = t.ops := rfl
@[simp] theorem noteWrite_nextOp : (t.noteWrite).nextOp = t.nextOp := rfl
@[simp] theorem noteWrite_claims : (t.noteWrite).claims = t.claims := rfl
@[simp] theorem noteWrite_acq : (t.noteWrite).acq = t.acq := rfl
@[simp] theorem noteWrite_lfsr : (t.noteWrite).lfsr = t.lfsr := rfl
@[simp] theorem noteWrite_tx : (t.noteWrite).tx = t.tx := rfl
@[simp] theorem noteWrite_hnd : (t.noteWrite).hnd = t.hnd := rfl
@[simp] theorem noteWrite_frame : (t.noteWrite).frame = t.frame := rfl
@[simp] theorem noteWrite_pend : (t.noteWrite).pend = t.pend := rfl
@[simp] theorem noteWrite_held : (t.noteWrite).held = t.held := rfl
@[simp] theorem noteWrite_run : (t.noteWrite).run = t.run := rfl
@[simp] theorem noteWrite_clk : (t.noteWrite).clk = t.clk := rfl
@[simp] theorem noteWrite_csrLo : (t.noteWrite).csrLo = t.csrLo := rfl
@[simp] theorem noteWrite_csrHi : (t.noteWrite).csrHi = t.csrHi := rfl
@[simp] theorem noteWrite_mx : (t.noteWrite).mx = t.mx := rfl
@[simp] theorem noteWrite_leave : (t.noteWrite).leave = t.leave := rfl
@[simp] theorem noteWrite_wait : (t.noteWrite).wait = t.wait := rfl
@[simp] theorem noteWrite_since : (t.noteWrite).since = t.since := rfl
@[simp] theorem noteWrite_bad : (t.noteWrite).bad = t.bad := rfl
@[simp] theorem noteWrite_tr : (t.noteWrite).tr = t.tr := rfl
@[simp] theorem noteWrite_delay : (t.noteWrite).delay = t.delay := rfl
@[simp] theorem noteWrite_edge : (t.noteWrite).edge = t.edge := rfl
@[simp] theorem noteWrite_pass : (t.noteWrite).pass = t.pass := rfl
@[simp] theorem noteWrite_passW : (t.noteWrite).passW = t.passW := rfl
@[simp] theorem noteWrite_passH : (t.noteWrite).passH = t.passH := rfl
@[simp] theorem noteWrite_seqNo : (t.noteWrite).seqNo = t.seqNo := rfl
@[simp] theorem noteWrite_splits : (t.noteWrite).splits = t.splits := rfl
@[simp] theorem noteWrite_seqs : (t.noteWrite).seqs = t.seqs := rfl
@[simp] theorem noteWrite_splitsH : (t.noteWrite).splitsH = t.splitsH := rfl

@[simp] theorem jump_sid (spc : DWord) (lpc : Word) : (t.jump spc lpc).sid = t.sid := rfl
@[simp] theorem jump_weave (spc : DWord) (lpc : Word) : (t.jump spc lpc).weave = t.weave := rfl
@[simp] theorem jump_widx (spc : DWord) (lpc : Word) : (t.jump spc lpc).widx = t.widx := rfl
@[simp] theorem jump_role (spc : DWord) (lpc : Word) : (t.jump spc lpc).role = t.role := rfl
@[simp] theorem jump_core (spc : DWord) (lpc : Word) : (t.jump spc lpc).core = t.core := rfl
@[simp] theorem jump_slot (spc : DWord) (lpc : Word) : (t.jump spc lpc).slot = t.slot := rfl
@[simp] theorem jump_budget (spc : DWord) (lpc : Word) : (t.jump spc lpc).budget = t.budget := rfl
@[simp] theorem jump_part (spc : DWord) (lpc : Word) : (t.jump spc lpc).part = t.part := rfl
@[simp] theorem jump_ctx (spc : DWord) (lpc : Word) : (t.jump spc lpc).ctx = t.ctx := rfl
@[simp] theorem jump_priv (spc : DWord) (lpc : Word) : (t.jump spc lpc).priv = t.priv := rfl
@[simp] theorem jump_sbase (spc : DWord) (lpc : Word) : (t.jump spc lpc).sbase = t.sbase := rfl
@[simp] theorem jump_lbase (spc : DWord) (lpc : Word) : (t.jump spc lpc).lbase = t.lbase := rfl
@[simp] theorem jump_hsbase (spc : DWord) (lpc : Word) : (t.jump spc lpc).hsbase = t.hsbase := rfl
@[simp] theorem jump_hlbase (spc : DWord) (lpc : Word) : (t.jump spc lpc).hlbase = t.hlbase := rfl
@[simp] theorem jump_s (spc : DWord) (lpc : Word) : (t.jump spc lpc).s = t.s := rfl
@[simp] theorem jump_v (spc : DWord) (lpc : Word) : (t.jump spc lpc).v = t.v := rfl
@[simp] theorem jump_capS (spc : DWord) (lpc : Word) : (t.jump spc lpc).capS = t.capS := rfl
@[simp] theorem jump_noCap (spc : DWord) (lpc : Word) : (t.jump spc lpc).noCap = t.noCap := rfl
@[simp] theorem jump_capH (spc : DWord) (lpc : Word) : (t.jump spc lpc).capH = t.capH := rfl
@[simp] theorem jump_capBad (spc : DWord) (lpc : Word) : (t.jump spc lpc).capBad = t.capBad := rfl
@[simp] theorem jump_exec (spc : DWord) (lpc : Word) : (t.jump spc lpc).exec = t.exec := rfl
@[simp] theorem jump_live (spc : DWord) (lpc : Word) : (t.jump spc lpc).live = t.live := rfl
@[simp] theorem jump_fmt (spc : DWord) (lpc : Word) : (t.jump spc lpc).fmt = t.fmt := rfl
@[simp] theorem jump_rot (spc : DWord) (lpc : Word) : (t.jump spc lpc).rot = t.rot := rfl
@[simp] theorem jump_stage (spc : DWord) (lpc : Word) : (t.jump spc lpc).stage = t.stage := rfl
@[simp] theorem jump_region (spc : DWord) (lpc : Word) : (t.jump spc lpc).region = t.region := rfl
@[simp] theorem jump_status (spc : DWord) (lpc : Word) : (t.jump spc lpc).status = t.status := rfl
@[simp] theorem jump_txstat (spc : DWord) (lpc : Word) : (t.jump spc lpc).txstat = t.txstat := rfl
@[simp] theorem jump_loops (spc : DWord) (lpc : Word) : (t.jump spc lpc).loops = t.loops := rfl
@[simp] theorem jump_lfTop (spc : DWord) (lpc : Word) : (t.jump spc lpc).lfTop = t.lfTop := rfl
@[simp] theorem jump_rets (spc : DWord) (lpc : Word) : (t.jump spc lpc).rets = t.rets := rfl
@[simp] theorem jump_ops (spc : DWord) (lpc : Word) : (t.jump spc lpc).ops = t.ops := rfl
@[simp] theorem jump_nextOp (spc : DWord) (lpc : Word) : (t.jump spc lpc).nextOp = t.nextOp := rfl
@[simp] theorem jump_claims (spc : DWord) (lpc : Word) : (t.jump spc lpc).claims = t.claims := rfl
@[simp] theorem jump_acq (spc : DWord) (lpc : Word) : (t.jump spc lpc).acq = t.acq := rfl
@[simp] theorem jump_lfsr (spc : DWord) (lpc : Word) : (t.jump spc lpc).lfsr = t.lfsr := rfl
@[simp] theorem jump_spin (spc : DWord) (lpc : Word) : (t.jump spc lpc).spin = t.spin := rfl
@[simp] theorem jump_tx (spc : DWord) (lpc : Word) : (t.jump spc lpc).tx = t.tx := rfl
@[simp] theorem jump_hnd (spc : DWord) (lpc : Word) : (t.jump spc lpc).hnd = t.hnd := rfl
@[simp] theorem jump_frame (spc : DWord) (lpc : Word) : (t.jump spc lpc).frame = t.frame := rfl
@[simp] theorem jump_pend (spc : DWord) (lpc : Word) : (t.jump spc lpc).pend = t.pend := rfl
@[simp] theorem jump_held (spc : DWord) (lpc : Word) : (t.jump spc lpc).held = t.held := rfl
@[simp] theorem jump_run (spc : DWord) (lpc : Word) : (t.jump spc lpc).run = t.run := rfl
@[simp] theorem jump_clk (spc : DWord) (lpc : Word) : (t.jump spc lpc).clk = t.clk := rfl
@[simp] theorem jump_csrLo (spc : DWord) (lpc : Word) : (t.jump spc lpc).csrLo = t.csrLo := rfl
@[simp] theorem jump_csrHi (spc : DWord) (lpc : Word) : (t.jump spc lpc).csrHi = t.csrHi := rfl
@[simp] theorem jump_mx (spc : DWord) (lpc : Word) : (t.jump spc lpc).mx = t.mx := rfl
@[simp] theorem jump_leave (spc : DWord) (lpc : Word) : (t.jump spc lpc).leave = t.leave := rfl
@[simp] theorem jump_wait (spc : DWord) (lpc : Word) : (t.jump spc lpc).wait = t.wait := rfl
@[simp] theorem jump_since (spc : DWord) (lpc : Word) : (t.jump spc lpc).since = t.since := rfl
@[simp] theorem jump_bad (spc : DWord) (lpc : Word) : (t.jump spc lpc).bad = t.bad := rfl
@[simp] theorem jump_tr (spc : DWord) (lpc : Word) : (t.jump spc lpc).tr = t.tr := rfl
@[simp] theorem jump_delay (spc : DWord) (lpc : Word) : (t.jump spc lpc).delay = t.delay := rfl
@[simp] theorem jump_edge (spc : DWord) (lpc : Word) : (t.jump spc lpc).edge = t.edge := rfl
@[simp] theorem jump_pass (spc : DWord) (lpc : Word) : (t.jump spc lpc).pass = t.pass := rfl
@[simp] theorem jump_passW (spc : DWord) (lpc : Word) : (t.jump spc lpc).passW = t.passW := rfl
@[simp] theorem jump_passH (spc : DWord) (lpc : Word) : (t.jump spc lpc).passH = t.passH := rfl
@[simp] theorem jump_seqNo (spc : DWord) (lpc : Word) : (t.jump spc lpc).seqNo = t.seqNo := rfl
@[simp] theorem jump_splits (spc : DWord) (lpc : Word) : (t.jump spc lpc).splits = t.splits := rfl
@[simp] theorem jump_seqs (spc : DWord) (lpc : Word) : (t.jump spc lpc).seqs = t.seqs := rfl
@[simp] theorem jump_splitsH (spc : DWord) (lpc : Word) : (t.jump spc lpc).splitsH = t.splitsH := rfl

@[simp] theorem jump_hspc (spc : DWord) (lpc : Word) : (t.jump spc lpc).hspc = spc := rfl
@[simp] theorem jump_first (spc : DWord) (lpc : Word) : (t.jump spc lpc).first = lpc := rfl
@[simp] theorem jump_item (spc : DWord) (lpc : Word) : (t.jump spc lpc).item = 0 := rfl
@[simp] theorem getS_setS (r : Nat) (v : Word) : (t.setS r v).getS r = v := AMap.get_set_self _ _ _ _
theorem getS_setS_ne {r q : Nat} (v : Word) (h : q ≠ r) : (t.setS r v).getS q = t.getS q := AMap.get_set_ne _ _ _ _ h
@[simp] theorem getS_putS (r : Nat) (v : Word) : (t.putS r v).getS r = v := AMap.get_set_self _ _ _ _
theorem getS_putS_ne {r q : Nat} (v : Word) (h : q ≠ r) : (t.putS r v).getS q = t.getS q := AMap.get_set_ne _ _ _ _ h
@[simp] theorem getV_putV (r : Nat) (x : Vec) : (t.putV r x).getV r = x := AMap.get_set_self _ _ _ _
theorem getV_putV_ne {r q : Nat} (x : Vec) (h : q ≠ r) : (t.putV r x).getV q = t.getV q := AMap.get_set_ne _ _ _ _ h
@[simp] theorem getV_setS (r q : Nat) (v : Word) : (t.setS r v).getV q = t.getV q := rfl
@[simp] theorem getS_putV (r q : Nat) (x : Vec) : (t.putV r x).getS q = t.getS q := rfl
@[simp] theorem getS_jump (spc : DWord) (lpc : Word) (q : Nat) : (t.jump spc lpc).getS q = t.getS q := rfl
@[simp] theorem getV_jump (spc : DWord) (lpc : Word) (q : Nat) : (t.jump spc lpc).getV q = t.getV q := rfl

end Strand

namespace Part
variable (p : Part)

@[simp] theorem wr_cfg (off : Nat) (v : Word) : (p.wr off v).cfg = p.cfg := rfl
@[simp] theorem wr_queues (off : Nat) (v : Word) : (p.wr off v).queues = p.queues := rfl
@[simp] theorem wr_havePrev (off : Nat) (v : Word) : (p.wr off v).havePrev = p.havePrev := rfl
@[simp] theorem wr_prevS (off : Nat) (v : Word) : (p.wr off v).prevS = p.prevS := rfl
@[simp] theorem wr_prevA (off : Nat) (v : Word) : (p.wr off v).prevA = p.prevA := rfl
@[simp] theorem wr_anchor (off : Nat) (v : Word) : (p.wr off v).anchor = p.anchor := rfl
@[simp] theorem wr_lastDec (off : Nat) (v : Word) : (p.wr off v).lastDec = p.lastDec := rfl
@[simp] theorem wr_knobSw (off : Nat) (v : Word) : (p.wr off v).knobSw = p.knobSw := rfl
@[simp] theorem wr_knobAct (off : Nat) (v : Word) : (p.wr off v).knobAct = p.knobAct := rfl
@[simp] theorem wr_pwr (off : Nat) (v : Word) : (p.wr off v).pwr = p.pwr := rfl
@[simp] theorem wr_slewPtr (off : Nat) (v : Word) : (p.wr off v).slewPtr = p.slewPtr := rfl
@[simp] theorem wr_meas (off : Nat) (v : Word) : (p.wr off v).meas = p.meas := rfl
@[simp] theorem wr_adm (off : Nat) (v : Word) : (p.wr off v).adm = p.adm := rfl
@[simp] theorem wr_reAnchor (off : Nat) (v : Word) : (p.wr off v).reAnchor = p.reAnchor := rfl
@[simp] theorem wr_hmSeq (off : Nat) (v : Word) : (p.wr off v).hmSeq = p.hmSeq := rfl
@[simp] theorem wr_hmEnd (off : Nat) (v : Word) : (p.wr off v).hmEnd = p.hmEnd := rfl
@[simp] theorem wr_hmFirst (off : Nat) (v : Word) : (p.wr off v).hmFirst = p.hmFirst := rfl
@[simp] theorem wr_rem (off : Nat) (v : Word) : (p.wr off v).rem = p.rem := rfl
@[simp] theorem wr_ctxEnd (off : Nat) (v : Word) : (p.wr off v).ctxEnd = p.ctxEnd := rfl
@[simp] theorem wr_failed (off : Nat) (v : Word) : (p.wr off v).failed = p.failed := rfl
@[simp] theorem wr_degr (off : Nat) (v : Word) : (p.wr off v).degr = p.degr := rfl
@[simp] theorem wr_attr (off : Nat) (v : Word) : (p.wr off v).attr = p.attr := rfl
@[simp] theorem wr_saved (off : Nat) (v : Word) : (p.wr off v).saved = p.saved := rfl
@[simp] theorem wr_noAdmit (off : Nat) (v : Word) : (p.wr off v).noAdmit = p.noAdmit := rfl
@[simp] theorem wr_stopWait (off : Nat) (v : Word) : (p.wr off v).stopWait = p.stopWait := rfl
@[simp] theorem wr_heldBlocks (off : Nat) (v : Word) : (p.wr off v).heldBlocks = p.heldBlocks := rfl
@[simp] theorem wr_children (off : Nat) (v : Word) : (p.wr off v).children = p.children := rfl
@[simp] theorem wr_sRing (off : Nat) (v : Word) : (p.wr off v).sRing = p.sRing := rfl
@[simp] theorem wr_tRing (off : Nat) (v : Word) : (p.wr off v).tRing = p.tRing := rfl
@[simp] theorem wr_spun (off : Nat) (v : Word) : (p.wr off v).spun = p.spun := rfl
@[simp] theorem wr_used (off : Nat) (v : Word) : (p.wr off v).used = p.used := rfl
@[simp] theorem wr_utilB (off : Nat) (v : Word) : (p.wr off v).utilB = p.utilB := rfl

@[simp] theorem rd_wr (off : Nat) (v : Word) : (p.wr off v).rd off = v := AMap.get_set_self _ _ _ _
theorem rd_wr_ne {off o : Nat} (v : Word) (h : o ≠ off) : (p.wr off v).rd o = p.rd o := AMap.get_set_ne _ _ _ _ h

end Part
end Sys2Proof.Machine
end

