-- ==== Sys2Proof/Laws/Mem.lean ====
section
/-!
SUPPORT. Memory: reads after writes at the home, and that every memory operation keeps the canonical form (spec/03 R72,
R81, R99).
-/
namespace Sys2Proof.Machine
open Sys2Proof

/-- A property that each step of a fold keeps holds after the fold. -/
theorem foldl_keeps {α β : Type} {P : α → Prop} {f : α → β → α} (h : ∀ a b, P a → P (f a b)) (l : List β) (a : α) (ha : P a) :
    P (l.foldl f a) := by
  induction l generalizing a with
  | nil => exact ha
  | cons b l ih => exact ih _ (h a b ha)

/-! ### Bytes written in a row -/

/-- A byte below or above those written reads as before. -/
theorem get_writeBytes_out {m : AMap Byte} {pa a : Nat} {bs : List Byte} (h : a < pa ∨ pa + bs.length ≤ a) :
    AMap.get (State.writeBytes m pa bs) a memDefault = AMap.get m a memDefault := by
  induction bs generalizing m pa with
  | nil => rfl
  | cons b bs ih =>
    simp only [List.length_cons] at h
    rw [State.writeBytes, ih (by omega), AMap.get_set_ne _ _ _ _ (by omega)]

/-- The byte at pa + i is byte i of those written. -/
theorem get_writeBytes_in {m : AMap Byte} {pa i : Nat} {bs : List Byte} {b : Byte} (h : bs[i]? = some b) :
    AMap.get (State.writeBytes m pa bs) (pa + i) memDefault = b := by
  induction bs generalizing m pa i with
  | nil => simp at h
  | cons x bs ih =>
    cases i with
    | zero =>
      simp only [List.getElem?_cons_zero, Option.some.injEq] at h
      subst h
      rw [State.writeBytes, get_writeBytes_out (Or.inl (by omega))]
      exact AMap.get_set_self _ _ _ _
    | succ i =>
      have h' : bs[i]? = some b := by simpa using h
      have := ih (m := AMap.set m pa x memDefault) (pa := pa + 1) h'
      rw [State.writeBytes, show pa + (i + 1) = pa + 1 + i from by omega]
      exact this

theorem wf_writeBytes {m : AMap Byte} (pa : Nat) (bs : List Byte) (h : Memory.wf m = true) :
    Memory.wf (State.writeBytes m pa bs) = true := by
  induction bs generalizing m pa with
  | nil => exact h
  | cons b bs ih => exact ih _ (AMap.canon_set _ _ h)

namespace State
variable (s : State)

/-! ### The home -/

/-- The home takes a store unless the link to system space is down (R365). -/
theorem homeStore_mem {pa : Nat} (bs : List Byte) (h : isSys pa = false ∨ s.linkUp = true) :
    (s.homeStore pa bs).mem = writeBytes s.mem pa bs := by
  unfold homeStore
  split
  · rename_i hc
    rcases h with h | h <;> simp_all
  · rfl

/-- A store changes no byte outside its own. -/
theorem homeByte_homeStore_out {pa a : Nat} {bs : List Byte} (h : a < pa ∨ pa + bs.length ≤ a) :
    (s.homeStore pa bs).homeByte a = s.homeByte a := by
  unfold homeStore
  split
  · rfl
  · exact get_writeBytes_out h

/-- A store's bytes read back at the home. -/
theorem homeByte_homeStore_in {pa i : Nat} {bs : List Byte} {b : Byte} (hr : isSys pa = false ∨ s.linkUp = true)
    (h : bs[i]? = some b) : (s.homeStore pa bs).homeByte (pa + i) = b := by
  rw [homeByte, homeStore_mem s bs hr]
  exact get_writeBytes_in h

@[simp] theorem homeStore_strands (pa : Nat) (bs : List Byte) : (s.homeStore pa bs).strands = s.strands := by
  unfold homeStore; split <;> rfl
@[simp] theorem homeStore_cores (pa : Nat) (bs : List Byte) : (s.homeStore pa bs).cores = s.cores := by
  unfold homeStore; split <;> rfl
@[simp] theorem homeStore_clus (pa : Nat) (bs : List Byte) : (s.homeStore pa bs).clus = s.clus := by
  unfold homeStore; split <;> rfl
@[simp] theorem homeStore_parts (pa : Nat) (bs : List Byte) : (s.homeStore pa bs).parts = s.parts := by
  unfold homeStore; split <;> rfl
@[simp] theorem homeStore_weaves (pa : Nat) (bs : List Byte) : (s.homeStore pa bs).weaves = s.weaves := by
  unfold homeStore; split <;> rfl
@[simp] theorem homeStore_cur (pa : Nat) (bs : List Byte) : (s.homeStore pa bs).cur = s.cur := by
  unfold homeStore; split <;> rfl
@[simp] theorem homeStore_linkUp (pa : Nat) (bs : List Byte) : (s.homeStore pa bs).linkUp = s.linkUp := by
  unfold homeStore; split <;> rfl

/-- n bytes read at the home are the bytes there. -/
theorem homeRead_eq {s s' : State} {pa n : Nat} (h : ∀ i, i < n → s'.homeByte (pa + i) = s.homeByte (pa + i)) :
    s'.homeRead pa n = s.homeRead pa n := by
  unfold homeRead homeBytes
  congr 1
  exact List.map_congr_left (fun i hi => h i (List.mem_range.mp hi))

/-! ### The invariant through every memory operation -/

variable {s}

theorem inv_of_mem {s' : State} (h : s'.mem = s.mem) (hi : s.Inv) : s'.Inv := by
  unfold Inv at *
  rw [h]
  exact hi

@[simp] theorem inv_setCore (k : Nat) (c : Cor) : (s.setCore k c).Inv ↔ s.Inv := Iff.rfl
@[simp] theorem inv_setClu (k : Nat) (c : Clu) : (s.setClu k c).Inv ↔ s.Inv := Iff.rfl
@[simp] theorem inv_setStrand (k : Nat) (t : Strand) : (s.setStrand k t).Inv ↔ s.Inv := Iff.rfl
@[simp] theorem inv_setCur (t : Strand) : (s.setCur t).Inv ↔ s.Inv := Iff.rfl
@[simp] theorem inv_setWin (off : Nat) (v : Word) : (s.setWin off v).Inv ↔ s.Inv := Iff.rfl
@[simp] theorem inv_doomBut (own : Nat → Strand → Bool) (pa : Nat) (wr : Bool) : (s.doomBut own pa wr).Inv ↔ s.Inv := Iff.rfl
@[simp] theorem inv_l2Read (core ctx pa : Nat) : (s.l2Read core ctx pa).Inv ↔ s.Inv := Iff.rfl
@[simp] theorem inv_l2Write (core ctx pa n : Nat) : (s.l2Write core ctx pa n).Inv ↔ s.Inv := Iff.rfl
@[simp] theorem inv_tlbPut (core k : Nat) (e : Tlb) : (s.tlbPut core k e).Inv ↔ s.Inv := Iff.rfl
@[simp] theorem inv_doom (me pa : Nat) (wr : Bool) : (s.doom me pa wr).Inv ↔ s.Inv := Iff.rfl

theorem setPoison_mem (s : State) (pa : Nat) : (s.setPoison pa).mem = s.mem := by unfold setPoison; split <;> rfl
@[simp] theorem inv_setPoison (pa : Nat) : (s.setPoison pa).Inv ↔ s.Inv := by unfold Inv; rw [setPoison_mem]

/-- A property that both branches keep. -/
theorem ite_keeps {α : Type} {P : α → Prop} {c : Prop} [Decidable c] {a b : α} (ha : P a) (hb : P b) : P (if c then a else b) := by
  split
  · exact ha
  · exact hb

@[simp] theorem inv_sliceFill (part pa : Nat) : (s.sliceFill part pa).Inv ↔ s.Inv := by
  unfold sliceFill
  split <;> exact Iff.rfl

@[simp] theorem inv_corePoison (core pa coh : Nat) : (s.corePoison core pa coh).Inv ↔ s.Inv := by
  unfold corePoison
  dsimp only
  split
  · split
    · exact inv_setPoison _
    · exact Iff.rfl
  · split
    · exact inv_setPoison _
    · exact Iff.rfl

theorem inv_homeStore (pa : Nat) (bs : List Byte) (h : s.Inv) : (s.homeStore pa bs).Inv := by
  unfold homeStore
  split
  · exact h
  · exact wf_writeBytes pa bs h

theorem inv_sliceBack (k : Nat) (x : Sector) (h : s.Inv) : (s.sliceBack k x).Inv :=
  foldl_keeps (P := State.Inv) (fun _ _ ha => ite_keeps (P := State.Inv)
    (ite_keeps (P := State.Inv) ((inv_setPoison _).mpr (inv_homeStore _ _ ha)) (inv_homeStore _ _ ha)) ha) _ _ h

theorem inv_sliceEvict (part pa : Nat) (h : s.Inv) : (s.sliceEvict part pa).Inv := by
  unfold sliceEvict
  split
  · exact h
  · exact ite_keeps (P := State.Inv) h (inv_sliceBack _ _ h)

theorem inv_sliceDrop (part : Nat) (h : s.Inv) : (s.sliceDrop part).Inv :=
  foldl_keeps (P := State.Inv) (fun _ _ ha => inv_sliceEvict _ _ ha) _ _ h

theorem inv_sliceClean (part : Nat) (h : s.Inv) : (s.sliceClean part).Inv :=
  foldl_keeps (P := State.Inv) (fun _ e ha => inv_sliceBack e.1 e.2 ha) _ _ h

theorem inv_nearStore (part pa coh : Nat) (bs : List Byte) (h : s.Inv) : (s.nearStore part pa coh bs).Inv :=
  ite_keeps (P := State.Inv) (inv_homeStore _ _ h) ((inv_sliceFill part pa).mpr h)

theorem inv_combineWord (wa opc v : Nat) (h : s.Inv) : (s.combineWord wa opc v).Inv := by
  unfold combineWord
  split
  · exact h
  · exact inv_homeStore _ _ h

theorem inv_combineLineAt (c : Nat) (l : CombLine) (h : s.Inv) : (s.combineLineAt c l).Inv :=
  foldl_keeps (P := State.Inv) (fun _ _ ha => inv_combineWord _ _ _ ha) _ _ h

theorem inv_combine (pa : Nat) (h : s.Inv) : (s.combine pa).Inv := by
  unfold combine
  refine foldl_keeps (P := State.Inv) (fun a c ha => ?_) _ _ h
  split
  · exact ite_keeps (P := State.Inv) ha (inv_combineLineAt _ _ ha)
  · exact ha

theorem inv_sendLine (c : Nat) (l : CombLine) (h : s.Inv) : (s.sendLine c l).Inv := by
  refine ite_keeps (P := State.Inv) h ?_
  refine inv_combineLineAt _ _ (foldl_keeps (P := State.Inv) (fun a d ha => ?_) _ _ h)
  split
  · exact inv_combineLineAt _ _ ha
  · exact ha

theorem inv_combineClu (c : Nat) (h : s.Inv) : (s.combineClu c).Inv :=
  foldl_keeps (P := State.Inv) (fun _ _ ha => inv_sendLine _ _ ha) _ _ h

theorem inv_farWrite (me pa : Nat) (bs : List Byte) (h : s.Inv) : (s.farWrite me pa bs).Inv :=
  inv_homeStore _ _ (foldl_keeps (P := State.Inv) (fun _ _ ha => (inv_doom _ _ _).mpr (inv_combine _ ha)) _ _ h)

theorem inv_hwWrite (pa : Nat) (bs : List Byte) (h : s.Inv) : (s.hwWrite pa bs).Inv := inv_farWrite _ _ _ h

theorem inv_homePrep (core pa coh ctx : Nat) (h : s.Inv) : (s.homePrep core pa coh ctx).Inv :=
  (inv_l2Read _ _ _).mpr (ite_keeps (P := State.Inv) (inv_combine _ h) ((inv_sliceFill _ _).mpr (inv_combine _ h)))

theorem inv_sectorHome (core sec : Nat) (x : Sector) (h : s.Inv) : (s.sectorHome core sec x).Inv := by
  unfold sectorHome
  refine foldl_keeps (P := State.Inv) (fun a i ha => ?_) _ _ (ite_keeps (P := State.Inv) h ((inv_l2Write _ _ _ _).mpr h))
  refine ite_keeps (P := State.Inv) ?_ ha
  have hb := (inv_doomBut (s := (a.combine (sec * 64)).nearStore (a.homePart core) (sec * 64 + 4 * i) x.coh
    (bytesOf ((x.data.getD i 0#32).toNat) 4)) (fun _ t => t.core == core) (sec * 64 + 4 * i) true).mpr (inv_nearStore _ _ _ _ (inv_combine _ ha))
  exact ite_keeps (P := State.Inv) hb (ite_keeps (P := State.Inv) ((inv_setPoison _).mpr hb) hb)

theorem inv_l1Clean (core sec : Nat) (drop : Bool) (h : s.Inv) : (s.l1Clean core sec drop).Inv := by
  unfold l1Clean
  split
  · exact h
  · exact ite_keeps (P := State.Inv) h (inv_sectorHome _ _ _ h)

theorem inv_l1CleanAll (core : Nat) (p : Sector → Bool) (drop : Bool) (h : s.Inv) : (s.l1CleanAll core p drop).Inv :=
  foldl_keeps (P := State.Inv) (fun _ _ ha => inv_l1Clean _ _ _ ha) _ _ h

theorem inv_l1Room (core line : Nat) (h : s.Inv) : (s.l1Room core line).Inv := by
  unfold l1Room
  refine ite_keeps (P := State.Inv) h ?_
  dsimp only
  split
  · exact foldl_keeps (P := State.Inv) (fun _ _ ha => inv_l1Clean _ _ _ ha) _ _ h
  · exact h

theorem inv_l1Fill (core pa coh ctx : Nat) (h : s.Inv) : (s.l1Fill core pa coh ctx).Inv := by
  unfold l1Fill
  split
  · exact h
  · exact (inv_setCore _ _).mpr (inv_homePrep _ _ _ _ (inv_l1Room _ _ h))

theorem inv_l1Refresh (core sec : Nat) (x : Sector) (h : s.Inv) : (s.l1Refresh core sec x).Inv :=
  (inv_setCore _ _).mpr ((inv_doomBut _ _ _).mpr (inv_homePrep _ _ _ _ h))

theorem inv_l1DropClean (core : Nat) (p : Sector → Bool) (h : s.Inv) : (s.l1DropClean core p).Inv :=
  foldl_keeps (P := State.Inv) (fun _ _ ha => inv_l1Refresh _ _ _ ha) _ _ ((inv_setCore _ _).mpr h)

theorem inv_readPrep (core pa coh ctx : Nat) (h : s.Inv) : (s.readPrep core pa coh ctx).Inv :=
  ite_keeps (P := State.Inv) (inv_homePrep _ _ _ _ h) (inv_l1Fill _ _ _ _ h)

theorem inv_coreWrite (core pa coh ctx : Nat) (bs : List Byte) (h : s.Inv) : (s.coreWrite core pa coh ctx bs).Inv := by
  unfold coreWrite
  split
  · exact inv_nearStore _ _ _ _ ((inv_l2Write _ _ _ _).mpr (inv_combine _ h))
  · have hf := inv_l1Fill core pa coh ctx h
    dsimp only
    split
    · exact hf
    · exact hf

theorem inv_stashLineHome (me core : Nat) (m : Stash) (line : Nat) (mask : BitVec 64) (h : s.Inv) :
    (s.stashLineHome me core m line mask).Inv := by
  unfold stashLineHome
  split
  · exact h
  · refine foldl_keeps (P := State.Inv) (fun a i ha => ite_keeps (P := State.Inv) ?_ ha) _ _ h
    have hw := fun ctx bs => inv_coreWrite (s := a.doom me (m.page + 256 * line + 4 * i) true)
      core (m.page + 256 * line + 4 * i) m.coh ctx bs ((inv_doom _ _ _).mpr ha)
    exact ite_keeps (P := State.Inv) ((inv_corePoison _ _ _).mpr (hw _ _)) (hw _ _)

theorem inv_stashClean (me core : Nat) (unfill : Bool) (p : Stash → Bool) (h : s.Inv) : (s.stashClean me core unfill p).Inv := by
  have hf : (((s.core core).stash.filter p).foldl (fun s m => m.dirty.foldl (fun s d => s.stashLineHome me core m d.1 d.2) s) s).Inv :=
    foldl_keeps (P := State.Inv) (fun _ m ha => foldl_keeps (P := State.Inv) (fun _ _ hb => inv_stashLineHome _ _ _ _ _ hb) m.dirty _ ha) _ _ h
  exact hf

theorem inv_releaseAt (me : Nat) (t : Strand) (scope : Nat) (h : s.Inv) : (s.releaseAt me t scope).Inv := by
  have h1 := ite_keeps (P := State.Inv) (c := 1 ≤ s.scopeOf t scope) (inv_stashClean me t.core false (fun _ => true) h) h
  have h2 := ite_keeps (P := State.Inv) (c := 2 ≤ s.scopeOf t scope) (inv_l1CleanAll t.core isSc false h1) h1
  have h3 := ite_keeps (P := State.Inv) (c := 3 ≤ s.scopeOf t scope) (inv_combineClu (t.core / 2) h2) h2
  exact ite_keeps (P := State.Inv) (c := 5 ≤ s.scopeOf t scope) (inv_sliceClean t.part h3) h3

theorem inv_acquireAt (me : Nat) (t : Strand) (scope : Nat) (h : s.Inv) : (s.acquireAt me t scope).Inv := by
  have h1 := ite_keeps (P := State.Inv) (c := 1 ≤ s.scopeOf t scope)
    (show ((s.stashClean me t.core true (fun _ => true)).setCore t.core
      { (s.stashClean me t.core true (fun _ => true)).core t.core with cc := [] }).Inv from inv_stashClean me t.core true (fun _ => true) h) h
  have h2 := ite_keeps (P := State.Inv) (c := 5 ≤ s.scopeOf t scope) (inv_sliceDrop t.part h1) h1
  exact ite_keeps (P := State.Inv) (c := 2 ≤ s.scopeOf t scope) (inv_l1DropClean t.core isSc h2) h2

theorem inv_setAD (ea : Nat) (wr : Bool) (h : s.Inv) : (s.setAD ea wr).Inv :=
  ite_keeps (P := State.Inv) (inv_combine _ h) (inv_homeStore _ _ ((inv_doomBut _ _ _).mpr (inv_combine _ h)))

theorem inv_walkRead (part ctx core va : Nat) (h : s.Inv) : (s.walkRead part ctx core va).Inv :=
  foldl_keeps (P := State.Inv) (fun _ _ ha => (inv_doomBut _ _ _).mpr ((inv_l2Read _ _ _).mpr ha)) _ _ h

theorem inv_touch (part ctx core va : Nat) (wr : Bool) (h : s.Inv) : (s.touch part ctx core va wr).Inv := by
  unfold touch
  split
  · exact h
  · exact (inv_tlbPut _ _ _).mpr (inv_setAD _ _ (inv_walkRead _ _ _ _ h))
  · refine ite_keeps (P := State.Inv) ?_ (ite_keeps (P := State.Inv) h h)
    split
    · exact (inv_tlbPut _ _ _).mpr (inv_setAD _ _ h)
    · exact h

end State
end Sys2Proof.Machine
end

