-- ==== Sys2Proof/Laws/Ops.lean ====
section
/-!
SUPPORT. What each shared operation over a strand can do: going on past an item, running, holding, lane writes, quads, the
lane frame, and raising a fault.
-/
namespace Sys2Proof.Machine
open Sys2Proof

/-! ### Going on past an item -/
namespace Strand
variable (t : Strand)

@[simp] theorem besidesPlace_advance (n : Nat) : (t.advance n).besidesPlace = t.besidesPlace := by
  unfold advance; split <;> rfl

@[simp] theorem besidesPlace_jump (spc : DWord) (lpc : Word) : (t.jump spc lpc).besidesPlace = t.besidesPlace := rfl

@[simp] theorem besidesNotes_advance (n : Nat) : (t.advance n).besidesNotes = t.besidesNotes := by
  simp [besidesNotes]
@[simp] theorem besidesScalars_advance (n : Nat) : (t.advance n).besidesScalars = t.besidesScalars := by
  simp [besidesScalars]
@[simp] theorem besidesVectors_advance (n : Nat) : (t.advance n).besidesVectors = t.besidesVectors := by
  simp [besidesVectors]

@[simp] theorem besidesScalars_setS (r : Nat) (v : Word) : (t.setS r v).besidesScalars = t.besidesScalars := rfl
@[simp] theorem besidesScalars_putS (r : Nat) (v : Word) : (t.putS r v).besidesScalars = t.besidesScalars := rfl
@[simp] theorem besidesScalars_setQ (q : Nat) (m : Mask) : (t.setQ q m).besidesScalars = t.besidesScalars := by
  simp [setQ]
@[simp] theorem besidesVectors_setV (r : Nat) (m : Mask) (x : Vec) : (t.setV r m x).besidesVectors = t.besidesVectors := by
  unfold setV; split <;> rfl
@[simp] theorem besidesVectors_putV (r : Nat) (x : Vec) : (t.putV r x).besidesVectors = t.besidesVectors := rfl

/-- An item inside its clause leaves the strand at the next item. -/
theorem advance_inside {n : Nat} (h : t.item + n ≤ t.nl + t.ns) : t.advance n = { t with item := t.item + n } := by
  simp [advance, h]

/-- The last item of a clause leaves the strand at the next header (R34). -/
theorem advance_last {n : Nat} (h : t.nl + t.ns < t.item + n) :
    (t.advance n).item = 0 ∧ (t.advance n).hspc = t.hspc + BitVec.ofNat 64 (4 * (t.ns + 1)) ∧
      (t.advance n).first = t.first + BitVec.ofNat 32 t.nl := by
  have h' : ¬ t.item + n ≤ t.nl + t.ns := by omega
  simp [advance, h', jump]

@[simp] theorem advance_s (n : Nat) : (t.advance n).s = t.s := by unfold advance; split <;> rfl
@[simp] theorem advance_v (n : Nat) : (t.advance n).v = t.v := by unfold advance; split <;> rfl
@[simp] theorem advance_exec (n : Nat) : (t.advance n).exec = t.exec := by unfold advance; split <;> rfl
@[simp] theorem advance_live (n : Nat) : (t.advance n).live = t.live := by unfold advance; split <;> rfl
@[simp] theorem advance_loops (n : Nat) : (t.advance n).loops = t.loops := by unfold advance; split <;> rfl
@[simp] theorem advance_rets (n : Nat) : (t.advance n).rets = t.rets := by unfold advance; split <;> rfl
@[simp] theorem advance_tx (n : Nat) : (t.advance n).tx = t.tx := by unfold advance; split <;> rfl
@[simp] theorem advance_ops (n : Nat) : (t.advance n).ops = t.ops := by unfold advance; split <;> rfl
@[simp] theorem advance_fmt (n : Nat) : (t.advance n).fmt = t.fmt := by unfold advance; split <;> rfl
@[simp] theorem advance_rot (n : Nat) : (t.advance n).rot = t.rot := by unfold advance; split <;> rfl
@[simp] theorem advance_stage (n : Nat) : (t.advance n).stage = t.stage := by unfold advance; split <;> rfl
@[simp] theorem advance_region (n : Nat) : (t.advance n).region = t.region := by unfold advance; split <;> rfl
@[simp] theorem advance_txstat (n : Nat) : (t.advance n).txstat = t.txstat := by unfold advance; split <;> rfl
@[simp] theorem advance_mx (n : Nat) : (t.advance n).mx = t.mx := by unfold advance; split <;> rfl
@[simp] theorem advance_lfsr (n : Nat) : (t.advance n).lfsr = t.lfsr := by unfold advance; split <;> rfl
@[simp] theorem advance_held (n : Nat) : (t.advance n).held = t.held := by unfold advance; split <;> rfl
@[simp] theorem getS_advance (n r : Nat) : (t.advance n).getS r = t.getS r := by simp [getS]
@[simp] theorem getV_advance (n r : Nat) : (t.advance n).getV r = t.getV r := by simp [getV]
@[simp] theorem getQ_advance (n q : Nat) : (t.advance n).getQ q = t.getQ q := by simp [getQ]

/-! ### Lane writes and quads -/

theorem getV_setV_ne {r q : Nat} (m : Mask) (x : Vec) (h : q ≠ r) : (t.setV r m x).getV q = t.getV q := by
  unfold setV
  split
  · rfl
  · exact AMap.get_set_ne _ _ _ _ h

/-- A lane write changes the lanes of its mask and no other (R50). -/
theorem lane_setV {r l : Nat} (m : Mask) (x : Vec) (hl : l < 128) :
    Vec.lane ((t.setV r m x).getV r) l = if m.getLsbD l then Vec.lane x l else Vec.lane (t.getV r) l := by
  unfold setV
  split
  · rename_i h
    simp [h]
  · simp [getV, Vec.lane, AMap.get_set_self, hl]

@[simp] theorem getS_setV (r q : Nat) (m : Mask) (x : Vec) : (t.setV r m x).getS q = t.getS q := by
  unfold setV; split <;> rfl

theorem Vec_lane_ofFn (f : Nat → Word) {l : Nat} (hl : l < 128) : Vec.lane (Vec.ofFn f) l = f l := by
  simp [Vec.lane, Vec.ofFn, hl]

/-- An instruction's lane results: active lanes hold them, the others keep theirs (R50, R155). -/
theorem writeLanes_holds (r : Nat) (val : Nat → Word) : t.lanesHold (t.writeLanes r val) (t.rotN r) t.exec val := by
  intro l hl
  simp [writeLanes, lane_setV _ _ _ hl, Vec_lane_ofFn _ hl]

theorem writeLanes_sameVectors (r : Nat) (val : Nat → Word) : t.sameVectors (t.writeLanes r val) [t.rotN r] := by
  intro q hq
  exact getV_setV_ne _ _ _ (by simpa using hq)

@[simp] theorem besidesVectors_writeLanes (r : Nat) (val : Nat → Word) : (t.writeLanes r val).besidesVectors = t.besidesVectors :=
  besidesVectors_setV _ _ _ _

/-- A quad written reads back word by word. -/
theorem setQ_holds (q : Nat) (m : Mask) : (t.setQ q m).quadHolds q m := by
  intro w hw
  unfold setQ
  have : w = 0 ∨ w = 1 ∨ w = 2 ∨ w = 3 := by omega
  rcases this with rfl | rfl | rfl | rfl
  · rw [getS_setS_ne _ _ (by omega), getS_setS_ne _ _ (by omega), getS_setS_ne _ _ (by omega)]
    exact getS_setS _ _ _
  · rw [getS_setS_ne _ _ (by omega), getS_setS_ne _ _ (by omega), getS_setS]
  · rw [getS_setS_ne _ _ (by omega), getS_setS]
  · rw [getS_setS]

theorem setQ_sameScalars (q : Nat) (m : Mask) : t.sameScalars (t.setQ q m) (quadRegs q) := by
  intro r hr
  simp only [quadRegs, List.mem_cons, List.not_mem_nil, or_false, not_or] at hr
  unfold setQ
  rw [getS_setS_ne _ _ hr.2.2.2, getS_setS_ne _ _ hr.2.2.1, getS_setS_ne _ _ hr.2.1, getS_setS_ne _ _ hr.1]

theorem setS_sameScalars (d : Nat) (v : Word) : t.sameScalars (t.setS d v) [d] := by
  intro r hr
  exact getS_setS_ne _ _ (by simpa using hr)

end Strand

/-! ### Running an item -/
namespace State
variable {s : State} {t : Strand}

theorem run_of_runs (h : s.runs t) (f : Strand → Host.Outcome State Fault Refusal) : s.run f = f t := by
  unfold run
  unfold runs at h
  rw [h]

theorem finish_eq (s : State) (t : Strand) (n : Nat) : s.finish t n = .next (s.setCur (t.advance n)) := rfl

/-- A strand's update is seen by no read of memory. -/
theorem sameMemory_setCur (s : State) (t : Strand) : s.sameMemory (s.setCur t) := ⟨rfl, fun _ _ _ => rfl⟩

/-- A suppressed lane item has no effect at all (R59). -/
theorem laneItem_suppressed {f : LaneF} (h : s.runs t) (hs : t.suppressed f = true)
    (body : Strand → Host.Outcome State Fault Refusal) : s.laneItem f body = s.finish t 1 := by
  simp [laneItem, run_of_runs h, hs]

theorem laneItem_runs {f : LaneF} (h : s.runs t) (hs : t.suppressed f = false)
    (body : Strand → Host.Outcome State Fault Refusal) : s.laneItem f body = body t := by
  simp [laneItem, run_of_runs h, hs]

/-- No register at or beyond the budget: the check of R142 passes. -/
theorem overBudget_none {t : Strand} {rs : List Nat} (h : ∀ r ∈ rs, r < t.budget) : t.overBudget rs = none := by
  simp only [Strand.overBudget, List.find?_eq_none, decide_eq_true_eq, Nat.not_le]
  exact h

/-- A lane instruction that writes lanes or scalars alone, where its checks pass, has its effect and goes on. -/
theorem laneOp_completes {f : LaneF} {readsFmt : Bool} {regs : List Nat} (eff : Strand → Strand) (h : s.runs t)
    (hs : t.suppressed f = false) (hf : readsFmt = true → t.fmtBad = false) (hr : ∀ r ∈ regs, r < t.budget) :
    s.laneOp f readsFmt regs eff = .next (s.setCur ((eff t).advance 1)) := by
  unfold laneOp
  rw [laneItem_runs h hs]
  have : (readsFmt && t.fmtBad) = false := by
    cases hb : readsFmt
    · rfl
    · simp [hf hb]
  simp [this, overBudget_none hr, finish_eq]

/-- An item that waits changes nothing but the strand's reason to wait (R36, R173). -/
theorem hold_eq (s : State) (t : Strand) (w : Wait) :
    ∃ t', s.hold t w = .next (s.setCur t') ∧ { t' with wait := t.wait, since := t.since } = t := by
  unfold hold
  split
  · exact ⟨t, rfl, rfl⟩
  · exact ⟨_, rfl, rfl⟩

/-- A fault of an item always answers a next state: the trap is taken, waits, or halts the strand (R321, R323). -/
theorem raise_next (s : State) (t : Strand) (f : FaultInfo) : s.raise t f = .next (s.raiseAt s.cur t f) := rfl

end State

/-- A scalar word with one result (R156). -/
theorem setReg_completes {s : State} {t : Strand} (h : s.runs t) (d : Nat) (v : Strand → Word) :
    setReg d v s = .next (s.setCur ((t.setS d (v t)).advance 1)) := by
  simp [setReg, State.run_of_runs h, State.finish_eq]

/-! ### The shuttle's box -/

/-- PERM moves an offset only within its block (R186). -/
theorem xor_off_below (o m : Nat) (h : o % 16 = 0) : (o ^^^ (fld o 7 m * 16)) + 16 ≤ o / 2 ^ (4 + m) * 2 ^ (4 + m) + 2 ^ (4 + m) := by
  have hx : fld o 7 m * 16 < 2 ^ (4 + m) := by
    have : fld o 7 m < 2 ^ m := Nat.mod_lt _ (by positivity)
    rw [pow_add]; omega
  have hd : (o ^^^ (fld o 7 m * 16)) / 2 ^ (4 + m) = o / 2 ^ (4 + m) := by
    rw [← Nat.shiftRight_eq_div_pow, Nat.shiftRight_xor_distrib, Nat.shiftRight_eq_div_pow, Nat.shiftRight_eq_div_pow, Nat.div_eq_of_lt hx, Nat.xor_zero]
  have h16 : (o ^^^ (fld o 7 m * 16)) % 16 = 0 := by
    have := Nat.xor_mod_two_pow (a := o) (b := fld o 7 m * 16) (n := 4)
    rw [show (2 : Nat) ^ 4 = 16 from rfl] at this
    rw [this, h]; simp
  have h1 := Nat.div_add_mod (o ^^^ (fld o 7 m * 16)) (2 ^ (4 + m))
  have hl := Nat.mod_lt (o ^^^ (fld o 7 m * 16)) (show 0 < 2 ^ (4 + m) by positivity)
  have hp : 2 ^ (4 + m) = 16 * 2 ^ m := by rw [pow_add]; rfl
  have e : o / 2 ^ (4 + m) * 2 ^ (4 + m) = 16 * (o / 2 ^ (4 + m) * 2 ^ m) := by rw [hp]; ring
  rw [hd, mul_comm, e] at h1
  rw [e]
  omega

/-- No chunk of an aligned box ends past its top (R186). -/
theorem Box.off_top (b : Box) (c : Nat) (hb : b.base % 16 = 0) (hc : c < b.chunks) : b.off c + 16 ≤ b.top := by
  have hx : 0 < b.x0 ∧ 0 < b.x1 ∧ 0 < b.x2 := by
    refine ⟨Nat.pos_of_ne_zero ?_, Nat.pos_of_ne_zero ?_, Nat.pos_of_ne_zero ?_⟩ <;> intro h <;> simp [Box.chunks, h] at hc
  have i0 : b.i0 c ≤ b.x0 - 1 := by have := Nat.mod_lt c hx.1; unfold Box.i0; omega
  have i1 : b.i1 c ≤ b.x1 - 1 := by have := Nat.mod_lt (c / b.x0) hx.2.1; unfold Box.i1; omega
  have i2 : b.i2 c ≤ b.x2 - 1 := by
    have : c / (b.x0 * b.x1) < b.x2 := Nat.div_lt_of_lt_mul hc
    unfold Box.i2; omega
  refine le_trans (xor_off_below _ b.perm (by omega)) ?_
  unfold Box.top
  dsimp only
  gcongr

/-- The check is a scan of every chunk's offset: the test against the top only cuts it short (R188). -/
theorem boxBound_scan (kind len : Nat) (b : Box) : boxBound kind len b =
    match (List.range b.chunks).find? (fun c => decide (len < b.off c + 16)) with
    | some c => some (b.off c)
    | none => if kind = 2 then ((List.range b.x1).map (fun i => b.g2 + 4 * i)).find? (fun o => decide (len < o + 4)) else none := by
  unfold boxBound
  split <;> rename_i h <;> split at h
  · cases h
  · rw [h]
  · rename_i ht
    have hn : (List.range b.chunks).find? (fun c => decide (len < b.off c + 16)) = none :=
      List.find?_eq_none.2 fun c hc => by
        have := Box.off_top b c ht.1 (List.mem_range.1 hc)
        simp; omega
    rw [hn]
  · rw [h]

end Sys2Proof.Machine
end

