-- ==== Sys2Proof/Laws/PerInstr.lean ====
section
/-!
SUPPORT. For every instruction: it has no words (an event), or its words, where it is well-formed, fit the bits that the two
streams give them.
-/
namespace Sys2Proof.Laws.Fits
open Sys2Proof

/-- The words stay inside 32 bits each, or 96 (R138, R141). -/
def Enc.fits : Enc → Prop
  | .one w => w < 2 ^ 32
  | .two w w2 => w < 2 ^ 32 ∧ w2 < 2 ^ 32
  | .lane w => w < 2 ^ 96

def Statement (i : Instr) : Prop := encode i = none ∨ ∃ e, encode i = some e ∧ (i.wf = true → Enc.fits e)

theorem left {a b : Bool} (h : (a && b) = true) : a = true := by cases a <;> simp_all

theorem lane_fits (i : Instr) (op : Nat) (f : LaneF) (he : encode i = laneEnc op f) (ho : op < 256)
    (h : i.wf = true → f.inRange = true) : Statement i := by
  refine Or.inr ⟨_, he, fun hw => ?_⟩
  have h' := h hw
  simp [LaneF.inRange] at h'
  simp only [Enc.fits, LaneF.enc]
  omega

theorem arith_range {f : LaneF} {a b c s : Bool} {m : Nat} {r : Bool} (h : f.arith a b c s m r = true) : f.inRange = true := by
  simp only [LaneF.arith, Bool.and_eq_true] at h
  tauto
theorem cvtOk_range {f : LaneF} (h : f.cvtOk = true) : f.inRange = true := by
  simp only [LaneF.cvtOk, Bool.and_eq_true] at h
  tauto
theorem packOk_range {f : LaneF} {l : List Nat} (h : f.packOk l = true) : f.inRange = true := by
  simp only [LaneF.packOk, Bool.and_eq_true] at h
  tauto
theorem dotOk_range {f : LaneF} {a b : Nat} (h : f.dotOk a b = true) : f.inRange = true := by
  simp only [LaneF.dotOk, Bool.and_eq_true] at h
  tauto
theorem v2sOk_range {f : LaneF} (h : f.v2sOk = true) : f.inRange = true := by
  simp only [LaneF.v2sOk, Bool.and_eq_true] at h
  tauto
theorem addrOk_range {f : LaneF} {g : Bool} (h : f.addrOk g = true) : f.inRange = true := by
  simp only [LaneF.addrOk, Bool.and_eq_true] at h
  tauto
theorem loadOk_range {f : LaneF} {g : Bool} {a b : Nat} (h : f.loadOk g a b = true) : f.inRange = true := by
  simp only [LaneF.loadOk, Bool.and_eq_true] at h
  exact addrOk_range h.1.1.1
theorem storeOk_range {f : LaneF} {g : Bool} {l : List Nat} {b : Nat} (h : f.storeOk g l b = true) : f.inRange = true := by
  simp only [LaneF.storeOk, Bool.and_eq_true] at h
  exact addrOk_range h.1.1.1
theorem atomOk_range {f : LaneF} {g : Bool} (h : f.atomOk g = true) : f.inRange = true := by
  simp only [LaneF.atomOk, Bool.and_eq_true] at h
  exact addrOk_range h.1.1.1
theorem redOk_range {f : LaneF} (h : f.redOk = true) : f.inRange = true := by
  simp only [LaneF.redOk, Bool.and_eq_true] at h
  exact atomOk_range h.1.1.1
theorem prefOk_range {f : LaneF} (h : f.prefOk = true) : f.inRange = true := by
  simp only [LaneF.prefOk, Bool.and_eq_true] at h
  exact addrOk_range h.1.1.1.1
theorem mmaOk_range {f : LaneF} (h : f.mmaOk = true) : f.inRange = true := by
  simp only [LaneF.mmaOk, Bool.and_eq_true] at h
  tauto
theorem bareOk_range {f : LaneF} {a b : Bool} (h : f.bareOk a b = true) : f.inRange = true := by
  simp only [LaneF.bareOk, Bool.and_eq_true] at h
  tauto
theorem mstoreOk_range {f : LaneF} (h : f.mstoreOk = true) : f.inRange = true := by
  simp only [LaneF.mstoreOk, Bool.and_eq_true] at h
  tauto

theorem clauseHeader (wm : Nat) (sa : Nat) (sb : Nat) (nl : Nat) (ns : Nat) : Statement (.clauseHeader wm sa sb nl ns) := .inr ⟨_, rfl, fun hwf => by
  have h' : (decide (wm < 4096) && isFlagSel sa && isFlagSel sb && decide (nl < 8) && decide (ns < 8)) = true := hwf
  simp [isFlagSel] at h'
  simp only [Enc.fits, headerEnc]
  omega⟩
theorem add (d : Nat) (a : Nat) (b : Nat) : Statement (.add d a b) := .inr ⟨_, rfl, fun hwf => by
  have h' : (isReg d && isReg a && decide (b < 256)) = true := hwf
  simp [isReg] at h'
  simp only [Enc.fits, s3]
  omega⟩
theorem sub (d : Nat) (a : Nat) (b : Nat) : Statement (.sub d a b) := .inr ⟨_, rfl, fun hwf => by
  have h' : (isReg d && isReg a && decide (b < 256)) = true := hwf
  simp [isReg] at h'
  simp only [Enc.fits, s3]
  omega⟩
theorem mul (d : Nat) (a : Nat) (b : Nat) : Statement (.mul d a b) := .inr ⟨_, rfl, fun hwf => by
  have h' : (isReg d && isReg a && decide (b < 256)) = true := hwf
  simp [isReg] at h'
  simp only [Enc.fits, s3]
  omega⟩
theorem mulh (d : Nat) (a : Nat) (b : Nat) : Statement (.mulh d a b) := .inr ⟨_, rfl, fun hwf => by
  have h' : (isReg d && isReg a && decide (b < 256)) = true := hwf
  simp [isReg] at h'
  simp only [Enc.fits, s3]
  omega⟩
theorem mulhu (d : Nat) (a : Nat) (b : Nat) : Statement (.mulhu d a b) := .inr ⟨_, rfl, fun hwf => by
  have h' : (isReg d && isReg a && decide (b < 256)) = true := hwf
  simp [isReg] at h'
  simp only [Enc.fits, s3]
  omega⟩
theorem and (d : Nat) (a : Nat) (b : Nat) : Statement (.and d a b) := .inr ⟨_, rfl, fun hwf => by
  have h' : (isReg d && isReg a && decide (b < 256)) = true := hwf
  simp [isReg] at h'
  simp only [Enc.fits, s3]
  omega⟩
theorem or (d : Nat) (a : Nat) (b : Nat) : Statement (.or d a b) := .inr ⟨_, rfl, fun hwf => by
  have h' : (isReg d && isReg a && decide (b < 256)) = true := hwf
  simp [isReg] at h'
  simp only [Enc.fits, s3]
  omega⟩
theorem xor (d : Nat) (a : Nat) (b : Nat) : Statement (.xor d a b) := .inr ⟨_, rfl, fun hwf => by
  have h' : (isReg d && isReg a && decide (b < 256)) = true := hwf
  simp [isReg] at h'
  simp only [Enc.fits, s3]
  omega⟩
theorem andn (d : Nat) (a : Nat) (b : Nat) : Statement (.andn d a b) := .inr ⟨_, rfl, fun hwf => by
  have h' : (isReg d && isReg a && decide (b < 256)) = true := hwf
  simp [isReg] at h'
  simp only [Enc.fits, s3]
  omega⟩
theorem shl (d : Nat) (a : Nat) (b : Nat) : Statement (.shl d a b) := .inr ⟨_, rfl, fun hwf => by
  have h' : (isReg d && isReg a && decide (b < 256)) = true := hwf
  simp [isReg] at h'
  simp only [Enc.fits, s3]
  omega⟩
theorem shr (d : Nat) (a : Nat) (b : Nat) : Statement (.shr d a b) := .inr ⟨_, rfl, fun hwf => by
  have h' : (isReg d && isReg a && decide (b < 256)) = true := hwf
  simp [isReg] at h'
  simp only [Enc.fits, s3]
  omega⟩
theorem sar (d : Nat) (a : Nat) (b : Nat) : Statement (.sar d a b) := .inr ⟨_, rfl, fun hwf => by
  have h' : (isReg d && isReg a && decide (b < 256)) = true := hwf
  simp [isReg] at h'
  simp only [Enc.fits, s3]
  omega⟩
theorem min (d : Nat) (a : Nat) (b : Nat) : Statement (.min d a b) := .inr ⟨_, rfl, fun hwf => by
  have h' : (isReg d && isReg a && decide (b < 256)) = true := hwf
  simp [isReg] at h'
  simp only [Enc.fits, s3]
  omega⟩
theorem max (d : Nat) (a : Nat) (b : Nat) : Statement (.max d a b) := .inr ⟨_, rfl, fun hwf => by
  have h' : (isReg d && isReg a && decide (b < 256)) = true := hwf
  simp [isReg] at h'
  simp only [Enc.fits, s3]
  omega⟩
theorem minu (d : Nat) (a : Nat) (b : Nat) : Statement (.minu d a b) := .inr ⟨_, rfl, fun hwf => by
  have h' : (isReg d && isReg a && decide (b < 256)) = true := hwf
  simp [isReg] at h'
  simp only [Enc.fits, s3]
  omega⟩
theorem maxu (d : Nat) (a : Nat) (b : Nat) : Statement (.maxu d a b) := .inr ⟨_, rfl, fun hwf => by
  have h' : (isReg d && isReg a && decide (b < 256)) = true := hwf
  simp [isReg] at h'
  simp only [Enc.fits, s3]
  omega⟩
theorem seq (d : Nat) (a : Nat) (b : Nat) : Statement (.seq d a b) := .inr ⟨_, rfl, fun hwf => by
  have h' : (isReg d && isReg a && decide (b < 256)) = true := hwf
  simp [isReg] at h'
  simp only [Enc.fits, s3]
  omega⟩
theorem sne (d : Nat) (a : Nat) (b : Nat) : Statement (.sne d a b) := .inr ⟨_, rfl, fun hwf => by
  have h' : (isReg d && isReg a && decide (b < 256)) = true := hwf
  simp [isReg] at h'
  simp only [Enc.fits, s3]
  omega⟩
theorem slt (d : Nat) (a : Nat) (b : Nat) : Statement (.slt d a b) := .inr ⟨_, rfl, fun hwf => by
  have h' : (isReg d && isReg a && decide (b < 256)) = true := hwf
  simp [isReg] at h'
  simp only [Enc.fits, s3]
  omega⟩
theorem sltu (d : Nat) (a : Nat) (b : Nat) : Statement (.sltu d a b) := .inr ⟨_, rfl, fun hwf => by
  have h' : (isReg d && isReg a && decide (b < 256)) = true := hwf
  simp [isReg] at h'
  simp only [Enc.fits, s3]
  omega⟩
theorem addi (d : Nat) (a : Nat) (imm : Nat) : Statement (.addi d a imm) := .inr ⟨_, rfl, fun hwf => by
  have h' : (isReg d && isReg a && decide (imm < 256)) = true := hwf
  simp [isReg] at h'
  simp only [Enc.fits, s3]
  omega⟩
theorem andi (d : Nat) (a : Nat) (imm : Nat) : Statement (.andi d a imm) := .inr ⟨_, rfl, fun hwf => by
  have h' : (isReg d && isReg a && decide (imm < 256)) = true := hwf
  simp [isReg] at h'
  simp only [Enc.fits, s3]
  omega⟩
theorem ori (d : Nat) (a : Nat) (imm : Nat) : Statement (.ori d a imm) := .inr ⟨_, rfl, fun hwf => by
  have h' : (isReg d && isReg a && decide (imm < 256)) = true := hwf
  simp [isReg] at h'
  simp only [Enc.fits, s3]
  omega⟩
theorem xori (d : Nat) (a : Nat) (imm : Nat) : Statement (.xori d a imm) := .inr ⟨_, rfl, fun hwf => by
  have h' : (isReg d && isReg a && decide (imm < 256)) = true := hwf
  simp [isReg] at h'
  simp only [Enc.fits, s3]
  omega⟩
theorem shli (d : Nat) (a : Nat) (imm : Nat) : Statement (.shli d a imm) := .inr ⟨_, rfl, fun hwf => by
  have h' : (isReg d && isReg a && decide (imm < 32)) = true := hwf
  simp [isReg] at h'
  simp only [Enc.fits, s3]
  omega⟩
theorem shri (d : Nat) (a : Nat) (imm : Nat) : Statement (.shri d a imm) := .inr ⟨_, rfl, fun hwf => by
  have h' : (isReg d && isReg a && decide (imm < 32)) = true := hwf
  simp [isReg] at h'
  simp only [Enc.fits, s3]
  omega⟩
theorem sari (d : Nat) (a : Nat) (imm : Nat) : Statement (.sari d a imm) := .inr ⟨_, rfl, fun hwf => by
  have h' : (isReg d && isReg a && decide (imm < 32)) = true := hwf
  simp [isReg] at h'
  simp only [Enc.fits, s3]
  omega⟩
theorem slti (d : Nat) (a : Nat) (imm : Nat) : Statement (.slti d a imm) := .inr ⟨_, rfl, fun hwf => by
  have h' : (isReg d && isReg a && decide (imm < 256)) = true := hwf
  simp [isReg] at h'
  simp only [Enc.fits, s3]
  omega⟩
theorem movi (d : Nat) (imm : Nat) : Statement (.movi d imm) := .inr ⟨_, rfl, fun hwf => by
  have h' : (isReg d && decide (imm < 2 ^ 17)) = true := hwf
  simp [isReg] at h'
  simp only [Enc.fits, sd]
  omega⟩
theorem movhi (d : Nat) (imm : Nat) : Statement (.movhi d imm) := .inr ⟨_, rfl, fun hwf => by
  have h' : (isReg d && decide (imm < 2 ^ 17)) = true := hwf
  simp [isReg] at h'
  simp only [Enc.fits, sd]
  omega⟩
theorem popc (d : Nat) (a : Nat) : Statement (.popc d a) := .inr ⟨_, rfl, fun hwf => by
  have h' : (isReg d && isReg a) = true := hwf
  simp [isReg] at h'
  simp only [Enc.fits, sxr]
  omega⟩
theorem clz (d : Nat) (a : Nat) : Statement (.clz d a) := .inr ⟨_, rfl, fun hwf => by
  have h' : (isReg d && isReg a) = true := hwf
  simp [isReg] at h'
  simp only [Enc.fits, sxr]
  omega⟩
theorem ctz (d : Nat) (a : Nat) : Statement (.ctz d a) := .inr ⟨_, rfl, fun hwf => by
  have h' : (isReg d && isReg a) = true := hwf
  simp [isReg] at h'
  simp only [Enc.fits, sxr]
  omega⟩
theorem brev (d : Nat) (a : Nat) : Statement (.brev d a) := .inr ⟨_, rfl, fun hwf => by
  have h' : (isReg d && isReg a) = true := hwf
  simp [isReg] at h'
  simp only [Enc.fits, sxr]
  omega⟩
theorem bfe (d : Nat) (ctl : Nat) : Statement (.bfe d ctl) := .inr ⟨_, rfl, fun hwf => by
  have h' : (isReg d && decide (ctl < 2048)) = true := hwf
  simp [isReg] at h'
  simp only [Enc.fits, sxi]
  omega⟩
theorem bfi (d : Nat) (a : Nat) : Statement (.bfi d a) := .inr ⟨_, rfl, fun hwf => by
  have h' : (isReg d && isPair a) = true := hwf
  simp [isReg, isPair] at h'
  simp only [Enc.fits, sxr]
  omega⟩
theorem mov (d : Nat) (a : Nat) : Statement (.mov d a) := .inr ⟨_, rfl, fun hwf => by
  have h' : (isReg d && isReg a) = true := hwf
  simp [isReg] at h'
  simp only [Enc.fits, sxr]
  omega⟩
theorem not (d : Nat) (a : Nat) : Statement (.not d a) := .inr ⟨_, rfl, fun hwf => by
  have h' : (isReg d && isReg a) = true := hwf
  simp [isReg] at h'
  simp only [Enc.fits, sxr]
  omega⟩
theorem sext8 (d : Nat) (a : Nat) : Statement (.sext8 d a) := .inr ⟨_, rfl, fun hwf => by
  have h' : (isReg d && isReg a) = true := hwf
  simp [isReg] at h'
  simp only [Enc.fits, sxr]
  omega⟩
theorem sext16 (d : Nat) (a : Nat) : Statement (.sext16 d a) := .inr ⟨_, rfl, fun hwf => by
  have h' : (isReg d && isReg a) = true := hwf
  simp [isReg] at h'
  simp only [Enc.fits, sxr]
  omega⟩
theorem lds (d : Nat) (p : Nat) (fs : Nat) (off : Nat) : Statement (.lds d p fs off) := .inr ⟨_, rfl, fun hwf => by
  have h' : (isReg d && decide (p < 192) && decide (fs < 2) && decide (off < 256)) = true := hwf
  simp [isReg] at h'
  simp only [Enc.fits, sd, pfo]
  omega⟩
theorem lds2 (d : Nat) (p : Nat) (fs : Nat) (off : Nat) : Statement (.lds2 d p fs off) := .inr ⟨_, rfl, fun hwf => by
  have h' : (isPair d && decide (p < 192) && decide (fs < 2) && decide (off < 256)) = true := hwf
  simp [isPair] at h'
  simp only [Enc.fits, sd, pfo]
  omega⟩
theorem lds4 (d : Nat) (p : Nat) (fs : Nat) (off : Nat) : Statement (.lds4 d p fs off) := .inr ⟨_, rfl, fun hwf => by
  have h' : (isQuad d && decide (p < 192) && decide (fs < 2) && decide (off < 256)) = true := hwf
  simp [isQuad] at h'
  simp only [Enc.fits, sd, pfo]
  omega⟩
theorem sts (d : Nat) (p : Nat) (fs : Nat) (off : Nat) : Statement (.sts d p fs off) := .inr ⟨_, rfl, fun hwf => by
  have h' : (isReg d && decide (p < 192) && decide (fs < 2) && decide (off < 256)) = true := hwf
  simp [isReg] at h'
  simp only [Enc.fits, sd, pfo]
  omega⟩
theorem sts2 (d : Nat) (p : Nat) (fs : Nat) (off : Nat) : Statement (.sts2 d p fs off) := .inr ⟨_, rfl, fun hwf => by
  have h' : (isPair d && decide (p < 192) && decide (fs < 2) && decide (off < 256)) = true := hwf
  simp [isPair] at h'
  simp only [Enc.fits, sd, pfo]
  omega⟩
theorem atoms (d : Nat) (p : Nat) (fs : Nat) (opc : Nat) (ord : Nat) (scope : Nat) : Statement (.atoms d p fs opc ord scope) := .inr ⟨_, rfl, fun hwf => by
  have h' : (isReg d && decide (p < 192) && decide (fs < 2) && decide (opc < 7) && decide (ord < 4) && decide (scope ≤ 5) && (ord != 0 || scope == 0) && (opc != 6 || d % 2 == 0)) = true := hwf
  simp [isReg] at h'
  simp only [Enc.fits, sd, pfo, atomsEnc]
  omega⟩
theorem retComplete (k : Nat) (path : Nat) : Statement (.retComplete k path) := .inl rfl
theorem srcComplete (k : Nat) (path : Nat) : Statement (.srcComplete k path) := .inl rfl
theorem bra (soff : Nat) (loff : Nat) : Statement (.bra soff loff) := .inr ⟨_, rfl, fun hwf => by
  have h' : (decide (soff < 2 ^ 17) && decide (loff < 2 ^ 32)) = true := hwf
  simp at h'
  simp only [Enc.fits, sd]
  omega⟩
theorem bz (r : Nat) (soff : Nat) (loff : Nat) : Statement (.bz r soff loff) := .inr ⟨_, rfl, fun hwf => by
  have h' : (isReg r && decide (soff < 2 ^ 17) && decide (loff < 2 ^ 32)) = true := hwf
  simp [isReg] at h'
  simp only [Enc.fits, sd]
  omega⟩
theorem bnz (r : Nat) (soff : Nat) (loff : Nat) : Statement (.bnz r soff loff) := .inr ⟨_, rfl, fun hwf => by
  have h' : (isReg r && decide (soff < 2 ^ 17) && decide (loff < 2 ^ 32)) = true := hwf
  simp [isReg] at h'
  simp only [Enc.fits, sd]
  omega⟩
theorem bexz (soff : Nat) (loff : Nat) : Statement (.bexz soff loff) := .inr ⟨_, rfl, fun hwf => by
  have h' : (decide (soff < 2 ^ 17) && decide (loff < 2 ^ 32)) = true := hwf
  simp at h'
  simp only [Enc.fits, sd]
  omega⟩
theorem call (soff : Nat) (loff : Nat) : Statement (.call soff loff) := .inr ⟨_, rfl, fun hwf => by
  have h' : (decide (soff < 2 ^ 17) && decide (loff < 2 ^ 32)) = true := hwf
  simp at h'
  simp only [Enc.fits, sd]
  omega⟩
theorem calli (x : Nat) (y : Nat) : Statement (.calli x y) := .inr ⟨_, rfl, fun hwf => by
  have h' : (isPair x && isReg y) = true := hwf
  simp [isReg, isPair] at h'
  simp only [Enc.fits, sxr]
  omega⟩
theorem jmpi (x : Nat) (y : Nat) : Statement (.jmpi x y) := .inr ⟨_, rfl, fun hwf => by
  have h' : (isPair x && isReg y) = true := hwf
  simp [isReg, isPair] at h'
  simp only [Enc.fits, sxr]
  omega⟩
theorem callv (x : Nat) (y : Nat) : Statement (.callv x y) := .inr ⟨_, rfl, fun hwf => by
  have h' : (decide (x < 256) && decide (y < 512)) = true := hwf
  simp at h'
  simp only [Enc.fits, sxr]
  omega⟩
theorem jmpv (x : Nat) (y : Nat) : Statement (.jmpv x y) := .inr ⟨_, rfl, fun hwf => by
  have h' : (decide (x < 256) && decide (y < 512)) = true := hwf
  simp at h'
  simp only [Enc.fits, sxr]
  omega⟩
theorem msplit (c : Nat) (sv : Nat) (soff : Nat) (loff : Nat) : Statement (.msplit c sv soff loff) := .inr ⟨_, rfl, fun hwf => by
  have h' : (isQuad c && isSave sv && decide (soff < 2 ^ 16) && decide (loff < 2 ^ 16)) = true := hwf
  simp [isQuad, isSave] at h'
  simp only [Enc.fits, hl, sxr]
  omega⟩
theorem mjoin (sv : Nat) : Statement (.mjoin sv) := .inr ⟨_, rfl, fun hwf => by
  have h' : (isSave sv) = true := hwf
  simp [isSave] at h'
  simp only [Enc.fits, sxr]
  omega⟩
theorem mset (y : Nat) (z : Nat) : Statement (.mset y z) := .inr ⟨_, rfl, fun hwf => by
  have h' : (isMaskOp y z) = true := hwf
  simp [isMaskOp, isQuad] at h'
  simp only [Enc.fits, sxr]
  omega⟩
theorem mget (x : Nat) (y : Nat) (z : Nat) : Statement (.mget x y z) := .inr ⟨_, rfl, fun hwf => by
  have h' : (isQuad x && isMaskOp y z) = true := hwf
  simp [isQuad, isMaskOp] at h'
  simp only [Enc.fits, sxr]
  omega⟩
theorem mand (x : Nat) (y : Nat) (z : Nat) : Statement (.mand x y z) := .inr ⟨_, rfl, fun hwf => by
  have h' : (isQuad x && isMaskOp y z) = true := hwf
  simp [isQuad, isMaskOp] at h'
  simp only [Enc.fits, sxr]
  omega⟩
theorem mor (x : Nat) (y : Nat) (z : Nat) : Statement (.mor x y z) := .inr ⟨_, rfl, fun hwf => by
  have h' : (isQuad x && isMaskOp y z) = true := hwf
  simp [isQuad, isMaskOp] at h'
  simp only [Enc.fits, sxr]
  omega⟩
theorem mnot (x : Nat) (y : Nat) (z : Nat) : Statement (.mnot x y z) := .inr ⟨_, rfl, fun hwf => by
  have h' : (isQuad x && isMaskOp y z) = true := hwf
  simp [isQuad, isMaskOp] at h'
  simp only [Enc.fits, sxr]
  omega⟩
theorem mpopc (x : Nat) (y : Nat) (z : Nat) : Statement (.mpopc x y z) := .inr ⟨_, rfl, fun hwf => by
  have h' : (isReg x && isMaskOp y z) = true := hwf
  simp [isReg, isMaskOp, isQuad] at h'
  simp only [Enc.fits, sxr]
  omega⟩
theorem loop (lvl : Nat) (cnt : Nat) (nstg : Nat) (rot : Nat) (item : Nat) (ireg : Nat) (send : Nat) (llen : Nat) : Statement (.loop lvl cnt nstg rot item ireg send llen) := .inr ⟨_, rfl, fun hwf => by
  have h' : (decide (lvl < 4) && isReg cnt && decide (1 ≤ nstg) && decide (nstg < 8) && decide (rot < 2) && decide (item < 2) && decide (ireg < 256) && decide (2 ≤ send) && decide (send < 2 ^ 16) && decide (llen < 2 ^ 16) && (item == 0 || nstg == 1) && (item == 1 || ireg == 0)) = true := hwf
  simp [isReg] at h'
  simp only [Enc.fits, hl, loopEnc]
  omega⟩
theorem lexit (x : Nat) : Statement (.lexit x) := .inr ⟨_, rfl, fun hwf => by
  have h' : (isQuad x) = true := hwf
  simp [isQuad] at h'
  simp only [Enc.fits, sxr]
  omega⟩
theorem rotset (base : Nat) (size : Nat) : Statement (.rotset base size) := .inr ⟨_, rfl, fun hwf => by
  have h' : (decide (base < 256) && decide (1 ≤ size) && decide (size ≤ 128)) = true := hwf
  simp at h'
  simp only [Enc.fits, sxi]
  omega⟩
theorem skput (x : Nat) (y : Nat) (z : Nat) : Statement (.skput x y z) := .inr ⟨_, rfl, fun hwf => by
  have h' : (isReg x && isReg y && decide (z < 2)) = true := hwf
  simp [isReg] at h'
  simp only [Enc.fits, sxr]
  omega⟩
theorem ldepth (x : Nat) : Statement (.ldepth x) := .inr ⟨_, rfl, fun hwf => by
  have h' : (isReg x) = true := hwf
  simp [isReg] at h'
  simp only [Enc.fits, sxr]
  omega⟩
theorem waitp (path : Nat) (i : Nat) (n : Nat) : Statement (.waitp path i n) := .inr ⟨_, rfl, fun hwf => by
  have h' : (decide (path ≤ 5) && ((i == 1 && decide (n < 1024)) || (i == 0 && isReg n))) = true := hwf
  simp [isReg] at h'
  simp only [Enc.fits, waitpEnc]
  omega⟩
theorem fence (kind : Nat) (scope : Nat) : Statement (.fence kind scope) := .inr ⟨_, rfl, fun hwf => by
  have h' : (decide (kind < 4) && decide (scope ≤ 5)) = true := hwf
  simp at h'
  simp only [Enc.fits]
  omega⟩
theorem claspInit (x : Nat) (h : Nat) : Statement (.claspInit x h) := .inr ⟨_, rfl, fun hwf => by
  have h' : (isReg x && decide (h < 16)) = true := hwf
  simp [isReg] at h'
  simp only [Enc.fits, sxi]
  omega⟩
theorem claspArrive (x : Nat) (h : Nat) : Statement (.claspArrive x h) := .inr ⟨_, rfl, fun hwf => by
  have h' : (isReg x && decide (h < 16)) = true := hwf
  simp [isReg] at h'
  simp only [Enc.fits, sxi]
  omega⟩
theorem claspArrivetx (x : Nat) (h : Nat) : Statement (.claspArrivetx x h) := .inr ⟨_, rfl, fun hwf => by
  have h' : (isReg x && decide (h < 16)) = true := hwf
  simp [isReg] at h'
  simp only [Enc.fits, sxi]
  omega⟩
theorem heldArrival (k : Nat) (h : Nat) : Statement (.heldArrival k h) := .inl rfl
theorem claspWait (x : Nat) (h : Nat) : Statement (.claspWait x h) := .inr ⟨_, rfl, fun hwf => by
  have h' : (isReg x && decide (h < 16)) = true := hwf
  simp [isReg] at h'
  simp only [Enc.fits, sxi]
  omega⟩
theorem claspTest (x : Nat) (h : Nat) : Statement (.claspTest x h) := .inr ⟨_, rfl, fun hwf => by
  have h' : (isReg x && decide (h < 16)) = true := hwf
  simp [isReg] at h'
  simp only [Enc.fits, sxi]
  omega⟩
theorem claspInval (h : Nat) : Statement (.claspInval h) := .inr ⟨_, rfl, fun hwf => by
  have h' : (decide (h < 16)) = true := hwf
  simp at h'
  simp only [Enc.fits, sxi]
  omega⟩
theorem claspReg (x : Nat) (h : Nat) (bolt : Nat) : Statement (.claspReg x h bolt) := .inr ⟨_, rfl, fun hwf => by
  have h' : (decide (h < 16) && ((bolt == 0 && isReg x) || (bolt == 1 && isPair x))) = true := hwf
  simp [isReg, isPair] at h'
  simp only [Enc.fits, sxi]
  omega⟩
theorem claspUnreg (h : Nat) : Statement (.claspUnreg h) := .inr ⟨_, rfl, fun hwf => by
  have h' : (decide (h < 16)) = true := hwf
  simp at h'
  simp only [Enc.fits, sxi]
  omega⟩
theorem attach (x : Nat) (coord : Nat) (role : Nat) : Statement (.attach x coord role) := .inr ⟨_, rfl, fun hwf => by
  have h' : (isQuad x && isCoord coord && decide (role < 3)) = true := hwf
  simp [isQuad, isCoord] at h'
  simp only [Enc.fits, sxi]
  omega⟩
theorem detach (x : Nat) : Statement (.detach x) := .inr ⟨_, rfl, fun hwf => by
  have h' : (isReg x) = true := hwf
  simp [isReg] at h'
  simp only [Enc.fits, sxr]
  omega⟩
theorem departure (k : Nat) : Statement (.departure k) := .inl rfl
theorem yieldq (x : Nat) : Statement (.yieldq x) := .inr ⟨_, rfl, fun hwf => by
  have h' : (isReg x) = true := hwf
  simp [isReg] at h'
  simp only [Enc.fits, sxr]
  omega⟩
theorem count (x : Nat) : Statement (.count x) := .inr ⟨_, rfl, fun hwf => by
  have h' : (isReg x) = true := hwf
  simp [isReg] at h'
  simp only [Enc.fits, sxr]
  omega⟩
theorem grow (x : Nat) (role : Nat) : Statement (.grow x role) := .inr ⟨_, rfl, fun hwf => by
  have h' : (isReg x && decide (role < 3)) = true := hwf
  simp [isReg] at h'
  simp only [Enc.fits, sxr]
  omega⟩
theorem growDecided (k : Nat) : Statement (.growDecided k) := .inl rfl
theorem shrink (x : Nat) (role : Nat) : Statement (.shrink x role) := .inr ⟨_, rfl, fun hwf => by
  have h' : (isReg x && decide (role < 3)) = true := hwf
  simp [isReg] at h'
  simp only [Enc.fits, sxr]
  omega⟩
theorem who (x : Nat) (y : Nat) (z : Nat) : Statement (.who x y z) := .inr ⟨_, rfl, fun hwf => by
  have h' : (isReg x && ((z == 0 && y == 0) || (z == 1 && isReg y))) = true := hwf
  simp [isReg] at h'
  simp only [Enc.fits, sxr]
  omega⟩
theorem launch (d : Nat) (p : Nat) : Statement (.launch d p) := .inr ⟨_, rfl, fun hwf => by
  have h' : (isReg d && decide (p < 192)) = true := hwf
  simp [isReg] at h'
  simp only [Enc.fits, sd, pfo]
  omega⟩
theorem sget (x : Nat) (y : Nat) : Statement (.sget x y) := .inr ⟨_, rfl, fun hwf => by
  have h' : (isReg x && isSpr y) = true := hwf
  simp [isReg, isSpr] at h'
  simp only [Enc.fits, sxr]
  omega⟩
theorem sset (x : Nat) (y : Nat) : Statement (.sset x y) := .inr ⟨_, rfl, fun hwf => by
  have h' : (isReg x && isSprW y) = true := hwf
  simp [isReg, isSprW] at h'
  simp only [Enc.fits, sxr]
  omega⟩
theorem trap (code : Nat) : Statement (.trap code) := .inr ⟨_, rfl, fun hwf => by
  have h' : (decide (code < 2048)) = true := hwf
  simp at h'
  simp only [Enc.fits, sxi]
  omega⟩
theorem bkpt (id : Nat) : Statement (.bkpt id) := .inr ⟨_, rfl, fun hwf => by
  have h' : (decide (id < 2048)) = true := hwf
  simp at h'
  simp only [Enc.fits, sxi]
  omega⟩
theorem prog (id : Nat) : Statement (.prog id) := .inr ⟨_, rfl, fun hwf => by
  have h' : (decide (id < 256)) = true := hwf
  simp at h'
  simp only [Enc.fits, sxi]
  omega⟩
theorem csrr (x : Nat) (y : Nat) : Statement (.csrr x y) := .inr ⟨_, rfl, fun hwf => by
  have h' : (isReg x && isReg y) = true := hwf
  simp [isReg] at h'
  simp only [Enc.fits, sxr]
  omega⟩
theorem csrw (x : Nat) (y : Nat) : Statement (.csrw x y) := .inr ⟨_, rfl, fun hwf => by
  have h' : (isReg x && isReg y) = true := hwf
  simp [isReg] at h'
  simp only [Enc.fits, sxr]
  omega⟩
theorem go (x : Nat) : Statement (.go x) := .inr ⟨_, rfl, fun hwf => by
  have h' : (isQuad x) = true := hwf
  simp [isQuad] at h'
  simp only [Enc.fits, sxr]
  omega⟩
theorem cancel (x : Nat) : Statement (.cancel x) := .inr ⟨_, rfl, fun hwf => by
  have h' : (isReg x) = true := hwf
  simp [isReg] at h'
  simp only [Enc.fits, sxr]
  omega⟩
theorem repeatGo (x : Nat) : Statement (.repeatGo x) := .inr ⟨_, rfl, fun hwf => by
  have h' : (isQuad x) = true := hwf
  simp [isQuad] at h'
  simp only [Enc.fits, sxr]
  omega⟩
theorem shtCopyin (x : Nat) (y : Nat) (fs : Nat) : Statement (.shtCopyin x y fs) := .inr ⟨_, rfl, fun hwf => by
  have h' : (isQuad x && isQuad y && decide (fs < 2)) = true := hwf
  simp [isQuad] at h'
  simp only [Enc.fits, sxr]
  omega⟩
theorem shtCopyout (x : Nat) (y : Nat) (fs : Nat) : Statement (.shtCopyout x y fs) := .inr ⟨_, rfl, fun hwf => by
  have h' : (isQuad x && isQuad y && decide (fs < 2)) = true := hwf
  simp [isQuad] at h'
  simp only [Enc.fits, sxr]
  omega⟩
theorem shtGather (x : Nat) (y : Nat) (fs : Nat) : Statement (.shtGather x y fs) := .inr ⟨_, rfl, fun hwf => by
  have h' : (isQuad x && isQuad y && decide (fs < 2)) = true := hwf
  simp [isQuad] at h'
  simp only [Enc.fits, sxr]
  omega⟩
theorem shtStash (x : Nat) (y : Nat) (fs : Nat) : Statement (.shtStash x y fs) := .inr ⟨_, rfl, fun hwf => by
  have h' : (isReg x && isPair y && decide (fs < 2)) = true := hwf
  simp [isReg, isPair] at h'
  simp only [Enc.fits, sxr]
  omega⟩
theorem shtUnstash (x : Nat) (y : Nat) (fs : Nat) : Statement (.shtUnstash x y fs) := .inr ⟨_, rfl, fun hwf => by
  have h' : (isReg x && isPair y && decide (fs < 2)) = true := hwf
  simp [isReg, isPair] at h'
  simp only [Enc.fits, sxr]
  omega⟩
theorem shtFill (x : Nat) (y : Nat) (fs : Nat) : Statement (.shtFill x y fs) := .inr ⟨_, rfl, fun hwf => by
  have h' : (isQuad x && isReg y && decide (fs < 2)) = true := hwf
  simp [isReg, isQuad] at h'
  simp only [Enc.fits, sxr]
  omega⟩
theorem shuttleComplete (k : Nat) : Statement (.shuttleComplete k) := .inl rfl
theorem tbegin (soff : Nat) (loff : Nat) : Statement (.tbegin soff loff) := .inr ⟨_, rfl, fun hwf => by
  have h' : (decide (soff < 2 ^ 16) && decide (loff < 2 ^ 16)) = true := hwf
  simp at h'
  simp only [Enc.fits, hl, sxr]
  omega⟩
theorem tend (x : Nat) : Statement (.tend x) := .inr ⟨_, rfl, fun hwf => by
  have h' : (isQuad x) = true := hwf
  simp [isQuad] at h'
  simp only [Enc.fits, sxr]
  omega⟩
theorem tabort (arg : Nat) : Statement (.tabort arg) := .inr ⟨_, rfl, fun hwf => by
  have h' : (decide (arg < 256)) = true := hwf
  simp at h'
  simp only [Enc.fits, sxi]
  omega⟩
theorem tserial (soff : Nat) (loff : Nat) : Statement (.tserial soff loff) := .inr ⟨_, rfl, fun hwf => by
  have h' : (decide (soff < 2 ^ 16) && decide (loff < 2 ^ 16)) = true := hwf
  simp at h'
  simp only [Enc.fits, hl, sxr]
  omega⟩
theorem iadd (f : LaneF) : Statement (.iadd f) := lane_fits _ 1 f rfl (by decide) fun h => arith_range (f := f) (show (f.arith true true false (decide (f.sub < 2)) 1 false) = true from h)
theorem isub (f : LaneF) : Statement (.isub f) := lane_fits _ 2 f rfl (by decide) fun h => arith_range (f := f) (show (f.arith true true false (decide (f.sub < 2)) 1 false) = true from h)
theorem imul (f : LaneF) : Statement (.imul f) := lane_fits _ 3 f rfl (by decide) fun h => arith_range (f := f) (show (f.arith true true false (f.sub == 0) 0 false) = true from h)
theorem imulh (f : LaneF) : Statement (.imulh f) := lane_fits _ 4 f rfl (by decide) fun h => arith_range (f := f) (show (f.arith true true false (decide (f.sub < 2)) 0 false) = true from h)
theorem imad (f : LaneF) : Statement (.imad f) := lane_fits _ 5 f rfl (by decide) fun h => arith_range (f := f) (show (f.arith true true true (decide (f.sub < 2)) 1 false) = true from h)
theorem imadw (f : LaneF) : Statement (.imadw f) := lane_fits _ 6 f rfl (by decide) fun h => arith_range (f := f) (show (f.arith true true true (decide (f.sub < 2)) 0 false) = true from h)
theorem iand (f : LaneF) : Statement (.iand f) := lane_fits _ 7 f rfl (by decide) fun h => arith_range (f := f) (show (f.arith true true false (f.sub == 0) 0 false) = true from h)
theorem ior (f : LaneF) : Statement (.ior f) := lane_fits _ 8 f rfl (by decide) fun h => arith_range (f := f) (show (f.arith true true false (f.sub == 0) 0 false) = true from h)
theorem ixor (f : LaneF) : Statement (.ixor f) := lane_fits _ 9 f rfl (by decide) fun h => arith_range (f := f) (show (f.arith true true false (f.sub == 0) 0 false) = true from h)
theorem tern (f : LaneF) : Statement (.tern f) := lane_fits _ 10 f rfl (by decide) fun h => arith_range (f := f) (show (f.arith true true true (true) 0 false) = true from h)
theorem shlL (f : LaneF) : Statement (.shlL f) := lane_fits _ 11 f rfl (by decide) fun h => arith_range (f := f) (show (f.arith true true false (decide (f.sub < 2)) 0 false) = true from h)
theorem shrL (f : LaneF) : Statement (.shrL f) := lane_fits _ 12 f rfl (by decide) fun h => arith_range (f := f) (show (f.arith true true false (decide (f.sub < 2)) 0 false) = true from h)
theorem sarL (f : LaneF) : Statement (.sarL f) := lane_fits _ 13 f rfl (by decide) fun h => arith_range (f := f) (show (f.arith true true false (decide (f.sub < 2)) 0 false) = true from h)
theorem shf (f : LaneF) : Statement (.shf f) := lane_fits _ 14 f rfl (by decide) fun h => arith_range (f := f) (show (f.arith true true true (decide (f.sub < 2)) 0 false) = true from h)
theorem imin (f : LaneF) : Statement (.imin f) := lane_fits _ 15 f rfl (by decide) fun h => arith_range (f := f) (show (f.arith true true false (decide (f.sub < 2)) 0 false) = true from h)
theorem imax (f : LaneF) : Statement (.imax f) := lane_fits _ 16 f rfl (by decide) fun h => arith_range (f := f) (show (f.arith true true false (decide (f.sub < 2)) 0 false) = true from h)
theorem iabs (f : LaneF) : Statement (.iabs f) := lane_fits _ 17 f rfl (by decide) fun h => arith_range (f := f) (show (f.arith true false false (f.sub == 0) 1 false) = true from h)
theorem icmp (f : LaneF) : Statement (.icmp f) := lane_fits _ 18 f rfl (by decide) fun h => arith_range (f := f) (left (show (f.arith true true false (decide (f.sub < 16) && decide (f.sub % 8 ≤ 5)) 0 false && decide (f.vd ≤ 95)) = true from h))
theorem sel (f : LaneF) : Statement (.sel f) := lane_fits _ 19 f rfl (by decide) fun h => arith_range (f := f) (left (show (f.arith true true true (f.sub == 0) 0 false && decide (f.vc ≤ 95)) = true from h))
theorem popcL (f : LaneF) : Statement (.popcL f) := lane_fits _ 20 f rfl (by decide) fun h => arith_range (f := f) (show (f.arith true false false (f.sub == 0) 0 false) = true from h)
theorem clzL (f : LaneF) : Statement (.clzL f) := lane_fits _ 21 f rfl (by decide) fun h => arith_range (f := f) (show (f.arith true false false (f.sub == 0) 0 false) = true from h)
theorem brevL (f : LaneF) : Statement (.brevL f) := lane_fits _ 22 f rfl (by decide) fun h => arith_range (f := f) (show (f.arith true false false (f.sub == 0) 0 false) = true from h)
theorem bfeL (f : LaneF) : Statement (.bfeL f) := lane_fits _ 23 f rfl (by decide) fun h => arith_range (f := f) (show (f.arith true true false (decide (f.sub < 2)) 0 false) = true from h)
theorem bfiL (f : LaneF) : Statement (.bfiL f) := lane_fits _ 24 f rfl (by decide) fun h => arith_range (f := f) (show (f.arith true true true (f.sub == 0) 0 false) = true from h)
theorem prmt (f : LaneF) : Statement (.prmt f) := lane_fits _ 25 f rfl (by decide) fun h => arith_range (f := f) (show (f.arith true true true (f.sub == 0) 0 false) = true from h)
theorem movL (f : LaneF) : Statement (.movL f) := lane_fits _ 26 f rfl (by decide) fun h => arith_range (f := f) (show (f.arith false true false (f.sub == 0) 0 false) = true from h)
theorem iaddc (f : LaneF) : Statement (.iaddc f) := lane_fits _ 27 f rfl (by decide) fun h => arith_range (f := f) (left (show (f.arith true true false (f.sub == 0) 0 false && (f.bsrc != 1 || f.imm % 2 == 0)) = true from h))
theorem laneId (f : LaneF) : Statement (.laneId f) := lane_fits _ 28 f rfl (by decide) fun h => arith_range (f := f) (show (f.arith false false false (decide (f.sub < 2)) 0 false) = true from h)
theorem fadd (f : LaneF) : Statement (.fadd f) := lane_fits _ 32 f rfl (by decide) fun h => arith_range (f := f) (show (f.arith true true false (f.sub == 0) 55 true) = true from h)
theorem fmul (f : LaneF) : Statement (.fmul f) := lane_fits _ 33 f rfl (by decide) fun h => arith_range (f := f) (show (f.arith true true false (f.sub == 0) 55 true) = true from h)
theorem ffma (f : LaneF) : Statement (.ffma f) := lane_fits _ 34 f rfl (by decide) fun h => arith_range (f := f) (show (f.arith true true true (f.sub == 0) 63 true) = true from h)
theorem fmin (f : LaneF) : Statement (.fmin f) := lane_fits _ 35 f rfl (by decide) fun h => arith_range (f := f) (show (f.arith true true false (f.sub == 0) 54 false) = true from h)
theorem fmax (f : LaneF) : Statement (.fmax f) := lane_fits _ 36 f rfl (by decide) fun h => arith_range (f := f) (show (f.arith true true false (f.sub == 0) 54 false) = true from h)
theorem fcmp (f : LaneF) : Statement (.fcmp f) := lane_fits _ 37 f rfl (by decide) fun h => arith_range (f := f) (left (show (f.arith true true false (decide (f.sub < 8)) 54 false && decide (f.vd ≤ 95)) = true from h))
theorem frnd (f : LaneF) : Statement (.frnd f) := lane_fits _ 38 f rfl (by decide) fun h => arith_range (f := f) (show (f.arith true false false (f.sub == 0) 18 true) = true from h)
theorem fscl (f : LaneF) : Statement (.fscl f) := lane_fits _ 39 f rfl (by decide) fun h => arith_range (f := f) (show (f.arith true true false (decide (f.sub < 4)) 18 true) = true from h)
theorem hadd2 (f : LaneF) : Statement (.hadd2 f) := lane_fits _ 40 f rfl (by decide) fun h => arith_range (f := f) (show (f.arith true true false (decide (f.sub < 2)) 7 true) = true from h)
theorem hmul2 (f : LaneF) : Statement (.hmul2 f) := lane_fits _ 41 f rfl (by decide) fun h => arith_range (f := f) (show (f.arith true true false (decide (f.sub < 2)) 7 true) = true from h)
theorem hfma2 (f : LaneF) : Statement (.hfma2 f) := lane_fits _ 42 f rfl (by decide) fun h => arith_range (f := f) (show (f.arith true true true (decide (f.sub < 2)) 15 true) = true from h)
theorem rcp (f : LaneF) : Statement (.rcp f) := lane_fits _ 64 f rfl (by decide) fun h => arith_range (f := f) (show (f.arith true false false (f.sub == 0) 18 false) = true from h)
theorem rsq (f : LaneF) : Statement (.rsq f) := lane_fits _ 65 f rfl (by decide) fun h => arith_range (f := f) (show (f.arith true false false (f.sub == 0) 18 false) = true from h)
theorem sqrt (f : LaneF) : Statement (.sqrt f) := lane_fits _ 66 f rfl (by decide) fun h => arith_range (f := f) (show (f.arith true false false (f.sub == 0) 18 true) = true from h)
theorem exp2 (f : LaneF) : Statement (.exp2 f) := lane_fits _ 67 f rfl (by decide) fun h => arith_range (f := f) (show (f.arith true false false (f.sub == 0) 18 false) = true from h)
theorem log2 (f : LaneF) : Statement (.log2 f) := lane_fits _ 68 f rfl (by decide) fun h => arith_range (f := f) (show (f.arith true false false (f.sub == 0) 18 false) = true from h)
theorem sin (f : LaneF) : Statement (.sin f) := lane_fits _ 69 f rfl (by decide) fun h => arith_range (f := f) (show (f.arith true false false (f.sub == 0) 18 false) = true from h)
theorem cos (f : LaneF) : Statement (.cos f) := lane_fits _ 70 f rfl (by decide) fun h => arith_range (f := f) (show (f.arith true false false (f.sub == 0) 18 false) = true from h)
theorem tanh (f : LaneF) : Statement (.tanh f) := lane_fits _ 71 f rfl (by decide) fun h => arith_range (f := f) (show (f.arith true false false (f.sub == 0) 18 false) = true from h)
theorem cvt (f : LaneF) : Statement (.cvt f) := lane_fits _ 72 f rfl (by decide) fun h => cvtOk_range (f := f) (show (f.cvtOk) = true from h)
theorem pack8 (f : LaneF) : Statement (.pack8 f) := lane_fits _ 73 f rfl (by decide) fun h => packOk_range (f := f) (show (f.packOk [3, 4, 10, 11]) = true from h)
theorem pack4 (f : LaneF) : Statement (.pack4 f) := lane_fits _ 74 f rfl (by decide) fun h => packOk_range (f := f) (show (f.packOk [5, 12, 13]) = true from h)
theorem unpk (f : LaneF) : Statement (.unpk f) := lane_fits _ 75 f rfl (by decide) fun h => packOk_range (f := f) (show (f.packOk [1, 2, 3, 4, 5, 8, 9, 10, 11, 12, 13]) = true from h)
theorem dot8 (f : LaneF) : Statement (.dot8 f) := lane_fits _ 80 f rfl (by decide) fun h => dotOk_range (f := f) (show (f.dotOk 1 1) = true from h)
theorem dot4 (f : LaneF) : Statement (.dot4 f) := lane_fits _ 81 f rfl (by decide) fun h => dotOk_range (f := f) (show (f.dotOk 1 1) = true from h)
theorem idot4 (f : LaneF) : Statement (.idot4 f) := lane_fits _ 82 f rfl (by decide) fun h => dotOk_range (f := f) (show (f.dotOk 4 2) = true from h)
theorem idot8 (f : LaneF) : Statement (.idot8 f) := lane_fits _ 83 f rfl (by decide) fun h => dotOk_range (f := f) (show (f.dotOk 4 2) = true from h)
theorem doth2 (f : LaneF) : Statement (.doth2 f) := lane_fits _ 84 f rfl (by decide) fun h => dotOk_range (f := f) (show (f.dotOk 1 1) = true from h)
theorem shfl (f : LaneF) : Statement (.shfl f) := lane_fits _ 96 f rfl (by decide) fun h => arith_range (f := f) (show (f.arith true true false (decide (f.sub < 28)) 0 false) = true from h)
theorem ballot (f : LaneF) : Statement (.ballot f) := lane_fits _ 97 f rfl (by decide) fun h => arith_range (f := f) (left (show (f.arith true false false (f.sub == 0) 0 false && decide (f.vd ≤ 95)) = true from h))
theorem redl (f : LaneF) : Statement (.redl f) := lane_fits _ 98 f rfl (by decide) fun h => arith_range (f := f) (left (show (f.arith true false true (decide (f.sub ≤ 10)) 0 (f.sub == 0) && f.sdestOk) = true from h))
theorem scan (f : LaneF) : Statement (.scan f) := lane_fits _ 99 f rfl (by decide) fun h => arith_range (f := f) (show (f.arith true false false (decide (f.sub < 32) && decide (f.sub % 16 ≤ 10)) 0 (f.sub % 16 == 0)) = true from h)
theorem v2s (f : LaneF) : Statement (.v2s f) := lane_fits _ 100 f rfl (by decide) fun h => v2sOk_range (f := f) (show (f.v2sOk) = true from h)
theorem vote (f : LaneF) : Statement (.vote f) := lane_fits _ 101 f rfl (by decide) fun h => arith_range (f := f) (left (show (f.arith true false true (decide (f.sub < 4)) 0 false && f.sdestOk) = true from h))
theorem ld (f : LaneF) : Statement (.ld f) := lane_fits _ 112 f rfl (by decide) fun h => loadOk_range (f := f) (show (f.loadOk true 6 56) = true from h)
theorem st (f : LaneF) : Statement (.st f) := lane_fits _ 113 f rfl (by decide) fun h => storeOk_range (f := f) (show (f.storeOk true [0, 2, 4, 5, 6] 32) = true from h)
theorem ldsc (f : LaneF) : Statement (.ldsc f) := lane_fits _ 114 f rfl (by decide) fun h => loadOk_range (f := f) (show (f.loadOk false 6 0) = true from h)
theorem stsc (f : LaneF) : Statement (.stsc f) := lane_fits _ 115 f rfl (by decide) fun h => storeOk_range (f := f) (show (f.storeOk false [0, 2, 4, 5, 6] 0) = true from h)
theorem ldwn (f : LaneF) : Statement (.ldwn f) := lane_fits _ 116 f rfl (by decide) fun h => loadOk_range (f := f) (show (f.loadOk false 4 0) = true from h)
theorem stwn (f : LaneF) : Statement (.stwn f) := lane_fits _ 117 f rfl (by decide) fun h => storeOk_range (f := f) (show (f.storeOk false [0, 2, 4] 0) = true from h)
theorem atom (f : LaneF) : Statement (.atom f) := lane_fits _ 118 f rfl (by decide) fun h => atomOk_range (f := f) (show (f.atomOk true) = true from h)
theorem atomsc (f : LaneF) : Statement (.atomsc f) := lane_fits _ 119 f rfl (by decide) fun h => atomOk_range (f := f) (show (f.atomOk false) = true from h)
theorem red (f : LaneF) : Statement (.red f) := lane_fits _ 120 f rfl (by decide) fun h => redOk_range (f := f) (show (f.redOk) = true from h)
theorem pref (f : LaneF) : Statement (.pref f) := lane_fits _ 121 f rfl (by decide) fun h => prefOk_range (f := f) (show (f.prefOk) = true from h)
theorem mma (f : LaneF) : Statement (.mma f) := lane_fits _ 144 f rfl (by decide) fun h => mmaOk_range (f := f) (show (f.mmaOk) = true from h)
theorem mmaMeet (k : Nat) : Statement (.mmaMeet k) := .inl rfl
theorem mopf (f : LaneF) : Statement (.mopf f) := lane_fits _ 145 f rfl (by decide) fun h => bareOk_range (f := f) (show (f.bareOk false false) = true from h)
theorem mbatch (f : LaneF) : Statement (.mbatch f) := lane_fits _ 146 f rfl (by decide) fun h => bareOk_range (f := f) (show (f.bareOk false true) = true from h)
theorem batchRetire (k : Nat) : Statement (.batchRetire k) := .inl rfl
theorem mstore (f : LaneF) : Statement (.mstore f) := lane_fits _ 147 f rfl (by decide) fun h => mstoreOk_range (f := f) (show (f.mstoreOk) = true from h)
theorem mzero (f : LaneF) : Statement (.mzero f) := lane_fits _ 148 f rfl (by decide) fun h => bareOk_range (f := f) (show (f.bareOk true false) = true from h)
theorem lnop (f : LaneF) : Statement (.lnop f) := lane_fits _ 255 f rfl (by decide) fun h => bareOk_range (f := f) (show (f.bareOk false false) = true from h)
theorem trapEntry (k : Nat) : Statement (.trapEntry k) := .inl rfl
theorem weaveRetire (w : Nat) : Statement (.weaveRetire w) := .inl rfl
theorem boltComplete (b : Nat) : Statement (.boltComplete b) := .inl rfl
theorem qwrWrite (ln : Nat) (v : Nat) : Statement (.qwrWrite ln v) := .inl rfl
theorem writeSignal (ln : Nat) : Statement (.writeSignal ln) := .inl rfl
theorem waitSignal (ln : Nat) : Statement (.waitSignal ln) := .inl rfl
theorem launchInd (ln : Nat) : Statement (.launchInd ln) := .inl rfl
theorem launchPacket (ln : Nat) : Statement (.launchPacket ln) := .inl rfl
theorem copy (ln : Nat) : Statement (.copy ln) := .inl rfl
theorem copyComplete (ln : Nat) : Statement (.copyComplete ln) := .inl rfl
theorem marker (ln : Nat) : Statement (.marker ln) := .inl rfl
theorem skip (ln : Nat) : Statement (.skip ln) := .inl rfl
theorem retry (ln : Nat) : Statement (.retry ln) := .inl rfl
theorem weaveAdmission (p : Nat) (die : Nat) (c : Nat) : Statement (.weaveAdmission p die c) := .inl rfl
theorem controlBoundary (m : IntervalIn) : Statement (.controlBoundary m) := .inl rfl
theorem railChange (clu : Nat) : Statement (.railChange clu) := .inl rfl
theorem slewStep (p : Nat) : Statement (.slewStep p) := .inl rfl
theorem decision (p : Nat) (sens : List (Nat × Nat)) : Statement (.decision p sens) := .inl rfl
theorem lcfgWrite (p : Nat) (v : Nat) : Statement (.lcfgWrite p v) := .inl rfl
theorem lcfg2Write (p : Nat) (v : Nat) : Statement (.lcfg2Write p v) := .inl rfl
theorem knobWrite (p : Nat) (kid : Nat) (v : Nat) : Statement (.knobWrite p kid v) := .inl rfl
theorem periodicHallmark (p : Nat) : Statement (.periodicHallmark p) := .inl rfl
theorem contextEndRequest (p : Nat) (v : Nat) : Statement (.contextEndRequest p v) := .inl rfl
theorem contextEndHallmark (p : Nat) (c : Nat) : Statement (.contextEndHallmark p c) := .inl rfl
theorem anchorWrite (ok : Nat) : Statement (.anchorWrite ok) := .inl rfl
theorem coldBoot (r : BootRec) : Statement (.coldBoot r) := .inl rfl
theorem prstGo (v : Nat) : Statement (.prstGo v) := .inl rfl
theorem functionLevelReset (fn : Nat) : Statement (.functionLevelReset fn) := .inl rfl
theorem hostCxlAccess (wr : Nat) (a : Nat) (size : Nat) (v : Nat) : Statement (.hostCxlAccess wr a size v) := .inl rfl
theorem completionTimeout (k : Nat) (path : Nat) : Statement (.completionTimeout k path) := .inl rfl
theorem poisonReceived (k : Nat) (path : Nat) : Statement (.poisonReceived k path) := .inl rfl
theorem save (p : Nat) (v : Nat) : Statement (.save p v) := .inl rfl
theorem restore (p : Nat) (v : Nat) : Statement (.restore p v) := .inl rfl
theorem kill (p : Nat) (v : Nat) : Statement (.kill p v) := .inl rfl
theorem timeout (k : Nat) : Statement (.timeout k) := .inl rfl
theorem attrGo (p : Nat) (v : Nat) : Statement (.attrGo p v) := .inl rfl
theorem attrSignal (p : Nat) : Statement (.attrSignal p) := .inl rfl
theorem pinClr (p : Nat) (c : Nat) : Statement (.pinClr p c) := .inl rfl
theorem halt (p : Nat) : Statement (.halt p) := .inl rfl
theorem resume (p : Nat) : Statement (.resume p) := .inl rfl
theorem stepOne (p : Nat) : Statement (.stepOne p) := .inl rfl
theorem stepHeader (p : Nat) : Statement (.stepHeader p) := .inl rfl
theorem dstoprdWrite (p : Nat) (v : Nat) : Statement (.dstoprdWrite p v) := .inl rfl
theorem sample (core : Nat) : Statement (.sample core) := .inl rfl
theorem senWrite (p : Nat) (v : Nat) : Statement (.senWrite p v) := .inl rfl
theorem tenWrite (p : Nat) (v : Nat) : Statement (.tenWrite p v) := .inl rfl
theorem tsync (p : Nat) : Statement (.tsync p) := .inl rfl
theorem traceTimeout (k : Nat) : Statement (.traceTimeout k) := .inl rfl
theorem trdWrite (p : Nat) (v : Nat) : Statement (.trdWrite p v) := .inl rfl
theorem dfreeze (p : Nat) (v : Nat) : Statement (.dfreeze p v) := .inl rfl
theorem registerWrite (p : Nat) (off : Nat) (v : Nat) : Statement (.registerWrite p off v) := .inl rfl
theorem peerUio (wr : Nat) (a : Nat) (size : Nat) (v : Nat) : Statement (.peerUio wr a size v) := .inl rfl
theorem ret : Statement .ret := .inr ⟨_, rfl, fun hwf => by
  have h' : (true) = true := hwf
  simp at h'
  simp only [Enc.fits, sxr]
  omega⟩
theorem backEdge : Statement .backEdge := .inl rfl
theorem lbrk : Statement .lbrk := .inr ⟨_, rfl, fun hwf => by
  have h' : (true) = true := hwf
  simp at h'
  simp only [Enc.fits, sxr]
  omega⟩
theorem rft : Statement .rft := .inr ⟨_, rfl, fun hwf => by
  have h' : (true) = true := hwf
  simp at h'
  simp only [Enc.fits, sxr]
  omega⟩
theorem exit : Statement .exit := .inr ⟨_, rfl, fun hwf => by
  have h' : (true) = true := hwf
  simp at h'
  simp only [Enc.fits, sxr]
  omega⟩
theorem ccRound : Statement .ccRound := .inl rfl
theorem orderlyShutdown : Statement .orderlyShutdown := .inl rfl
theorem warmReset : Statement .warmReset := .inl rfl
theorem linkDown : Statement .linkDown := .inl rfl
theorem linkUp : Statement .linkUp := .inl rfl
theorem coldPowerLoss : Statement .coldPowerLoss := .inl rfl
theorem sensorFault (p : Nat) (bit : Nat) (idx : Nat) (bad : Nat) : Statement (.sensorFault p bit idx bad) := .inl rfl
theorem eccError (lvl : Nat) (k : Nat) (a : Nat) (b : Nat) (fixed : Nat) : Statement (.eccError lvl k a b fixed) := .inl rfl

end Sys2Proof.Laws.Fits
end

