-- ==== Sys2Proof/Tests/Slice0.lean ====
section
/-!
SUPPORT. The model's own tests: ill-formed terms that WellFormed refuses, words of the manual's examples against the instructions
they stand for, single steps against the manual's worked examples, and a witness for the hypotheses of every statement: a statement of several
parts is witnessed part by part, test_witness_<part>.
Expected results are the manual's, or computed by hand from its tables.
-/

/-! ### Well-formedness refuses -/
section
set_option Elab.async false
open Sys2Proof

/-- A register number, a narrow operand, an immediate and a shift count out of range (R139, R157 to R159). -/
theorem test_wf_scalar_ranges : ([.add 384 0 0, .add 0 384 0, .add 0 0 256, .addi 0 0 256, .shli 0 0 32, .movi 0 131072, .bfe 0 2048,
    .bfi 0 3, .mov 0 384] : List Instr).all (fun i => !i.wf) = true := by decide +kernel

/-- Odd pairs, unaligned quads and save areas, a base pair past the file, unlisted operations and scopes (R139, R161, R162). -/
theorem test_wf_scalar_memory : ([.lds2 1 0 0 0, .lds4 2 0 0 0, .lds 0 192 0 0, .lds 0 0 2 0, .lds 0 0 0 256, .atoms 0 0 0 7 0 0,
    .atoms 0 0 0 0 1 6, .atoms 0 0 0 0 0 1, .atoms 1 0 0 6 0 0] : List Instr).all (fun i => !i.wf) = true := by decide +kernel

/-- Control flow, masks and loops (R51, R57, R63, R163, R166, R169, R172 to R174). -/
theorem test_wf_control : ([.bra 131072 0, .calli 1 0, .callv 0 512, .msplit 1 0 0 0, .msplit 0 376 0 0, .mjoin 2, .mset 1 1, .mget 2 0 0,
    .mset 0 3, .loop 4 0 1 0 0 0 2 0, .loop 0 0 0 0 0 0 2 0, .loop 0 0 8 0 0 0 2 0, .loop 0 0 1 0 0 0 1 0, .rotset 0 0, .rotset 0 129,
    .skput 0 0 2, .lexit 1, .waitp 6 1 0, .waitp 0 1 1024, .waitp 0 0 384, .waitp 0 2 0, .fence 4 0, .fence 0 6,
    .clauseHeader 4096 0 0 0 0, .clauseHeader 0 12 0 0 0, .clauseHeader 0 0 0 8 0] : List Instr).all (fun i => !i.wf) = true := by
  decide +kernel

/-- Clasps, membership, special registers, shuttle and transactions (R144, R145, R176 to R190, R251). -/
theorem test_wf_system : ([.claspInit 0 16, .claspReg 1 0 1, .claspReg 0 0 2, .attach 1 0 0, .attach 0 2 0, .attach 0 512 0, .attach 0 0 3,
    .grow 0 3, .who 0 1 0, .who 0 384 1, .launch 0 192, .sget 0 0x0F, .sget 0 0x60, .sset 0 4, .sset 0 0x10, .trap 2048, .bkpt 2048,
    .prog 256, .csrr 384 0, .go 1, .shtCopyin 0 2 0, .shtStash 0 1 0, .shtFill 2 0 0, .tbegin 65536 0, .tend 2, .tabort 256]
    : List Instr).all (fun i => !i.wf) = true := by decide +kernel

/-- Lane fields: a field too wide, an operand field not used, BSRC 3, an unlisted SUB, MOD or RND (R141, R142, R193 to R196). -/
theorem test_wf_lane_arithmetic : ([.iadd ⟨256, 0, 0, 0, 0, 0, 0, 0, 0, 0, 0⟩, .iadd ⟨0, 0, 0, 1, 0, 0, 0, 0, 0, 0, 0⟩,
    .iadd ⟨0, 0, 0, 0, 0, 0, 3, 0, 0, 0, 0⟩, .iadd ⟨0, 0, 0, 0, 0, 0, 0, 0, 2, 0, 0⟩, .iadd ⟨0, 0, 0, 0, 0, 0, 0, 0, 0, 2, 0⟩,
    .iadd ⟨0, 0, 0, 0, 0, 0, 0, 1, 0, 0, 0⟩, .iadd ⟨0, 0, 0, 0, 0, 1, 0, 0, 0, 0, 0⟩, .iadd ⟨0, 0, 0, 0, 0, 0, 0, 0, 0, 0, 1⟩,
    .iadd ⟨0, 0, 1, 0, 0, 0, 2, 0, 0, 0, 0⟩, .iadd ⟨0, 0, 0, 0, 0, 0, 1, 0, 0, 0, 384⟩, .movL ⟨0, 1, 0, 0, 0, 0, 0, 0, 0, 0, 0⟩,
    .icmp ⟨96, 0, 0, 0, 0, 0, 0, 0, 0, 0, 0⟩, .icmp ⟨0, 0, 0, 0, 0, 0, 0, 0, 6, 0, 0⟩, .sel ⟨0, 0, 0, 96, 0, 0, 0, 0, 0, 0, 0⟩,
    .iaddc ⟨0, 0, 0, 0, 0, 0, 1, 0, 0, 0, 1⟩, .fadd ⟨0, 0, 0, 0, 0, 0, 0, 0, 0, 8, 0⟩, .fmin ⟨0, 0, 0, 0, 0, 0, 0, 0, 0, 1, 0⟩,
    .rcp ⟨0, 0, 0, 0, 0, 0, 0, 1, 0, 0, 0⟩] : List Instr).all (fun i => !i.wf) = true := by decide +kernel

/-- Conversions, dots and cross-lane instructions (R208 to R214, R194). -/
theorem test_wf_lane_formats : ([.cvt ⟨0, 0, 0, 0, 0, 0, 0, 0, 0x33, 0, 0⟩, .cvt ⟨0, 0, 0, 0, 0, 0, 0, 0, 0xF0, 0, 0⟩,
    .cvt ⟨0, 0, 0, 0, 0, 0, 0, 0, 0x03, 0, 1⟩, .cvt ⟨0, 0, 0, 0, 0, 0, 0, 0, 0x60, 2, 0⟩, .pack8 ⟨0, 0, 0, 0, 0, 0, 0, 0, 5, 0, 0⟩,
    .pack8 ⟨0, 0, 0, 0, 0, 0, 0, 0, 0x8A, 0, 0⟩, .pack4 ⟨0, 0, 0, 0, 0, 0, 0, 0, 3, 0, 0⟩, .unpk ⟨0, 0, 0, 0, 0, 0, 0, 0, 0, 0, 0⟩,
    .dot8 ⟨0, 0, 0, 0, 0, 0, 0, 0, 1, 0, 0⟩, .dot8 ⟨0, 0, 0, 0, 0, 0, 0, 0, 0, 0, 65536⟩, .idot8 ⟨0, 0, 0, 0, 0, 0, 0, 0, 4, 0, 0⟩,
    .shfl ⟨0, 0, 0, 0, 0, 0, 0, 0, 28, 0, 0⟩, .ballot ⟨96, 0, 0, 0, 0, 0, 0, 0, 0, 0, 0⟩, .redl ⟨0, 0, 0, 2, 0, 0, 0, 0, 0, 0, 0⟩,
    .redl ⟨128, 0, 0, 1, 0, 0, 0, 0, 0, 0, 0⟩, .scan ⟨0, 0, 0, 0, 0, 0, 0, 0, 11, 0, 0⟩, .v2s ⟨0, 0, 0, 0, 0, 0, 0, 0, 0, 0, 0⟩,
    .vote ⟨0, 0, 0, 0, 0, 0, 0, 0, 4, 0, 0⟩] : List Instr).all (fun i => !i.wf) = true := by decide +kernel

/-- Lane memory and matrix instructions (R216, R217, R220 to R227, R230, R234 to R238). -/
theorem test_wf_lane_memory : ([.ld ⟨0, 0, 1, 0, 0, 0, 0, 0, 0, 0, 0⟩, .ld ⟨0, 0, 0, 0, 0, 0, 2, 0, 0, 0, 0⟩,
    .ld ⟨0, 0, 0, 0, 0, 0, 1, 0, 0, 0, 1⟩, .ld ⟨0, 0, 0, 0, 0, 0, 0, 0, 16, 0, 0⟩, .ld ⟨0, 0, 0, 0, 0, 0, 0, 0, 8, 6, 0⟩,
    .ld ⟨0, 0, 0, 0, 0, 0, 0, 0, 0, 1, 0⟩, .ld ⟨0, 0, 0, 1, 0, 0, 0, 0, 0, 0, 0⟩, .ld ⟨0, 0, 0, 96, 0, 0, 0, 0, 0, 16, 0⟩,
    .st ⟨1, 0, 0, 0, 0, 0, 0, 0, 0, 0, 0⟩, .st ⟨0, 0, 0, 0, 0, 0, 0, 0, 1, 0, 0⟩, .st ⟨0, 0, 0, 0, 0, 0, 0, 0, 8, 0, 0⟩,
    .ldwn ⟨0, 0, 0, 0, 0, 0, 0, 0, 5, 0, 0⟩, .atom ⟨0, 0, 0, 0, 0, 0, 0, 0, 64, 0, 0⟩, .atom ⟨0, 0, 0, 0, 0, 0, 0, 0, 0, 1, 0⟩,
    .red ⟨0, 0, 0, 0, 0, 0, 0, 0, 8, 0, 0⟩, .red ⟨0, 0, 0, 0, 0, 0, 0, 0, 16, 0, 0⟩, .pref ⟨0, 0, 0, 0, 0, 0, 0, 0, 2, 0, 0⟩,
    .pref ⟨1, 0, 0, 0, 0, 0, 0, 0, 0, 0, 0⟩, .mma ⟨0, 0, 0, 0, 0, 0, 0, 0, 0, 2, 0⟩, .mma ⟨0, 0, 0, 1, 0, 0, 0, 0, 0, 0, 0⟩,
    .mopf ⟨1, 0, 0, 0, 0, 0, 0, 0, 0, 0, 0⟩, .mzero ⟨0, 1, 0, 0, 0, 0, 0, 0, 0, 0, 0⟩, .mstore ⟨0, 0, 0, 0, 0, 0, 0, 0, 7, 0, 0⟩,
    .mstore ⟨0, 0, 0, 0, 0, 0, 0, 0, 0x40, 0, 0⟩, .mstore ⟨0, 0, 0, 0, 0, 0, 0, 0, 0x10, 0, 0x3E0000⟩, .mstore ⟨0, 0, 0, 0, 0, 0, 0, 0, 5, 0, 0⟩,
    .lnop ⟨0, 0, 0, 0, 0, 0, 0, 0, 0, 0, 1⟩] : List Instr).all (fun i => !i.wf) = true := by decide +kernel
end

/-! ### Words of the manual's examples -/
section
set_option Elab.async false
open Sys2Proof

/-- R157 to R162: ADD s5, s6, s7; SARI s9, s9, 3; BFE.s s7, 8, 4; STS s30, s16:17, 4; ATOMS.add.acq.dev s40, s16:17. -/
theorem test_decode_scalar_words : decodeTableWord 32 0x040A0607 = some (.add 5 6 7) ∧ decodeTableWord 32 0x6C120903 = some (.sari 9 9 3) ∧
    decodeTableWord 32 0x7C403C68 = some (.bfe 7 0x468) ∧ decodeTableWord 32 0x8C3C1001 = some (.sts 30 8 0 1) ∧
    decodeTableWord 32 0x9450100C = some (.atoms 40 8 0 0 1 4) := by decide +kernel

/-- R163, R51, R52, R57, R165: BNZ s12, (-6, -4); MSPLIT s16:19, s40, (+5, +2); MJOIN s40; LOOP 0, s10, 2, end, rot; RET. -/
theorem test_decode_control_words : decodeTableWord 64 0xFFFFFFFCA019FFFA = some (.bnz 12 0x1FFFA 0xFFFFFFFC) ∧
    decodeTableWord 64 0x00050002B00080A0 = some (.msplit 16 40 5 2) ∧ decodeTableWord 32 0xB01000A0 = some (.mjoin 40) ∧
    decodeTableWord 64 0x00060003B4052800 = some (.loop 0 10 2 1 0 0 6 3) ∧ decodeTableWord 32 0xAC000000 = some .ret := by
  decide +kernel

/-- R169, R61, R63, R172 to R174: MAND s20:23, exec; LEXIT s20:23; ROTSET v32, 4; SKPUT s4, s5, 0; WAITP sh, 0; FENCE ar, dev. -/
theorem test_decode_mask_and_wait_words : decodeTableWord 32 0xB040A001 = some (.mand 20 0 1) ∧
    decodeTableWord 32 0xB800A000 = some (.lexit 20) ∧ decodeTableWord 32 0xB8210004 = some (.rotset 32 4) ∧
    decodeTableWord 32 0xB8302014 = some (.skput 4 5 0) ∧ decodeTableWord 32 0xBDC00000 = some (.waitp 3 1 0) ∧
    decodeTableWord 32 0xC2800000 = some (.fence 2 4) := by decide +kernel

/-- R176 to R187: CLASP.ARRIVE s50, 2; WEAVE.ATTACH s40:43, home, epilogue; WEAVE.DETACH s7; LAUNCH s6, s20:21; SGET s9, weaveid;
EXIT; PROG 3; CSRR s10, s11; SHT.COPYIN.fb s24:27, s28:31; TEND s60:63. -/
theorem test_decode_system_words : decodeTableWord 32 0xC4119002 = some (.claspArrive 50 2) ∧
    decodeTableWord 32 0xC8014400 = some (.attach 40 0 2) ∧ decodeTableWord 32 0xC8103800 = some (.detach 7) ∧
    decodeTableWord 32 0xCC0C1400 = some (.launch 6 10) ∧ decodeTableWord 32 0xD000484C = some (.sget 9 0x13) ∧
    decodeTableWord 32 0xD4200000 = some .exit ∧ decodeTableWord 32 0xD4400003 = some (.prog 3) ∧
    decodeTableWord 32 0xD450502C = some (.csrr 10 11) ∧ decodeTableWord 32 0xD800C071 = some (.shtCopyin 24 28 1) ∧
    decodeTableWord 32 0xDC11E000 = some (.tend 60) := by decide +kernel

/-- R198 to R201: IADD.sat v3, v1, v2; IMAD v4, v1, 3, v4; TERN v6, v1, v2, v3, 0xAC; SHF.r v5, v1, 8, v2; ICMP.lt s16:19, v1, 0;
SEL v7, v1, v2, s16:19; BFE.s v3, v2, 0xE8; MOV v9, s12; IADDC v10, v10, v12; LANE.g v0. -/
theorem test_decode_integer_lane_words :
    decodeTableWord 96 0x010301020000000100000000 = some (.iadd ⟨3, 1, 2, 0, 0, 0, 0, 0, 0, 1, 0⟩) ∧
    decodeTableWord 96 0x050401000408000000000003 = some (.imad ⟨4, 1, 0, 4, 0, 0, 2, 0, 0, 0, 3⟩) ∧
    decodeTableWord 96 0x0A0601020300AC0000000000 = some (.tern ⟨6, 1, 2, 3, 0, 0, 0, 0, 0xAC, 0, 0⟩) ∧
    decodeTableWord 96 0x0E0501000208000000000008 = some (.shf ⟨5, 1, 0, 2, 0, 0, 2, 0, 0, 0, 8⟩) ∧
    decodeTableWord 96 0x120401000008020000000000 = some (.icmp ⟨4, 1, 0, 0, 0, 0, 2, 0, 2, 0, 0⟩) ∧
    decodeTableWord 96 0x130701020400000000000000 = some (.sel ⟨7, 1, 2, 4, 0, 0, 0, 0, 0, 0, 0⟩) ∧
    decodeTableWord 96 0x1703020000080100000000E8 = some (.bfeL ⟨3, 2, 0, 0, 0, 0, 2, 0, 1, 0, 0xE8⟩) ∧
    decodeTableWord 96 0x1A090000000400000000000C = some (.movL ⟨9, 0, 0, 0, 0, 0, 1, 0, 0, 0, 12⟩) ∧
    decodeTableWord 96 0x1B0A0A0C0000000000000000 = some (.iaddc ⟨10, 10, 12, 0, 0, 0, 0, 0, 0, 0, 0⟩) ∧
    decodeTableWord 96 0x1C0000000000010000000000 = some (.laneId ⟨0, 0, 0, 0, 0, 0, 0, 0, 1, 0, 0⟩) := by decide +kernel

/-- R202, R203, R205: FFMA v6, -v1, |v2|, v6; FADD.sat.rtz v3, v1, v2; FMIN v8, v8, 0.0; FCMP.uno s20:23, v4, v4; FRND v5, v5;
FSCL.b0 v2, v2, s7; HFMA2.bf v8, v9, v10, v8; RSQ v5, |v4|. -/
theorem test_decode_float_lane_words :
    decodeTableWord 96 0x220601020600002200000000 = some (.ffma ⟨6, 1, 2, 6, 0, 0, 0, 0, 0, 0x22, 0⟩) ∧
    decodeTableWord 96 0x200301020002000100000000 = some (.fadd ⟨3, 1, 2, 0, 0, 0, 0, 2, 0, 1, 0⟩) ∧
    decodeTableWord 96 0x230808000008000000000000 = some (.fmin ⟨8, 8, 0, 0, 0, 0, 2, 0, 0, 0, 0⟩) ∧
    decodeTableWord 96 0x250504040000070000000000 = some (.fcmp ⟨5, 4, 4, 0, 0, 0, 0, 0, 7, 0, 0⟩) ∧
    decodeTableWord 96 0x260505000000000000000000 = some (.frnd ⟨5, 5, 0, 0, 0, 0, 0, 0, 0, 0, 0⟩) ∧
    decodeTableWord 96 0x270202000004000000000007 = some (.fscl ⟨2, 2, 0, 0, 0, 0, 1, 0, 0, 0, 7⟩) ∧
    decodeTableWord 96 0x2A08090A0800010000000000 = some (.hfma2 ⟨8, 9, 10, 8, 0, 0, 0, 0, 1, 0, 0⟩) ∧
    decodeTableWord 96 0x410504000000001000000000 = some (.rsq ⟨5, 4, 0, 0, 0, 0, 0, 0, 0, 0x10, 0⟩) := by decide +kernel

/-- R208, R209, R212 to R214: CVT.e4m3.f32 v3.1, v7; CVT.s32.bf16 v4, v9.1; PACK8.e4m3.sc v20, v8, s3; UNPK.e2m1 v40, v12;
SHFL.xor.w16 v2, v1, 4; BALLOT s24:27, v3; REDL.iadd s300, v6; SCAN.iadd.ex v7, v3; V2S s10, v4, 127; VOTE.cnt s11, v4. -/
theorem test_decode_format_lane_words :
    decodeTableWord 96 0x480307000000030000000010 = some (.cvt ⟨3, 7, 0, 0, 0, 0, 0, 0, 0x03, 0, 0x10⟩) ∧
    decodeTableWord 96 0x480409000000260000000001 = some (.cvt ⟨4, 9, 0, 0, 0, 0, 0, 0, 0x26, 0, 1⟩) ∧
    decodeTableWord 96 0x491408000004830000000003 = some (.pack8 ⟨20, 8, 0, 0, 0, 0, 1, 0, 0x83, 0, 3⟩) ∧
    decodeTableWord 96 0x4B280C000000050000000000 = some (.unpk ⟨40, 12, 0, 0, 0, 0, 0, 0, 5, 0, 0⟩) ∧
    decodeTableWord 96 0x6002010000080F0000000004 = some (.shfl ⟨2, 1, 0, 0, 0, 0, 2, 0, 0x0F, 0, 4⟩) ∧
    decodeTableWord 96 0x610603000000000000000000 = some (.ballot ⟨6, 3, 0, 0, 0, 0, 0, 0, 0, 0, 0⟩) ∧
    decodeTableWord 96 0x622C06000100030000000000 = some (.redl ⟨44, 6, 0, 1, 0, 0, 0, 0, 3, 0, 0⟩) ∧
    decodeTableWord 96 0x630703000000130000000000 = some (.scan ⟨7, 3, 0, 0, 0, 0, 0, 0, 0x13, 0, 0⟩) ∧
    decodeTableWord 96 0x640A0400000800000000007F = some (.v2s ⟨10, 4, 0, 0, 0, 0, 2, 0, 0, 0, 127⟩) ∧
    decodeTableWord 96 0x650B04000000030000000000 = some (.vote ⟨11, 4, 0, 0, 0, 0, 0, 0, 3, 0, 0⟩) := by decide +kernel

/-- R217 to R227, R238: LD.b32 v5, [v2:3 + 16]; ST.b64.rel.dev [v2:3], v10:11; STSC.u16 [v9 + 6], v4; ATOM.cas.acq.dev v6, [v2:3], v4:5;
ATOMSC.fadd v7, [v1 + 32], v3; RED.fadd [v2:3 + 8], v9; PREF.l2.pin s24:27, [v2:3]; MSTORE.e4m3.mx.amax v8:9, v64, 32, s20:21. -/
theorem test_decode_memory_lane_words :
    decodeTableWord 96 0x700502000000040000000010 = some (.ld ⟨5, 2, 0, 0, 0, 0, 0, 0, 4, 0, 16⟩) ∧
    decodeTableWord 96 0x700507000004040000008014 = some (.ld ⟨5, 7, 0, 0, 0, 0, 1, 0, 4, 0, 0x8014⟩) ∧
    decodeTableWord 96 0x710002000A00150400000000 = some (.st ⟨0, 2, 0, 10, 0, 0, 0, 0, 0x15, 4, 0⟩) ∧
    decodeTableWord 96 0x730009000400020000000006 = some (.stsc ⟨0, 9, 0, 4, 0, 0, 0, 0, 2, 0, 6⟩) ∧
    decodeTableWord 96 0x74080100000404000000001E = some (.ldwn ⟨8, 1, 0, 0, 0, 0, 1, 0, 4, 0, 30⟩) ∧
    decodeTableWord 96 0x760602000400190400000000 = some (.atom ⟨6, 2, 0, 4, 0, 0, 0, 0, 0x19, 4, 0⟩) ∧
    decodeTableWord 96 0x7707010003000A0000000020 = some (.atomsc ⟨7, 1, 0, 3, 0, 0, 0, 0, 0x0A, 0, 0x20⟩) ∧
    decodeTableWord 96 0x7800020009000A0000000008 = some (.red ⟨0, 2, 0, 9, 0, 0, 0, 0, 0x0A, 0, 8⟩) ∧
    decodeTableWord 96 0x790602000000011000000000 = some (.pref ⟨6, 2, 0, 0, 0, 0, 0, 0, 1, 0x10, 0⟩) ∧
    decodeTableWord 96 0x9300400008045300003E0014 = some (.mstore ⟨0, 64, 0, 8, 0, 0, 1, 0, 0x53, 0, 0x3E0014⟩) := by decide +kernel
end

/-! ### Single steps -/
section
set_option Elab.async false
open Sys2Proof Sys2Proof.Machine

/-- The state that runs word w of nbits next, its strand changed by f. -/
def Sys2Proof.Tests.ready (nbits w : Nat) (f : Strand → Strand) : State :=
  let s := State.reset.withFetchWord nbits w
  { s with strands := s.strands.map (fun e => (e.1, f e.2)) }

/-- That state one step later. -/
def Sys2Proof.Tests.stepped (nbits w : Nat) (f : Strand → Strand) : Option State :=
  match step (Tests.ready nbits w f) with
  | .next s => some s
  | _ => none

/-- Its strand one step later. -/
def Sys2Proof.Tests.ran (nbits w : Nat) (f : Strand → Strand) : Option Strand := (Tests.stepped nbits w f).bind (fun s => s.strand? 0)

open Sys2Proof.Tests

/-- ADD s5, s6, s7 wraps (R157). -/
theorem test_add_wraps : (ran 32 0x040A0607 (fun t => (t.putS 6 0xFFFFFFFF#32).putS 7 2#32)).map (·.getS 5) = some 1#32 := by decide +kernel
/-- SARI s9, s9, 3 shifts in the sign (R158). -/
theorem test_sari_sign : (ran 32 0x6C120903 (fun t => t.putS 9 0x80000000#32)).map (·.getS 9) = some 0xF0000000#32 := by decide +kernel
/-- R159: MOVI s5, 0x5678 and MOVHI s5, 0x2468 build 0x12345678. -/
theorem test_movhi : (ran 32 0x780A2468 (fun t => t.putS 5 0x5678#32)).map (·.getS 5) = some 0x12345678#32 := by decide +kernel
/-- R160: BFE.s s7, 8, 4 of 0x0B00. -/
theorem test_bfe_signed : (ran 32 0x7C403C68 (fun t => t.putS 7 0x0B00#32)).map (·.getS 7) = some 0xFFFFFFFB#32 := by decide +kernel
/-- STS s30, s16:17, 4 writes at S16:17 + 4 (R161): its page is dirty, the low byte goes first. -/
theorem test_sts_bytes : (stepped 32 0x8C3C1001 (fun t => (t.putS 30 0x11223344#32).putS 16 0x40#32)).map
    (fun s => (s.homeByte 0x5044, s.homeByte 0x5047, s.homeByte 0x5043, s.homeByte 0x5048)) = some (0x44#8, 0x11#8, 0#8, 0#8) := by
  decide +kernel
/-- BNZ s12, (-6, -4) taken goes six words back (R163). -/
theorem test_bnz_target : (ran 64 0xFFFFFFFCA019FFFA (fun t => { t.putS 12 1#32 with first := 9#32 })).map (fun t => (t.hspc, t.first)) =
    some (0x104#64 - 24#64, 5#32) := by decide +kernel
/-- MAND s20:23, exec (R169). -/
theorem test_mand : (ran 32 0xB040A001 (fun t => { t.putS 20 0xF3#32 with exec := 0x2A#128, live := 0xFF#128 })).map (·.getS 20) =
    some 0x22#32 := by decide +kernel
/-- ROTSET v32, 4 (R63). -/
theorem test_rotset : (ran 32 0xB8210004 id).map (·.rot) = some 0x420#32 := by decide +kernel
/-- EXIT takes the active lanes out of LIVE and leaves EXEC empty (R53). -/
theorem test_exit : (ran 32 0xD4200000 (fun t => { t with live := 7#128 })).map (fun t => (t.exec, t.live)) = some (0#128, 6#128) := by
  decide +kernel
/-- With LIVE empty the strand begins to retire (R53, R45). -/
theorem test_exit_retires : (ran 32 0xD4200000 id).map (·.leave) = some .retire := by decide +kernel
/-- Word 0 is ILLEGAL: without a handler the strand halts (R137, R322). -/
theorem test_illegal_word_halts : (ran 32 0 id).map (·.run) = some .halted := by decide +kernel

/-- IADD.sat v3, v1, v2 saturates (R199). -/
theorem test_iadd_sat : (ran 96 0x010301020000000100000000 (fun t => (t.setV1 1 0 0x7FFFFFFF#32).setV1 2 0 1#32)).map
    (fun t => Vec.lane (t.getV 3) 0) = some 0x7FFFFFFF#32 := by decide +kernel
/-- An inactive lane keeps its value (R50, R155). -/
theorem test_iadd_inactive : (ran 96 0x010301020000000100000000 (fun t => (t.setV1 1 1 5#32).setV1 3 1 9#32)).map
    (fun t => Vec.lane (t.getV 3) 1) = some 9#32 := by decide +kernel
/-- SHF.r v5, v1, 8, v2 (R199). -/
theorem test_shf_right : (ran 96 0x0E0501000208000000000008 (fun t => (t.setV1 1 0 0x11223344#32).setV1 2 0 0x556677AA#32)).map
    (fun t => Vec.lane (t.getV 5) 0) = some 0xAA112233#32 := by decide +kernel
/-- BFE.s v3, v2, 0xE8 of 0x9A00 (R199). -/
theorem test_bfe_lane : (ran 96 0x1703020000080100000000E8 (fun t => t.setV1 2 0 0x9A00#32)).map (fun t => Vec.lane (t.getV 3) 0) =
    some 0xFFFFFF9A#32 := by decide +kernel
/-- ICMP.lt s16:19, v1, 0: inactive lanes give 0 (R200). -/
theorem test_icmp : (ran 96 0x120401000008020000000000 (fun t => (t.setV1 1 0 0xFFFFFFFF#32).setV1 1 1 0xFFFFFFFF#32)).map (·.getS 16) =
    some 1#32 := by decide +kernel
/-- FMIN v8, v8, 0.0 of 1.5 (R203). -/
theorem test_fmin : (ran 96 0x230808000008000000000000 (fun t => t.setV1 8 0 0x3FC00000#32)).map (fun t => Vec.lane (t.getV 8) 0) =
    some 0#32 := by decide +kernel
/-- FADD.sat.rtz v3, v1, v2: 0.75 + 0.5 saturates to 1.0 (R204). -/
theorem test_fadd_sat : (ran 96 0x200301020002000100000000 (fun t => (t.setV1 1 0 0x3F400000#32).setV1 2 0 0x3F000000#32)).map
    (fun t => Vec.lane (t.getV 3) 0) = some 0x3F800000#32 := by decide +kernel
/-- R128: CVT.e4m3.f32 of 500.0 rounds past 448, NaN with SATF = 0; element 1 alone changes (R208, R124). -/
theorem test_cvt_overflow : (ran 96 0x480307000000030000000010 (fun t => (t.setV1 7 0 0x43FA0000#32).setV1 3 0 0x11223344#32)).map
    (fun t => Vec.lane (t.getV 3) 0) = some 0x11227F44#32 := by decide +kernel
/-- R209's example: PACK8.e4m3.sc v20, v8, s3. -/
theorem test_pack8 : (ran 96 0x491408000004830000000003 (fun t =>
    { (((t.setV1 8 0 0x43960000#32).setV1 9 0 0xBF800000#32).setV1 11 0 0x44160000#32) with capS := [(3, 0x80#32)] })).map
    (fun t => Vec.lane (t.getV 20) 0) = some 0x7900B071#32 := by decide +kernel
/-- UNPK.e2m1 v40, v12: 0xF is -6.0, 1 is 0.5 (R127, R209). -/
theorem test_unpk : (ran 96 0x4B280C000000050000000000 (fun t => t.setV1 12 0 0x0000001F#32)).map
    (fun t => (Vec.lane (t.getV 40) 0, Vec.lane (t.getV 41) 0)) = some (0xC0C00000#32, 0x3F000000#32) := by decide +kernel
/-- R214's example: SCAN.iadd.ex v7, v3 over 5, 1, 7, 2. -/
theorem test_scan : (ran 96 0x630703000000130000000000 (fun t =>
    { ((((t.setV1 3 0 5#32).setV1 3 1 1#32).setV1 3 2 7#32).setV1 3 3 2#32) with exec := 15#128, live := 15#128 })).map
    (fun t => (Vec.lane (t.getV 7) 0, Vec.lane (t.getV 7) 1, Vec.lane (t.getV 7) 2, Vec.lane (t.getV 7) 3)) =
    some (0#32, 5#32, 6#32, 13#32) := by decide +kernel
/-- R214's example with REDL.iadd s300, v3. -/
theorem test_redl : (ran 96 0x622C03000100030000000000 (fun t =>
    { ((((t.setV1 3 0 5#32).setV1 3 1 1#32).setV1 3 2 7#32).setV1 3 3 2#32) with exec := 15#128, live := 15#128 })).map (·.getS 300) =
    some 15#32 := by decide +kernel
/-- LD.b32 v5, [v2:3 + 16] of the header's words at virtual 0x100 reads them (R217, R219, R220). -/
theorem test_ld_lands : (ran 96 0x700502000000040000000010 (fun t => t.setV1 2 0 0xF0#32)).map
    (fun t => t.ops.map (fun o => (o.path, o.lands))) = some [(.ld, [{ dst := .v 5 0, val := 0xFC003FC8#32, done := false }])] := by decide +kernel
/-- R225's example: ATOM.add over four lanes of one word holding 10 leaves 14. -/
theorem test_atom_add : (match step (let s := ready 96 0x760602000400000000000000 (fun t =>
      { (t.setV 2 15#128 (List.replicate 128 0x40#32)).setV 4 15#128 (List.replicate 128 1#32) with exec := 15#128, live := 15#128 })
      { s with mem := State.writeBytes s.mem 0x5040 [10#8] }) with
    | .next s => some (s.homeByte 0x5040, (s.strand? 0).map (fun t => t.ops.map (fun o => o.lands.map (·.val))))
    | _ => none) = some (14#8, some [[10#32, 11#32, 12#32, 13#32]]) := by decide +kernel
/-- R240's example: MSTORE.e4m3.mx.amax: the row's first word, the scale byte and the amax word. -/
theorem test_mstore : (stepped 96 0x9300400008045300003E0014 (fun t =>
    { ((((t.setV1 8 0 0x400#32).setV1 64 0 0x447A0000#32).setV1 65 0 0xC0400000#32).setV1 66 0 0x3F400000#32) with
      capS := [(20, 0x600#32)] })).map (fun s => ((List.range 4).map (fun i => s.homeByte (0x5400 + i)), s.homeByte 0x5420,
    (List.range 4).map (fun i => s.homeByte (0x5600 + i)))) = some ([0x7E#8, 0xBC#8, 0x2C#8, 0#8], 0x80#8, [0#8, 0#8, 0x7A#8, 0x44#8]) := by
  decide +kernel
end

/-! ### Witnesses for the statements' hypotheses: strands -/
section
set_option Elab.async false
open Sys2Proof Sys2Proof.Machine

/-- A strand of 128 registers at the first item of its clause, lane 0 active. -/
def Sys2Proof.Tests.wt : Strand := placeStrand 0 1 0 4
/-- Core 0 with the page's translation held. -/
def Sys2Proof.Tests.wcore : Cor :=
  ⟨0, 0, some 0, [], [], [(0, ⟨0x5000, true, true, true, 0, 0, false, false, true, false⟩)], [], [], [], [], 0, 0, []⟩
open Sys2Proof.Tests
/-- A machine that runs strand t: partition 0, its tables and page, one weave and bolt, the page's translation held. -/
def Sys2Proof.Tests.ws (t : Strand) : State :=
  { State.reset with
    mem := placeTables [], parts := [(0, placePart)], weaves := [(1, placeWeave)], bolts := [(1, placeBolt)], strands := [(0, t)],
    cores := [(0, wcore)] }

open Sys2Proof.Tests Sys2Proof.Rules

/-- The machine runs its strand. -/
theorem Sys2Proof.Tests.ws_runs (t : Strand) : (ws t).runs t := rfl

/-- A claim about 128 lanes, lane by lane. -/
theorem Sys2Proof.Tests.lanes {P : Nat → Prop} [DecidablePred P] (h : (List.range 128).all (fun l => decide (P l)) = true) :
    ∀ l, l < 128 → P l := fun l hl => of_decide_eq_true (List.all_eq_true.1 h l (List.mem_range.2 hl))

/-- Scalar words at the last register and at the bounds of a shift, a field and an immediate. -/
theorem test_witness_ScalarWordsWriteTheirResultAndNothingElse : (ws wt).runs wt ∧
    (((Instr.add 383 383 255).wf = true ∧ scalarResult wt.getS (.add 383 383 255) = some (383, 0#32)) ∧
    ((Instr.shli 0 0 31).wf = true ∧ scalarResult wt.getS (.shli 0 0 31) = some (0, 0#32)) ∧
    ((Instr.movi 383 131071).wf = true ∧ scalarResult wt.getS (.movi 383 131071) = some (383, 0xFFFFFFFF#32)) ∧
    ((Instr.bfe 0 2047).wf = true ∧ scalarResult wt.getS (.bfe 0 2047) = some (0, 0#32)) ∧
    ((Instr.bfi 383 382).wf = true ∧ scalarResult wt.getS (.bfi 383 382) = some (383, 0#32))) :=
  ⟨ws_runs _, by decide +kernel⟩

/-- Each clause of the decoding statement: a word that stands, one with a register out of range, one of no sub-op. -/
theorem test_witness_ScalarWordsDecodeFieldByField : (ws wt).runs wt ∧
    ((scalarWordOf 0x040A0607 = some (.add 5 6 7) ∧ (Instr.add 5 6 7).wf = true) ∧
     (scalarWordOf 0x07FE0000 = some (.add 511 0 0) ∧ (Instr.add 511 0 0).wf = false) ∧
     (fld 0x7CA00000 26 6 = 0x1F ∧ scalarWordOf 0x7CA00000 = none) ∧ (fld 0x64000020 26 6 = 0x19 ∧ scalarWordOf 0x64000020 = none)) :=
  ⟨ws_runs _, by decide +kernel⟩

/-- IADD, TERN and SEL on the last register of the budget, unconditional and on a set stage bit. -/
theorem test_witness_IntegerLaneInstructionsWriteActiveLanes :
    (∃ regs, (Instr.iadd ⟨127, 0, 0, 0, 0, 0, 2, 0, 1, 1, 0xFFFFFFFF⟩).wf = true ∧
      (∀ l, l < 128 → intLane wt l (wt.opA ⟨127, 0, 0, 0, 0, 0, 2, 0, 1, 1, 0xFFFFFFFF⟩ l) (wt.opB ⟨127, 0, 0, 0, 0, 0, 2, 0, 1, 1, 0xFFFFFFFF⟩ l)
        (wt.opC ⟨127, 0, 0, 0, 0, 0, 2, 0, 1, 1, 0xFFFFFFFF⟩ l) (.iadd ⟨127, 0, 0, 0, 0, 0, 2, 0, 1, 1, 0xFFFFFFFF⟩) =
          some (⟨127, 0, 0, 0, 0, 0, 2, 0, 1, 1, 0xFFFFFFFF⟩, regs, 0xFFFFFFFF#32)) ∧
      laneRuns wt ⟨127, 0, 0, 0, 0, 0, 2, 0, 1, 1, 0xFFFFFFFF⟩ regs false) ∧
    (∃ regs, (Instr.sel ⟨0, 1, 2, 95, 7, 0, 0, 0, 0, 0, 0⟩).wf = true ∧
      (∀ l, l < 128 → intLane { wt with stage := 64#8 } l 0#32 0#32 0#32 (.sel ⟨0, 1, 2, 95, 7, 0, 0, 0, 0, 0, 0⟩) =
          some (⟨0, 1, 2, 95, 7, 0, 0, 0, 0, 0, 0⟩, regs, 0#32)) ∧
      laneRuns { wt with stage := 64#8 } ⟨0, 1, 2, 95, 7, 0, 0, 0, 0, 0, 0⟩ regs false) :=
  ⟨⟨[127, 0], by decide +kernel, by decide +kernel, rfl, by decide +kernel, nofun⟩,
   ⟨[0, 1, 2], by decide +kernel, by decide +kernel, rfl, by decide +kernel, nofun⟩⟩

/-- IMADW over pairs that end at the budget. -/
theorem test_witness_PairLaneInstructionsWriteBothWords :
    (Instr.imadw ⟨126, 0, 0, 126, 0, 0, 2, 0, 0, 0, 3⟩).wf = true ∧
    (∃ regs, (∀ l, l < 128 → pairLane wt l (.imadw ⟨126, 0, 0, 126, 0, 0, 2, 0, 0, 0, 3⟩) =
        some (⟨126, 0, 0, 126, 0, 0, 2, 0, 0, 0, 3⟩, regs, 0#64)) ∧ laneRuns wt ⟨126, 0, 0, 126, 0, 0, 2, 0, 0, 0, 3⟩ regs false) ∧
    wt.rotN 126 ≠ wt.rotN 127 :=
  ⟨by decide +kernel, ⟨[126, 127, 0, 126, 127], by decide +kernel, rfl, by decide +kernel, nofun⟩, by decide +kernel⟩

/-- FFMA with every modifier that it takes, and HADD2 of BF16. -/
theorem test_witness_FloatLaneInstructionsRoundOncePerLane :
    (Instr.ffma ⟨6, 1, 2, 6, 0, 0, 0, 3, 0, 63, 0⟩).wf = true ∧
    (∃ (regs : List Nat) (val : Nat → Word), (∀ l, l < 128 → floatLane wt l (.ffma ⟨6, 1, 2, 6, 0, 0, 0, 3, 0, 63, 0⟩) = some (⟨6, 1, 2, 6, 0, 0, 0, 3, 0, 63, 0⟩, regs, val l)) ∧
      laneRuns wt ⟨6, 1, 2, 6, 0, 0, 0, 3, 0, 63, 0⟩ regs true) ∧
    (Instr.hadd2 ⟨127, 1, 2, 0, 0, 0, 0, 0, 1, 7, 0⟩).wf = true ∧
    (∃ (regs : List Nat) (val : Nat → Word), (∀ l, l < 128 → floatLane wt l (.hadd2 ⟨127, 1, 2, 0, 0, 0, 0, 0, 1, 7, 0⟩) = some (⟨127, 1, 2, 0, 0, 0, 0, 0, 1, 7, 0⟩, regs, val l)) ∧
      laneRuns wt ⟨127, 1, 2, 0, 0, 0, 0, 0, 1, 7, 0⟩ regs true) :=
  by
    and_intros
    all_goals first
      | decide +kernel
      | exact ⟨_, _, fun _ _ => rfl, rfl, by decide +kernel⟩

/-- RCP of 0, whose value R205 gives. -/
theorem test_witness_SpecialFunctionsGiveTheirSpecialValues :
    (Instr.rcp ⟨127, 0, 0, 0, 0, 0, 0, 0, 0, 0, 0⟩).wf = true ∧ specialNo (.rcp ⟨127, 0, 0, 0, 0, 0, 0, 0, 0, 0, 0⟩) = some (⟨127, 0, 0, 0, 0, 0, 0, 0, 0, 0, 0⟩, 0) ∧
    laneRuns wt ⟨127, 0, 0, 0, 0, 0, 0, 0, 0, 0, 0⟩ [127, 0] true ∧
    specialWord 0 wt.ftz (fA wt ⟨127, 0, 0, 0, 0, 0, 0, 0, 0, 0, 0⟩ 127) = some 0x7F800000#32 :=
  ⟨by decide +kernel, rfl, ⟨rfl, by decide +kernel, by decide +kernel⟩, by decide +kernel⟩

/-- SHFL of the widest mode code, and a float SCAN. -/
theorem test_witness_ShuffleAndScanReadAllLanesFirst :
    (Instr.shfl ⟨127, 1, 0, 0, 0, 0, 2, 0, 27, 0, 0x7F⟩).wf = true ∧
    (∃ (regs : List Nat) (fmt : Bool) (val : Nat → Word), (∀ l, l < 128 → crossLane wt l (.shfl ⟨127, 1, 0, 0, 0, 0, 2, 0, 27, 0, 0x7F⟩) =
        some (⟨127, 1, 0, 0, 0, 0, 2, 0, 27, 0, 0x7F⟩, regs, fmt, val l)) ∧ laneRuns wt ⟨127, 1, 0, 0, 0, 0, 2, 0, 27, 0, 0x7F⟩ regs fmt) ∧
    (Instr.scan ⟨7, 3, 0, 0, 0, 0, 0, 1, 0x10, 0, 0⟩).wf = true ∧
    (∃ (regs : List Nat) (fmt : Bool) (val : Nat → Word), (∀ l, l < 128 → crossLane wt l (.scan ⟨7, 3, 0, 0, 0, 0, 0, 1, 0x10, 0, 0⟩) =
        some (⟨7, 3, 0, 0, 0, 0, 0, 1, 0x10, 0, 0⟩, regs, fmt, val l)) ∧ laneRuns wt ⟨7, 3, 0, 0, 0, 0, 0, 1, 0x10, 0, 0⟩ regs fmt) :=
  ⟨by decide +kernel, ⟨_, _, _, fun _ _ => rfl, rfl, by decide +kernel, nofun⟩, by decide +kernel,
   ⟨_, _, _, fun _ _ => rfl, rfl, by decide +kernel, by decide +kernel⟩⟩

/-- ICMP into the last quad; FCMP. -/
theorem test_witness_ComparesAndBallotWriteTheirMaskQuad :
    (Instr.icmp ⟨95, 1, 0, 0, 0, 0, 2, 0, 13, 0, 0⟩).wf = true ∧
    (∃ regs fmt, (∀ l, l < 128 → quadLane wt l (.icmp ⟨95, 1, 0, 0, 0, 0, 2, 0, 13, 0, 0⟩) =
        some (⟨95, 1, 0, 0, 0, 0, 2, 0, 13, 0, 0⟩, regs, fmt, (1#128).getLsbD l)) ∧ laneRuns wt ⟨95, 1, 0, 0, 0, 0, 2, 0, 13, 0, 0⟩ regs fmt) ∧
    (Instr.fcmp ⟨5, 4, 4, 0, 0, 0, 0, 0, 7, 0, 0⟩).wf = true ∧
    (∃ regs fmt, (∀ l, l < 128 → quadLane wt l (.fcmp ⟨5, 4, 4, 0, 0, 0, 0, 0, 7, 0, 0⟩) =
        some (⟨5, 4, 4, 0, 0, 0, 0, 0, 7, 0, 0⟩, regs, fmt, (0#128).getLsbD l)) ∧ laneRuns wt ⟨5, 4, 4, 0, 0, 0, 0, 0, 7, 0, 0⟩ regs fmt) :=
  ⟨by decide +kernel, ⟨[1], false, lanes (by decide +kernel), rfl, by decide +kernel, nofun⟩, by decide +kernel,
   ⟨[4, 4], true, lanes (by decide +kernel), rfl, by decide +kernel, by decide +kernel⟩⟩

/-- VOTE, V2S of the last lane and REDL into the last scalar. -/
theorem test_witness_ReductionsWriteOneScalar :
    ((Instr.vote ⟨127, 4, 0, 1, 0, 0, 0, 0, 3, 0, 0⟩).wf = true ∧
      scalarLane wt (.vote ⟨127, 4, 0, 1, 0, 0, 0, 0, 3, 0, 0⟩) = some (⟨127, 4, 0, 1, 0, 0, 0, 0, 3, 0, 0⟩, [4], false, 0#32)) ∧
    ((Instr.v2s ⟨10, 127, 0, 0, 0, 0, 2, 0, 0, 0, 127⟩).wf = true ∧
      scalarLane wt (.v2s ⟨10, 127, 0, 0, 0, 0, 2, 0, 0, 0, 127⟩) = some (⟨10, 127, 0, 0, 0, 0, 2, 0, 0, 0, 127⟩, [127], false, 0#32)) ∧
    ((Instr.redl ⟨0, 6, 0, 0, 0, 0, 0, 0, 10, 0, 0⟩).wf = true ∧
      scalarLane wt (.redl ⟨0, 6, 0, 0, 0, 0, 0, 0, 10, 0, 0⟩) = some (⟨0, 6, 0, 0, 0, 0, 0, 0, 10, 0, 0⟩, [6], false, 0#32)) ∧
    wt.suppressed ⟨127, 4, 0, 1, 0, 0, 0, 0, 3, 0, 0⟩ = false ∧ (∀ r ∈ [4, 127, 6], r < wt.budget) := by decide +kernel

/-- The last stage predicate over a clear bit, on an instruction that would store; LNOP. -/
theorem test_witness_SuppressedLaneInstructionsHaveNoEffect : (ws wt).runs wt ∧
    (laneOfInstr (.st ⟨0, 2, 0, 10, 7, 0, 0, 0, 4, 0, 0⟩) = some ⟨0, 2, 0, 10, 7, 0, 0, 0, 4, 0, 0⟩ ∧ wt.stage.getLsbD (7 - 1) = false ∧
    laneOfInstr (.lnop ⟨0, 0, 0, 0, 0, 0, 0, 0, 0, 0, 0⟩) = some ⟨0, 0, 0, 0, 0, 0, 0, 0, 0, 0, 0⟩) := ⟨ws_runs _, by decide +kernel⟩

/-- Item i names a register at or beyond strand t's budget, and nothing stands before REG_BOUND. -/
def Sys2Proof.Tests.outOfBudget (t : Strand) (i : Instr) : Prop :=
  i.wf = true ∧ ∃ f regs fmt, aluRegs t i = some (f, regs, fmt) ∧ t.suppressed f = false ∧ (fmt = true → t.fmtBad = false) ∧ ∃ r ∈ regs, t.budget ≤ r
theorem Sys2Proof.Tests.outOfBudget_of (t : Strand) (i : Instr) (h : (i.wf && (aluRegs t i).any (fun x => !t.suppressed x.1 && (!x.2.2 || !t.fmtBad) && x.2.1.any (fun r => decide (t.budget ≤ r)))) = true) :
    outOfBudget t i := by
  obtain ⟨hw, ho⟩ := Bool.and_eq_true_iff.1 h
  cases ha : aluRegs t i with
  | none => rw [ha] at ho; cases ho
  | some x =>
    rw [ha] at ho
    simp only [Option.any_some, Bool.and_eq_true, Bool.or_eq_true, Bool.not_eq_true', List.any_eq_true, decide_eq_true_eq] at ho
    exact ⟨hw, x.1, x.2.1, x.2.2, ha, ho.1.1, fun hf => ho.1.2.resolve_left (by simp [hf]), ho.2⟩

theorem Sys2Proof.Tests.outOfBudget_all (t : Strand) (is : List Instr)
    (h : is.all (fun i => i.wf && (aluRegs t i).any (fun x => !t.suppressed x.1 && (!x.2.2 || !t.fmtBad) && x.2.1.any (fun r => decide (t.budget ≤ r)))) = true) :
    is.Forall (outOfBudget t) := List.forall_iff_forall_mem.2 (fun i hi => outOfBudget_of t i (List.all_eq_true.1 h i hi))

/-- Strand t with FMT v. -/
def Sys2Proof.Tests.wfm (v : Word) : Strand := { wt with fmt := v }
/-- Register 128 of a budget of 128, of each kind of lane instruction: the last of a group, a result, an operand; DOT8 of E4M3 and IDOT8
with FMT's scales. -/
theorem test_witness_LaneRegistersBeyondTheBudgetRaiseRegBound :
    ([.iadd ⟨128, 0, 0, 0, 0, 0, 0, 0, 0, 0, 0⟩, .imadw ⟨127, 0, 0, 126, 0, 0, 2, 0, 0, 0, 3⟩, .ffma ⟨6, 1, 2, 128, 0, 0, 0, 3, 0, 63, 0⟩, .rcp ⟨128, 0, 0, 0, 0, 0, 0, 0, 0, 0, 0⟩,
      .shfl ⟨127, 128, 0, 0, 0, 0, 2, 0, 27, 0, 0x7F⟩, .icmp ⟨95, 128, 0, 0, 0, 0, 2, 0, 13, 0, 0⟩, .v2s ⟨10, 128, 0, 0, 0, 0, 2, 0, 0, 0, 127⟩,
      .cvt ⟨3, 128, 0, 0, 0, 0, 0, 0, 0x05, 0x12, 0x70⟩, .pack8 ⟨20, 125, 5, 0, 0, 0, 0, 0, 0x83, 0, 0⟩, .unpk ⟨125, 0, 0, 0, 0, 0, 0, 0, 3, 0, 0⟩] : List Instr).Forall (outOfBudget wt) ∧
    ((Instr.dot8 ⟨128, 0, 0, 0, 0, 0, 0, 0, 0, 0, 0⟩).wf = true ∧ (∃ v, dotLane (wfm 18#32) 0 (.dot8 ⟨128, 0, 0, 0, 0, 0, 0, 0, 0, 0, 0⟩) = some (⟨128, 0, 0, 0, 0, 0, 0, 0, 0, 0, 0⟩, 1, false, v)) ∧
      fmtClass (wfm 18#32) = some 1 ∧ (wfm 18#32).scaleFmt = 0 ∧ (wfm 18#32).fmtBad = false ∧ (wfm 18#32).budget = 128) ∧
    (Instr.idot8 ⟨0, 0, 128, 0, 0, 0, 0, 0, 0, 0, 0x7F7F⟩).wf = true ∧
    (∃ v, dotLane (wfm 0x882D#32) 0 (.idot8 ⟨0, 0, 128, 0, 0, 0, 0, 0, 0, 0, 0x7F7F⟩) = some (⟨0, 0, 128, 0, 0, 0, 0, 0, 0, 0, 0x7F7F⟩, 2, true, v)) ∧
    fmtClass (wfm 0x882D#32) = some 2 ∧ (wfm 0x882D#32).scaleFmt = 2 ∧ (wfm 0x882D#32).fmtBad = false ∧ 128 ∈ laneRegs ⟨0, 0, 128, 0, 0, 0, 0, 0, 0, 0, 0x7F7F⟩ true true true := by
  refine ⟨outOfBudget_all _ _ (by decide +kernel), ?_⟩
  and_intros
  all_goals first
    | exact ⟨_, rfl⟩
    | decide +kernel

/-- CVT of FP32 into the last element of E2M1. -/
theorem test_witness_CvtConvertsOneElementInPlace :
    (Instr.cvt ⟨3, 7, 0, 0, 0, 0, 0, 0, 0x05, 0x12, 0x70⟩).wf = true ∧
    laneRuns wt ⟨3, 7, 0, 0, 0, 0, 0, 0, 0x05, 0x12, 0x70⟩ [3, 7] true := ⟨by decide +kernel, rfl, by decide +kernel, by decide +kernel⟩

/-- PACK8 with its scale in a register, and PACK4 up to the budget. -/
theorem test_witness_PackNarrowsItsRegistersIntoOneWord :
    (Instr.pack8 ⟨20, 124, 5, 0, 0, 0, 0, 0, 0x83, 0, 0⟩).wf = true ∧
    laneRuns wt ⟨20, 124, 5, 0, 0, 0, 0, 0, 0x83, 0, 0⟩ ([20] ++ (List.range 4).map (124 + ·) ++ [5]) true ∧
    (Instr.pack4 ⟨0, 120, 0, 0, 0, 0, 0, 0, 0x0D, 0, 0⟩).wf = true ∧
    laneRuns wt ⟨0, 120, 0, 0, 0, 0, 0, 0, 0x0D, 0, 0⟩ ([0] ++ (List.range 8).map (120 + ·) ++ []) true :=
  ⟨by decide +kernel, ⟨rfl, by decide +kernel, by decide +kernel⟩, by decide +kernel, rfl, by decide +kernel, by decide +kernel⟩

/-- UNPK of eight elements ending at the budget. -/
theorem test_witness_UnpkWidensEachElementIntoItsRegister :
    (Instr.unpk ⟨120, 12, 0, 0, 0, 0, 0, 0, 5, 0, 0⟩).wf = true ∧
    laneRuns wt ⟨120, 12, 0, 0, 0, 0, 0, 0, 5, 0, 0⟩ ((List.range (cvtN 5)).map (120 + ·) ++ [12] ++ []) true ∧
    ((List.range (cvtN 5)).map (fun i => wt.rotN (120 + i))).Nodup :=
  ⟨by decide +kernel, ⟨rfl, by decide +kernel, by decide +kernel⟩, by decide +kernel⟩

/-- DOTH2 under FMT 0, and IDOT8 under integer FMT with scales 127 and 128. -/
theorem test_witness_DotInstructionsAddTheirBlockSum :
    (Instr.doth2 ⟨5, 1, 2, 3, 0, 0, 0, 0, 0, 0, 0⟩).wf = true ∧ fmtClass wt = some 0 ∧ wt.scaleFmt = 0 ∧
    (∃ (val : Nat → Word), (∀ l, l < 128 → dotLane wt l (.doth2 ⟨5, 1, 2, 3, 0, 0, 0, 0, 0, 0, 0⟩) = some (⟨5, 1, 2, 3, 0, 0, 0, 0, 0, 0, 0⟩, 0, false, val l))) ∧
    laneRuns wt ⟨5, 1, 2, 3, 0, 0, 0, 0, 0, 0, 0⟩ (laneRegs ⟨5, 1, 2, 3, 0, 0, 0, 0, 0, 0, 0⟩ true true true) true :=
  ⟨by decide +kernel, by decide +kernel, by decide +kernel, ⟨_, fun _ _ => rfl⟩, rfl, by decide +kernel, by decide +kernel⟩

/-- SGET of the last special register; SSET of a writable one and of a read-only one. -/
theorem test_witness_SgetReturnsTheSpecialRegister : (ws wt).runs wt ∧ (Instr.sget 383 0x5F).wf = true ∧ (Instr.sget 0 0x10).wf = true :=
  ⟨ws_runs _, by decide +kernel⟩
theorem test_witness_SsetWritesTheSpecialRegisterUnderItsRule : (ws wt).runs wt ∧ isSprW 0x0E = true ∧ isSprW 0 = true ∧ isSprW 0x0D = false :=
  ⟨ws_runs _, by decide +kernel⟩

/-- A branch untaken and taken, with four loops open, at the first item. -/
theorem test_witness_BranchesGoToTheirTargetOrFallThrough : (ws wt).runs wt ∧
    branchOf wt (.bnz 0 0 0) = some (false, 0, 0) ∧ branchOf wt (.bz 383 0x1FFFF 0) = some (true, 0x1FFFF, 0) ∧
    (Instr.bz 383 0x1FFFF 0).wf = true ∧ (ws wt).cur < ccBase ∧ legalTarget (targetOf wt 0x1FFFF) ∧ unwatched wt ∧ wt.loops.length ≤ 4 :=
  ⟨rfl, rfl, rfl, by decide +kernel, by decide, by unfold legalTarget; decide +kernel, .inl rfl, by decide⟩

/-- CALL and CALLI with fifteen return entries. -/
theorem test_witness_CallsPushTheReturnEntry :
    (ws { wt with rets := List.replicate 15 ⟨0#64, 0#32, 0⟩ }).runs { wt with rets := List.replicate 15 ⟨0#64, 0#32, 0⟩ } ∧
    ({ wt with rets := List.replicate 15 ⟨0#64, 0#32, 0⟩ } : Strand).rets.length < 16 ∧ unwatched wt ∧ (Instr.call 0x1FFFF 0xFFFFFFFF).wf = true ∧
    legalTarget (targetOf wt 0x1FFFF) ∧ legalTarget (wt.getPair 382) :=
  ⟨rfl, by decide, .inl rfl, by decide +kernel, by unfold legalTarget; decide +kernel, by unfold legalTarget; decide +kernel⟩

/-- RET with an empty stack, with a loop left open, and with the loops its entry recorded. -/
theorem test_witness_RetPopsTheReturnStack : wt.rets = [] ∧
    (∃ t e, (ws t).runs t ∧ t.rets = [e] ∧ legalTarget e.spc ∧ e.loops < t.loops.length) ∧
    (∃ t e, (ws t).runs t ∧ t.rets = [e] ∧ legalTarget e.spc ∧ t.loops.length ≤ e.loops ∧ unwatched t) :=
  ⟨rfl, ⟨{ wt with rets := [⟨0x100#64, 0#32, 0⟩], loops := [loopOfWords (fun _ => 0#32)] }, ⟨0x100#64, 0#32, 0⟩, rfl, rfl,
      by unfold legalTarget; decide +kernel, by decide⟩,
    ⟨{ wt with rets := [⟨0x100#64, 0#32, 4⟩] }, ⟨0x100#64, 0#32, 4⟩, rfl, rfl, by unfold legalTarget; decide +kernel, by decide, .inl rfl⟩⟩

/-- JMPI; JMPV and CALLV with EXEC zero, and with a uniform target. -/
theorem test_witness_IndirectJumpsTakeTheirOperands : legalTarget (wt.getPair 0) ∧ unwatched wt ∧ wt.loops.length ≤ 4 ∧ 127 < wt.budget ∧
    ({ wt with exec := 0#128 } : Strand).exec = 0#128 ∧ uniformPair wt 127 0 0#32 0#32 ∧
    legalTarget (wt.secBase + (0#32 : Word).setWidth 64) ∧ wt.rets.length < 16 :=
  ⟨by unfold legalTarget; decide +kernel, .inl rfl, by decide, by decide, rfl, ⟨by decide +kernel, by decide +kernel⟩, by unfold legalTarget; decide +kernel,
    by decide⟩

/-- A watched region with a waiting path at its 63rd and 64th crossing. -/
theorem test_witness_TheSixtyFourthCrossingDemotesThePath : ([62, 63] : List Nat).Forall (fun n => ∃ t : Strand,
    t.regionOpen = true ∧ (t.getS (t.regionBase + 7)).getLsbD 10 = true ∧ t.spin.wrote = false ∧
    t.spin.hash = some (Config.spinHash t.spin.log) ∧ t.spin.count = n) :=
  ⟨⟨{ (wt.putS 7 0x400#32) with region := 0x200#32, spin := ⟨[], some (Config.spinHash []), 62, false⟩ }, rfl, by decide +kernel, rfl, rfl, rfl⟩,
   ⟨{ (wt.putS 7 0x400#32) with region := 0x200#32, spin := ⟨[], some (Config.spinHash []), 63, false⟩ }, rfl, by decide +kernel, rfl, rfl, rfl⟩⟩

/-- MSPLIT on the last save area. -/
theorem test_witness_MsplitSavesThePathAndNarrowsExec : (ws wt).runs wt ∧ (Instr.msplit 380 372 0xFFFF 0xFFFF).wf = true ∧
    ({ wt with region := 0x200#32 } : Strand).regionOpen = true := ⟨ws_runs _, by decide +kernel⟩

/-- MJOIN with a path waiting and without. -/
theorem test_witness_MjoinRunsThePendingPathOrRestores :
    (Instr.mjoin 372).wf = true ∧
    (∃ t, (ws t).runs t ∧ (t.getS (372 + 7)).getLsbD 9 = true ∧ (t.getS (372 + 7)).getLsbD 10 = true) ∧
    (∃ t, (ws t).runs t ∧ (t.getS (372 + 7)).getLsbD 9 = true ∧ (t.getS (372 + 7)).getLsbD 10 = false) :=
  ⟨by decide +kernel, ⟨wt.putS 379 0x600#32, rfl, by decide +kernel, by decide +kernel⟩,
    ⟨wt.putS 379 0x200#32, rfl, by decide +kernel, by decide +kernel⟩⟩

/-- MSK sub-ops on the last quad, on EXEC and on LIVE. -/
theorem test_witness_MaskWordsWriteExecOrTheirQuad : (Instr.mset 380 0).wf = true ∧ (Instr.mset 0 2).wf = true ∧ (Instr.mnot 380 0 1).wf = true ∧
    (∃ m, maskResult wt (.mnot 380 0 1) = some (380, m)) ∧ (Instr.mpopc 383 0 2).wf = true ∧ (ws wt).runs wt :=
  ⟨by decide +kernel, by decide +kernel, by decide +kernel, ⟨_, rfl⟩, by decide +kernel, rfl⟩

/-- MSK words: one that stands, and one for each way to decode to nothing. -/
theorem test_witness_MaskWordsDecodeFieldByField :
    (fld 0xB040A001 26 6 = 0x2C ∧ fld 0xB040A001 20 6 = 4 ∧ (Instr.mand 20 0 1).wf = true) ∧ (fld 0xB0400003 26 6 = 0x2C ∧ fld 0xB0400003 0 2 = 3) ∧
    (fld 0xB0400005 26 6 = 0x2C ∧ fld 0xB0400005 0 2 ≠ 0 ∧ fld 0xB0400005 2 9 ≠ 0) ∧
    (fld 0xB0200801 26 6 = 0x2C ∧ fld 0xB0200801 20 6 = 2 ∧ fld 0xB0200801 11 9 ≠ 0) ∧ (Instr.mand 1 0 0).wf = false := by decide +kernel
end

/-! ### Witnesses: clauses, scalar memory, loops and waits -/
section
set_option Elab.async false
open Sys2Proof Sys2Proof.Machine Sys2Proof.Tests Sys2Proof.Rules

/-- The translation of the page. -/
def Sys2Proof.Tests.we : Tlb := ⟨0x5000, true, true, true, 0, 0, false, false, true, false⟩
/-- One operation in flight on path p, under flag f. -/
def Sys2Proof.Tests.wo (n : Nat) (p : Path) (f : Option Nat) (lands : List Land) : Op := { id := n, path := p, flag := f, lands := lands }
/-- A counted loop of c trips over one clause. -/
def Sys2Proof.Tests.wl (c : Word) : LoopFrame := ⟨0x100#64, 0x104#64, 0#32, 0#32, c, false, false, 1, 0, 0, 1#8, 1#128, 0#128, 0⟩

/-- No reduction waits. -/
theorem Sys2Proof.Tests.ws_comb (t : Strand) : ∀ c, ((ws t).clu c).comb = [] := fun _ => rfl
/-- The core's L1 is empty. -/
theorem Sys2Proof.Tests.ws_roomy (t : Strand) (n : Nat) (ht : t.core = 0) (hn : n ≤ 1024) : roomy (ws t) t.core n := by
  have h : 1024 ≤ State.l1Lines wcore := by decide +kernel
  show (((ws t).core t.core).l1.map (fun e => e.1 / 4)).eraseDups.length + n ≤ State.l1Lines ((ws t).core t.core)
  rw [ht]; simpa [ws, State.core, AMap.get, AMap.look, wcore] using le_trans hn h
/-- Nothing but the access moves memory. -/
theorem Sys2Proof.Tests.ws_quiet (t : Strand) (va : Nat) (wr : Bool) (ht : t.core = 0) (hk : State.tlbKey t.part t.ctx va = 0) :
    quiet (ws t) t va wr := by
  refine ⟨ws_comb t, ws_roomy t 1 ht (by decide), we, ?_, fun _ => rfl, rfl⟩
  rw [ht, hk]; rfl
/-- A check that answers e, evaluated. -/
theorem Sys2Proof.Tests.okOf {ε α : Type} [DecidableEq α] {x : Except ε α} {e : α}
    (h : (match x with | .ok y => decide (y = e) | .error _ => false) = true) : x = .ok e := by
  cases x with
  | ok y => exact congrArg _ (of_decide_eq_true h)
  | error _ => cases h

/-- A header with a busy flag of its wait mask, one behind an acquire, and one whose flags are clear, empty and full. -/
theorem test_witness_ClauseHeaderWaitsForItsFlagsThenOpensTheClause :
    (∃ t, (ws t).runs t ∧ t.item = 0 ∧ (Instr.clauseHeader 0x800 11 15 7 7).wf = true ∧ (∃ i, i < 12 ∧ (0x800 : Nat).testBit i = true ∧ t.busy i = true)) ∧
    (∃ t, (ws t).runs t ∧ t.item = 0 ∧ acqBusy t = true) ∧
    (∃ t, (ws t).runs t ∧ t.item = 0 ∧ (Instr.clauseHeader 0xFFF 11 0 7 7).wf = true ∧ (Instr.clauseHeader 0xFFF 15 15 0 0).wf = true ∧
      (∀ i, i < 12 → (0xFFF : Nat).testBit i = true → t.busy i = false) ∧ acqBusy t = false) :=
  ⟨⟨{ wt with item := 0, ops := [wo 0 .ld (some 11) []] }, rfl, rfl, by decide +kernel, 11, by decide, by decide, by decide +kernel⟩,
   ⟨{ wt with item := 0, ops := [wo 0 .ld none []], acq := 1 }, rfl, rfl, by decide +kernel⟩,
   ⟨{ wt with item := 0 }, rfl, rfl, by decide +kernel, by decide +kernel, by decide +kernel, by decide +kernel⟩⟩

/-- Every scalar access of the page passes from register pair 0, its first byte to its last word. -/
theorem test_witness_ScalarLoadsIssueAReadOfTheirWords : scalarLoad (.lds4 380 0 1 252) = some (380, 0, 1, 252, 4) ∧ (Instr.lds4 380 0 1 252).wf = true ∧
    passes (ws wt) wt (scalarAcc wt 0 252 16 false) we ∧
    issues (ws wt) wt .ld [(scalarAcc wt 0 252 16 false, we)] 0 0 ∧ quiet (ws wt) wt (scalarAcc wt 0 252 16 false).va false ∧
    clean (ws wt) wt (State.physOf we (scalarAcc wt 0 252 16 false).va) 16 we.coh :=
  ⟨rfl, by decide +kernel, ⟨by decide +kernel, okOf (by decide +kernel)⟩, by unfold issues; decide +kernel, ws_quiet _ _ _ rfl rfl, by unfold clean; decide +kernel⟩
theorem test_witness_ScalarStoresWriteTheirBytesAlone : (Instr.sts2 382 0 0 254).wf = true ∧
    scalarStore (.sts2 382 0 0 254) = some (382, 0, 0, 254, 2) ∧ passes (ws wt) wt (scalarAcc wt 0 254 8 true) we ∧ issues (ws wt) wt .st [(scalarAcc wt 0 254 8 true, we)] 0 0 ∧
    quiet (ws wt) wt (scalarAcc wt 0 254 8 true).va true ∧ reachable (ws wt) (State.physOf we (scalarAcc wt 0 254 8 true).va) :=
  ⟨by decide +kernel, rfl, ⟨by decide +kernel, okOf (by decide +kernel)⟩, by unfold issues; decide +kernel, ws_quiet _ _ _ rfl rfl, .inl (by decide +kernel)⟩
/-- ATOMS.cas on the last pair, relaxed; and ordered at the widest scope. -/
theorem test_witness_AtomsReturnsTheOldWordAndWritesTheNew : (Instr.atoms 382 0 0 6 0 0).wf = true ∧ (Instr.atoms 383 0 1 5 3 5).wf = true ∧
    passes (ws wt) wt { scalarAcc wt 0 0 4 true with rd := true } we ∧
    ([0, 5] : List Nat).Forall (fun sc => issues (ws wt) wt .atm [({ scalarAcc wt 0 0 4 true with rd := true }, we)] sc sc) ∧
    AMap.look (ws wt).slice (State.sliceKey wt.part (State.physOf we (scalarAcc wt 0 0 4 true).va)) = none ∧
    (we.coh % 4 = 1 → AMap.look ((ws wt).core wt.core).l1 (State.physOf we (scalarAcc wt 0 0 4 true).va / 64) = none) ∧
    quiet (ws wt) wt (scalarAcc wt 0 0 4 true).va true ∧ reachable (ws wt) (State.physOf we (scalarAcc wt 0 0 4 true).va) ∧
    clean (ws wt) wt (State.physOf we (scalarAcc wt 0 0 4 true).va) 4 we.coh :=
  ⟨by decide +kernel, by decide +kernel, ⟨by decide +kernel, okOf (by decide +kernel)⟩, ⟨by unfold issues; decide +kernel, by unfold issues; decide +kernel⟩,
   rfl, nofun, ws_quiet _ _ _ rfl rfl, .inl (by decide +kernel), by unfold clean; decide +kernel⟩

/-- A load of two elements is complete; a store is complete. -/
theorem test_witness_ReturningAccessesLandWhenTheyComplete : ∃ (t : Strand) (o : Op), (ws t).strand? 0 = some t ∧ t.pend = none ∧
    t.ops.find? (fun x => x.path == .ld) = some o ∧ o.err = none ∧ o.lands.length = 2 ∧ (∀ x ∈ o.lands, x.done = false) ∧
    (o.lands.map (·.dst)).Nodup ∧ (t.ops.map (·.id)).Nodup :=
  ⟨{ wt with ops := [wo 0 .st none [], wo 1 .ld none [⟨.s 383, 1#32, false⟩, ⟨.v 127 127, 2#32, false⟩]] },
    wo 1 .ld none [⟨.s 383, 1#32, false⟩, ⟨.v 127 127, 2#32, false⟩], rfl, rfl, rfl, rfl, rfl, by decide, by decide, by decide⟩
theorem test_witness_SourcingAccessesOnlyLowerTheirCounter : ∃ (t : Strand) (o : Op), (ws t).strand? 0 = some t ∧ t.pend = none ∧
    t.ops.find? (fun x => x.path == .st) = some o ∧ o.err = none ∧ o.lands = [] ∧ (t.ops.map (·.id)).Nodup :=
  ⟨{ wt with ops := [wo 0 .st none []] }, wo 0 .st none [], rfl, rfl, rfl, rfl, rfl, by decide⟩

/-- LOOP at the wrong level, at level 3 with a count, and with none. -/
theorem test_witness_LoopOpensAFrameOrSkips : (Instr.loop 1 0 7 1 0 0 0xFFFF 0xFFFF).wf = true ∧
    (∃ t : Strand, (ws t).runs t ∧ t.loops.length < 4 ∧ 1 ≠ t.loops.length) ∧
    (∃ t : Strand, (ws t).runs t ∧ (Instr.loop 3 0 1 0 0 0 2 0).wf = true ∧ 3 = t.loops.length ∧ t.loops.length < 4 ∧ t.getS 0 ≠ 0#32) ∧
    (∃ t : Strand, (ws t).runs t ∧ (Instr.loop 3 0 1 0 0 0 2 0).wf = true ∧ 3 = t.loops.length ∧ t.loops.length < 4 ∧ t.getS 0 = 0#32) :=
  ⟨by decide +kernel, ⟨wt, rfl, by decide, by decide⟩,
   ⟨{ wt.putS 0 0xFFFFFFFF#32 with loops := List.replicate 3 (wl 1#32) }, rfl, by decide +kernel, rfl, by decide, by decide +kernel⟩,
   ⟨{ wt with loops := List.replicate 3 (wl 1#32) }, rfl, by decide +kernel, rfl, by decide, by decide +kernel⟩⟩

/-- The machine with skein 0 of core 0 holding q, and a weave that serves from it. -/
def Sys2Proof.Tests.wk (t : Strand) (q : List Word) : State :=
  { ws t with
    bolts := [(1, { placeBolt with desc := { placeBolt.desc with sken := true, sksel := 0 } })],
    cores := [(0, { wcore with sk0 := q })] }

/-- An ITEM loop with items and dry; its back edge with a lane to refill, and with none. -/
theorem test_witness_ItemLoopsTakeIndicesFromTheSkein :
    (∃ t : Strand, (wk t [7#32]).runs t ∧ (wk t [7#32]).skeinOf t = some 0 ∧ (Instr.loop t.loops.length 0 1 0 1 127 2 0).wf = true ∧
      t.loops.length < 4 ∧ 127 < t.budget ∧ t.getS 0 ≠ 0#32 ∧ (lanesOf t.exec).take (skein (wk t [7#32]) t 0).length ≠ []) ∧
    (∃ t : Strand, (wk t []).runs t ∧ (wk t []).skeinOf t = some 0 ∧ (Instr.loop t.loops.length 0 1 0 1 127 2 0).wf = true ∧
      t.loops.length < 4 ∧ 127 < t.budget ∧ (lanesOf t.exec).take (skein (wk t []) t 0).length = []) ∧
    (∃ t : Strand, (wk t [7#32]).runs t ∧ t.edge = true ∧ t.loops = [{ wl 2#32 with item := true, lexit := 1#128 }] ∧
      (wl 2#32).rot = false ∧ 1 < (wl 2#32).trips.toNat ∧
      (wk t [7#32]).skeinOf t = some 0 ∧ t.exec ||| maskOfLanes ((lanesOf ((1#128) &&& t.live)).take (skein (wk t [7#32]) t 0).length) ≠ 0#128 ∧ unwatched t) ∧
    (∃ t : Strand, (wk t []).runs t ∧ t.edge = true ∧ t.loops = [{ wl 2#32 with item := true, lexit := 1#128 }] ∧ (wk t []).skeinOf t = some 0 ∧
      t.exec ||| maskOfLanes ((lanesOf ((1#128) &&& t.live)).take (skein (wk t []) t 0).length) = 0#128 ∧ endsAlone t 0x104#64 []) :=
  ⟨⟨wt.putS 0 1#32, rfl, rfl, by decide +kernel, by decide, by decide, by decide +kernel, by decide +kernel⟩,
   ⟨wt, rfl, rfl, by decide +kernel, by decide, by decide, by decide +kernel⟩,
   ⟨{ wt with edge := true, exec := 0#128, loops := [{ wl 2#32 with item := true, lexit := 1#128 }] }, rfl, rfl, rfl, rfl, by decide, rfl, by decide +kernel, .inl rfl⟩,
   ⟨{ wt with edge := true, exec := 0#128, loops := [{ wl 2#32 with item := true, lexit := 1#128 }] }, rfl, rfl, rfl, rfl, by decide +kernel, nofun⟩⟩

/-- A back edge with two trips left, under a rotating region, and with one. -/
theorem test_witness_TheBackEdgeRewindsOrExitsTheLoop :
    (∃ t : Strand, (ws t).runs t ∧ t.edge = true ∧ t.loops = [{ wl 2#32 with rot := true }] ∧ unwatched t ∧ 0 < t.rotSize ∧ t.rot.toNat < 2 ^ 23 ∧
      t.rotRb < t.rotSize) ∧
    (∃ t : Strand, (ws t).runs t ∧ t.edge = true ∧ t.loops = [wl 1#32] ∧ endsAlone t 0x104#64 []) :=
  ⟨⟨{ wt with edge := true, loops := [{ wl 2#32 with rot := true }], rot := 0x420#32 }, rfl, rfl, rfl, .inl rfl, by decide +kernel, by decide +kernel,
      by decide +kernel⟩,
   ⟨{ wt with edge := true, loops := [wl 1#32] }, rfl, rfl, rfl, nofun⟩⟩

/-- LEXIT of one of two lanes, LBRK of the last, and LEXIT with EXEC zero. -/
theorem test_witness_LexitAndLbrkTakeLanesOutOfTheLoop :
    (∃ t : Strand, (ws t).runs t ∧ t.loops = [wl 2#32] ∧ t.exec &&& ~~~ t.getQ 380 ≠ 0#128) ∧
    (∃ t : Strand, (ws t).runs t ∧ t.loops = [wl 2#32] ∧ t.exec = 0#128) ∧
    (∃ t : Strand, (ws t).runs t ∧ t.loops = [wl 2#32] ∧ t.exec ≠ 0#128 ∧ t.exec &&& ~~~ t.exec = 0#128 ∧ endsAlone t 0x104#64 []) :=
  ⟨⟨{ wt.putS 380 1#32 with exec := 3#128, live := 3#128, loops := [wl 2#32] }, rfl, rfl, by decide +kernel⟩,
   ⟨{ wt with exec := 0#128, loops := [wl 2#32] }, rfl, rfl, rfl⟩,
   ⟨{ wt with loops := [wl 2#32] }, rfl, rfl, by decide +kernel, by decide +kernel, nofun⟩⟩

/-- ROTSET of a region that ends at the budget and one that ends past it; SKPUT with a skein. -/
theorem test_witness_RotsetSkputAndLdepthSetTheirRegisters : (ws wt).runs wt ∧ (Instr.rotset 0 128).wf = true ∧ 0 + 128 ≤ wt.budget ∧
    (Instr.rotset 1 128).wf = true ∧ wt.budget < 1 + 128 ∧ (Instr.skput 383 382 1).wf = true ∧ (wk wt []).runs wt ∧ (wk wt []).skeinOf wt = some 0 :=
  ⟨rfl, by decide +kernel, by decide, by decide +kernel, by decide, by decide +kernel, rfl, rfl⟩

/-- WAITP at its threshold and above it; a FENCE that may complete. -/
theorem test_witness_WaitpAndFenceWaitForTheirCounters : (Instr.waitp 5 1 0).wf = true ∧ (Instr.waitp 0 0 383).wf = true ∧
    wt.count (pathOf 5) ≤ 0 ∧ (∃ t : Strand, (ws t).runs t ∧ (t.getS 383).toNat < t.count (pathOf 0)) ∧
    (Instr.fence 3 5).wf = true ∧ wt.count .ld = 0 ∧ wt.count .sc = 0 ∧ wt.count .atm = 0 ∧ wt.count .st = 0 ∧ (Instr.fence 1 0).wf = true ∧ (ws wt).releaseWaits (ws wt).cur wt 5 = false :=
  ⟨by decide +kernel, by decide +kernel, by decide +kernel, ⟨{ wt with ops := [wo 0 .ld none []] }, rfl, by decide +kernel⟩, by decide +kernel,
    rfl, rfl, rfl, rfl, by decide +kernel, by decide +kernel⟩
end

/-! ### Witnesses: clasps, membership and lane memory -/
section
set_option Elab.async false
open Sys2Proof Sys2Proof.Machine Sys2Proof.Tests Sys2Proof.Rules

/-- A weave with handle 0 bound to the object of words c at scratch offset 0. -/
def Sys2Proof.Tests.wwv (c : List Word) (r : CRec) (hs : List HeldArr) : Weave :=
  { placeWeave with binds := [(0, ⟨false, 0⟩)], recs := [(0, r)], helds := hs, scr := State.writeBytes [] 0 (State.bytesOfWords c) }
def Sys2Proof.Tests.wc (t : Strand) (c : List Word) (r : CRec) (hs : List HeldArr) : State := { ws t with weaves := [(1, wwv c r hs)] }

/-- Nothing moves beside the object. -/
theorem Sys2Proof.Tests.wc_still (t : Strand) (c : List Word) (r : CRec) (hs : List HeldArr) (ht : t.core = 0) :
    still (wc t c r hs) t (wwv c r hs) ⟨false, 0⟩ (.scr 1 0) := by
  refine ⟨?_, rfl, ?_, fun _ => rfl, ?_, trivial⟩
  · rw [ht]; rfl
  · rw [ht]; exact fun e he => nomatch he
  · rfl
theorem Sys2Proof.Tests.wc_reaches (t : Strand) (c : List Word) (r : CRec) (hs : List HeldArr) (wr : Bool) (ht : t.weave = 1) :
    reaches (wc t c r hs) t 0 wr (wwv c r hs) ⟨false, 0⟩ (.scr 1 0) := by
  refine ⟨by rw [ht]; rfl, rfl, ?_⟩
  unfold State.claspObj; rw [ht]; rfl

/-- INIT of an object with a waiter, with a held arrival, and of a quiet one; handles bound and unbound. -/
theorem test_witness_ClaspInitInvalRegAndUnregSetTheObjectOrItsHandle :
    (reaches (wc wt [0x20000#32, 0#32, 0#32, 0#32, 0#32, 0#32] ⟨false, false, false⟩ []) wt 0 true (wwv [0x20000#32, 0#32, 0#32, 0#32, 0#32, 0#32] ⟨false, false, false⟩ []) ⟨false, 0⟩ (.scr 1 0) ∧
      ((wc wt [0x20000#32, 0#32, 0#32, 0#32, 0#32, 0#32] ⟨false, false, false⟩ []).claspRead (.scr 1 0)).waiters = true) ∧
    (reaches (wc wt [0#32, 0#32, 0#32, 0#32, 0#32, 1#32] ⟨false, false, false⟩ []) wt 0 true (wwv [0#32, 0#32, 0#32, 0#32, 0#32, 1#32] ⟨false, false, false⟩ []) ⟨false, 0⟩ (.scr 1 0) ∧
      ((wc wt [0#32, 0#32, 0#32, 0#32, 0#32, 1#32] ⟨false, false, false⟩ []).claspRead (.scr 1 0)).held ≠ 0#32) ∧
    (∃ c r hs, reaches (wc wt c r hs) wt 0 true (wwv c r hs) ⟨false, 0⟩ (.scr 1 0) ∧ still (wc wt c r hs) wt (wwv c r hs) ⟨false, 0⟩ (.scr 1 0) ∧
      ((wc wt c r hs).claspRead (.scr 1 0)).waiters = false ∧ ((wc wt c r hs).claspRead (.scr 1 0)).held = 0#32) ∧
    (Instr.claspReg 382 15 1).wf = true ∧ (ws wt).weave? wt.weave = some placeWeave ∧ AMap.look placeWeave.binds 15 = none ∧
    AMap.look (wwv [] ⟨false, false, false⟩ []).binds 0 ≠ none :=
  ⟨⟨wc_reaches _ _ _ _ _ rfl, by decide +kernel⟩, ⟨wc_reaches _ _ _ _ _ rfl, by decide +kernel⟩,
   ⟨[], ⟨false, false, false⟩, [], wc_reaches _ _ _ _ _ rfl, wc_still _ _ _ _ rfl, by decide +kernel, by decide +kernel⟩,
   by decide +kernel, rfl, rfl, by decide⟩

/-- An arrival at an invalidated object, the last arrival of a phase, an early one, and one that must wait. -/
theorem test_witness_ArrivalsCountTheirPhaseAndReturnItsToken : (Instr.claspArrive 383 0).wf = true ∧ (Instr.claspArrivetx 383 0).wf = true ∧
    tagged wt 0 = false ∧
    (∃ c r, reaches (wc wt c r []) wt 0 true (wwv c r []) ⟨false, 0⟩ (.scr 1 0) ∧ still (wc wt c r []) wt (wwv c r []) ⟨false, 0⟩ (.scr 1 0) ∧
      ((wc wt c r []).claspRead (.scr 1 0)).inv = true) ∧
    (∃ c r, reaches (wc wt c r []) wt 0 true (wwv c r []) ⟨false, 0⟩ (.scr 1 0) ∧ ((wc wt c r []).claspRead (.scr 1 0)).inv = false ∧
      (record (wwv c r []) wt 0).joins = false ∧ (record (wwv c r []) wt 0).arrived = false) ∧
    (∃ c r, reaches (wc wt c r []) wt 0 true (wwv c r []) ⟨false, 0⟩ (.scr 1 0) ∧ ((wc wt c r []).claspRead (.scr 1 0)).inv = false ∧
      (record (wwv c r []) wt 0).arrived = true ∧ (record (wwv c r []) wt 0).early = false) ∧
    (∃ c r, reaches (wc wt c r []) wt 0 true (wwv c r []) ⟨false, 0⟩ (.scr 1 0) ∧ ((wc wt c r []).claspRead (.scr 1 0)).inv = false ∧
      (record (wwv c r []) wt 0).joins = true ∧ (record (wwv c r []) wt 0).early = true) :=
  ⟨by decide +kernel, by decide +kernel, rfl,
   ⟨[0x10000#32, 1#32, 0#32, 0#32, 0#32, 0#32], ⟨false, false, false⟩, wc_reaches _ _ _ _ _ rfl, wc_still _ _ _ _ rfl, by decide +kernel⟩,
   ⟨[0xFFFF#32, 1#32, 0#32, 0#32, 0#32, 0#32], ⟨false, false, false⟩, wc_reaches _ _ _ _ _ rfl, by decide +kernel, by decide +kernel, by decide +kernel⟩,
   ⟨[0xFFFF#32, 2#32, 1#32, 0#32, 0#32, 0#32], ⟨true, false, false⟩, wc_reaches _ _ _ _ _ rfl, by decide +kernel, by decide +kernel, by decide +kernel⟩,
   ⟨[0xFFFF#32, 2#32, 1#32, 0#32, 1#32, 0#32], ⟨false, true, true⟩, wc_reaches _ _ _ _ _ rfl, by decide +kernel, by decide +kernel, by decide +kernel⟩⟩

/-- A tagged command in flight; a held arrival of the present phase and of the one before. -/
theorem test_witness_HeldArrivalsWaitForTheirTaggedCommands :
    (∃ t : Strand, (wc t [] ⟨false, false, false⟩ []).runs t ∧
      reaches (wc t [] ⟨false, false, false⟩ []) t 0 true (wwv [] ⟨false, false, false⟩ []) ⟨false, 0⟩ (.scr 1 0) ∧
      still (wc t [] ⟨false, false, false⟩ []) t (wwv [] ⟨false, false, false⟩ []) ⟨false, 0⟩ (.scr 1 0) ∧
      ((wc t [] ⟨false, false, false⟩ []).claspRead (.scr 1 0)).inv = false ∧ tagged t 0 = true ∧
      (record (wwv [] ⟨false, false, false⟩ []) t 0).joins = false ∧ (record (wwv [] ⟨false, false, false⟩ []) t 0).arrived = false) ∧
    (∀ tok, ∃ a : HeldArr, a.h = 0 ∧ a.bind = ⟨false, 0⟩ ∧ a.widx = wt.widx ∧ a.token = tok ∧ (wwv [] ⟨true, false, false⟩ [a]).helds = [a] ∧
      reaches (wc wt [] ⟨true, false, false⟩ [a]) wt 0 true (wwv [] ⟨true, false, false⟩ [a]) ⟨false, 0⟩ (.scr 1 0) ∧ tagged wt 0 = false) :=
  ⟨⟨{ wt with ops := [{ wo 0 .sh none [] with tag := some 0 }] }, rfl, wc_reaches _ _ _ _ _ rfl, wc_still _ _ _ _ rfl, by decide +kernel, by decide,
     by decide +kernel, by decide +kernel⟩,
   fun tok => ⟨⟨0, ⟨false, 0⟩, tok, 0, 0⟩, rfl, rfl, rfl, rfl, rfl, wc_reaches _ _ _ _ _ rfl, rfl⟩⟩

/-- A token whose phase is past by one, a pending one on an object with INV, a pending one without, and a wait that
was released. -/
theorem test_witness_ClaspWaitAndTestReportTheirTokensPhase :
    (tokenDone ((wc wt [1#32, 0#32, 0#32, 0#32, 0#32, 0#32] ⟨false, false, false⟩ []).claspRead (.scr 1 0)) 0#32 = true) ∧
    (tokenDone ((wc wt [0x10000#32, 0#32, 0#32, 0#32, 0#32, 0#32] ⟨false, false, false⟩ []).claspRead (.scr 1 0)) 0#32 = false ∧
      ((wc wt [0x10000#32, 0#32, 0#32, 0#32, 0#32, 0#32] ⟨false, false, false⟩ []).claspRead (.scr 1 0)).inv = true) ∧
    (tokenDone ((wc wt [0x8000#32, 0#32, 0#32, 0#32, 0#32, 0#32] ⟨false, false, false⟩ []).claspRead (.scr 1 0)) 0#32 = false ∧
      ((wc wt [0x8000#32, 0#32, 0#32, 0#32, 0#32, 0#32] ⟨false, false, false⟩ []).claspRead (.scr 1 0)).inv = false) ∧ wt.getS 0 = 0#32 ∧ (∀ v n, wt.wait ≠ .woke v n) ∧
    (∀ v n, (wc { wt with wait := .woke v n } [] ⟨false, false, false⟩ []).runs { wt with wait := .woke v n } ∧
      still (wc { wt with wait := .woke v n } [] ⟨false, false, false⟩ []) { wt with wait := .woke v n } (wwv [] ⟨false, false, false⟩ []) ⟨false, 0⟩ (.scr 1 0)) ∧
    (∀ c wr, (wc wt c ⟨false, false, false⟩ []).runs wt ∧ still (wc wt c ⟨false, false, false⟩ []) wt (wwv c ⟨false, false, false⟩ []) ⟨false, 0⟩ (.scr 1 0) ∧
      reaches (wc wt c ⟨false, false, false⟩ []) wt 0 wr (wwv c ⟨false, false, false⟩ []) ⟨false, 0⟩ (.scr 1 0)) :=
  ⟨by decide +kernel, by decide +kernel, by decide +kernel, by decide +kernel, nofun,
   fun _ _ => ⟨rfl, wc_still _ _ _ _ rfl⟩, fun _ _ => ⟨rfl, wc_still _ _ _ _ rfl, wc_reaches _ _ _ _ _ rfl⟩⟩

/-- A bolt whose launches leave room for one more copy strand. -/
def Sys2Proof.Tests.wd : Desc := { placeBolt.desc with creg := 16, cscr := 0, bcopy := 0, bmat := 0, bepi := 0, wmax := 64 }
def Sys2Proof.Tests.wa (t : Strand) : State :=
  { ws t with bolts := [(1, { placeBolt with desc := wd })], cores := [(0, { wcore with creg := 16 })] }

/-- ATTACH of a bad header address, of 0 and 65 strands, of two matrix strands, of another cluster, of more than the weave may hold, than the context's
ceiling, than slots that suffice, and of one that fits. -/
theorem test_witness_AttachPlacesAllItsStrandsOrNone : (Instr.attach 380 511 2).wf = true ∧ (Instr.attach 380 0 0).wf = true ∧
    (wa wt).weave? wt.weave = some placeWeave ∧ (wa wt).descOf placeWeave = some wd ∧ (wa wt).part? wt.part = some placePart ∧
    (∃ t : Strand, (wa t).runs t ∧ (t.getS 381).toNat % 4 ≠ 0) ∧
    (∃ t : Strand, (wa t).runs t ∧ (t.getS 381).toNat % 4 = 0 ∧ (t.getS 380).toNat = 0) ∧
    (∃ t : Strand, (wa t).runs t ∧ (t.getS 381).toNat % 4 = 0 ∧ 64 < (t.getS 380).toNat) ∧
    (∃ t : Strand, (wa t).runs t ∧ (t.getS 381).toNat % 4 = 0 ∧ 0 < (t.getS 380).toNat ∧ (t.getS 380).toNat ≤ 64 ∧
      State.coordCore placeWeave 0 / 2 = placeWeave.home / 2 ∧ placeWeave.wmax < memberCount (wa t) t.weave + (t.getS 380).toNat) ∧
    (∃ (s : State) (t : Strand) (p : Part), s.runs t ∧ s.part? t.part = some p ∧ s.weave? t.weave = some placeWeave ∧ s.descOf placeWeave = some wd ∧
      (t.getS 381).toNat % 4 = 0 ∧ (t.getS 380).toNat = 1 ∧ p.knob (4 * t.ctx + 1) < memberCount s t.weave + (t.getS 380).toNat) ∧
    (∃ t : Strand, (ws t).runs t ∧ (t.getS 381).toNat % 4 = 0 ∧ (t.getS 380).toNat = 1 ∧ (ws t).weave? t.weave = some placeWeave ∧
      (ws t).attachSlots t.weave placeWeave { wd with creg := 200 } 0 (State.coordCore placeWeave 0) (t.getS 380).toNat = none) ∧
    (∃ t : Strand, (wa t).runs t ∧ (t.getS 381).toNat % 4 = 0 ∧ (t.getS 380).toNat = 1 ∧ (wa t).cur = 96 * t.core + t.slot ∧ t.slot < 96 ∧
      (wa t).cur < ccBase ∧ memberCount (wa t) t.weave + (t.getS 380).toNat ≤ placeWeave.wmax ∧
      memberCount (wa t) t.weave + (t.getS 380).toNat ≤ placePart.knob (4 * t.ctx + 1) ∧ (wa t).claspsWait (wa t).cur t = false ∧
      (wa t).takeWaits (State.coordCore placeWeave 0) t.ctx wd.creg wd.cscr = false ∧
      (t.getS 380).toNat ≤ ((wa t).freeIdx t.weave (t.getS 380).toNat).length ∧
      (wa t).chargeFits placePart (State.coordCore placeWeave 0 / 2) (shareUp wd.enw 1 wd.size) (shareUp wd.ipk 1 wd.size) = true ∧
      (∃ slots, (wa t).attachSlots t.weave placeWeave wd 0 (State.coordCore placeWeave 0) (t.getS 380).toNat = some slots)) ∧
    (∃ t : Strand, (wa t).runs t ∧ (t.getS 381).toNat % 4 = 0 ∧ 0 < (t.getS 380).toNat ∧ (t.getS 380).toNat ≤ 64 ∧ (t.getS 380).toNat % 4 ≠ 0) ∧
    (∃ t : Strand, (wa t).runs t ∧ (t.getS 381).toNat % 4 = 0 ∧ 0 < (t.getS 380).toNat ∧ (t.getS 380).toNat ≤ 64 ∧ (t.getS 380).toNat % 4 = 0 ∧
      State.coordCore placeWeave 511 / 2 ≠ placeWeave.home / 2) ∧
    (∃ (w : Weave) (s : State), s.weave? wt.weave = some w ∧ AMap.look w.binds 0 = some ⟨false, 0⟩ ∧ (w.binds.map (·.1)).Nodup ∧ 0 % 32 = 0 ∧ 0 + 32 ≤ w.scrLen ∧
      (s.core w.home).stash = [] ∧ s.claspPoison (.scr wt.weave 0) = []) :=
  ⟨by decide +kernel, by decide +kernel, rfl, rfl, rfl,
   ⟨wt.putS 381 2#32, rfl, by decide +kernel⟩, ⟨wt, rfl, by decide +kernel, by decide +kernel⟩, ⟨wt.putS 380 65#32, rfl, by decide +kernel, by decide +kernel⟩,
   ⟨wt.putS 380 64#32, rfl, by decide +kernel, by decide +kernel, by decide +kernel, by decide +kernel, by decide +kernel⟩,
   ⟨{ wa (wt.putS 380 1#32) with parts := [(0, { placePart with csr := [(0x4884, 0#32)] })] }, wt.putS 380 1#32, { placePart with csr := [(0x4884, 0#32)] }, rfl, rfl, rfl, rfl,
     by decide +kernel, by decide +kernel, by decide +kernel⟩,
   ⟨wt.putS 380 1#32, rfl, by decide +kernel, by decide +kernel, rfl, by decide +kernel⟩,
   ⟨wt.putS 380 1#32, by and_intros; all_goals first | decide +kernel | rfl | exact ⟨[24], by decide +kernel⟩⟩, ⟨wt.putS 380 2#32, rfl, by decide +kernel⟩, ⟨wt.putS 380 4#32, rfl, by decide +kernel⟩,
   ⟨{ placeWeave with binds := [(0, ⟨false, 0⟩)] }, { wa wt with weaves := [(1, { placeWeave with binds := [(0, ⟨false, 0⟩)] })] }, rfl, rfl, by decide +kernel⟩⟩

/-- DETACH at the minimum and above it; a departure with everything drained, with a clasp bound. -/
theorem test_witness_DetachIsRefusedOrLeavesEveryClasp :
    ((ws wt).strand? 0 = some wt ∧ (ws wt).weave? wt.weave = some placeWeave ∧ (ws wt).cur = 0 ∧ memberCount (ws wt) wt.weave ≤ placeWeave.wmin) ∧
    (∃ w : Weave, ({ ws wt with weaves := [(1, w)] } : State).weave? wt.weave = some w ∧ w.wmin < memberCount { ws wt with weaves := [(1, w)] } wt.weave ∧
      wt.tx = none ∧ wt.mx.opened = 0 ∧ wt.mx.q = [] ∧ wt.mx.quad = 0) ∧
    (∃ t : Strand, (wc t [] ⟨true, false, false⟩ []).strand? 0 = some t ∧ t.leave ≠ .no ∧ t.ops = [] ∧ t.held = [] ∧ (∀ a ∈ (wwv [] ⟨true, false, false⟩ []).helds, a.widx ≠ t.widx) ∧ t.tr.on = false ∧
      ((wwv [] ⟨true, false, false⟩ []).binds.map (·.1)).Nodup ∧ (wc t [] ⟨true, false, false⟩ []).claspPlace t (wwv [] ⟨true, false, false⟩ []) ⟨false, 0⟩ = some (.scr 1 0) ∧
      still (wc t [] ⟨true, false, false⟩ []) t (wwv [] ⟨true, false, false⟩ []) ⟨false, 0⟩ (.scr 1 0)) :=
  ⟨⟨rfl, rfl, rfl, by decide +kernel⟩, ⟨{ placeWeave with wmin := 0 }, rfl, by decide +kernel, rfl, rfl, rfl, rfl⟩,
   ⟨{ wt with leave := .detach }, rfl, by decide, rfl, rfl, nofun, rfl, by decide, rfl, wc_still _ _ _ _ rfl⟩⟩

/-- WHO of a member and of no member; GROW past the ceiling, granted, and blocked. -/
theorem test_witness_MembershipReportsAnswerFromTheWeave : (ws wt).runs wt ∧ (ws wt).weave? wt.weave = some placeWeave ∧ (ws wt).part? wt.part = some placePart ∧
    (∃ t : Strand, ∀ e ∈ (ws t).strands, e.2.widx ≠ (t.getS 383).toNat) ∧ (∀ e ∈ (ws wt).strands, e.2.widx = (wt.getS 0).toNat) ∧
    (∃ t : Strand, (ws t).runs t ∧ pastCeiling (ws t) t placeWeave placePart (t.getS 0).toNat) ∧
    (∃ (t : Strand) (p : Part), ({ wa t with parts := [(0, p)] } : State).runs t ∧ ¬ pastCeiling { wa t with parts := [(0, p)] } t placeWeave p (t.getS 0).toNat ∧
      growFits { wa t with parts := [(0, p)] } placeWeave 0 (t.getS 0).toNat = true) ∧
    (∃ (t : Strand) (p : Part), ({ ws t with parts := [(0, p)] } : State).runs t ∧ ¬ pastCeiling { ws t with parts := [(0, p)] } t placeWeave p (t.getS 0).toNat ∧
      growFits { ws t with parts := [(0, p)] } placeWeave 0 (t.getS 0).toNat = false) :=
  ⟨rfl, rfl, rfl, ⟨wt.putS 383 1#32, by decide +kernel⟩, by decide +kernel, ⟨wt.putS 0 64#32, rfl, by unfold pastCeiling; decide +kernel⟩,
   ⟨wt.putS 0 1#32, placePart, rfl, by unfold pastCeiling; decide +kernel, by decide +kernel⟩,
   ⟨wt.putS 0 1#32, placePart, rfl, by unfold pastCeiling; decide +kernel, by decide +kernel⟩⟩

/-- A strand blocked in GROW s0, 0 whose slots fit, and the same where every strand of its core waits and none fit. -/
def Sys2Proof.Tests.wg : Strand := { wt.putS 0 1#32 with wait := .grow }
def Sys2Proof.Tests.wgs (creg : Nat) : State :=
  { wa wg with mem := State.writeBytes (placeTables []) 0x5104 (bytesOf 0xC8400000 4), bolts := [(1, { placeBolt with desc := { wd with creg := creg } })] }
theorem test_witness_PendingGrowIsGrantedOrDeniedForTheWholeCore : ([0, 16] : List Nat).Forall (fun creg => (wgs creg).strand? 0 = some wg ∧ growBlocked wg = true ∧
      growItem (wgs creg) wg = some (0, 0) ∧ (wgs creg).weave? wg.weave = some placeWeave ∧ (wgs creg).part? wg.part = some placePart ∧
      ¬ pastCeiling (wgs creg) wg placeWeave placePart (wg.getS 0).toNat ∧
      (∀ e ∈ (wgs creg).strands, e.1 < ccBase → e.2.core = wg.core → growBlocked e.2 = true)) ∧
    growFits (wgs 0) placeWeave 0 (wg.getS 0).toNat = false ∧ growFits (wgs 16) placeWeave 0 (wg.getS 0).toNat = true :=
  ⟨⟨⟨rfl, rfl, by decide +kernel, rfl, rfl, by unfold pastCeiling; decide +kernel, by decide +kernel⟩,
    ⟨rfl, rfl, by decide +kernel, rfl, rfl, by unfold pastCeiling; decide +kernel, by decide +kernel⟩⟩, by decide +kernel, by decide +kernel⟩

/-- Lanes 0 and 127 active, at 0x40 and at 0x3F0 of the page. -/
def Sys2Proof.Tests.wln : Strand :=
  { wt with v := [(2, 0x40#32 :: (List.replicate 126 0#32 ++ [0x3F0#32]))], exec := 1#128 ||| (1#128 <<< 127), live := BitVec.allOnes 128 }
/-- Every lane's check passes. -/
theorem Sys2Proof.Tests.wln_pass (f : LaneF) (n : Nat) (rd wr : Bool)
    (h0 : (ws wln).watchHit wln { lane := 0, va := globalAddr wln f 0, size := n, rd := rd, wr := wr } = none)
    (h1 : (ws wln).watchHit wln { lane := 127, va := globalAddr wln f 127, size := n, rd := rd, wr := wr } = none)
    (c0 : (ws wln).checkAcc 0 wln { lane := 0, va := globalAddr wln f 0, size := n, rd := rd, wr := wr } true = .ok we)
    (c1 : (ws wln).checkAcc 0 wln { lane := 127, va := globalAddr wln f 127, size := n, rd := rd, wr := wr } true = .ok we) :
    ∀ l, l < 128 → wln.exec.getLsbD l = true →
      passes (ws wln) wln (laneAcc wln f n rd wr l) we := by
  intro l hl ha
  have : l = 0 ∨ l = 127 := lanes (P := fun l => wln.exec.getLsbD l = true → l = 0 ∨ l = 127) (by decide +kernel) l hl ha
  rcases this with rfl | rfl
  · exact ⟨h0, c0⟩
  · exact ⟨h1, c1⟩
theorem Sys2Proof.Tests.wln_quiet (f : LaneF) (n : Nat) (wr : Bool)
    (h : ∀ l, l < 128 → wln.exec.getLsbD l = true → globalAddr wln f l < 0xF00) :
    lanesQuiet (ws wln) wln f n wr (fun _ => we) := by
  refine ⟨rfl, ?_, fun _ => rfl, rfl, ws_roomy _ _ rfl (by decide), fun l hl ha => ?_⟩
  · intro k x hx
    have : ((ws wln).core k).l1 = [] := by
      show (AMap.get [(0, wcore)] k State.coreDefault).l1 = []
      simp only [AMap.get, AMap.look]; split <;> rfl
    rw [this] at hx; exact nomatch hx
  · have hv : globalAddr wln f l < 0xF00 := h l hl ha
    have hk : State.tlbKey wln.part wln.ctx (globalAddr wln f l) = 0 := by
      show State.tlbKey 0 0 (globalAddr wln f l) = 0
      unfold State.tlbKey; omega
    refine ⟨ws_quiet _ _ _ rfl hk, ?_, ?_⟩
    · intro i hi; simp [State.readPoison, State.nearPoison, ws, we, State.isPoison, State.reset, State.atHome]
    · left
      show decide (2 ^ 51 ≤ 0x5000 + globalAddr wln f l % 4096) = false
      simp only [decide_eq_false_iff_not]; omega

/-- The active lanes are 0 and 127. -/
theorem Sys2Proof.Tests.wln_lanes {P : Nat → Prop} (h0 : P 0) (h1 : P 127) : ∀ l, l < 128 → wln.exec.getLsbD l = true → P l := by
  intro l hl ha
  rcases lanes (P := fun l => wln.exec.getLsbD l = true → l = 0 ∨ l = 127) (by decide +kernel) l hl ha with rfl | rfl
  · exact h0
  · exact h1

/-- LD.b128 into the last registers of the budget, pinned, in two lanes. -/
theorem test_witness_LdLandsEachActiveLanesValue : (ws wln).runs wln ∧ (Instr.ld ⟨124, 2, 0, 95, 0, 1, 0, 0, 6, 0x10, 0⟩).wf = true ∧
    laneRuns wln ⟨124, 2, 0, 95, 0, 1, 0, 0, 6, 0x10, 0⟩ (regsFrom 124 (regsOfSize 6) ++ addrRegs ⟨124, 2, 0, 95, 0, 1, 0, 0, 6, 0x10, 0⟩) false ∧
    lanesPass (ws wln) wln ⟨124, 2, 0, 95, 0, 1, 0, 0, 6, 0x10, 0⟩ .ld 16 true false 0 0 (fun _ => we) ∧
    lanesQuiet (ws wln) wln ⟨124, 2, 0, 95, 0, 1, 0, 0, 6, 0x10, 0⟩ 16 false (fun _ => we) :=
  ⟨rfl, by decide +kernel, ⟨by decide +kernel, by decide +kernel, nofun⟩,
   ⟨rfl, by unfold issues; decide +kernel, wln_pass _ _ _ _ (by decide +kernel) (by decide +kernel) (okOf (by decide +kernel)) (okOf (by decide +kernel))⟩,
   wln_quiet _ _ _ (wln_lanes (by decide +kernel) (by decide +kernel))⟩

/-- ST.b128.rel.dev from the last registers of the budget. -/
theorem test_witness_StStoresEachActiveLanesGroup : (ws wln).runs wln ∧ (Instr.st ⟨0, 2, 0, 124, 0, 0, 0, 0, 0x16, 4, 0⟩).wf = true ∧
    laneRuns wln ⟨0, 2, 0, 124, 0, 0, 0, 0, 0x16, 4, 0⟩ (regsFrom 124 (regsOfSize 6) ++ addrRegs ⟨0, 2, 0, 124, 0, 0, 0, 0, 0x16, 4, 0⟩) false ∧
    lanesPass (ws wln) wln ⟨0, 2, 0, 124, 0, 0, 0, 0, 0x16, 4, 0⟩ .st 16 false true 4 0 (fun _ => we) ∧
    lanesQuiet (ws wln) wln ⟨0, 2, 0, 124, 0, 0, 0, 0, 0x16, 4, 0⟩ 16 true (fun _ => we) ∧
    (∀ m, 127 < m → m < 128 → wln.exec.getLsbD m = true → lanePa wln ⟨0, 2, 0, 124, 0, 0, 0, 0, 0x16, 4, 0⟩ (fun _ => we) m + 16 ≤ 0) :=
  ⟨rfl, by decide +kernel, ⟨by decide +kernel, by decide +kernel, nofun⟩,
   ⟨rfl, by unfold issues; decide +kernel, wln_pass _ _ _ _ (by decide +kernel) (by decide +kernel) (okOf (by decide +kernel)) (okOf (by decide +kernel))⟩,
   wln_quiet _ _ _ (wln_lanes (by decide +kernel) (by decide +kernel)), fun _ _ _ => by omega⟩

/-- ATOM.cas64 and RED.fadd in two lanes that do not meet. -/
theorem test_witness_AtomAndRedApplyTheirOperationInEachLane :
    (laneRuns wln ⟨126, 2, 0, 124, 0, 0, 0, 0, 15, 0, 0⟩ (addrRegs ⟨126, 2, 0, 124, 0, 0, 0, 0, 15, 0, 0⟩) false ∧
      (Instr.atom ⟨126, 2, 0, 124, 0, 0, 0, 0, 15, 0, 0⟩).wf = true ∧ (∀ r ∈ regsFrom 126 (opcRegs 15) ++ regsFrom 124 (operandRegs 15), r < wln.budget) ∧
      lanesPass (ws wln) wln ⟨126, 2, 0, 124, 0, 0, 0, 0, 15, 0, 0⟩ .atm 8 true true 0 0 (fun _ => we) ∧
      lanesQuiet (ws wln) wln ⟨126, 2, 0, 124, 0, 0, 0, 0, 15, 0, 0⟩ 8 true (fun _ => we) ∧
      (∀ l, l < 128 → wln.exec.getLsbD l = true → alone wln (lanePa wln ⟨126, 2, 0, 124, 0, 0, 0, 0, 15, 0, 0⟩ (fun _ => we)) 8 l ∧
        scCold (ws wln) wln ⟨126, 2, 0, 124, 0, 0, 0, 0, 15, 0, 0⟩ (fun _ => we) l)) ∧
    (laneRuns wln ⟨0, 2, 0, 127, 0, 0, 0, 0, 0x2A, 5, 8⟩ (addrRegs ⟨0, 2, 0, 127, 0, 0, 0, 0, 0x2A, 5, 8⟩) false ∧
      (Instr.red ⟨0, 2, 0, 127, 0, 0, 0, 0, 0x2A, 5, 8⟩).wf = true ∧ (∀ r ∈ regsFrom 127 (operandRegs 10), r < wln.budget) ∧
      lanesPass (ws wln) wln ⟨0, 2, 0, 127, 0, 0, 0, 0, 0x2A, 5, 8⟩ .st 4 true true 5 0 (fun _ => we) ∧
      lanesQuiet (ws wln) wln ⟨0, 2, 0, 127, 0, 0, 0, 0, 0x2A, 5, 8⟩ 4 true (fun _ => we) ∧
      (∀ l, l < 128 → wln.exec.getLsbD l = true → alone wln (lanePa wln ⟨0, 2, 0, 127, 0, 0, 0, 0, 0x2A, 5, 8⟩ (fun _ => we)) 4 l ∧
        ∀ i, i < 4 → (ws wln).isPoison (lanePa wln ⟨0, 2, 0, 127, 0, 0, 0, 0, 0x2A, 5, 8⟩ (fun _ => we) l + i) = false)) :=
  ⟨⟨⟨by decide +kernel, by decide +kernel, nofun⟩, by decide +kernel, by decide +kernel,
    ⟨rfl, by unfold issues; decide +kernel, wln_pass _ _ _ _ (by decide +kernel) (by decide +kernel) (okOf (by decide +kernel)) (okOf (by decide +kernel))⟩,
    wln_quiet _ _ _ (wln_lanes (by decide +kernel) (by decide +kernel)),
    wln_lanes ⟨wln_lanes (fun h => absurd rfl h) (fun _ => by decide +kernel), nofun⟩ ⟨wln_lanes (fun _ => by decide +kernel) (fun h => absurd rfl h), nofun⟩⟩,
   ⟨by decide +kernel, by decide +kernel, nofun⟩, by decide +kernel, by decide +kernel,
    ⟨rfl, by unfold issues; decide +kernel, wln_pass _ _ _ _ (by decide +kernel) (by decide +kernel) (okOf (by decide +kernel)) (okOf (by decide +kernel))⟩,
    wln_quiet _ _ _ (wln_lanes (by decide +kernel) (by decide +kernel)),
    wln_lanes ⟨wln_lanes (fun h => absurd rfl h) (fun _ => by decide +kernel), fun _ _ => rfl⟩
      ⟨wln_lanes (fun _ => by decide +kernel) (fun h => absurd rfl h), fun _ _ => rfl⟩⟩

/-- PREF with and without the pin bit. -/
theorem test_witness_PrefChangesNoRegisterAndNoByte :
    let g : LaneF := ⟨95, 2, 0, 0, 0, 0, 0, 0, 1, 0x18, 0⟩
    (ws wln).runs wln ∧ laneRuns wln g (addrRegs g) false ∧ issues (ws wln) wln .ld (prefAccs g wln (ws wln)) 0 0 ∧
    (∀ l, l < 128 → wln.exec.getLsbD l = true → quiet (ws wln) wln (globalAddr wln g l) false) ∧ (∀ c, ((ws wln).clu c).comb = []) ∧
    roomy (ws wln) wln.core 128 ∧ (Instr.pref g).wf = true ∧ (Instr.pref ⟨0, 2, 0, 0, 0, 0, 0, 0, 0, 0, 0⟩).wf = true ∧ g.mod.testBit 4 = true :=
  ⟨rfl, ⟨by decide +kernel, by decide +kernel, nofun⟩, by unfold issues; decide +kernel,
   wln_lanes (ws_quiet _ _ _ rfl (by decide +kernel)) (ws_quiet _ _ _ rfl (by decide +kernel)), fun _ => rfl, ws_roomy _ _ rfl (by decide), by decide +kernel⟩

/-- Scratch accesses of 16 bytes and a 64-bit compare and swap, in two lanes that do not meet. -/
theorem test_witness_ScratchAccessesReadAndWriteTheWeavesRegion : (ws wln).runs wln ∧ (ws wln).weave? wln.weave = some placeWeave ∧ placeWeave.scrPoison = [] ∧
    ((ws wln).core placeWeave.home).stash = [] ∧ ((ws wln).core wln.core).stash = [] ∧ ((ws wln).core wln.core).l1 = [] ∧ (∀ c, ((ws wln).clu c).comb = []) ∧ (ws wln).slice = [] ∧
    laneRuns wln ⟨124, 2, 0, 0, 0, 0, 0, 0, 6, 0, 0⟩ [2] false ∧ ([0, 4, 5] : List Nat).Forall (fun sc => issues (ws wln) wln .sc [] sc sc ∧ issues (ws wln) wln .atm [] sc sc) ∧
    (∀ l, l < 128 → wln.exec.getLsbD l = true → localAddr wln ⟨124, 2, 0, 0, 0, 0, 0, 0, 6, 0, 0⟩ l % 16 = 0 ∧
      localAddr wln ⟨124, 2, 0, 0, 0, 0, 0, 0, 6, 0, 0⟩ l + 16 ≤ placeWeave.scrLen) ∧
    (Instr.ldsc ⟨124, 2, 0, 0, 0, 0, 0, 0, 6, 0, 0⟩).wf = true ∧ (∀ r ∈ regsFrom 124 4, r < wln.budget) ∧
    (Instr.stsc ⟨0, 2, 0, 124, 0, 0, 0, 0, 6, 0, 0⟩).wf = true ∧
    alone wln (localAddr wln ⟨0, 2, 0, 124, 0, 0, 0, 0, 6, 0, 0⟩) 16 127 ∧
    (Instr.atomsc ⟨126, 2, 0, 124, 0, 0, 0, 0, 15, 0, 0⟩).wf = true ∧ (∀ r ∈ regsFrom 126 2 ++ regsFrom 124 4, r < wln.budget) ∧
    alone wln (localAddr wln ⟨126, 2, 0, 124, 0, 0, 0, 0, 15, 0, 0⟩) 8 0 ∧ alone wln (localAddr wln ⟨126, 2, 0, 124, 0, 0, 0, 0, 15, 0, 0⟩) 8 127 :=
  ⟨rfl, rfl, rfl, rfl, rfl, rfl, fun _ => rfl, rfl, ⟨by decide +kernel, by decide +kernel, nofun⟩, by unfold issues; decide +kernel,
   wln_lanes (by decide +kernel) (by decide +kernel), by decide +kernel, by decide +kernel, by decide +kernel,
   wln_lanes (fun _ => by decide +kernel) (fun h => absurd rfl h), by decide +kernel, by decide +kernel,
   wln_lanes (fun h => absurd rfl h) (fun _ => by decide +kernel), wln_lanes (fun _ => by decide +kernel) (fun h => absurd rfl h)⟩

/-- Window accesses of words of the strand's own registers 0 and 1. -/
theorem test_witness_WindowAccessesReachTheRegistersOfTheWeave : (ws wln).runs wln ∧ laneRuns wln ⟨127, 2, 0, 0, 0, 0, 0, 0, 4, 0, 0⟩ [2] false ∧ ([0, 5] : List Nat).Forall (fun sc => issues (ws wln) wln .sc [] sc sc) ∧ (ws wln).slice = [] ∧
    (ws wln).late = false ∧ (∀ e ∈ (ws wln).strands, e.2.bad = []) ∧
    (∀ l, l < 128 → wln.exec.getLsbD l = true → localAddr wln ⟨127, 2, 0, 0, 0, 0, 0, 0, 4, 0, 0⟩ l % bytesOfSize 4 = 0 ∧
      (ws wln).winTarget wln (localAddr wln ⟨127, 2, 0, 0, 0, 0, 0, 0, 4, 0, 0⟩ l) = .ok (if l = 0 then (0, 0, 0x10) else (0, 1, 0x7C))) ∧
    (Instr.ldwn ⟨127, 2, 0, 0, 0, 0, 0, 0, 4, 0, 0⟩).wf = true ∧ 127 < wln.budget ∧ (Instr.stwn ⟨0, 2, 0, 127, 0, 0, 0, 0, 4, 0, 0⟩).wf = true ∧
    ((0, 0, 0x10) : Nat × Nat × Nat) ≠ (0, 1, 0x7C) :=
  ⟨rfl, ⟨by decide +kernel, by decide +kernel, nofun⟩, by unfold issues; decide +kernel, rfl, rfl, by decide +kernel,
   wln_lanes ⟨by decide +kernel, okOf (by decide +kernel)⟩ ⟨by decide +kernel, okOf (by decide +kernel)⟩, by decide +kernel, by decide, by decide +kernel, by decide⟩
end

/-! ### Witnesses: matrix, shuttle, transactions and launch -/
section
set_option Elab.async false
open Sys2Proof Sys2Proof.Machine Sys2Proof.Tests Sys2Proof.Rules

/-- No sector stands in an L1. -/
theorem Sys2Proof.Tests.ws_l1 (t : Strand) (k : Nat) : ((ws t).core k).l1 = [] := by
  show (AMap.get [(0, wcore)] k State.coreDefault).l1 = []
  simp only [AMap.get, AMap.look]; split <;> rfl
theorem Sys2Proof.Tests.none_dirty {l : AMap Sector} (h : l = []) : ∀ x ∈ l, x.2.dirty = 0#16 := by
  subst h; exact fun _ hx => nomatch hx
/-- Every access of a list passes under one translation. -/
theorem Sys2Proof.Tests.passes_all {s : State} {t : Strand} {e : Tlb} {l : List Acc}
    (h : l.all (fun a => decide (s.watchHit t a = none) && (match s.checkAcc s.cur t a true with | .ok y => decide (y = e) | .error _ => false)) = true) :
    ∀ a ∈ l, passes s t a e := by
  intro a ha
  have := List.all_eq_true.1 h a ha
  rw [Bool.and_eq_true] at this
  refine ⟨of_decide_eq_true this.1, ?_⟩
  have h2 := this.2
  cases hc : s.checkAcc s.cur t a true with
  | ok y => rw [hc] at h2; exact congrArg _ (of_decide_eq_true h2)
  | error _ => rw [hc] at h2; cases h2

/-- Member i of quad 5 under INT8, with the operations q in its matrix order. -/
def Sys2Proof.Tests.wm (i : Nat) (q : List MxOp) : Strand :=
  { wt with sid := i, widx := i, slot := 24 * i, role := 1, fmt := 0x82D#32, mx := { quad := 5, batch := 0, opened := 0, counts := [], q := q, mopf := 0, dis := [], old := [], save := [] } }
def Sys2Proof.Tests.wq (q : List MxOp) : State :=
  { ws wt with strands := [(0, wm 0 q), (24, wm 1 q), (48, wm 2 q), (72, wm 3 q)] }
/-- An MMA of rows v32 on, columns v48, accumulators v0 to v31. -/
def Sys2Proof.Tests.wf0 : LaneF := ⟨0, 32, 48, 0, 0, 0, 0, 0, 0, 0, 0⟩
def Sys2Proof.Tests.wpf (fmt : Word) : Posted := ⟨wf0, fmt, 0#32, 1#128, 0, 0, 0#64, 0, []⟩
def Sys2Proof.Tests.wp : Posted := wpf 0x82D#32
/-- The quad, each member with that operation posted under FMT. -/
def Sys2Proof.Tests.wms (fmt : Word) : List (Nat × Strand × Posted) :=
  (List.range 4).map (fun i => (24 * i, wm i [.mma (wpf fmt)], wpf fmt))

/-- MMA that posts, one with EXEC zero, one with a bad FMT, and one with two already posted. -/
theorem test_witness_MmaPostsItsOperationInItsBatch : ((wq []).runs (wm 0 []) ∧ (wq [.mma wp, .mma wp]).runs (wm 0 [.mma wp, .mma wp])) ∧
    ((Instr.mma wf0).wf = true ∧ (wm 0 []).suppressed wf0 = false ∧ mmaIllegal (wm 0 []) wf0 = false ∧ mmaFormat (wm 0 []) wf0 = false ∧
      wf0.vb < (wm 0 []).budget ∧ (∀ r ∈ regsFrom wf0.vd 32 ++ regsFrom wf0.va 16 ++ [wf0.vb], r < (wm 0 []).budget) ∧
      mmaLayout ((wq []).scrLen (wm 0 []).weave) (wm 0 []) wf0 = none ∧ (mmasOf (wm 0 [])).length < 2 ∧ mopfClear (wm 0 []) = true ∧
      mmaQuad (wq []) (wq []).cur (wm 0 []) wf0 = none) ∧
    (∃ t : Strand, (ws t).runs t ∧ t.suppressed wf0 = false ∧ t.exec = 0#128 ∧ t.mx.quad ≠ 0 ∧ (mmasOf t).length < 2 ∧ mopfClear t = true) ∧
    (mmaIllegal { wm 0 [] with fmt := 7#32 } wf0 = false ∧ mmaFormat { wm 0 [] with fmt := 7#32 } wf0 = true) ∧
    2 ≤ (mmasOf (wm 0 [.mma wp, .mma wp])).length :=
  ⟨⟨rfl, rfl⟩, by decide +kernel, ⟨{ wm 0 [] with exec := 0#128 }, rfl, by decide +kernel⟩, by decide +kernel, by decide +kernel⟩

/-- Four members that have posted, of each class, with and without scales. -/
theorem test_witness_MmaMeetAddsTheProductsInEveryMember :
    ([(0, 0x8000#32), (1, 0x4012#32), (2, 0x82D#32), (2, 0x482D#32), (3, 0x4024#32)] : List (Nat × Word)).Forall (fun c =>
      (wq [.mma (wpf c.2)]).strand? 0 = some (wm 0 [.mma (wpf c.2)]) ∧ (wm 0 [.mma (wpf c.2)]).mx.quad = 5 ∧
      headPos (wm 0 [.mma (wpf c.2)]) = ((wms c.2).head?.map (fun x => (x.2.2.batch, x.2.2.pos))) ∧
      oneClassQuad (wq [.mma (wpf c.2)]) c.1 (wms c.2) 5) := by
  refine ⟨?_, ?_, ?_, ?_, ?_⟩
  all_goals
    refine ⟨rfl, rfl, rfl, rfl, by decide, rfl, by decide, fun m hm => ?_⟩
    simp only [wms, List.range_succ, List.range_zero, List.nil_append, List.map_append, List.map_cons, List.map_nil, List.mem_append, List.mem_singleton] at hm
    rcases hm with ((rfl | rfl) | rfl) | rfl
    all_goals exact ⟨rfl, rfl, rfl, by decide +kernel, by decide +kernel, fun w hw => by cases Option.some.inj hw; exact ⟨rfl, rfl⟩, rfl⟩

/-- MBATCH of a member that is behind, and of one that is not; MZERO alone and behind an MMA; a batch done and not. -/
theorem test_witness_MopfMbatchMzeroAndBatchRetireKeepMatrixOrder : (Instr.mopf ⟨0, 0, 0, 0, 0, 0, 0, 0, 0, 0, 0⟩).wf = true ∧
    (Instr.mbatch ⟨0, 0, 0, 0, 0, 1, 0, 0, 0, 0, 0⟩).wf = true ∧ (Instr.mzero ⟨96, 0, 0, 0, 0, 0, 0, 0, 0, 0, 0⟩).wf = true ∧
    (∃ s : State, s.runs (wm 0 []) ∧ ∃ e ∈ s.quadOf (wm 0 []).mx.quad, e.1 ≠ s.cur ∧ mmaCount (wm 0 []) 0 < mmaCount e.2 0) ∧
    ((wq []).runs (wm 0 []) ∧ (∀ e ∈ (wq []).quadOf (wm 0 []).mx.quad, e.1 ≠ (wq []).cur → mmaCount e.2 (wm 0 []).mx.batch ≤ mmaCount (wm 0 []) (wm 0 []).mx.batch) ∧
      (wm 0 []).count .mx < 1023 ∧ (∀ x ∈ (wm 0 []).mx.dis, x.1 ≠ (wm 0 []).mx.batch)) ∧
    (∀ r ∈ regsFrom 96 32, r < (wm 0 []).budget) ∧ mopfClear (wm 0 []) = true ∧ (wm 0 []).mx.q = [] ∧ (wm 0 [.mma wp]).mx.q = .mma wp :: [] ∧
    ([[], [.mma wp]] : List (List MxOp)).Forall (fun q => ∃ (t : Strand) (o : Op), (ws t).runs t ∧ t.mx.q = q ∧
      t.ops.find? (fun x => x.path == .mx) = some o ∧ o.batch = some 0 ∧ o.err = none ∧ o.lands = [] ∧ t.pend = none ∧ (t.ops.map (·.id)).Nodup ∧
      batchDone t 0 = q.isEmpty) :=
  ⟨by decide +kernel, by decide +kernel, by decide +kernel,
   ⟨{ wq [] with strands := [(0, wm 0 []), (24, { wm 1 [] with mx := { (wm 1 []).mx with counts := [(0, 1)] } })] }, rfl,
     (24, { wm 1 [] with mx := { (wm 1 []).mx with counts := [(0, 1)] } }), List.mem_cons_of_mem _ (List.mem_cons_self ..), by decide +kernel, by decide +kernel⟩,
   ⟨rfl, by decide +kernel⟩, by decide +kernel, by decide +kernel, rfl, rfl,
   ⟨{ wm 0 [] with ops := [{ wo 0 .mx none [] with batch := some 0 }] }, { wo 0 .mx none [] with batch := some 0 }, rfl, rfl, rfl, rfl, rfl, rfl, rfl,
     by decide, by decide +kernel⟩,
   ⟨{ wm 0 [.mma wp] with ops := [{ wo 0 .mx none [] with batch := some 0 }] }, { wo 0 .mx none [] with batch := some 0 }, rfl, rfl, rfl, rfl, rfl, rfl,
     rfl, by decide, by decide +kernel⟩⟩

/-- MSTORE of 32 columns with MX scales in two lanes, to the page and to scratch. -/
theorem test_witness_MstoreStoresEachActiveLanesRow :
    let g : LaneF := ⟨0, 64, 0, 2, 0, 0, 0, 0, 0x13, 0, 0x3E0000⟩
    let h : LaneF := ⟨0, 96, 0, 2, 0, 0, 0, 0, 0x93, 0, 0x3E0000⟩
    (ws wln).runs wln ∧ (Instr.mstore g).wf = true ∧ (Instr.mstore h).wf = true ∧ wln.fmtBad = false ∧ (wln.accFmt = 1 → msSc g = 0) ∧ msAmax g = false ∧
    msAmax h = false ∧ issues (ws wln) wln .st ((rowPieces wln g).map (fun a => (a, we))) 0 0 ∧ issues (ws wln) wln .st [] 0 0 ∧
    (∀ l, l < 128 → wln.exec.getLsbD l = true → ∀ a ∈ msPieces h l (msAddr wln h l), (ws wln).stashWaits (ws wln).cur wln.weave a.va = false) ∧ wln.tx = none ∧ (ws wln).weave? wln.weave = some placeWeave ∧
    (∀ r ∈ regsFrom g.va (msNc g) ++ [g.vc], r < wln.budget) ∧ (∀ r ∈ regsFrom h.va (msNc h) ++ [h.vc], r < wln.budget) ∧ msScr g = false ∧ g.vc + 1 < wln.budget ∧
    (∀ a ∈ rowPieces wln g, passes (ws wln) wln a we) ∧
    (∀ a ∈ rowPieces wln g, quiet (ws wln) wln a.va true ∧ reachable (ws wln) (State.physOf we a.va)) ∧ we.coh = 0 ∧ roomy (ws wln) wln.core 256 ∧ msScr h = true ∧
    (∀ l, l < 128 → wln.exec.getLsbD l = true → msAddr wln h l % 4 = 0 ∧ msAddr wln h l + msBytes h ≤ placeWeave.scrLen) ∧
    ((ws wln).core placeWeave.home).stash = [] ∧ alone wln (msAddr wln h) (msBytes h) 0 :=
  ⟨rfl, by decide +kernel, by decide +kernel, by decide +kernel, by decide +kernel, by decide +kernel, by decide +kernel, by unfold issues; decide +kernel,
   by unfold issues; decide +kernel, wln_lanes (by decide +kernel) (by decide +kernel), rfl, rfl,
   by decide +kernel, by decide +kernel, by decide +kernel, by decide +kernel, passes_all (by decide +kernel),
   fun a ha => ⟨ws_quiet _ _ _ rfl (by
       have := List.all_eq_true.1 (by decide +kernel : (rowPieces wln ⟨0, 64, 0, 2, 0, 0, 0, 0, 0x13, 0, 0x3E0000⟩).all (fun a =>
         State.tlbKey wln.part wln.ctx a.va == 0) = true) a ha
       exact eq_of_beq this), .inl (by
       have := List.all_eq_true.1 (by decide +kernel : (rowPieces wln ⟨0, 64, 0, 2, 0, 0, 0, 0, 0x13, 0, 0x3E0000⟩).all (fun a =>
         !isSys (State.physOf we a.va)) = true) a ha
       simpa using this)⟩, rfl, ws_roomy _ _ rfl (by decide),
   by decide +kernel, wln_lanes (by decide +kernel) (by decide +kernel), rfl,
   wln_lanes (fun h => absurd rfl h) (fun _ => by decide +kernel)⟩

/-- A strand whose shape quad S0 to S3 and global quad S4 to S7 name one chunk at scratch b and global address a. -/
def Sys2Proof.Tests.wsh (b a : Word) (ce : Bool) : Strand :=
  { wt with s := [(0, b), (3, if ce then 0x10010101#32 else 0x10101#32), (4, a)] }
/-- A machine whose page is SC. -/
def Sys2Proof.Tests.wsc (t : Strand) : State := { ws t with cores := [(0, { wcore with tlb := [(0, { we with coh := 1 })] })] }

/-- A reserved shape bit, a misaligned base, a box past the region, an unbound clasp, and one that issues; STASH of an HC page,
of an SC one, and past the region; UNSTASH. -/
theorem test_witness_ShuttleCommandsIssueOneOperation : wt.count .sh < 1023 ∧ (Instr.shtGather 0 4 1).wf = true ∧ boxCommand (.shtGather 0 4 1) = some (2, 0, 4, 1) ∧
    shapeBad 2 (quadOfRegs (wsh 0x4000000#32 0#32 false) 0) = true ∧
    (shapeBad 2 (quadOfRegs (wsh 8#32 0#32 false) 0) = false ∧ boxAlign 2 (boxOf (quadOfRegs (wsh 8#32 0#32 false) 0) (quadOfRegs (wsh 8#32 0#32 false) 4)) = some 8) ∧
    (shapeBad 2 (quadOfRegs (wsh 0xFFF0#32 0#32 false) 0) = false ∧ boxAlign 2 (boxOf (quadOfRegs (wsh 0xFFF0#32 0#32 false) 0) (quadOfRegs (wsh 0xFFF0#32 0#32 false) 4)) = none ∧
      boxBound 2 ((ws wt).scrLen wt.weave) (boxOf (quadOfRegs (wsh 0xFFF0#32 0#32 false) 0) (quadOfRegs (wsh 0xFFF0#32 0#32 false) 4)) = some 0xFFF0) ∧
    (∀ ce, (boxOf (quadOfRegs (wsh 0xFF0#32 0#32 ce) 0) (quadOfRegs (wsh 0xFF0#32 0#32 ce) 4)).ce = ce ∧ shapeBad 2 (quadOfRegs (wsh 0xFF0#32 0#32 ce) 0) = false ∧
      boxAlign 2 (boxOf (quadOfRegs (wsh 0xFF0#32 0#32 ce) 0) (quadOfRegs (wsh 0xFF0#32 0#32 ce) 4)) = none ∧
      boxBound 2 ((ws wt).scrLen wt.weave) (boxOf (quadOfRegs (wsh 0xFF0#32 0#32 ce) 0) (quadOfRegs (wsh 0xFF0#32 0#32 ce) 4)) = none) ∧
    AMap.look placeWeave.binds 0 = none ∧ AMap.look (wwv [] ⟨false, false, false⟩ []).binds 0 ≠ none ∧
    (Instr.shtStash 383 382 0).wf = true ∧ (wt.getS 383).toNat % 4096 = 0 ∧ (wt.getPair 382).toNat % 4096 = 0 ∧ (wt.getS 383).toNat + 4096 ≤ (ws wt).scrLen wt.weave ∧
    (((wt.putS 383 0xF000000#32).getS 383).toNat % 4096 = 0 ∧ (ws wt).scrLen wt.weave < ((wt.putS 383 0xF000000#32).getS 383).toNat + 4096) ∧
    (ws wt).xlate wt.part wt.ctx wt.core (wt.getPair 382).toNat wt.priv .read = .ok we ∧ we.coh = 0 ∧
    (wsc wt).xlate wt.part wt.ctx wt.core (wt.getPair 382).toNat wt.priv .read = .ok { we with coh := 1 } ∧ (Instr.shtUnstash 383 382 0).wf = true :=
  by
    and_intros
    all_goals decide +kernel

/-- The strand with command h in flight. -/
def Sys2Proof.Tests.wcm (h : Sht) : Strand := { wsh 0#32 0x40#32 false with ops := [{ wo 0 .sh none [] with sht := some h }] }
/-- Nothing moves around a strand of core 0. -/
theorem Sys2Proof.Tests.ws_calm (t : Strand) (ht : t.core = 0) : calm (ws t) t placeWeave :=
  ⟨by rw [ht]; rfl, rfl, fun k => none_dirty (ws_l1 t k), fun _ => rfl, rfl⟩
/-- Each kind of command in flight, its one chunk translated. -/
theorem test_witness_ShuttleCompleteMovesEveryChunk :
    let h : Nat → Sht := fun kd => ⟨kd, [0x100#32, 0#32, 0#32, 0x10101#32], [0x40#32, 0#32, 0#32, 0#32], []⟩
    ([h 0, h 1, h 2, h 5, ⟨3, [0#32, 383#32], [1#32, 0x5000#32, 0#32], []⟩, ⟨4, [0#32], [], []⟩] : List Sht).Forall (fun h =>
      (ws (wcm h)).strand? 0 = some (wcm h) ∧ (wcm h).pend = none ∧ (ws (wcm h)).weave? (wcm h).weave = some placeWeave ∧
      (wcm h).ops.find? (fun x => x.path == .sh) = some { wo 0 .sh none [] with sht := some h } ∧ ((wcm h).ops.map (·.id)).Nodup ∧
      calm (ws (wcm h)) (wcm h) placeWeave ∧ placeWeave.scrPoison = [] ∧ h.done = [] ∧
      (ws (wcm h)).chanSpent (wcm h).part (wcm h).ctx = false ∧ (ws (wcm h)).frozenAt (wcm h).part = false) ∧
    ([h 0, h 1, h 2, h 5] : List Sht).Forall (fun h => (boxOf h.x h.y).base % 16 = 0 ∧ (boxOf h.x h.y).chunks = 1) ∧
    ([h 0, h 2] : List Sht).Forall (fun h => (ws (wcm h)).xlate 0 0 0 (chunkAddr (ws (wcm h)) (wcm h) h 0) true .read = .ok we ∧
      quiet (ws (wcm h)) (wcm h) (chunkAddr (ws (wcm h)) (wcm h) h 0) false ∧
      (ws (wcm h)).serialHolds 0 (State.physOf we (chunkAddr (ws (wcm h)) (wcm h) h 0)) false = false ∧
      clean (ws (wcm h)) (wcm h) (State.physOf we (chunkAddr (ws (wcm h)) (wcm h) h 0)) 16 0) ∧
    (boxOf (h 2).x (h 2).y).idxOff 0 + 4 ≤ (boxOf (h 2).x (h 2).y).off 0 ∧
    ((ws (wcm (h 1))).xlate 0 0 0 ((boxOf (h 1).x (h 1).y).glob 0) true .write = .ok we ∧ quiet (ws (wcm (h 1))) (wcm (h 1)) ((boxOf (h 1).x (h 1).y).glob 0) true ∧
      (ws (wcm (h 1))).serialHolds 0 (State.physOf we ((boxOf (h 1).x (h 1).y).glob 0)) true = false ∧
      reachable (ws (wcm (h 1))) (State.physOf we ((boxOf (h 1).x (h 1).y).glob 0))) := by
  refine ⟨⟨?_, ?_, ?_, ?_, ?_, ?_⟩, ?_, ⟨?_, ?_⟩, by decide +kernel, okOf (by decide +kernel), ws_quiet _ _ _ rfl (by decide +kernel), by decide +kernel,
    .inl (by decide +kernel)⟩
  iterate 6 exact ⟨rfl, rfl, rfl, rfl, by decide, ws_calm _ rfl, rfl, rfl, by decide +kernel⟩
  · decide +kernel
  iterate 2 exact ⟨okOf (by decide +kernel), ws_quiet _ _ _ rfl (by decide +kernel), by decide +kernel, by unfold clean; decide +kernel⟩

/-- A transaction of strand wt, of depth d. -/
def Sys2Proof.Tests.wx (d : Nat) (ser : Bool) : Tx :=
  ⟨0x200#64, 0#32, d, 1#128, [], 0#128, [], [], [], [], ser, false, 1#128, [], 0#32, 0#8, 0#32, false⟩
/-- No transaction open, one of another strand serial; depths 6 and 7, serial and not. -/
theorem test_witness_TransactionsOpenNestAndAbortToTheirFailTarget : (ws wt).runs wt ∧ (Instr.tbegin 0xFFFF 0xFFFF).wf = true ∧ wt.tx = none ∧
    (∀ e ∈ (ws wt).strands, e.2.part = wt.part → ∀ x, e.2.tx = some x → x.serial = false) ∧
    (∃ s : State, s.runs wt ∧ ∃ e ∈ s.strands, e.2.part = wt.part ∧ ∃ x, e.2.tx = some x ∧ x.serial = true) ∧
    ([(6, true), (6, false), (7, false)] : List (Nat × Bool)).Forall (fun d => (ws { wt with tx := some (wx d.1 d.2) }).runs { wt with tx := some (wx d.1 d.2) } ∧
      (wx d.1 d.2).dead = [] ∧ (wx d.1 d.2).poisoned = false ∧ (wx d.1 d.2).depth = d.1 ∧ (wx d.1 d.2).serial = d.2) :=
  ⟨rfl, by decide +kernel, rfl, fun e he _ x hx => by
     have : e = (0, wt) := by simpa [ws] using he
     subst this; exact (nomatch hx),
   ⟨{ ws wt with strands := [(0, wt), (1, { wt with slot := 1, tx := some (wx 1 true) })] }, rfl, (1, { wt with slot := 1, tx := some (wx 1 true) }),
     List.mem_cons_of_mem _ (List.mem_cons_self ..), rfl, wx 1 true, rfl, rfl⟩, by and_intros <;> rfl⟩

/-- TEND outside a transaction, at depth 2, of one with a write, and of one whose lanes are all doomed. -/
theorem test_witness_TendCommitsTheSurvivingLanesInOneStep : (ws wt).runs wt ∧ (Instr.tend 380).wf = true ∧ wt.tx = none ∧
    ((wx 2 false).dead = [] ∧ (wx 2 false).lanes ≠ 0#128 ∧ 1 < (wx 2 false).depth) ∧
    (let x : Tx := { wx 1 false with writes := [⟨0, 0x5040, 7#8, 0, 0x40⟩], reads := [⟨0, 0x5080, 0#8, 0⟩] }
     let t : Strand := { wt with tx := some x }
     (ws t).runs t ∧ x.dead = [] ∧ x.lanes ≠ 0#128 ∧ x.depth = 1 ∧ t.count .ld = 0 ∧ t.count .sc = 0 ∧ t.count .atm = 0 ∧ x.poisoned = false ∧
      (∀ a b, a < 128 → b < 128 → x.lanes.getLsbD a = true → x.lanes.getLsbD b = true → a ≠ b → x.conflict a b = false) ∧ x.doom = 0#128 ∧
      ((ws t).core t.core).stash = [] ∧ (∀ k, ∀ y ∈ ((ws t).core k).l1, y.2.dirty = 0#16) ∧ (∀ c, ((ws t).clu c).comb = []) ∧ (ws t).slice = [] ∧ x.reds = [] ∧
      ((ws t).releaseWaits (ws t).cur t 4 = false ∧ (ws t).acquireWaits (ws t).cur t 4 = false ∧ x.sys = false) ∧
      (∀ r ∈ x.reads, r.coh = 0 ∧ (ws t).homeByte r.addr = r.val) ∧
      (∀ y ∈ x.writes, y.coh = 0 ∧ x.lanes.getLsbD y.lane = true ∧ y.lane < 128 ∧ reachable (ws t) (y.addr / 4 * 4)) ∧
      (∀ y ∈ x.writes, ∀ z ∈ x.writes, y.addr = z.addr → y = z)) ∧
    (let x : Tx := { wx 1 false with doom := 1#128 }
     x.dead = [] ∧ x.lanes ≠ 0#128 ∧ x.depth = 1 ∧ x.lanes &&& ~~~ x.doom = 0#128) := by
  have one : ∀ a, a < 128 → (1#128).getLsbD a = true → a = 0 := lanes (P := fun a => (1#128).getLsbD a = true → a = 0) (by decide +kernel)
  and_intros
  all_goals first
    | decide +kernel
    | rfl
    | exact fun _ => rfl
    | exact fun k => none_dirty (ws_l1 _ k)
    | exact fun a b ha hb la lb hab => absurd ((one a ha la).trans (one b hb lb).symm) hab
    | (intro y hy
       have : y = ⟨0, 0x5040, 7#8, 0, 0x40⟩ := by simpa using hy
       subst this
       exact ⟨rfl, by decide +kernel, by decide, .inl (by decide +kernel)⟩)

theorem Sys2Proof.Tests.okDesc {r : DescRead × State} {P : State → Bool} (h : (match r.1 with | .ok _ => P r.2 | _ => false) = true) :
    ∃ d s1, r = (.ok d, s1) ∧ P s1 = true := by
  obtain ⟨x, s1⟩ := r
  cases x with
  | ok d => exact ⟨d, s1, rfl, h⟩
  | bad => cases h
  | stop e => cases h
theorem Sys2Proof.Tests.badDesc {r : DescRead × State} {P : State → Bool} (h : (match r.1 with | .bad => P r.2 | _ => false) = true) :
    ∃ s1, r = (.bad, s1) ∧ P s1 = true := by
  obtain ⟨x, s1⟩ := r
  cases x with
  | ok d => cases h
  | bad => exact ⟨s1, rfl, h⟩
  | stop e => cases h
/-- A page whose line at 0x40 holds the descriptor of one copy strand. -/
def Sys2Proof.Tests.wds (t : Strand) : State :=
  { ws t with mem := State.writeBytes (State.writeBytes (placeTables []) 0x5054 [1#8, 1#8]) 0x5058 [1#8] }
/-- A misaligned descriptor; a good one at depths 10 and 9, with 1024 children and 1023; a bad one. -/
theorem test_witness_LaunchSubmitsAChildBoltOneLevelDeeper : (Instr.launch 383 191).wf = true ∧ (ws wt).weave? wt.weave = some placeWeave ∧
    (ws wt).bolt? placeWeave.bolt = some placeBolt ∧ (ws wt).part? wt.part = some placePart ∧
    (∃ t : Strand, (ws t).runs t ∧ (t.getPair (2 * 191)).toNat % 64 ≠ 0) ∧
    (∃ t : Strand, (wds t).runs t ∧ (t.getPair (2 * 191)).toNat % 64 = 0 ∧ ∃ d s1, (wds t).readDesc (wds t).cur t (t.getPair (2 * 191)).toNat = (.ok d, s1) ∧
      (!s1.releaseWaits (wds t).cur t 4) = true) ∧
    ({ placeBolt with depth := 10 } : Bolt).depth = 10 ∧ placeBolt.depth ≠ 10 ∧ 1024 ≤ ({ placePart with children := 1024 } : Part).children ∧ placePart.children < 1024 ∧
    (∃ t : Strand, (ws t).runs t ∧ ∃ s1, (ws t).readDesc (ws t).cur t (t.getPair (2 * 191)).toNat = (.bad, s1) ∧
      (!s1.releaseWaits (ws t).cur t 4) = true) :=
  ⟨by decide +kernel, rfl, rfl, rfl, ⟨wt.putS 382 1#32, rfl, by decide +kernel⟩, ⟨wt.putS 382 0x40#32, rfl, by decide +kernel, okDesc (by decide +kernel)⟩, rfl,
   by decide, by decide, by decide, ⟨wt.putS 382 0x40#32, rfl, badDesc (by decide +kernel)⟩⟩

/-- No watchpoint is set. -/
theorem Sys2Proof.Tests.ws_watch (t : Strand) (a : Acc) (h : t.part = 0) : (ws t).watchHit t a = none := by
  have hb : ∀ i, i ∈ List.range 4 → Nat.testBit ((ws t).csr t.part (0xA180 + 16 * i)).toNat 0 = false := by
    rw [h]; show ∀ i, i ∈ List.range 4 → Nat.testBit (placePart.rd (0xA180 + 16 * i)).toNat 0 = false
    decide +kernel
  unfold State.watchHit
  split
  · rfl
  · refine List.findSome?_eq_none_iff.2 (fun i hi => ?_)
    simp only [hb i hi, Bool.false_and, Bool.false_eq_true, if_false]

/-- A memory or matrix instruction of each kind with register 128 of a budget of 128, the last that it names; MMA of 8-bit floats; MSTORE
of FP32. -/
theorem test_witness_MemoryAndMatrixRegistersBeyondTheBudgetRaiseRegBound :
    ([.ld ⟨127, 0, 0, 0, 0, 0, 0, 0, 5, 0, 0⟩, .st ⟨0, 127, 0, 0, 0, 0, 0, 0, 4, 0, 0⟩, .atom ⟨128, 2, 0, 4, 0, 0, 0, 0, 0, 0, 0⟩, .red ⟨0, 2, 0, 128, 0, 0, 0, 0, 0, 0, 0⟩,
      .pref ⟨0, 127, 0, 0, 0, 0, 0, 0, 1, 0, 0⟩, .ldsc ⟨5, 128, 0, 0, 0, 0, 0, 0, 4, 0, 0⟩, .stsc ⟨0, 9, 0, 128, 0, 0, 0, 0, 2, 0, 0⟩, .ldwn ⟨128, 1, 0, 0, 0, 0, 1, 0, 4, 0, 0⟩,
      .stwn ⟨0, 1, 0, 128, 0, 0, 1, 0, 4, 0, 0⟩, .atomsc ⟨128, 1, 0, 3, 0, 0, 0, 0, 0, 0, 0⟩, .mma ⟨0, 113, 100, 0, 0, 0, 0, 0, 0, 0, 0⟩, .mzero ⟨97, 0, 0, 0, 0, 0, 0, 0, 0, 0, 0⟩,
      .mstore ⟨0, 64, 0, 127, 0, 0, 0, 0, 0, 0, 0⟩] : List Instr).Forall (fun i => i.wf = true ∧
        ((memRegs i).any (fun x => !(wfm 18#32).suppressed x.1 && x.2.any (fun r => decide (128 ≤ r)))) = true) ∧
    (ws (wfm 18#32)).runs (wfm 18#32) ∧ (wfm 18#32).budget = 128 ∧ (wfm 18#32).exec ≠ 0#128 ∧ (∀ a, (ws (wfm 18#32)).watchHit (wfm 18#32) a = none) ∧
    mmaIllegal (wfm 18#32) ⟨0, 113, 100, 0, 0, 0, 0, 0, 0, 0, 0⟩ = false ∧ mmaFormat (wfm 18#32) ⟨0, 113, 100, 0, 0, 0, 0, 0, 0, 0, 0⟩ = false ∧
    (wfm 18#32).fmtBad = false ∧ (wfm 18#32).accFmt = 0 :=
  ⟨by decide +kernel, rfl, rfl, by decide, fun a => ws_watch _ a rfl, by decide +kernel⟩
end

/-! ### Witnesses: queues, packets and the command core -/
section
set_option Elab.async false
open Sys2Proof Sys2Proof.Machine Sys2Proof.Tests Sys2Proof.Rules

/-- The answer of r satisfies f. -/
def Sys2Proof.Tests.okB {α β : Type} (r : Except β α) (f : α → Bool) : Bool := match r with | .ok x => f x | .error _ => false
theorem Sys2Proof.Tests.okEx {α β : Type} {r : Except β α} {f : α → Bool} (h : okB r f = true) : ∃ e, r = .ok e ∧ f e = true := by
  cases r with
  | ok e => exact ⟨e, rfl, h⟩
  | error _ => cases h
theorem Sys2Proof.Tests.errIs {α β : Type} {r : Except β α} {e : β} (h : (match r with | .ok _ => none | .error x => some x) = some e) : r = .error e := by
  cases r with
  | ok _ => cases h
  | error x => exact congrArg _ (Option.some.inj h)
theorem Sys2Proof.Tests.okPk {r : Except (Nat × Nat) (Packet × State)} {P : Packet → State → Prop} [∀ k s, Decidable (P k s)]
    (h : (match r with | .ok k => decide (P k.1 k.2) | .error _ => false) = true) : ∃ k s1, r = .ok (k, s1) ∧ P k s1 := by
  cases r with
  | ok k => exact ⟨k.1, k.2, rfl, of_decide_eq_true h⟩
  | error _ => cases h
/-- Partition 0 whose queue 0 is privileged, at 0x400, of 16 packets, with one live; and core 257 with the page's translation. -/
def Sys2Proof.Tests.wqp : Part := (((placePart.wr 0x800 0x400#32).wr 0x808 0x121#32).wr 0x810 1#32)
/-- A machine whose queue 0 has the packet of the words of x at its head; the page's first bytes are those of y. -/
def Sys2Proof.Tests.wpk (p : Part) (x y : Nat) : State :=
  { ws wt with parts := [(0, p)], mem := State.writeBytes (State.writeBytes (placeTables []) 0x5400 (bytesOf x 64)) 0x5040 (bytesOf y 32),
               cores := [(0, wcore), (257, wcore)] }
/-- A descriptor of one copy strand with its signal at 0. -/
def Sys2Proof.Tests.wdy : Nat := 0x101 * 2 ^ 160 + 2 ^ 192
def Sys2Proof.Tests.wpw (type : Nat) : Nat :=
  match type with
  | 1 => 1 + 0x40 * 2 ^ 64 + 7 * 2 ^ 128 | 2 => 2 + 0x40 * 2 ^ 64 | 3 => 3 + 0x40 * 2 ^ 64 | 4 => 4 + 0x40 * 2 ^ 64
  | 5 => 5 + 0x40 * 2 ^ 64 + 0x80 * 2 ^ 128 + 16 * 2 ^ 192 | _ => 6

/-- The head packet stands and P holds of it. -/
theorem Sys2Proof.Tests.wpk_head {x y : Nat} {P : Packet → State → Prop} [∀ k s, Decidable (P k s)]
    (h : (match (wpk wqp x y).headPacket 0 with
      | .ok k => decide (((wpk wqp x y).mayStart 0 = true ∧ k.2.barHolds 0 k.1 = false ∧ (k.2.queue 0).failed = []) ∧ P k.1 k.2)
      | .error _ => false) = true) : ∃ k s1, headIs (wpk wqp x y) 0 k s1 ∧ P k s1 := by
  obtain ⟨k, s1, hk, hp⟩ := okPk (P := fun k s1 => ((wpk wqp x y).mayStart 0 = true ∧ s1.barHolds 0 k = false ∧ (s1.queue 0).failed = []) ∧ P k s1) h
  exact ⟨k, s1, ⟨hp.1.1, hk, hp.1.2.1, fun _ => hp.1.2.2⟩, hp.2⟩

/-- One packet of each type, both sides of WAIT_SIGNAL, a LAUNCH that BAR holds, and a packet of no type. -/
theorem test_witness_PacketsDoTheirWorkAndAdvanceTheQueue :
    (∃ k s1, headIs (wpk wqp (wpw 1) 0) 0 k s1 ∧ k.type = 1 ∧ s1.slice = [] ∧ s1.frozenAt 0 = false ∧
      ∃ e, s1.checkAcc 1000000 (s1.laneAgent 0) (signalAcc k.a true) true = .ok e ∧ reachable s1 (State.physOf e k.a)) ∧
    ([0, 1] : List Nat).Forall (fun c => ∃ k s1, headIs (wpk wqp (wpw 2 + c * 2 ^ 160) 3) 0 k s1 ∧ k.type = 2 ∧ s1.slice = [] ∧ ∃ e,
      s1.checkAcc 1000000 (s1.laneAgent 0) (signalAcc k.a false) true = .ok e ∧
      quiet s1 (s1.laneAgent 0) k.a false ∧ clean s1 (s1.laneAgent 0) (State.physOf e k.a) 8 e.coh ∧
      (conditionHolds (k.word 5).toNat (k.word 4).toNat (s1.homeRead (State.physOf e k.a) 4) ↔ c = 0)) ∧
    ([3, 5, 6] : List Nat).Forall (fun ty => ∃ k s1, headIs (wpk wqp (wpw ty) 0) 0 k s1 ∧ k.type = ty ∧ s1.slice = [] ∧ (s1.csr 0 0xA060).getLsbD 0 = false) ∧
    (∃ k s1, headIs (wpk wqp (wpw 4) wdy) 0 k s1 ∧ k.type = 4 ∧ s1.slice = [] ∧ ∃ d s2, s1.readDesc 1000000 (s1.laneAgent 0) k.a = (.ok d, s2)) ∧
    (∃ (p : Part) (k : Packet) (s1 : State), (wpk p (wpw 4 + 0x100) wdy).mayStart 0 = true ∧ (wpk p (wpw 4 + 0x100) wdy).headPacket 0 = .ok (k, s1) ∧ k.type = 4 ∧
      s1.barHolds 0 k = true) ∧
    ((wpk wqp 0 0).mayStart 0 = true ∧ (wpk wqp 0 0).headPacket 0 = .error (1, 0x400)) := by
  refine ⟨?_, ⟨?_, ?_⟩, ⟨?_, ?_, ?_⟩, ?_, ?_, ?_⟩
  · obtain ⟨k, s1, hk, ht, hl, hf, he⟩ := wpk_head (x := wpw 1) (y := 0) (P := fun k s1 => k.type = 1 ∧ s1.slice = [] ∧ s1.frozenAt 0 = false ∧
      okB (s1.checkAcc 1000000 (s1.laneAgent 0) (signalAcc k.a true) true) (fun e => !isSys (State.physOf e k.a)) = true) (by decide +kernel)
    obtain ⟨e, he, hr⟩ := okEx he
    exact ⟨k, s1, hk, ht, hl, hf, e, he, .inl (by simpa using hr)⟩
  · obtain ⟨k, s1, hk, ht, hc, hs, hm, hq, he⟩ := wpk_head (x := wpw 2 + 0 * 2 ^ 160) (y := 3) (P := fun k s1 => k.type = 2 ∧ s1.clus = [] ∧ s1.slice = [] ∧
      ((s1.core (s1.laneAgent 0).core).l1.map (fun e => e.1 / 4)).eraseDups.length + 1 ≤ State.l1Lines (s1.core (s1.laneAgent 0).core) ∧
      (AMap.look (s1.core (s1.laneAgent 0).core).tlb (State.tlbKey (s1.laneAgent 0).part (s1.laneAgent 0).ctx k.a)).isSome = true ∧
      okB (s1.checkAcc 1000000 (s1.laneAgent 0) (signalAcc k.a false) true) (fun e =>
        (List.range 8).all (fun i => !s1.readPoison (s1.laneAgent 0).core (State.physOf e k.a + i) e.coh) && (k.word 5).toNat == 0 &&
          decide ((k.word 4).toNat ≤ s1.homeRead (State.physOf e k.a) 4)) = true) (by decide +kernel)
    obtain ⟨e, he, hr⟩ := okEx he
    simp only [Bool.and_eq_true, List.all_eq_true, List.mem_range, Bool.not_eq_true', beq_iff_eq, decide_eq_true_eq] at hr
    obtain ⟨⟨hr, h5⟩, h4⟩ := hr
    obtain ⟨z, hz⟩ := Option.isSome_iff_exists.1 hq
    exact ⟨k, s1, hk, ht, hs, e, he, ⟨fun c => by unfold State.clu; rw [hc]; rfl, hm, z, hz, nofun, by rw [hs]; rfl⟩, hr, by
      simp [conditionHolds, h5, h4]⟩
  · obtain ⟨k, s1, hk, ht, hc, hs, hm, hq, he⟩ := wpk_head (x := wpw 2 + 1 * 2 ^ 160) (y := 3) (P := fun k s1 => k.type = 2 ∧ s1.clus = [] ∧ s1.slice = [] ∧
      ((s1.core (s1.laneAgent 0).core).l1.map (fun e => e.1 / 4)).eraseDups.length + 1 ≤ State.l1Lines (s1.core (s1.laneAgent 0).core) ∧
      (AMap.look (s1.core (s1.laneAgent 0).core).tlb (State.tlbKey (s1.laneAgent 0).part (s1.laneAgent 0).ctx k.a)).isSome = true ∧
      okB (s1.checkAcc 1000000 (s1.laneAgent 0) (signalAcc k.a false) true) (fun e =>
        (List.range 8).all (fun i => !s1.readPoison (s1.laneAgent 0).core (State.physOf e k.a + i) e.coh) && (k.word 5).toNat == 1 &&
          decide (s1.homeRead (State.physOf e k.a) 4 ≠ (k.word 4).toNat)) = true) (by decide +kernel)
    obtain ⟨e, he, hr⟩ := okEx he
    simp only [Bool.and_eq_true, List.all_eq_true, List.mem_range, Bool.not_eq_true', beq_iff_eq, decide_eq_true_eq] at hr
    obtain ⟨⟨hr, h5⟩, h4⟩ := hr
    obtain ⟨z, hz⟩ := Option.isSome_iff_exists.1 hq
    exact ⟨k, s1, hk, ht, hs, e, he, ⟨fun c => by unfold State.clu; rw [hc]; rfl, hm, z, hz, nofun, by rw [hs]; rfl⟩, hr, by
      simp [conditionHolds, h5, h4]⟩
  iterate 3 exact wpk_head (by decide +kernel)
  · obtain ⟨k, s1, hk, ht, hs, hd⟩ := wpk_head (x := wpw 4) (y := wdy) (P := fun k s1 => k.type = 4 ∧ s1.slice = [] ∧
      (match (s1.readDesc 1000000 (s1.laneAgent 0) k.a).1 with | .ok _ => true | _ => false) = true) (by decide +kernel)
    obtain ⟨d, s2, h, -⟩ := okDesc (P := fun _ => true) hd
    exact ⟨k, s1, hk, ht, hs, d, s2, h⟩
  · refine ⟨{ wqp with queues := [(0, { State.queueDefault with bolts := [7] })] }, ?_⟩
    obtain ⟨k, s1, hk, hp⟩ := okPk (r := (wpk { wqp with queues := [(0, { State.queueDefault with bolts := [7] })] } (wpw 4 + 0x100) wdy).headPacket 0)
      (P := fun k s1 => k.type = 4 ∧ s1.barHolds 0 k = true) (by decide +kernel)
    exact ⟨k, s1, by decide +kernel, hk, hp⟩
  · exact ⟨by decide +kernel, errIs (by decide +kernel)⟩

/-- A queue with room, a round for each of its three late packets, one copy of 16 bytes in the page, and a fault to clear. -/
theorem test_witness_QueuesAdvanceByRoundsCopiesSkipAndRetry :
    ((wpk wqp 0 0).part? 0).isSome = true ∧
    ([4, 5, 6] : List Nat).Forall (fun ty => ((wpk wqp (wpw ty) 0).part? 0).isSome = true ∧ (wpk wqp (wpw ty) 0).ccGroup = 0 ∧ headType (wpk wqp (wpw ty) 0) 0 = ty ∧
      (∀ j, j < 64 → ((wpk wqp (wpw ty) 0).queue j).phase = .idle) ∧ (∀ j, j < 64 → j ≠ 0 → (wpk wqp (wpw ty) 0).mayStart j = false)) ∧
    (let p : Part := { wqp with queues := [(0, { State.queueDefault with copies := [(0, 0x40, 0xFF0, 16, [])] })] }
     let s := wpk p 0 0
     (s.part? 0).isSome = true ∧ (s.queue 0).copies = (0, 0x40, 0xFF0, 16, []) :: [] ∧ s.chanSpent (0 / 8) (s.qctx 0) = false ∧ s.frozenAt 0 = false ∧
     (∀ c, (s.clu c).comb = []) ∧ s.slice = [] ∧
     s.xlate 0 (s.qctx 0) 257 0x40 (s.laneAgent 0).priv .read = .ok we ∧ s.xlate 0 (s.qctx 0) 257 0xFF0 (s.laneAgent 0).priv .write = .ok we ∧
     quiet s (s.laneAgent 0) 0x40 false ∧ quiet s (s.laneAgent 0) 0xFF0 true ∧ s.serialHolds 1000000 (State.physOf we 0x40) false = false ∧
     s.serialHolds 1000000 (State.physOf we 0xFF0) true = false ∧ clean s (s.laneAgent 0) (State.physOf we 0x40) 16 0 ∧
     isSys (State.physOf we 0xFF0) = false ∧ (s.core 257).l1 = [] ∧ State.physOf we 0x40 + 16 ≤ State.physOf we 0xFF0) ∧
    (fld ((wpk (wqp.wr 0x818 9#32) 0 0).qreg 0 0x18).toNat 0 8 ≠ 0 ∧ ((wpk (wqp.wr 0x818 9#32) 0 0).queue 0).failed = []) :=
  by
    and_intros
    all_goals first
      | decide +kernel
      | exact okOf (by decide +kernel)
      | exact fun _ => rfl
      | (unfold roomy; decide +kernel)
      | (unfold clean; decide +kernel)

/-- Lane 0 of the command core in its prologue, its parameter quad at S0 and its ARG quad at 0x40. -/
def Sys2Proof.Tests.wccs (t : Strand) (y : Nat) : State :=
  { wpk { wqp with queues := [(0, { State.queueDefault with phase := .prologue, arg := 0x40 })] } 0 y with cur := ccBase, strands := [(ccBase, t)] }
/-- The words on a core's strand; GO and REPEAT of a good and of a misaligned descriptor; CANCEL of a misaligned quad, of
a set last word, of a misaligned descriptor, and of a good one. -/
theorem test_witness_CommandCoreWordsLaunchRepeatOrCancel : ((ws wt).runs wt ∧ (ws wt).cur < ccBase) ∧
    (let t := wt.putS 376 0x40#32
     (wccs t wdy).runs t ∧ (wccs t wdy).cur = ccBase + 0 ∧ ((wccs t wdy).part? 0).isSome = true ∧ (t.getS 379).toNat < 2 ∧ (t.getPair 376).toNat % 64 = 0 ∧
      ∃ d s1, (wccs t wdy).readDesc 1000000 ((wccs t wdy).laneAgent 0) (t.getPair 376).toNat = (.ok d, s1) ∧ true = true) ∧
    (let t := wt.putS 0 0x41#32
     (wccs t wdy).runs t ∧ (t.getS 3).toNat < 2 ∧ (t.getPair 0).toNat % 64 ≠ 0) ∧
    (((wccs wt 0x80).updPart 0 (fun p => { p with queues := [(0, { State.queueDefault with phase := .prologue, arg := 0x41 })] })).queue 0).arg % 4 ≠ 0 ∧
    ([(0x80 + 2 * 2 ^ 96, 0x80, 2), (0x84, 0x84, 0)] : List (Nat × Nat × Word)).Forall (fun c =>
      ((wccs wt c.1).queue 0).arg % 4 = 0 ∧ ∃ r, (wccs wt c.1).argDesc 0 ((wccs wt c.1).queue 0).arg = .ok r ∧ (r.1 == c.2.1 && r.2.1 == c.2.2) = true) ∧
    (∃ d last s1 w s2 e, (wccs wt 0x80).runs wt ∧ ((wccs wt 0x80).queue 0).arg % 4 = 0 ∧ (wccs wt 0x80).argDesc 0 ((wccs wt 0x80).queue 0).arg = .ok (d, last, s1) ∧
      last.toNat < 2 ∧ d % 64 = 0 ∧ State.readWords 1000000 ((wccs wt 0x80).laneAgent 0) (State.wordAddrs d 32) s1 = .ok (w, s2) ∧ s2.publishWaits 0 = false ∧
      (s2.publish 0).checkAcc 1000000 ((wccs wt 0x80).laneAgent 0) (signalAcc (pair (w.getD 14 0#32) (w.getD 15 0#32)).toNat true) true = .ok e ∧
      (s2.publish 0).slice = [] ∧ reachable (s2.publish 0) (State.physOf e (pair (w.getD 14 0#32) (w.getD 15 0#32)).toNat)) := by
  refine ⟨⟨rfl, by decide +kernel⟩, ⟨rfl, rfl, by decide +kernel, by decide +kernel, by decide +kernel, okDesc (P := fun _ => true) (by decide +kernel)⟩, ⟨rfl, by decide +kernel, by decide +kernel⟩,
    by decide +kernel, ⟨⟨by decide +kernel, okEx (by decide +kernel)⟩, by decide +kernel, okEx (by decide +kernel)⟩, ?_⟩
  obtain ⟨⟨d, last, s1⟩, h1, g1⟩ := okEx (r := (wccs wt 0x80).argDesc 0 ((wccs wt 0x80).queue 0).arg) (f := fun x => decide (x.2.1.toNat < 2) && (decide (x.1 % 64 = 0) &&
    okB (State.readWords 1000000 ((wccs wt 0x80).laneAgent 0) (State.wordAddrs x.1 32) x.2.2) (fun y => (!y.2.publishWaits 0 && (y.2.publish 0).slice.isEmpty) &&
      okB ((y.2.publish 0).checkAcc 1000000 ((wccs wt 0x80).laneAgent 0) (signalAcc (pair (y.1.getD 14 0#32) (y.1.getD 15 0#32)).toNat true) true) (fun e =>
        !isSys (State.physOf e (pair (y.1.getD 14 0#32) (y.1.getD 15 0#32)).toNat))))) (by decide +kernel)
  simp only [Bool.and_eq_true, decide_eq_true_eq] at g1
  obtain ⟨ha, hb, g1⟩ := g1
  obtain ⟨⟨w, s2⟩, h2, g2⟩ := okEx g1
  simp only [Bool.and_eq_true, Bool.not_eq_true', List.isEmpty_iff] at g2
  obtain ⟨e, h3, g3⟩ := okEx g2.2
  exact ⟨d, last, s1, w, s2, e, rfl, by decide +kernel, h1, ha, hb, h2, g2.1.1, h3, g2.1.2, .inl (by simpa using g3)⟩

/-- A bolt with a weave to admit, a weave whose last strand is gone, a bolt that is done, one whose signal's page is in
transition, and one that is not done. -/
def Sys2Proof.Tests.wbo (start retired : Nat) : Bolt :=
  { placeBolt with desc := { wd with ncopy := 1, nweave := 1 }, signal := true, dies := [⟨0, start, 0, 1, retired⟩] }
def Sys2Proof.Tests.wad (b : Bolt) : State :=
  { ws wt with strands := [], bolts := [(1, b)], cores := [(0, wcore), (257, wcore)], clus := [(0, { (State.reset.clu 0) with active := true, change := none })] }
theorem test_witness_WeavesAreAdmittedRetireAndCompleteTheirBolt :
    (∃ spots, (wad (wbo 0 0)).part? 0 = some placePart ∧ (wad (wbo 0 0)).admChoose 0 0 = some 0 ∧ (wad (wbo 0 0)).nextBoltFor 0 0 0 = some (1, wbo 0 0, ⟨0, 0, 0, 1, 0⟩) ∧
      (wad (wbo 0 0)).choosePlace placePart (wbo 0 0).desc 0 = some spots ∧ spots ≠ [] ∧ (wbo 0 0).part = 0 ∧ (wbo 0 0).ctx = 0) ∧
    ((wad (wbo 0 0)).weave? 1 = some placeWeave ∧ placeWeave.children = 0 ∧ (∀ e ∈ (wad (wbo 0 0)).strands, e.1 < ccBase → e.2.weave ≠ 1) ∧
      (∀ v ∈ placePart.saved, v.out = false) ∧ (wad (wbo 0 0)).bolt? placeWeave.bolt = some (wbo 0 0)) ∧
    (∃ e, (wad (wbo 0 1)).bolt? 1 = some (wbo 0 1) ∧ (∀ r ∈ (wbo 0 1).dies, r.retired = r.stop - r.start) ∧ (wbo 0 1).lane = none ∧ (wbo 0 1).shown = false ∧ (wad (wbo 0 1)).publishWaits 0 = false ∧
      ((wad (wbo 0 1)).publish 0).signalWaits (wbo 0 1) 0 = false ∧ (((wad (wbo 0 1)).publish 0).publish 0).slice = [] ∧ ((wad (wbo 0 1)).publish 0).publishWaits 0 = false ∧ (wbo 0 1).signal = true ∧
      (((wad (wbo 0 1)).publish 0).publish 0).checkAcc 1000000 (State.boltAgent ((wad (wbo 0 1)).publish 0) (wbo 0 1)) (signalAcc (wbo 0 1).desc.sigaddr true) true = .ok e ∧
      isSys (State.physOf e (wbo 0 1).desc.sigaddr) = false) ∧
    (let s : State := { wad (wbo 0 1) with parts := [(0, { placePart with attr := some ⟨0, 1, 0, 2, 0, 0x100⟩ })] }
     s.bolt? 1 = some (wbo 0 1) ∧ s.publishWaits 0 = false ∧ (s.publish 0).signalWaits (wbo 0 1) 0 = true) ∧
    ((wad (wbo 0 0)).bolt? 1 = some (wbo 0 0) ∧ ∃ r ∈ (wbo 0 0).dies, r.retired ≠ r.stop - r.start) := by
  refine ⟨?_, ⟨rfl, rfl, by decide +kernel, nofun, rfl⟩, ?_, ⟨rfl, by decide +kernel⟩, rfl, _, List.mem_cons_self .., by decide⟩
  · exact ⟨[⟨0, 0, 0, 0⟩], rfl, by decide +kernel, rfl, by decide +kernel, by decide, rfl, rfl⟩
  · obtain ⟨e, he, hr⟩ := okEx (r := (((wad (wbo 0 1)).publish 0).publish 0).checkAcc 1000000 (State.boltAgent ((wad (wbo 0 1)).publish 0) (wbo 0 1)) (signalAcc (wbo 0 1).desc.sigaddr true) true)
      (f := fun e => !isSys (State.physOf e (wbo 0 1).desc.sigaddr)) (by decide +kernel)
    exact ⟨e, rfl, by decide, rfl, rfl, by decide +kernel, by decide +kernel, by decide +kernel, by decide +kernel, rfl, he, by simpa using hr⟩
end

/-! ### Witnesses: the machine's step, and traps -/
section
set_option Elab.async false
open Sys2Proof Sys2Proof.Machine Sys2Proof.Tests Sys2Proof.Rules

theorem Sys2Proof.Tests.nextOf {S F R : Type} {o : Host.Outcome S F R} (h : (match o with | .next _ => true | _ => false) = true) : ∃ s', o = .next s' := by
  cases o with
  | next s' => exact ⟨s', rfl⟩
  | fault _ => cases h
  | refused _ => cases h

/-- A calibration of the configuration record. -/
def Sys2Proof.Tests.wcal : Calib := ⟨3, 2, 1, 5, 7, 11, 13, 17, 19, 23, 29⟩
/-- A record of partitions 0 and 7 whose signatures stand. -/
theorem test_witness_PartitionRegistersComeUpAtTheirResetValues :
    let a : PartRec := ⟨0, 5, 0, 3, 0, 3, 3, 0x81, 0⟩
    let b : PartRec := ⟨7, 2, 0, 7, 0, 3, 0, 2 ^ 47, 31⟩
    let r : BootRec := ⟨0, 4, true, [a, b], wcal, 0, 0⟩
    (∃ s', exec (.coldBoot r) State.reset = .next s') ∧ r.fwSig % 4 = 0 ∧ r.cfgSig % 4 = 0 ∧ State.reset.flash0 = none ∧ State.reset.flash1 = none ∧
      layoutOk r.parts = true ∧ a ∈ r.parts ∧ b ∈ r.parts :=
  ⟨⟨_, rfl⟩, by decide, by decide, rfl, rfl, by decide +kernel, by decide, by decide⟩

/-- Majors 0x00, 0x38 and 0x3E; OP 0x00 and both ends of each gap. -/
theorem test_witness_WordsOfTheTablesDecodeToTheirInstructions :
    fld 0x03FFFFFF 26 6 = 0 ∧ (56 ≤ fld 0xE0000000 26 6 ∧ fld 0xE0000000 26 6 ≤ 62) ∧ (56 ≤ fld 0xF8000000 26 6 ∧ fld 0xF8000000 26 6 ≤ 62) ∧
    fld 1 88 8 = 0 ∧ opGaps.all (fun g => fld (g.1 * 2 ^ 88) 88 8 == g.1 && fld (g.2 * 2 ^ 88) 88 8 == g.2 && decide (g.1 ≤ g.2)) = true := by decide

/-- A word, two words and a lane instruction with operands at their bounds. -/
theorem test_witness_DecodingAnEncodingGivesTheInstructionBack :
    ([.add 383 383 255, .bra 0x1FFFF 0xFFFFFFFF, .iadd ⟨255, 255, 0, 0, 7, 0, 2, 0, 1, 1, 0xFFFFFFFF⟩] : List Instr).Forall (fun i =>
      i.wf = true ∧ ∃ e, encode i = some e) :=
  ⟨⟨by decide +kernel, _, rfl⟩, ⟨by decide +kernel, _, rfl⟩, by decide +kernel, _, rfl⟩

/-- Bits of one word, of two, and of a lane instruction. -/
theorem test_witness_DecodableWordsAreTheirInstructionsEncoding :
    (∃ i, decodeScalar 0x06FF7FFF 0 = .ok i) ∧ (∃ i, decodeScalar 0x9801FFFF 0xFFFFFFFF = .ok i) ∧
    ∃ i, decodeLane 0x01FFFF00_00E8_01_01_FFFFFFFF = .ok i :=
  ⟨(okEx (f := fun _ => true) (by decide +kernel)).imp (fun _ h => h.1), (okEx (f := fun _ => true) (by decide +kernel)).imp (fun _ h => h.1),
   (okEx (f := fun _ => true) (by decide +kernel)).imp (fun _ h => h.1)⟩

/-- The machine about to issue on strand k the item of table bits w. -/
def Sys2Proof.Tests.wfw (nbits w k : Nat) : State := { State.reset.withFetchWord nbits w with plan := [], cur := k }
/-- A header that waits for flag 0, on a strand with a load in flight under it. -/
def Sys2Proof.Tests.wfh : State := (State.reset.withFetchWord 32 0xFC007FC0).updStrand 0 (fun t => { t with ops := [wo 0 .ld (some 0) []] })
/-- Nothing is on its way in a machine that a word has been placed in. -/
theorem Sys2Proof.Tests.wfw_arrived (n w : Nat) : allArrived (State.reset.withFetchWord n w) := ⟨rfl, rfl, rfl⟩

/-- Strand t of s, the machine about to issue strand 0 with an empty plan, may run, and its item i is next and meets no hindrance. -/
def Sys2Proof.Tests.wgo (s : State) (t : Strand) (i : Instr) : Prop :=
  s.plan = .issue 0 :: [] ∧ allArrived s ∧ s.strand? 0 = some t ∧ mayRun s t ∧
    holdsItem (({ s with plan := [], cur := 0 } : State).touchItem 0 t) t i ∧ unhindered { s with plan := [], cur := 0 } 0 t i
/-- A strand at a scalar word, one at a lane instruction, one at a header, each granted. -/
theorem test_witness_AStepRunsTheDecodedInstruction :
    ([(32, 0x06FF7FFF), (96, 0x010301020000000100000000), (32, 0xFC003FC9)] : List (Nat × Nat)).Forall (fun x => ∃ t i, decodeTableWord x.1 x.2 = some i ∧
      wgo (State.reset.withFetchWord x.1 x.2) t i ∧ State.moved 0 t (itemRun (wfw x.1 x.2 0) 0 t i) = true ∧
      (wfw x.1 x.2 0).granted t ((wfw x.1 x.2 0).readies 0 t) = some (0, t)) := by
  refine ⟨⟨_, .add 383 383 255, by decide +kernel, ⟨rfl, wfw_arrived _ _, rfl, ⟨by decide, rfl, rfl, rfl, rfl⟩, .inr (.inr ⟨by decide, 0x06FF7FFF, 0,
      okOf (by decide +kernel), by decide, .inl ⟨by decide +kernel, rfl⟩, okOf (by decide +kernel), by decide +kernel, nofun⟩), ?_⟩, ?_⟩,
    ⟨_, .iadd ⟨3, 1, 2, 0, 0, 0, 0, 0, 0, 1, 0⟩, by decide +kernel, ⟨rfl, wfw_arrived _ _, rfl, ⟨by decide, rfl, rfl, rfl, rfl⟩, .inr (.inl ⟨by decide, by decide,
      0x010301020000000100000000, okOf (by decide +kernel), okOf (by decide +kernel)⟩), ?_⟩, ?_⟩,
    _, .clauseHeader 0 15 15 1 1, by decide +kernel, ⟨rfl, wfw_arrived _ _, rfl, ⟨by decide, rfl, rfl, rfl, rfl⟩, .inl ⟨by decide, 0xFC003FC9, 0, 15, 15, 1, 1,
      okOf (by decide +kernel), rfl, okOf (by decide +kernel)⟩, ?_⟩, ?_⟩
  all_goals first
    | (unfold unhindered; decide +kernel)
    | decide +kernel
/-- A strand at a header with a flag to wait for. -/
theorem test_witness_AStepRunsTheDecodedInstruction_held : ∃ t, wgo wfh t (.clauseHeader 1 15 15 0 0) ∧
    State.moved 0 t (itemRun { wfh with plan := [], cur := 0 } 0 t (.clauseHeader 1 15 15 0 0)) = false :=
  ⟨_, ⟨rfl, ⟨rfl, rfl, rfl⟩, rfl, ⟨by decide, rfl, rfl, rfl, rfl⟩, .inl ⟨by decide, 0xFC007FC0, 1, 15, 15, 0, 0, okOf (by decide +kernel), rfl, okOf (by decide +kernel)⟩,
    by unfold unhindered; decide +kernel⟩, by decide +kernel⟩
/-- The machine about to run lane 0 of the command core at GO. -/
def Sys2Proof.Tests.wgc : State := { toWords { State.reset.withFetchWord 32 0xD4700000 with plan := [] } with cur := ccBase + 0 }
theorem test_witness_AStepRunsTheDecodedInstruction_commandCore : (State.reset.withFetchWord 32 0xD4700000).plan = .issue (ccBase + 0) :: [] ∧
    allArrived (State.reset.withFetchWord 32 0xD4700000) ∧ allArrived wgc ∧ ∃ t, wgc.strand? (ccBase + 0) = some t ∧ 0 ∈ proGroup wgc ∧
      holdsItem (wgc.touchItem (ccBase + 0) t) t (.go 0) ∧ forCommandCore (wgc.touchItem (ccBase + 0) t) t ∧
      (wgc.queue 0).round + itemWords t wgc ≤ 64 ∧ (wgc.queue 0).words + itemWords t wgc ≤ 4096 ∧ wgc.fetchHeld (ccBase + 0) t = false ∧
      State.heldAt t (some (.go 0)) = none ∧ (wgc.touchItem (ccBase + 0) t).badRead t (.go 0) = none := by
  have look : wgc.strand? (ccBase + 0) = some ((wgc.strand? (ccBase + 0)).getD wt) := by
    have : (wgc.strand? (ccBase + 0)).isSome = true := by decide +kernel
    cases h : wgc.strand? (ccBase + 0) with
    | some t => rfl
    | none => rw [h] at this; cases this
  refine ⟨rfl, ⟨rfl, rfl, rfl⟩, ⟨by decide +kernel, by decide +kernel, by decide +kernel⟩, _, look, ?_, ?_, .inr ⟨by decide +kernel, fun w hw => ?_⟩, ?_⟩
  · decide +kernel
  · exact .inr (.inr ⟨by decide +kernel, 0xD4700000, 0, okOf (by decide +kernel), by decide, .inl ⟨by decide +kernel, rfl⟩, okOf (by decide +kernel), by decide +kernel⟩)
  · have : (wgc.touchItem (ccBase + 0) ((wgc.strand? (ccBase + 0)).getD wt)).fetch ((wgc.strand? (ccBase + 0)).getD wt)
      ((wgc.strand? (ccBase + 0)).getD wt).itemAddr.toNat 4 = .ok 0xD4700000 := okOf (by decide +kernel)
    cases this.symm.trans hw; decide +kernel
  · decide +kernel
/-- An event that is no packet. -/
theorem test_witness_AStepRunsTheDecodedInstruction_event :
    ({ State.reset with plan := [.event (.qwrWrite 63 1)] } : State).plan = .event (.qwrWrite 63 1) :: [] ∧ allArrived State.reset ∧
    (Instr.qwrWrite 63 1).isItem = false ∧ packetOf (.qwrWrite 63 1) = none ∧ (∀ e ∈ State.reset.strands, e.2.tr.on = false) :=
  ⟨rfl, ⟨rfl, rfl, rfl⟩, rfl, rfl, by decide +kernel⟩

/-- Two strands of contexts 0 and 5 in slots 0 and 3 of one spindle, both ready, the floor of context 5 at 255. -/
def Sys2Proof.Tests.wpp : Part := (placePart.wr64 0x228 0x1001).wr 0x40B4 255#32
def Sys2Proof.Tests.wsp (deficit left : Nat) (served : List Nat) : State :=
  let s := State.reset.withFetchWord 32 0x06FF7FFF
  { s with
    parts := [(0, wpp)], strands := [(0, (s.strand? 0).getD wt), (3, { (s.strand? 0).getD wt with slot := 3, sid := 1, ctx := 5 })],
    cores := [(0, { wcore with arb := [(0, { State.arbDefault with deficit := [(5, deficit)], turn := 0, left := left, served := served })] })] }
/-- The floor entitles context 5 and not; the rotation has served neither, one, or both, and is the last that the weights allow or not. -/
theorem test_witness_TheIssueArbiterServesOwedContextsFirstAndSlotsInTurn :
    ([(1, 0, [], 3), (1, 0, [3], 3), (0, 0, [], 3), (0, 0, [3], 0), (0, 0, [0, 3], 3), (0, 7, [0, 3], 3)] : List (Nat × Nat × List Nat × Nat)).Forall (fun x =>
      let s := wsp x.1 x.2.1 x.2.2.1
      let t := (s.strand? 0).getD wt
      AMap.sortedFrom 0 s.strands = true ∧ (∀ e ∈ s.strands, e.1 < ccBase → e.1 = 96 * e.2.core + e.2.slot ∧ e.2.slot < 96 ∧ e.2.ctx < 16) ∧
      s.part? t.part = some wpp ∧ (s.granted t (s.readies 0 t)).map (·.1) = some x.2.2.2 ∧ (s.arbNow wpp 0 0).left = x.2.1 ∧
      (256 ≤ min 512 (AMap.get (s.arbNow wpp 0 0).deficit 5 0 + fld (wpp.rd (0x40A0 + 4 * 5)).toNat 0 8) ↔ x.1 = 1)) := by
  refine ⟨?_, ?_, ?_, ?_, ?_, ?_⟩
  all_goals decide +kernel

/-- A state that stores, one that launches nothing, and one whose step writes a queue register. -/
theorem test_witness_EveryStepKeepsMemoryCanonical :
    (State.reset.withFetchWord 32 0x8C3C1001).Inv ∧ (∃ s', step (State.reset.withFetchWord 32 0x8C3C1001) = .next s') ∧
    State.reset.Inv ∧ (∃ s', step State.reset = .next s') :=
  ⟨by unfold State.Inv; decide +kernel, nextOf (by decide +kernel), by unfold State.Inv; decide +kernel, nextOf (by decide +kernel)⟩
theorem test_witness_EveryStepKeepsThePartitionTablesInOrder :
    let s : State := { ws wt with parts := [(0, placePart), (7, placePart)], plan := [.event (.qwrWrite 63 1)] }
    tablesOrdered s ∧ ∃ s', step s = .next s' :=
  ⟨by unfold tablesOrdered; decide +kernel, nextOf (by decide +kernel)⟩

/-! Traps: partition 0 with its context's handler enabled and the trap frames at virtual 0. -/
def Sys2Proof.Tests.wtp : Part := placePart.wr 0xC18 1#32
def Sys2Proof.Tests.wts (t : Strand) (p : Part) : State := { ws t with parts := [(0, p)] }
theorem Sys2Proof.Tests.wts_takes (t : Strand) (h : t.hnd = false) (hp : t.part = 0) (hc : t.ctx = 0) : handlerTakes (wts t wtp) t :=
  ⟨⟨wtp, by rw [hp]; rfl, by decide +kernel⟩, h, by
    have : tvec t = 0xC00 := by unfold tvec; rw [hc]
    rw [this, hp]; show ((wts t wtp).csr 0 0xC18).getLsbD 0 = true
    unfold State.csr; show (Part.rd wtp 0xC18).getLsbD 0 = true; decide +kernel⟩
theorem Sys2Proof.Tests.wts_quiet (t : Strand) (p : Part) (va : Nat) (wr : Bool) (ht : t.core = 0) (hk : State.tlbKey t.part t.ctx va = 0) :
    quiet (wts t p) t va wr := by
  refine ⟨fun _ => rfl, ws_roomy t 1 ht (by decide), we, ?_, fun _ => rfl, rfl⟩
  rw [ht, hk]; rfl
theorem Sys2Proof.Tests.wts_frame (p : Part) (h : p = wtp ∨ p = placePart) : frameOk (wts wt p) 0 wt we := by
  rcases h with rfl | rfl <;>
  exact ⟨by decide, ⟨by decide +kernel, .inl rfl⟩, okOf (by decide +kernel), rfl, wts_quiet _ _ _ _ rfl (by decide +kernel), .inl (by decide +kernel), by decide +kernel⟩

/-- TRAP 2047 and BKPT 0 with a handler, under DBG, in a handler, and without one. -/
theorem test_witness_TrapAndBkptEnterTheHandlerOrHalt : (Instr.trap 2047).wf = true ∧ (Instr.bkpt 0).wf = true ∧ wt.run ≠ .halted ∧ wt.pend = none ∧
    (savedAt wt).edge = false ∧ wt.ctx < 16 ∧ (∀ p t, (t : Strand).core = 0 → ((wts t p).clu (t.core / 2)).change = none) ∧
    ((wts wt wtp).runs wt ∧ (wts wt wtp).cur < ccBase ∧ handlerTakes (wts wt wtp) wt ∧ frameOk (wts wt wtp) 0 wt we ∧ wt.drained3 = true) ∧
    (∃ p, (wts wt (wtp.wr 0xA0C0 1#32)).part? wt.part = some p ∧ p.dbg = true) ∧
    (∃ t : Strand, (wts t wtp).runs t ∧ (∃ p, (wts t wtp).part? t.part = some p ∧ p.dbg = false) ∧ t.hnd = true) ∧
    ((∃ p, (wts wt placePart).part? wt.part = some p ∧ p.dbg = false) ∧ ((wts wt placePart).csr wt.part (tvec wt + 0x18)).getLsbD 0 = false) :=
  by
    and_intros
    all_goals first
      | decide +kernel
      | rfl
      | exact fun _ _ h => by rw [h]; rfl
      | exact wts_takes wt rfl rfl rfl
      | exact fun _ => rfl
      | exact ws_roomy wt 1 rfl (by decide)
      | exact .inr rfl
      | exact ⟨_, rfl, by decide +kernel⟩
      | exact ⟨{ wt with hnd := true }, rfl, ⟨wtp, rfl, by decide +kernel⟩, rfl⟩

/-- A strand with a trap waiting, a load in flight and none, and one with a halt waiting; their cluster changing rail, and not. -/
def Sys2Proof.Tests.wpe (o : List Op) (h : Option Bool) : Strand := { wt with pend := some ⟨{ code := 3 }, 0x104#64, 1, false, h⟩, ops := o }
theorem test_witness_APendingTrapIsEnteredWhenTheCountersAreZero :
    (∃ s : State, s.strand? 0 = some (wpe [] none) ∧ (s.clu ((wpe [] none).core / 2)).change ≠ none) ∧
    ([false, true] : List Bool).Forall (fun b => (wts (wpe [] (some b)) wtp).strand? 0 = some (wpe [] (some b)) ∧ (wpe [] (some b)).run ≠ .halted ∧
      (wpe [] (some b)).ctx < 16 ∧ ((wts (wpe [] (some b)) wtp).clu ((wpe [] (some b)).core / 2)).change = none ∧
      ∃ p, (wts (wpe [] (some b)) wtp).part? (wpe [] (some b)).part = some p) ∧
    ((wts (wpe [wo 0 .ld none []] none) wtp).strand? 0 = some (wpe [wo 0 .ld none []] none) ∧ (wpe [wo 0 .ld none []] none).drained3 = false) ∧
    ((wts (wpe [] none) wtp).strand? 0 = some (wpe [] none) ∧ (wpe [] none).drained3 = true ∧ (wpe [] none).run ≠ .halted ∧
      ((wts (wpe [] none) wtp).clu ((wpe [] none).core / 2)).change = none ∧
      frameOk (wts (wpe [] none) wtp) 0 (wpe [] none) we ∧ ∃ p, (wts (wpe [] none) wtp).part? (wpe [] none).part = some p) :=
  ⟨⟨(wts (wpe [] none) wtp).setClu 0 { State.reset.clu 0 with change := some (true, 5) }, rfl, by decide +kernel⟩,
   by and_intros; all_goals first | decide +kernel | rfl | exact ⟨_, rfl⟩, ⟨rfl, by decide +kernel⟩, rfl, by decide +kernel, by decide, rfl,
   ⟨by decide, ⟨by decide +kernel, .inl rfl⟩, okOf (by decide +kernel), rfl, wts_quiet _ _ _ _ rfl (by decide +kernel), .inl (by decide +kernel), by decide +kernel⟩, _, rfl⟩

/-- RFT outside a handler, behind a load, with a frame whose RET count is 17, with one that stands, with one that resumes behind no
header, and with one whose header is on a page that is not mapped. -/
def Sys2Proof.Tests.wrf (r spc item : Nat) : State :=
  { wts { wt with hnd := true } wtp with
    mem := State.writeBytes (State.writeBytes (State.writeBytes (State.writeBytes (placeTables []) 0x5000 (bytesOf (item * 2 ^ 28) 4)) 0x5008 (bytesOf spc 4))
      0x5078 (bytesOf r 4)) 0x5100 (bytesOf 0xFC003FC8 4) }
theorem test_witness_RftRestoresWhatTheFrameHolds : (wts wt wtp).runs wt ∧ wt.hnd = false ∧
    (∃ t : Strand, (wts t wtp).runs t ∧ t.hnd = true ∧ t.drained3 = false) ∧
    (let t : Strand := { wt with hnd := true }
     ([(17, 0x100, 0, 0), (0, 0x100, 0, 1), (0, 0x100, 1, 1), (0, 0x104, 1, 0), (0, 0x3004, 1, 2)] : List (Nat × Nat × Nat × Nat)).Forall (fun x =>
      let s := wrf x.1 x.2.1 x.2.2.1
      let f : Nat → Word := fun i => BitVec.ofNat 32 (s.coreRead t.core (State.physOf we t.frame + 4 * i) 4 we.coh)
      let ldep := fld (f 30).toNat 5 3
      s.runs t ∧ (∀ c, (s.clu c).comb = []) ∧ s.xlate t.part t.ctx t.core t.frame t.priv .read = .ok we ∧ t.drained3 = true ∧ s.frameWaits t = false ∧
      (x.1 = 0 ↔ fld (f 30).toNat 0 5 ≤ 16 ∧ ldep ≤ 4 ∧ (∀ L, L < 4 → ((f (39 + 16 * L)).getLsbD 2 = true ↔ L < ldep))) ∧
      (match s.clauseOf { t with hnd := false } (pair (f 2) (f 3)) (fld (f 0).toNat 28 4) with | .ok none => 0 | .ok _ => 1 | .error _ => 2) =
        (if x.1 = 0 then x.2.2.2 else 1))) := by
  refine ⟨rfl, rfl, ⟨{ wt with hnd := true, ops := [wo 0 .ld none []] }, rfl, rfl, by decide +kernel⟩, ?_, ?_, ?_, ?_, ?_⟩
  all_goals exact ⟨rfl, fun _ => rfl, okOf (by decide +kernel), by decide +kernel⟩

/-- A strand with lanes left after EXIT, and one with none. -/
theorem test_witness_ExitEndsTheActiveLanes :
    (∃ t : Strand, (ws t).runs t ∧ t.live &&& ~~~ t.exec ≠ 0#128) ∧ (ws wt).runs wt ∧ wt.live &&& ~~~ wt.exec = 0#128 :=
  ⟨⟨wln, rfl, by decide⟩, rfl, by decide⟩

/-- A fault under DBG, in a handler, without one, with one at once, and with one behind a load. -/
theorem test_witness_EveryFaultGoesWhereItsTableSendsIt : (FaultInfo.next { code := 3 }) = false ∧ (0 : Nat) < ccBase ∧ wt.run ≠ .halted ∧ wt.pend = none ∧ wt.ctx < 16 ∧
    ((wts wt (wtp.wr 0xA0C0 1#32)).strand? 0 = some wt ∧ ∃ p, (wts wt (wtp.wr 0xA0C0 1#32)).part? wt.part = some p ∧ p.dbg = true) ∧
    (∃ t : Strand, (wts t wtp).strand? 0 = some t ∧ t.hnd = true ∧ t.pend = none ∧ t.run ≠ .halted) ∧
    ((wts wt placePart).strand? 0 = some wt ∧ (∃ p, (wts wt placePart).part? wt.part = some p ∧ p.dbg = false) ∧ ((wts wt placePart).csr wt.part (tvec wt + 0x18)).getLsbD 0 = false) ∧
    (handlerTakes (wts wt wtp) wt ∧ frameOk (wts wt wtp) 0 wt we ∧ wt.drained3 = true ∧ ((wts wt wtp).clu (wt.core / 2)).change = none) ∧
    (∃ t : Strand, (wts t wtp).strand? 0 = some t ∧ t.pend = none ∧ t.run ≠ .halted ∧ handlerTakes (wts t wtp) t ∧ t.drained3 = false) ∧
    (∃ s : State, s.strand? 0 = some wt ∧ (s.clu (wt.core / 2)).change ≠ none) ∧ (∀ p t, (t : Strand).core = 0 → ((wts t p).clu (t.core / 2)).change = none) :=
  ⟨rfl, by decide, by decide, rfl, by decide, ⟨rfl, _, rfl, by decide +kernel⟩, ⟨{ wt with hnd := true }, rfl, rfl, rfl, by decide⟩, ⟨rfl, ⟨placePart, rfl, by decide +kernel⟩, by decide +kernel⟩,
   ⟨wts_takes wt rfl rfl rfl, wts_frame _ (.inl rfl), by decide +kernel, rfl⟩,
   ⟨{ wt with ops := [wo 0 .ld none []] }, rfl, rfl, by decide, wts_takes _ rfl rfl rfl, by decide +kernel⟩,
   ⟨(wts wt wtp).setClu 0 { State.reset.clu 0 with change := some (true, 5) }, rfl, by decide +kernel⟩, fun _ _ h => by rw [h]; rfl⟩
end

/-! ### Witnesses: control registers, power and the learner -/
section
set_option Elab.async false
open Sys2Proof Sys2Proof.Machine Sys2Proof.Tests Sys2Proof.Rules

/-- PROG of the last id. -/
theorem test_witness_ProgCountsOnceWhateverExecHolds : (ws wt).runs wt ∧ (Instr.prog 255).wf = true ∧ (ws wt).part? wt.part = some placePart :=
  ⟨rfl, by decide +kernel, rfl⟩

/-- An unprivileged strand, a misaligned offset, the first past the block. -/
theorem test_witness_ControlWordAccessesAreCheckedInOrder : (Instr.csrr 383 383).wf = true ∧ (Instr.csrw 383 383).wf = true ∧
    (∃ t : Strand, (ws t).runs t ∧ t.priv = false) ∧ (∃ t : Strand, (ws t).runs t ∧ t.priv = true ∧ (t.getS 383).toNat % 4 ≠ 0) ∧
    (∃ t : Strand, (ws t).runs t ∧ t.priv = true ∧ (t.getS 383).toNat % 4 = 0 ∧ (t.getS 383).toNat = 65536) :=
  ⟨by decide +kernel, by decide +kernel, ⟨{ wt with priv := false }, rfl, rfl⟩, ⟨wt.putS 383 3#32, rfl, rfl, by decide +kernel⟩,
   ⟨wt.putS 383 65536#32, rfl, rfl, by decide +kernel, by decide +kernel⟩⟩

/-- A 32-bit register, the last word of the block, both words of TIMELIKE 64-bit registers, the high one latched and not. -/
theorem test_witness_CsrrReadsAWordOrALatchedHalf : (Instr.csrr 0 383).wf = true ∧
    ([0x80, 0xFFFC, 0x200, 0x204] : List Nat).Forall (fun off => ∃ t : Strand, (ws t).runs t ∧ t.priv = true ∧ (t.getS 383).toNat = off ∧ plainRead off) ∧
    is64 0x80 = false ∧ is64 0x200 = true ∧ is64 0x204 = true ∧ AMap.look wt.csrHi 0x200 = none ∧
    AMap.look ({ wt with csrHi := [(0x200, 7#32)] } : Strand).csrHi 0x200 = some 7#32 := by
  refine ⟨by decide +kernel, ⟨⟨wt.putS 383 0x80#32, rfl, rfl, ?_⟩, ⟨wt.putS 383 0xFFFC#32, rfl, rfl, ?_⟩, ⟨wt.putS 383 0x200#32, rfl, rfl, ?_⟩, ⟨wt.putS 383 0x204#32, rfl, rfl, ?_⟩⟩,
    by decide +kernel, by decide +kernel, by decide +kernel, rfl, rfl⟩
  all_goals exact ⟨by decide +kernel, by unfold plainRead; decide +kernel⟩

/-- WDOG, the last breakpoint's word; a context root's and the last trap vector's low and high words. -/
theorem test_witness_RegisterWritesStoreTheWritableBits : (Instr.csrw 0 383).wf = true ∧ (ws wt).part? wt.part = some placePart ∧
    plainMask 0xE1C = some (2 ^ 32 - 1) ∧ plainMask 0xA170 = some 0x7F ∧ plainMask64 0x200 = some 0x000FFFFFFFFFF001 ∧ plainMask64 0xDF8 = some 0x000FFFFFFFFFF001 ∧
    ([0xE1C, 0xA170, 0x200, 0xDF8, 0x204, 0xDFC] : List Nat).Forall (fun off => ∃ t : Strand, (ws t).runs t ∧ t.priv = true ∧ t.part = 0 ∧ (t.getS 383).toNat = off) := by
  refine ⟨by decide +kernel, rfl, rfl, rfl, by decide, by decide, ⟨wt.putS 383 0xE1C#32, rfl, rfl, rfl, ?_⟩, ⟨wt.putS 383 0xA170#32, rfl, rfl, rfl, ?_⟩, ⟨wt.putS 383 0x200#32, rfl, rfl, rfl, ?_⟩,
    ⟨wt.putS 383 0xDF8#32, rfl, rfl, rfl, ?_⟩, ⟨wt.putS 383 0x204#32, rfl, rfl, rfl, ?_⟩, ⟨wt.putS 383 0xDFC#32, rfl, rfl, rfl, ?_⟩⟩
  all_goals decide +kernel

/-- An interval that measures 7 nJ of a cluster and 9 of a rail. -/
def Sys2Proof.Tests.wiv : IntervalIn := ⟨[(0, 7)], [], [(0, 1, 9)], []⟩
/-- A partition with a knob written, one with an action to apply, one with neither. -/
theorem test_witness_ControlBoundaryMovesKnobsSlideAndRails :
    ([placePart, { placePart with knobSw := [(65, 70)] }, { placePart with knobAct := some 15 }, { placePart with knobAct := some 0 }] : List Part).Forall (fun p =>
      AMap.sortedFrom 0 (wts wt p).parts = true ∧ (∀ q p', (wts wt p).part? q = some p' → ∀ e ∈ p'.knobSw, e.1 ≤ 66) ∧ (wts wt p).part? 0 = some p ∧
      (p.knobSw.map (·.1)).Nodup ∧ (∀ c ∈ partClusters p.cfg, ownedBy (wts wt p) 0 c)) := by
  have one : ∀ p q p', (wts wt p).part? q = some p' → q = 0 ∧ p' = p := by
    intro p q p' h
    have h : AMap.look [(0, p)] q = some p' := h
    simp only [AMap.look] at h
    split at h
    · rename_i hq; exact ⟨hq, (Option.some.inj h).symm⟩
    · exact nomatch h
  and_intros
  all_goals first
    | rfl
    | (intro q p' h; obtain ⟨-, rfl⟩ := one _ _ _ h; decide)
    | (intro c hc q p' h
       obtain ⟨rfl, rfl⟩ := one _ _ _ h
       refine ⟨fun _ => rfl, fun _ => ?_⟩
       revert c; decide +kernel)
    | decide

/-- The same machine's boundary. -/
theorem test_witness_EnergyIsAttributedOnceAndAddsUp : AMap.sortedFrom 0 (wts wt placePart).parts = true ∧
    (∀ q p, (wts wt placePart).part? q = some p → ∀ e ∈ p.knobSw, e.1 ≤ 66) ∧ (∃ s', exec (.controlBoundary wiv) (wts wt placePart) = .next s') ∧
    (wts wt placePart).part? 0 = some placePart ∧ metersAgree placePart ∧ (∀ e ∈ (wts wt placePart).parts, e.2.failed = []) ∧ carriesOrdered (wts wt placePart) ∧
    attributed (wts wt placePart) + carried (wts wt placePart) + measuredEnergy wiv < 2 ^ 64 := by
  refine ⟨rfl, ?_, ⟨_, rfl⟩, rfl, by unfold metersAgree; decide +kernel, by decide +kernel, by unfold carriesOrdered; decide +kernel, by decide +kernel⟩
  intro q p h
  have h : AMap.look [(0, placePart)] q = some p := h
  simp only [AMap.look] at h
  split at h
  · cases Option.some.inj h; decide
  · exact nomatch h

/-- A change under way and none; a partition. -/
theorem test_witness_RailChangesCompleteAndSlewStepsWakeInOrder :
    (∃ s : State, (s.clu 127).change = some (true, 20)) ∧ (State.reset.clu 127).change = none ∧ (ws wt).part? 0 = some placePart :=
  ⟨⟨{ State.reset with clus := [(127, { State.reset.clu 127 with change := some (true, 20) })] }, by decide +kernel⟩, by decide +kernel, rfl⟩

/-- A learner whose decision at 50 microseconds is due with a transition to learn from, one in EVAL, and one of no interval. -/
def Sys2Proof.Tests.wlr (v : Word) : Part := { (placePart.wr 0x4000 v).wr 0x4004 0x320000#32 with anchor := 0, havePrev := true, prevS := 255, prevA := 15 }
theorem test_witness_DecisionsLatchUpdateAndStayInTheEnvelope :
    ((ws wt).part? 0 = some placePart ∧ ∀ b, ¬ dueDecision placePart (ws wt).time b) ∧
    ([0x0D000101#32, 0x0D000103#32] : List Word).Forall (fun v => ({ wts wt (wlr v) with time := 99999 } : State).part? 0 = some (wlr v) ∧
      dueDecision (wlr v) ({ wts wt (wlr v) with time := 99999 } : State).time 50000) ∧
    ((wlr 0x0D000101#32).havePrev = true ∧ ((wlr 0x0D000101#32).rd 0x4000).getLsbD 1 = false ∧ (wlr 0x0D000101#32).prevS < 256 ∧ (wlr 0x0D000101#32).prevA < 16 ∧
      (wlr 0x0D000101#32).nact = 16 ∧ ∀ x ∈ [0, 255], (∃ a, a < 16 ∧ (wlr 0x0D000101#32).q x a = 0) ∧ ∀ a, a < 16 → (wlr 0x0D000101#32).q x a ≤ 0) ∧
    ((wlr 0x0D000103#32).rd 0x4000).getLsbD 1 = true ∧ placePart.havePrev = false := by
  have due : ∀ v : Word, ((wlr v).rd 0x4000).getLsbD 0 = true → (wlr v).interval = 50000 → dueDecision (wlr v) 99999 50000 :=
    fun v h hi => ⟨h, by omega, ⟨1, by omega, by show 50000 = 0 + 1 * (wlr v).interval; omega⟩, by omega,
      fun hp => hp.elim (fun h => absurd h (by show ¬ 50000 ≤ 0; decide)) (fun ⟨_, h, _⟩ => nomatch h), fun n hn hl => by
        rw [hi] at hl; have : (wlr v).anchor = 0 := rfl; omega⟩
  refine ⟨⟨rfl, fun b h => ?_⟩, ⟨⟨rfl, due _ (by decide +kernel) (by decide +kernel)⟩, rfl, due _ (by decide +kernel) (by decide +kernel)⟩, by decide +kernel, by decide +kernel⟩
  exact absurd h.1 (by decide +kernel)

/-- The learner wlr, whose last decision was at 50 microseconds where d is so. -/
def Sys2Proof.Tests.wld (d : Bool) : Part := { wlr 0x0D000101#32 with lastDec := if d then some 50000 else none }
theorem Sys2Proof.Tests.wld_fields (d : Bool) : (wld d).anchor = 0 ∧ (wld d).reAnchor = 0 ∧ (wld d).interval = 50000 ∧ ((wld d).rd 0x4000).getLsbD 0 = true := by
  cases d <;> decide +kernel
theorem Sys2Proof.Tests.wld_due : dueDecision (wld false) 99999 50000 ∧ 99999 < 50000 + (wld false).interval := by
  obtain ⟨h1, h2, h3, h4⟩ := wld_fields false
  unfold dueDecision pastBoundary
  rw [h1, h2, h3]
  exact ⟨⟨h4, by omega, ⟨1, by omega, by omega⟩, by omega, fun hp => hp.elim (fun h => absurd h (by decide)) (fun ⟨_, h, _⟩ => nomatch h), fun n hn hl => by omega⟩, by omega⟩
theorem Sys2Proof.Tests.wld_notDue (d : Bool) (b : Nat) : ¬ dueDecision (wld d) (if d then 99999 else 49999) b := by
  obtain ⟨h1, h2, h3, h4⟩ := wld_fields d
  unfold dueDecision pastBoundary
  rw [h1, h2, h3]
  rintro ⟨-, -, ⟨n, hn, rfl⟩, hle, hp, -⟩
  cases d
  · simp only [Bool.false_eq_true, if_false] at hle; omega
  · simp only [if_true] at hle
    exact hp (.inr ⟨50000, rfl, by omega⟩)

/-- A decision that is due; a partition at rest with a write that fits and one that does not; a learner running with its own word and with
another; LCFG2's interval and column in range and not, and what is due after the write; knobs of each kind. -/
theorem test_witness_LearnerRegisterWritesStoreOrRefuse :
    (let s : State := { wts wt (wld false) with time := 99999 }
     s.part? 0 = some (wld false) ∧ dueDecision (wld false) s.time 50000 ∧ s.time < 50000 + (wld false).interval ∧
     ∃ s1, exec (.decision 0 (Config.sensed 0 s.time)) s = .next s1) ∧
    (ws wt).part? 0 = some placePart ∧ (∀ b, ¬ dueDecision placePart (ws wt).time b) ∧ (placePart.rd 0x4000).getLsbD 0 = false ∧
    lcfgFits 0x3FE09100 ∧ ¬ lcfgFits 0 ∧
    (∀ d : Bool, let s : State := { wts wt (wld d) with time := if d then 99999 else 49999 }
      s.part? 0 = some (wld d) ∧ ∀ b, ¬ dueDecision (wld d) s.time b) ∧
    (let p := wld false
     (p.rd 0x4000).getLsbD 0 = true ∧ (BitVec.ofNat 32 0x0D000100 &&& 0x3FFFFFF7#32) ||| 1#32 = p.rd 0x4000 ∧
     (BitVec.ofNat 32 0x0D000110 &&& 0x3FFFFFF7#32) ||| 1#32 ≠ p.rd 0x4000 ∧
     fld 0x310000 16 16 < 50 ∧ (50 ≤ fld 0x32_0F00 16 16 ∧ fld 0x32_0F00 8 4 < fld (p.rd 0x4000).toNat 4 5) ∧
     fld 0x33_0F00 16 16 ≠ fld (p.rd 0x4004).toNat 16 16 ∧ (wld true).lastDec = some 50000 ∧ p.lastDec = none) ∧
    (∃ s' p', exec (.lcfg2Write 0 0x33_0F00) { wts wt (wld true) with time := 99999 } = .next s' ∧ s'.part? 0 = some p' ∧
      dueDecision p' 200000 101000) ∧
    fld (placePart.rd 0x4000).toNat 4 5 ≤ fld 0x32_0F00 8 4 :=
  ⟨⟨rfl, wld_due.1, wld_due.2, _, rfl⟩, rfl, fun b h => absurd h.1 (by decide +kernel), by decide +kernel, by unfold lcfgFits; decide +kernel, by unfold lcfgFits; decide +kernel,
   fun d => ⟨rfl, wld_notDue d⟩, by decide +kernel,
   ⟨_, _, rfl, rfl, by decide +kernel, by decide +kernel, ⟨1, by decide, by decide +kernel⟩, by decide,
     fun hp => hp.elim (fun h => absurd h (by decide +kernel)) (fun h => absurd h (by decide +kernel)), fun n hn hl => by
       have : ∀ a i : Nat, a = 50000 → i = 51000 → a + n * i < 101000 → False := by intro a i ha hi h; subst ha hi; omega
       exact (this _ _ (by decide +kernel) (by decide +kernel) hl).elim⟩, by decide +kernel⟩
end

/-! ### Witnesses: hallmarks, anchors and resets -/
section
set_option Elab.async false
open Sys2Proof Sys2Proof.Machine Sys2Proof.Tests Sys2Proof.Rules

/-- A partition with HMEN set whose context 15 has drained, at its last boundary, at the one that is due, and one before. -/
def Sys2Proof.Tests.whm : Part := { placePart.wr 0x8018 0x100064#32 with ctxEnd := [15 + 16] }
theorem test_witness_HallmarksAreIssuedWhenDue :
    ([whm, placePart.wr 0x8018 0x64#32] : List Part).Forall (fun p => (wts wt p).part? 0 = some p ∧ (∀ c, ((wts wt p).clu c).comb = []) ∧ reachable (wts wt p) (hallmarkAddr p) ∧
      hallmarkWaits (wts wt p) p = false) ∧
    (whm.rd 0x8018).getLsbD 20 = true ∧ ((placePart.wr 0x8018 0x64#32).rd 0x8018).getLsbD 20 = false ∧ 99999999 < whm.hmEnd + hallmarkEvery whm ∧ whm.hmEnd + hallmarkEvery whm ≤ 100000000 ∧
    Nat.testBit 16 4 = true ∧ Nat.testBit 15 4 = false ∧ 15 + 16 ∈ whm.ctxEnd ∧ 0 + 16 ∉ whm.ctxEnd ∧
    (let p : Part := { whm with ctxEnd := [0, 31] }
     let t : Strand := { wt with ops := [wo 0 .ld none []] }
     0 ∈ p.ctxEnd ∧ 15 + 16 ∈ p.ctxEnd ∧ AMap.sortedFrom 0 (wts wt p).parts = true ∧ hallmarkWaits (wts wt p) p = false ∧ hallmarkWaits (wts t p) p = false ∧
     drainedCtx (wts wt p) 0 0 ∧ ¬ drainedCtx (wts t p) 0 0) :=
  by
    and_intros
    all_goals first
      | decide +kernel
      | exact fun _ => rfl
      | exact .inl (by decide +kernel)
      | exact fun h => absurd (h.1 _ (List.mem_cons_self ..) rfl rfl) (List.cons_ne_nil _ _)

/-- Two anchors in flash, the second newer, with a meter of partition 7. -/
def Sys2Proof.Tests.wan (n : Nat) : Anchor := ⟨n, 5, 6, [], [⟨7, [(0x8100, 9#32)], 3, 2000, []⟩], true⟩
def Sys2Proof.Tests.wfl : State := { ws wt with flash0 := some (wan 3), flash1 := some (wan 4) }
theorem Sys2Proof.Tests.wfl_slots : validSlot wfl.flash0 = some (wan 3) ∧ validSlot wfl.flash1 = some (wan 4) ∧ newest wfl = some (wan 4) := by decide +kernel
theorem Sys2Proof.Tests.wfl_differ : slotsDiffer wfl := by
  unfold slotsDiffer
  rw [wfl_slots.1, wfl_slots.2.1]
  refine ⟨fun a h => ?_, fun a h => ?_, fun a ha b hb => ?_⟩
  · cases Option.some.inj h; decide
  · cases Option.some.inj h; decide
  · cases Option.some.inj ha; cases Option.some.inj hb; decide

/-- A write that succeeds and one that fails, with empty flash and with both slots full. -/
theorem test_witness_AnchorsHoldEveryMeterAndAlternate : slotsDiffer wfl ∧ slotsDiffer State.reset ∧ newest wfl = some (wan 4) ∧ 1 % 2 = 1 ∧ 0 % 2 = 0 ∧
    (∃ e ∈ wfl.parts, e.1 = 0) ∧ ∃ x, x ∈ ({ wfl with lost := (wan 4).parts } : State).lost :=
  ⟨wfl_differ, ⟨nofun, nofun, nofun⟩, wfl_slots.2.2, rfl, rfl, ⟨(0, placePart), List.mem_cons_self .., rfl⟩, _, List.mem_cons_self ..⟩

/-- Records whose signatures fail and stand, and one whose partitions overlap; no anchor, one that names the partition, and one that does
not. -/
theorem test_witness_ColdBootsResumeFromTheNewestAnchor : newest State.reset = none ∧ newest wfl = some (wan 4) ∧ slotsDiffer wfl ∧
    (let c : PartRec := ⟨7, 2, 0, 7, 0, 3, 0, 0, 0⟩
     let d : PartRec := ⟨6, 3, 0, 0, 0, 0, 0, 0, 0⟩
     (⟨1, 0, true, [c], wcal, 0, 0⟩ : BootRec).fwSig % 4 ≠ 0 ∧ (⟨0, 3, true, [c], wcal, 0, 0⟩ : BootRec).cfgSig % 4 ≠ 0 ∧ layoutOk [c, d] = false ∧
     (let r : BootRec := ⟨0, 0, true, [c], wcal, 0, 0⟩
      r.fwSig % 4 = 0 ∧ r.cfgSig % 4 = 0 ∧ layoutOk r.parts = true ∧ c ∈ r.parts) ∧ layoutOk [d] = true ∧
     (wan 4).parts.find? (fun y => y.part == c.p) = some ⟨7, [(0x8100, 9#32)], 3, 2000, []⟩ ∧ (wan 4).parts.find? (fun y => y.part == d.p) = none) ∧
    (∃ s', exec (.coldBoot ⟨0, 0, true, [⟨6, 3, 0, 0, 0, 0, 0, 0, 0⟩], wcal, 0, 0⟩) wfl = .next s' ∧ s'.part? 7 = none) :=
  ⟨rfl, wfl_slots.2.2, wfl_differ, ⟨by decide, by decide, by decide +kernel, by decide +kernel, by decide +kernel, rfl, rfl⟩, _, rfl, by decide +kernel⟩

/-- A partition with a strand, reset by PRST and by its function; functions 0 and 9; a part with a good image and one with none. -/
theorem test_witness_ResetsKeepTheAlwaysOnIsland : (ws wt).part? 0 = some placePart ∧ AMap.sortedFrom 0 placePart.csr = true ∧ (ws wt).win 0x20 = 0#32 ∧
    (∀ c, c < 16 → (ws wt).contextReady 0 c = true) ∧
    (∀ c, c < 16 → (stopAll (prstBegin (ws wt) 0) 0).opsDone 0 c = true ∧ endWaits (stopAll (prstBegin (ws wt) 0) 0) 0 c 4 = false) ∧ (∀ e ∈ (ws wt).strands, e.2.ctx < 16) ∧ (8 : Nat) < 9 ∧
    (let r : BootRec := ⟨0, 0, true, [⟨7, 2, 0, 7, 0, 3, 0, 0, 0⟩], wcal, 0, 0⟩
     let s : State := { ws wt with image := some r }
     s.image = some r ∧ (s.win 0x10).getLsbD 0 = false ∧ r.fwSig % 4 = 0 ∧ r.cfgSig % 4 = 0 ∧ layoutOk r.parts = true) ∧ (ws wt).image = none :=
  ⟨rfl, by decide +kernel, rfl, by decide +kernel, by decide +kernel, by decide +kernel, by decide, by decide +kernel, rfl⟩
end

/-! ### Witnesses: the host, errors, the watchdog and attributes -/
section
set_option Elab.async false
open Sys2Proof Sys2Proof.Machine Sys2Proof.Tests Sys2Proof.Rules

/-- The first words of the partition's near DRAM and the last of its stack; a link that is down; clean words; a byte that no
partition owns, the eighth of an access. -/
theorem test_witness_HostAndPeerAccessesActAtTheHome : ({ ws wt with linkUp := false } : State).linkUp = false ∧
    ([0, 2 ^ 35 - 8] : List Nat).Forall (fun a => hostReaches (ws wt) a 8 false ∧ hostReaches (ws wt) a 8 true ∧
      ∀ w, w < 2 → (ws wt).isPoison (a + 4 * w) = false) ∧ ((7 : Nat) < 8 ∧ ¬ decoded (ws wt) (2 ^ 35 - 7 + 7)) := by
  have h : ∀ a wr, (∀ i, i < 8 → physOk (a + i) = true ∧ isSys (a + i) = false ∧ ownsPa placePart.cfg (a + i) = true) → (ws wt).serialMeets 1000001 a 8 wr = false →
      hostReaches (ws wt) a 8 wr :=
    fun a wr h1 h4 => ⟨rfl, fun i hi => ⟨(h1 i hi).1, (h1 i hi).2.1, (0, placePart), List.mem_cons_self .., (h1 i hi).2.2⟩, by decide, h4, fun _ => rfl⟩
  have own : ¬ decoded (ws wt) (2 ^ 35 - 7 + 7) := fun ⟨_, _, e, he, ho⟩ => by
    cases List.mem_singleton.1 he; exact absurd ho (by decide +kernel)
  refine ⟨rfl, List.forall_iff_forall_mem.2 (fun a ha => ⟨h a _ ?_ ?_, h a _ ?_ ?_, ?_⟩), by decide, own⟩
  all_goals (revert a; decide +kernel)

/-- A load in flight with no system-space lane, and one whose lane 127 reads system space. -/
def Sys2Proof.Tests.wsy (l : List (Nat × Nat)) : Op := { wo 0 .ld (some 0) [⟨.v 3 127, 7#32, false⟩, ⟨.v 3 0, 8#32, false⟩] with sys := l }
theorem test_witness_LinkFailuresCompleteAccessesAsPoison : AMap.sortedFrom 0 (ws wt).parts = true ∧ (ws wt).linkUp = true ∧
    ({ ws wt with linkUp := false } : State).linkUp = false ∧
    ([[], [(127, 2 ^ 51)]] : List (List (Nat × Nat))).Forall (fun l => let t : Strand := { wt with ops := [wsy l] }
      (ws t).strand? 0 = some t ∧ t.pend = none ∧ t.ops.find? (fun y => y.path == pathOf 0) = some (wsy l) ∧ (wsy l).err = none ∧ (wsy l).sys = l ∧ t.tx = none ∧
      (ws t).part? t.part = some placePart ∧ (∀ y ∈ (wsy l).lands, y.done = false) ∧ ((wsy l).lands.map (·.dst)).Nodup ∧ (t.ops.map (·.id)).Nodup) :=
  by and_intros; all_goals first | rfl | decide

/-- Sources 3 and 4; an owner at every level; a clean and a dirty sector in an L1. -/
theorem test_witness_SensorAndMemoryErrorsAreCountedAndMarked : (ws wt).part? 0 = some placePart ∧ (3 : Nat) < 4 ∧
    (∀ lvl, lvl ≤ 6 → ∃ k, eccOwner (ws wt) lvl k 0) ∧
    ([0#16, 0x8000#16] : List (BitVec 16)).Forall (fun d => ∃ (s : State) (x : Sector), s.part? 0 = some placePart ∧ eccOwner s 3 0 0 ∧
      AMap.look (s.core 0).l1 (0x503C / 64) = some x ∧ x.dirty = d ∧ x.coh < 4) ∧ (0x8000#16).getLsbD (0x503C / 4 % 16) = true ∧
    (∀ c, ((ws wt).clu c).comb = []) ∧ ¬ onlyInL2 (ws wt) 0 0x5038 ∧
    (∃ s : State, s.part? 0 = some placePart ∧ eccOwner s 5 0 0 ∧ onlyInL2 s 0 0x503C) := by
  refine ⟨rfl, by decide, fun lvl h => ?_, ⟨?_, ?_⟩, by decide, fun _ => rfl, (fun ⟨_, h, _⟩ => nomatch h),
    { ws wt with l2 := { (ws wt).l2 with lines := [(L2.key 0 0x50, ⟨0, 0, 0, 15, 1, 0⟩)] } }, rfl,
    ⟨by decide, by decide, by decide, fun _ => rfl⟩, _, rfl, by decide +kernel⟩
  · by_cases h1 : lvl ≤ 1
    · exact ⟨0, fun _ => ⟨wt, rfl, rfl⟩, by omega, by omega, by omega⟩
    · by_cases h2 : lvl = 2
      · exact ⟨1, by omega, fun _ => ⟨placeWeave, rfl, rfl⟩, by omega, by omega⟩
      · by_cases h3 : lvl = 3 ∨ lvl = 4
        · exact ⟨0, by omega, by omega, fun _ => by decide +kernel, by omega⟩
        · exact ⟨0, by omega, by omega, by omega, fun _ => rfl⟩
  all_goals
    refine ⟨{ ws wt with cores := [(0, { wcore with l1 := [(0x503C / 64, ⟨List.replicate 16 0#32, _, 0#16, 1, 0⟩)] })] }, _, rfl, ⟨by omega, by omega, fun _ => by decide +kernel, by omega⟩, rfl, rfl, by decide⟩

/-- A WDOG of 1 microsecond: at the bound, and past it in each wait; two pins of context 15. -/
def Sys2Proof.Tests.wwd (w : Wait) (q : List MxOp) : Strand := { wm 0 q with wait := w, since := 0 }
theorem test_witness_TheWatchdogFiresAndPinsAreReleased :
    (let s : State := { wts (wwd (.clasp 15 5) []) (placePart.wr 0xE1C 1#32) with time := 1000 }
     s.strand? 0 = some (wwd (.clasp 15 5) []) ∧ 1 = (s.csr 0 0xE1C).toNat ∧ s.time ≤ (wwd (.clasp 15 5) []).since + 1000 * 1) ∧
    ([(.clasp 15 5, []), (.grow, []), (.token, []), (.quad, [.mma wp])] : List (Wait × List MxOp)).Forall (fun x =>
      let s : State := { wts (wwd x.1 x.2) (placePart.wr 0xE1C 1#32) with time := 1001 }
      s.strand? 0 = some (wwd x.1 x.2) ∧ (wwd x.1 x.2).part = 0 ∧ 1 = (s.csr 0 0xE1C).toNat ∧ (wwd x.1 x.2).run ≠ .halted ∧ (wwd x.1 x.2).since + 1000 * 1 < s.time ∧
      (wwd x.1 x.2).pend = none ∧ (wwd x.1 x.2).wait = x.1) ∧
    mmasOf (wwd .quad [.mma wp]) = wp :: [] ∧
    (let s : State := { wts wt (placePart.wr 0x67C 2#32) with pins := [(0x140, 15), (0x141, 15), (0x142, 14)] }
     s.part? 0 = some (placePart.wr 0x67C 2#32) ∧ AMap.sortedFrom 0 s.pins = true ∧ (s.csr 0 (0x604 + 8 * 15)).toNat = (s.pins.filter (fun e => e.2 == 16 * 0 + 15)).length) := by
  and_intros
  all_goals first
    | rfl
    | decide +kernel

/-- A run under way and none; GO clear, set with a request that is refused and with one that stands; a run of one page. -/
theorem test_witness_AttributeTransitionsRewriteTheLeafAndSignal : placePart.attr = none ∧ Nat.testBit 0 31 = false ∧ Nat.testBit (2 ^ 31 + 0x3FE0) 31 = true ∧
    ({ placePart with attr := some ⟨0, 1, 0, 2, 0, 0x100⟩ } : Part).attr = some ⟨0, 1, 0, 2, 0, 0x100⟩ ∧
    (((placePart.wr 0x408 1#32).rd 0x408).toNat ≠ 0 ∧ fld (2 ^ 31 + 0x3FE0) 4 2 = 2 ∧ ownsClu (placePart.wr 0x408 1#32).cfg (fld (2 ^ 31 + 0x3FE0) 6 8 / 2) = false) ∧
    (placePart.rd 0x408).toNat = 0 ∧
    (let r : AttrRun := ⟨1, 1, 0, 2, 0, 0x100⟩
     let p : Part := { placePart with attr := some r }
     let s := { wpk p 0 0 with mem := State.writeBytes (placeTables []) 0x4008 (bytesOf 0x600F 8) }
     s.part? 0 = some p ∧ (∀ c, (s.core c).l1 = [] ∧ (s.core c).stash = [] ∧ (s.clu c).comb = []) ∧ pageLeaf s 0 0 1 = some (0, 0x4008, 0x600F) ∧ isSys 0x4008 = false ∧
     s.xlate 0 0 257 0x100 true .write = .ok we ∧ we.coh = 0 ∧ we.dirty = true ∧ AMap.look (s.core 257).tlb (State.tlbKey 0 0 0x100) = some we ∧
     s.serialHolds 1000000 (State.physOf we 0x100) true = false ∧ isSys (State.physOf we 0x100) = false ∧ 0x4008 + 8 ≤ State.physOf we 0x100 ∧
     s.slice = [] ∧ attrWaits s 0 r = false ∧ r.len = 1 ∧ r.attr < 4 ∧ r.owner < 256 ∧ r.sig % 4 = 0 ∧ r.sig / 4096 % 2 ^ 36 ≠ r.base) := by
  refine ⟨rfl, by decide, by decide, rfl, by decide +kernel, by decide +kernel, rfl, fun c => ?_, by decide +kernel, by decide +kernel, okOf (by decide +kernel), rfl, rfl, by decide +kernel,
    by decide +kernel, by decide +kernel, by decide +kernel, rfl, by decide +kernel⟩
  have h : ((AMap.get [(0, wcore), (257, wcore)] c State.coreDefault).l1 = [] ∧ (AMap.get [(0, wcore), (257, wcore)] c State.coreDefault).stash = []) := by
    simp only [AMap.get, AMap.look]
    split
    · exact ⟨rfl, rfl⟩
    · split <;> exact ⟨rfl, rfl⟩
  exact ⟨h.1, h.2, rfl⟩
end

/-! ### Witnesses: contexts, debug, samples and trace -/
section
set_option Elab.async false
open Sys2Proof Sys2Proof.Machine Sys2Proof.Tests Sys2Proof.Rules

theorem Sys2Proof.Tests.someOf {α : Type} {o : Option α} {f : α → Bool} (h : o.any f = true) : ∃ x, o = some x ∧ f x = true := by
  cases o with
  | some x => exact ⟨x, rfl, h⟩
  | none => cases h

/-- A partition in an attribute run, and one that can stop: its SAVEBASE is 0x8000. -/
def Sys2Proof.Tests.wsb : Part := placePart.wr 0xE08 0x8000#32
def Sys2Proof.Tests.wbusy : Part := { wsb with attr := some ⟨0, 1, 0, 2, 0, 0x100⟩ }
theorem Sys2Proof.Tests.wsb_cores (k : Nat) : (∀ y ∈ ((stoppedFor (wts wt wsb) 0 16 4).core k).l1, y.2.dirty = 0#16) ∧ ((stoppedFor (wts wt wsb) 0 16 4).core k).stash = [] := by
  have hc : (stoppedFor (wts wt wsb) 0 16 4).cores.all (fun e => e.2.l1.isEmpty && e.2.stash.isEmpty) = true := by decide +kernel
  have : ∀ m : AMap Cor, m.all (fun e => e.2.l1.isEmpty && e.2.stash.isEmpty) = true →
      (AMap.get m k State.coreDefault).l1 = [] ∧ (AMap.get m k State.coreDefault).stash = [] := by
    intro m
    induction m with
    | nil => exact fun _ => ⟨rfl, rfl⟩
    | cons e m ih =>
      intro h
      simp only [List.all_cons, Bool.and_eq_true, List.isEmpty_iff] at h
      simp only [AMap.get, AMap.look] at ih ⊢
      split
      · exact h.1
      · exact ih (by simpa only [List.all_eq_true, Bool.and_eq_true, List.isEmpty_iff] using h.2)
  obtain ⟨h1, h2⟩ := this _ hc
  exact ⟨none_dirty h1, h2⟩
theorem Sys2Proof.Tests.wsb_clus (c : Nat) : ((stoppedFor (wts wt wsb) 0 16 4).clu c).comb = [] := by
  have hc : (stoppedFor (wts wt wsb) 0 16 4).clus.all (fun e => e.2.comb.isEmpty) = true := by decide +kernel
  have : ∀ m : AMap Clu, m.all (fun e => e.2.comb.isEmpty) = true → (AMap.get m c State.cluDefault).comb = [] := by
    intro m
    induction m with
    | nil => exact fun _ => rfl
    | cons e m ih =>
      intro h
      simp only [List.all_cons, Bool.and_eq_true, List.isEmpty_iff] at h
      simp only [AMap.get, AMap.look] at ih ⊢
      split
      · exact h.1
      · exact ih (by simpa only [List.all_eq_true, List.isEmpty_iff] using h.2)
  exact this _ hc
theorem Sys2Proof.Tests.wsb_sys (i : Nat) (h : i < State.areaLen ((stoppedFor (wts wt wsb) 0 16 4).savedOf 0 (16 % 16))) : isSys (saveAddr wsb + i) = false := by
  have hl : State.areaLen ((stoppedFor (wts wt wsb) 0 16 4).savedOf 0 (16 % 16)) ≤ 2 ^ 20 := by decide +kernel
  have ha : saveAddr wsb = 0x8000 := by decide +kernel
  rw [ha]; unfold isSys
  simp only [decide_eq_false_iff_not]
  omega
theorem test_witness_SaveWritesTheContextAndEmptiesIt : noRequest wbusy ∧ (wts wt wbusy).part? 0 = some wbusy ∧ (wts wt wbusy).contextReady 0 (16 % 16) = false ∧
    (wts wt wsb).part? 0 = some wsb ∧ noRequest wsb ∧ (wts wt wsb).contextReady 0 (16 % 16) = true ∧
    (∀ i, i < State.areaLen ((stoppedFor (wts wt wsb) 0 16 4).savedOf 0 (16 % 16)) → isSys (saveAddr wsb + i) = false) ∧ (stoppedFor (wts wt wsb) 0 16 4).opsDone 0 (16 % 16) = true ∧
    saveWaits (stoppedFor (wts wt wsb) 0 16 4) 0 (16 % 16) = false ∧
    (∀ k, (∀ y ∈ ((stoppedFor (wts wt wsb) 0 16 4).core k).l1, y.2.dirty = 0#16) ∧ ((stoppedFor (wts wt wsb) 0 16 4).core k).stash = []) ∧
    (∀ c, ((stoppedFor (wts wt wsb) 0 16 4).clu c).comb = []) ∧
    (wts wt wsb).strand? 0 = some wt ∧ 0 < ccBase ∧ wt.part = 0 ∧ wt.ctx = 16 % 16 ∧ atStop wt ∧ sized wt :=
  ⟨by unfold noRequest; decide +kernel, rfl, by decide +kernel, rfl, by unfold noRequest; decide +kernel, by decide +kernel, wsb_sys, by decide +kernel, by decide +kernel, wsb_cores, wsb_clus, rfl, by decide, rfl, rfl,
   by unfold atStop; decide, by unfold sized; decide +kernel⟩

/-- No area at SAVEBASE; an area whose strand's slot is taken; one whose places are free, its frame at a header. -/
def Sys2Proof.Tests.wsd : Saved := ⟨0, 0, [(1, placeBolt)], [(1, placeWeave)], [(0, wt)], [], [], [], false⟩
def Sys2Proof.Tests.wre (taken : Bool) : State :=
  { wts wt { wsb with saved := [wsd], noAdmit := [0] } with
    mem := State.writeBytes (State.writeBytes (placeTables []) 0x5000 (bytesOf 0xFC003FC0 4)) 0x8000 [1#8], strands := if taken then [(0, wt)] else [] }
theorem test_witness_RestoreBringsBackTheSavedStrands : noRequest wsb ∧ (wts wt wsb).part? 0 = some wsb ∧ areaOf (wts wt wsb) wsb (saveAddr wsb) = none ∧ (wts wt wsb).frozenAt 0 = false ∧
    (∃ p a, (wre true).part? 0 = some p ∧ noRequest p ∧ areaOf (wre true) p (saveAddr p) = some a ∧ restoreReady (wre true) 0 = false) ∧
    (∃ p a, (wre false).part? 0 = some p ∧ noRequest p ∧ areaOf (wre false) p (saveAddr p) = some a ∧ a.strands = [(0, wt)] ∧ restoreReady (wre false) 0 = true ∧
      (a.strands.map (·.1)).Nodup ∧ ∃ x t', (State.areaPlan a a.weaves (State.areaHead a)).find? (fun y => y.2.1 == 0 + 1) = some x ∧
        restoreStrand (wre false) (saveAddr p) x.2.2 wt = some t') := by
  refine ⟨by unfold noRequest; decide +kernel, rfl, by decide +kernel, by decide +kernel, ⟨_, wsd, rfl, by unfold noRequest; decide +kernel, by decide +kernel, by decide +kernel⟩,
    _, wsd, rfl, by unfold noRequest; decide +kernel, by decide +kernel, rfl, by decide +kernel, by decide, ?_⟩
  obtain ⟨x, hx, h⟩ := someOf (o := (State.areaPlan wsd wsd.weaves (State.areaHead wsd)).find? (fun y => y.2.1 == 0 + 1))
    (f := fun x => (restoreStrand (wre false) (saveAddr { wsb with saved := [wsd], noAdmit := [0] }) x.2.2 wt).isSome) (by decide +kernel)
  obtain ⟨t', ht⟩ := Option.isSome_iff_exists.1 h
  exact ⟨x, t', hx, ht⟩

/-- The same partitions. -/
theorem test_witness_KillEndsTheContextResidentAndSaved : noRequest wbusy ∧ (wts wt wbusy).part? 0 = some wbusy ∧ (wts wt wbusy).contextReady 0 (16 % 16) = false ∧
    (wts wt wsb).part? 0 = some wsb ∧ noRequest wsb ∧ (wts wt wsb).contextReady 0 (16 % 16) = true ∧
    (stoppedFor (wts wt wsb) 0 16 6).opsDone 0 (16 % 16) = true ∧ endWaits (stoppedFor (wts wt wsb) 0 16 6) 0 (16 % 16) 3 = false :=
  ⟨by unfold noRequest; decide +kernel, rfl, by decide +kernel, rfl, by unfold noRequest; decide +kernel, by decide +kernel, by decide +kernel, by decide +kernel⟩

theorem Sys2Proof.Tests.ws_names (t : Strand) (p : Part) (hp : t.part = 0) (h : t.sid = ((wts t p).csr 0 0xA0C8).toNat) : names (wts t p) 0 0 t := by
  refine ⟨by decide, List.mem_cons_self .., hp, h, fun e he _ _ _ => ?_⟩
  simpa [wts, ws] using he
/-- DSTRAND that names no strand, one that goes, and one that is halted; a stop queue with room and a full one. -/
theorem test_witness_DcmdHaltsAndReleasesTheNamedStrand : (wts wt (placePart.wr 0xA0C8 1#32)).part? 0 = some (placePart.wr 0xA0C8 1#32) ∧
    namesNone (wts wt (placePart.wr 0xA0C8 1#32)) 0 ∧
    names (wts wt placePart) 0 0 wt ∧ AMap.sortedFrom 0 (wts wt placePart).strands = true ∧ wt.run ≠ .halted ∧ wt.edge = false ∧
    (∃ t : Strand, names (wts t placePart) 0 0 t ∧ t.run = .halted) ∧
    ((placePart.rd 0xA0CC - placePart.rd 0xA0D0).toNat < 16 ∧ placePart.stopWait = []) ∧
    16 ≤ ((placePart.wr 0xA0CC 16#32).rd 0xA0CC - (placePart.wr 0xA0CC 16#32).rd 0xA0D0).toNat :=
  ⟨rfl, by unfold namesNone; decide +kernel, ws_names _ _ rfl (by decide +kernel), rfl, by decide, rfl, ⟨{ wt with run := .halted }, ws_names _ _ rfl (by decide +kernel), rfl⟩,
   by decide +kernel, by decide +kernel⟩

/-- A full queue with two records waiting, one entry freed, and all of it. -/
theorem test_witness_StopQueueEntriesFreeInOrder :
    let p : Part := { placePart.wr 0xA0CC 16#32 with stopWait := [(List.replicate 64 1#8, 0), (List.replicate 64 2#8, 0)] }
    (wts wt p).part? 0 = some p ∧ (∀ r ∈ p.stopWait, r.1.length = 64) ∧
      ([1, 16] : List Nat).Forall (fun v => v < 2 ^ 32 ∧ (p.rd 0xA0CC - BitVec.ofNat 32 v).toNat ≤ 16) :=
  ⟨rfl, by decide, ⟨by decide, by decide +kernel⟩, by decide, by decide +kernel⟩

/-- SEN clear; set with room in the ring, and with the ring full. -/
theorem test_witness_SamplesFillTheRingOrAreCountedDropped : (wts wt placePart).ownerOf (1 / 2) = some 0 ∧ (placePart.rd 0xA000).getLsbD 0 = false ∧
    (let p : Part := { placePart.wr 0xA000 1#32 with sRing := (0x9000, 4) }
     (wts wt p).ownerOf (0 / 2) = some 0 ∧ (wts wt p).part? 0 = some p ∧ (p.rd 0xA000).getLsbD 0 = true ∧ nextSample (wts wt p) 0 p 0 = some (0, wt) ∧
     (p.rd 0xA010 - p.rd 0xA014).toNat < 2 ^ p.sRing.2 ∧ isSys (slotOf p.sRing (p.rd 0xA010).toNat) = false ∧ (∀ c, ((wts wt p).clu c).comb = []) ∧
     wt.ctx < 16 ∧ wt.item < 16 ∧ wt.slot < 128 ∧ wt.core < 256 ∧ wt.edge = false ∧ (wts wt p).serialRange 1000000 (slotOf p.sRing (p.rd 0xA010).toNat) 64 = false) ∧
    (let p : Part := { (placePart.wr 0xA000 1#32).wr 0xA010 16#32 with sRing := (0x9000, 4) }
     nextSample (wts wt p) 0 p 0 = some (0, wt) ∧ 2 ^ p.sRing.2 ≤ (p.rd 0xA010 - p.rd 0xA014).toNat) :=
  by and_intros; all_goals first | decide +kernel | exact fun _ => rfl

/-- A traced strand whose block holds 56 bytes since 0. -/
def Sys2Proof.Tests.wtr : Strand := { wt with tr := { wt.tr with on := true, block := List.replicate 56 3#8, last := 0 } }
/-- TEN clear; a traced strand and one that is not; a block 999 and 1000 ns after its last packet; a held block and none. -/
theorem test_witness_TraceControlsAndBlocksFillTheTraceRing :
    (placePart.rd 0xA060).getLsbD 0 = false ∧ Nat.testBit 1 0 = true ∧ (∀ e ∈ (wts wt placePart).strands, e.2.tr.on = false) ∧ placePart.heldBlocks = [] ∧
    (let p : Part := { placePart with tRing := (0xA000, 6) }
     let s : State := { wts wtr p with time := 1000 }
     s.strand? 0 = some wtr ∧ s.part? wtr.part = some p ∧ wtr.tr.on = true ∧ wtr.part = 0 ∧ wtr.tr.last + 1000 ≤ s.time ∧ ({ s with time := 999 } : State).time < wtr.tr.last + 1000 ∧
     wtr.tr.block ≠ [] ∧ wtr.tr.block.length ≤ 56 ∧ wtr.tr.holding = false ∧ p.heldBlocks = [] ∧ (p.rd 0xA074 - p.rd 0xA078).toNat < 2 ^ p.tRing.2 ∧
     (∀ c, (s.clu c).comb = []) ∧ isSys (slotOf p.tRing (p.rd 0xA074).toNat) = false ∧ s.serialRange 1000000 (slotOf p.tRing (p.rd 0xA074).toNat) 64 = false) ∧
    (let bs := List.replicate 64 4#8
     let p : Part := { placePart.wr 0xA074 64#32 with tRing := (0xA000, 6), heldBlocks := [(0, bs)] }
     (wts wtr p).part? 0 = some p ∧ p.heldBlocks = [(0, bs)] ∧ (p.rd 0xA074 - BitVec.ofNat 32 1).toNat < 2 ^ p.tRing.2 ∧ bs.length = 64 ∧
     (∀ c, ((wts wtr p).clu c).comb = []) ∧ isSys (slotOf p.tRing (p.rd 0xA074).toNat) = false ∧ (wts wtr p).serialRange 1000000 (slotOf p.tRing (p.rd 0xA074).toNat) 64 = false ∧
     let t : Strand := { wtr with tr := { wtr.tr with holding := true } }
     (wts t p).strand? 0 = some t ∧ t.tr.holding = true) :=
  by and_intros; all_goals first | decide +kernel | exact fun _ => rfl

/-- A partition whose one strand is halted, and one whose strand goes. -/
theorem test_witness_FreezingNeedsEveryStrandHalted : (ws wt).part? 0 = some placePart ∧
    (∃ t : Strand, (ws t).part? 0 = some placePart ∧ ∀ e ∈ (ws t).strands, e.1 < ccBase → e.2.part = 0 → e.2.run = .halted) ∧
    ∃ e ∈ (ws wt).strands, e.1 < ccBase ∧ e.2.part = 0 ∧ e.2.run ≠ .halted :=
  ⟨rfl, ⟨{ wt with run := .halted }, rfl, by decide⟩, (0, wt), List.mem_cons_self .., by decide⟩
end

/-! ### Worked examples of the learner and of the meters -/
section
set_option Elab.async false
open Sys2Proof Sys2Proof.Machine Sys2Proof.Tests

/-- The partition of R270's example before decision 17, with FMARGIN m. -/
def Sys2Proof.Tests.wex (m : Word) : Part :=
  let l : List (Nat × Word) := [(0x4000, 0x08C22231#32), (0x4004, 0x00640020#32), (0x4008, m), (0x400C, 0xA35#32), (0x401C, 16#32), (0x4040, 0x00100100#32),
    (0x4060, 3#32), (0x4064, 0x4000#32), (0x4068, 0x8000#32), (0x406C, 0xC000#32), (0x40A0, 0x4040#32), (0x40A4, 0x4040#32), (0x4108, 0x00FF0400#32),
    (0x410C, 0x00FF00FF#32), (0x4110, 0x00FF0404#32), (0x4114, 0x00FF00FF#32), (0x4200, 0x01000100#32), (0x4204, 0x01040100#32), (0x4210, 0x00180000#32),
    (0x4220, 0x01040100#32), (0x4230, 0x000C0000#32), (0x4890, 12#32)]
  let p := l.foldl (fun (p : Part) e => p.wr e.1 e.2) placePart
  { (((p.setQ 1 1 0x80).setQ 2 0 0x100).setQ 2 1 0x180).setQ 2 2 0x40 with prevS := 1, prevA := 1, havePrev := true }
/-- Decision 17 of it. -/
def Sys2Proof.Tests.wdec (m : Word) : Part := decideNow (wex m) [(16, 0x30000), (3, 0x999A), (20, 0x10CCD), (28, 0x13333)]

/-- R270: Q(1, 1) = 0x0174, the LFSR, LSTAT, the log entry of action 2 refused by row 1, and action 1 to apply. -/
theorem test_learner_decision : (wdec 0x10000#32).q 1 1 = 0x174 ∧ (wdec 0x10000#32).rd 0x400C = 0x80200519#32 ∧ (wdec 0x10000#32).rd 0x4010 = 0x00072102#32 ∧
    (wdec 0x10000#32).rd 0x4A00 = 17#32 ∧ (wdec 0x10000#32).rd 0x4A04 = 0x212#32 ∧ (wdec 0x10000#32).rd 0x4018 = 0x300#32 ∧ (wdec 0x10000#32).knobAct = some 1 ∧
    ((wdec 0x10000#32).prevS, (wdec 0x10000#32).prevA) = (2, 1) ∧ knobNow (wdec 0x10000#32) 0 = 8 := by decide +kernel

/-- R270: with FMARGIN above context 0's floor sensor the candidate is greedy action 1, and no exploration is permitted. -/
theorem test_learner_margin : fld ((wdec 0x11000#32).rd 0x4010).toNat 8 10 = 0x11 ∧ (wdec 0x11000#32).rd 0x4020 = 0#32 := by decide +kernel

/-- R282: one interval of a cache-die rail of 240,000 nJ over partitions 0 and 1 and 64 unowned slices. -/
theorem test_rail_energy :
    let own : Nat → Nat → Nat → Part := fun x0 x1 y1 => { placePart with cfg := { placePart.cfg with x0 := x0, x1 := x1, y1 := y1 } }
    let s : State := { State.reset with
      parts := [(0, own 0 3 3), (1, own 4 7 2)], calib := ⟨200, 0, 0, 0, 0, 1, 1, 0, 0, 0, 0⟩, clus := [(0, { State.reset.clu 0 with ctxs := [0, 1] })] }
    let s' := s.meterAll ⟨[], [], [(0, 0, 240000)], [(0, 0, 0, 0, 15000, 5000), (0, 0, 0, 1, 10000, 0), (0, 0, 1, 0, 10000, 0)]⟩
    (s'.csr64 0 0x8100, s'.csr64 1 0x8100, s'.house, s'.pkg) = (154400, 72800, 12800, 240000) ∧
    (s'.csr64 0 0x8120, s'.csr64 0 0x8128, s'.csr64 0 0x81A0) = (68800, 34400, 51200) := by decide +kernel
end
end

/-! ### Registers, places and frames: what the strand's updates leave (spec/02 R29, R51, R54)

Rules that the proofs below share. -/
section
namespace Sys2Proof.Proofs
open Sys2Proof Sys2Proof.Machine Sys2Proof.Rules

theorem getS_putS_ite (t : Strand) (q r : Nat) (v : Word) : (t.putS q v).getS r = if r = q then v else t.getS r := by
  by_cases h : r = q
  · simp [h]
  · simp [h, Strand.getS_putS_ne]

theorem getS_setS_ite (t : Strand) (q r : Nat) (v : Word) : (t.setS q v).getS r = if r = q then v else t.getS r := by
  by_cases h : r = q
  · simp [h]
  · simp [h, Strand.getS_setS_ne]

theorem getS_setQ_ite (t : Strand) (q r : Nat) (m : Mask) : (t.setQ q m).getS r =
    if r = q + 3 then maskW m 3 else if r = q + 2 then maskW m 2 else if r = q + 1 then maskW m 1
    else if r = q then maskW m 0 else t.getS r := by
  simp only [Strand.setQ, getS_setS_ite]

@[simp] theorem besidesScalars_jump (t : Strand) (spc : DWord) (lpc : Word) : (t.jump spc lpc).besidesScalars = t.besidesScalars := rfl

/-- A new region pointer is all that setRegion changes, but for the crossing count (R54). -/
@[simp] theorem getS_setRegion (t : Strand) (w : Word) (r : Nat) : (t.setRegion w).getS r = t.getS r := by
  unfold Strand.setRegion; split <;> rfl
@[simp] theorem region_setRegion (t : Strand) (w : Word) : (t.setRegion w).region = w := by
  unfold Strand.setRegion; split
  · assumption
  · rfl
@[simp] theorem item_setRegion (t : Strand) (w : Word) : (t.setRegion w).item = t.item := by unfold Strand.setRegion; split <;> rfl
@[simp] theorem nl_setRegion (t : Strand) (w : Word) : (t.setRegion w).nl = t.nl := by unfold Strand.setRegion; split <;> rfl
@[simp] theorem ns_setRegion (t : Strand) (w : Word) : (t.setRegion w).ns = t.ns := by unfold Strand.setRegion; split <;> rfl
@[simp] theorem hspc_setRegion (t : Strand) (w : Word) : (t.setRegion w).hspc = t.hspc := by unfold Strand.setRegion; split <;> rfl
theorem besidesScalars_setRegion (t : Strand) (w : Word) :
    { (t.setRegion w).besidesScalars with region := t.region } = t.besidesScalars := by
  unfold Strand.setRegion; split <;> rfl

/-- The place of the next item depends on the present place alone. -/
theorem advance_place {t u : Strand} (n : Nat) (hi : u.item = t.item) (hl : u.nl = t.nl) (hs : u.ns = t.ns) (hh : u.hspc = t.hspc) :
    (u.advance n).hspc = (t.advance n).hspc ∧ (u.advance n).item = (t.advance n).item := by
  by_cases h : t.item + n ≤ t.nl + t.ns
  · rw [t.advance_inside h, u.advance_inside (by omega)]
    exact ⟨hh, by simp [hi]⟩
  · have hu := u.advance_last (n := n) (by omega)
    have ht := t.advance_last (n := n) (by omega)
    exact ⟨by rw [hu.2.1, ht.2.1, hs, hh], hu.1.trans ht.1.symm⟩

end Sys2Proof.Proofs
end

/-! ### What the memory operations leave alone (spec/03 R72 to R100)

Every operation on memory changes the bytes and the structures that hold them, and dooms lanes of open transactions; nothing
else of the part. A core with no stash gets none. -/
section
namespace Sys2Proof.Proofs
open Sys2Proof Sys2Proof.Machine Sys2Proof.Rules

/-- The part with its memory, the structures that hold bytes, the window and the strands left open. -/
def besidesMemory (s : State) : State :=
  { s with
    mem := [], poison := [], window := [], slice := [], cores := [], clus := [], strands := [],
    l2 := { lines := [], chan := [], by_ := [], acc := [], hit := [], moved := [], marb := [] } }

/-- State a differs from s in its memory and its strands alone, and core j has no stash where it had none. -/
structure SameRest (s : State) (j : Nat) (a : State) : Prop where
  rest : besidesMemory a = besidesMemory s
  stash : (s.core j).stash = [] → (a.core j).stash = []

theorem SameRest.refl (s : State) (j : Nat) : SameRest s j s := ⟨rfl, id⟩

theorem SameRest.cur {s a : State} {j : Nat} (h : SameRest s j a) : a.cur = s.cur :=
  (congrArg State.cur h.rest : (besidesMemory a).cur = (besidesMemory s).cur)

theorem SameRest.weaves {s a : State} {j : Nat} (h : SameRest s j a) : a.weaves = s.weaves :=
  (congrArg State.weaves h.rest : (besidesMemory a).weaves = (besidesMemory s).weaves)

namespace SameRest
variable {s a : State} {j : Nat}

theorem ite {c : Prop} [Decidable c] {b : State} (ha : SameRest s j a) (hb : SameRest s j b) : SameRest s j (if c then a else b) :=
  State.ite_keeps (P := SameRest s j) ha hb

theorem foldl {α : Type} {f : State → α → State} (h : ∀ b x, SameRest s j b → SameRest s j (f b x)) (l : List α) (ha : SameRest s j a) :
    SameRest s j (l.foldl f a) := foldl_keeps (P := SameRest s j) h l a ha

theorem setCore_of (k : Nat) (c : Cor) (hc : k = j → (s.core j).stash = [] → c.stash = []) (h : SameRest s j a) :
    SameRest s j (a.setCore k c) := by
  refine ⟨h.rest, fun hs => ?_⟩
  by_cases hk : j = k
  · rw [hk, State.core_setCore]
    exact hc hk.symm hs
  · rw [State.core_setCore_ne _ _ hk]
    exact h.stash hs

theorem setCore (k : Nat) (c : Cor) (hc : c.stash = (a.core k).stash) (h : SameRest s j a) : SameRest s j (a.setCore k c) :=
  setCore_of k c (fun hk hs => by rw [hc, hk, h.stash hs]) h

theorem setClu (k : Nat) (c : Clu) (h : SameRest s j a) : SameRest s j (a.setClu k c) := ⟨h.rest, h.stash⟩
theorem l2Read (core ctx pa : Nat) (h : SameRest s j a) : SameRest s j (a.l2Read core ctx pa) := ⟨h.rest, h.stash⟩
theorem l2Write (core ctx pa n : Nat) (h : SameRest s j a) : SameRest s j (a.l2Write core ctx pa n) := ⟨h.rest, h.stash⟩
theorem doomBut (own : Nat → Strand → Bool) (pa : Nat) (wr : Bool) (h : SameRest s j a) : SameRest s j (a.doomBut own pa wr) :=
  ⟨h.rest, h.stash⟩
theorem doom (me pa : Nat) (wr : Bool) (h : SameRest s j a) : SameRest s j (a.doom me pa wr) := ⟨h.rest, h.stash⟩

/-- The home slices' copies are left open. -/
theorem withSlice (m : AMap Sector) (h : SameRest s j a) : SameRest s j { a with slice := m } := ⟨h.rest, h.stash⟩

theorem setPoison (pa : Nat) (h : SameRest s j a) : SameRest s j (a.setPoison pa) := by
  unfold State.setPoison
  split
  · exact h
  · exact ⟨h.rest, h.stash⟩

theorem homeStore (pa : Nat) (bs : List Byte) (h : SameRest s j a) : SameRest s j (a.homeStore pa bs) := by
  unfold State.homeStore
  split
  · exact ⟨h.rest, h.stash⟩
  · exact ⟨h.rest, h.stash⟩

theorem sliceFill (part pa : Nat) (h : SameRest s j a) : SameRest s j (a.sliceFill part pa) := by
  unfold State.sliceFill
  split
  · exact h
  · exact ⟨h.rest, h.stash⟩

theorem sliceBack (k : Nat) (x : Sector) (h : SameRest s j a) : SameRest s j (a.sliceBack k x) :=
  foldl (fun _ _ ha => ite (ite ((homeStore _ _ ha).setPoison _) (homeStore _ _ ha)) ha) _ h

theorem sliceClean (part : Nat) (h : SameRest s j a) : SameRest s j (a.sliceClean part) := foldl (fun _ e ha => withSlice _ (sliceBack e.1 e.2 ha)) _ h

theorem nearStore (part pa coh : Nat) (bs : List Byte) (h : SameRest s j a) : SameRest s j (a.nearStore part pa coh bs) :=
  ite (homeStore _ _ h) (withSlice _ (sliceFill part pa h))

theorem combineWord (wa opc v : Nat) (h : SameRest s j a) : SameRest s j (a.combineWord wa opc v) := ite h (homeStore _ _ h)

theorem combineLineAt (c : Nat) (l : CombLine) (h : SameRest s j a) : SameRest s j (a.combineLineAt c l) :=
  foldl (fun _ _ ha => combineWord _ _ _ ha) _ (setClu c _ h)

theorem combine (pa : Nat) (h : SameRest s j a) : SameRest s j (a.combine pa) := by
  refine foldl (fun b c hb => ?_) _ h
  split
  · exact ite hb (combineLineAt _ _ hb)
  · exact hb

theorem sendLine (c : Nat) (l : CombLine) (h : SameRest s j a) : SameRest s j (a.sendLine c l) := by
  refine ite h (combineLineAt _ _ (foldl (fun b d hb => ?_) _ h))
  split
  · exact combineLineAt _ _ hb
  · exact hb

theorem combineClu (c : Nat) (h : SameRest s j a) : SameRest s j (a.combineClu c) := foldl (fun _ _ hb => sendLine _ _ hb) _ h

theorem homePrep (core pa coh ctx : Nat) (h : SameRest s j a) : SameRest s j (a.homePrep core pa coh ctx) :=
  l2Read _ _ _ (ite (combine _ h) (sliceFill _ _ (combine _ h)))

theorem sectorHome (core sec : Nat) (x : Sector) (h : SameRest s j a) : SameRest s j (a.sectorHome core sec x) := by
  refine foldl (fun b i hb => ite ?_ hb) _ (ite h (l2Write _ _ _ _ h))
  have hn := doomBut (fun _ t => t.core == core) (sec * 64 + 4 * i) true (nearStore (b.homePart core) (sec * 64 + 4 * i) x.coh
    (bytesOf ((x.data.getD i 0#32).toNat) 4) (combine (sec * 64) hb))
  exact ite hn (ite (setPoison _ hn) (withSlice _ hn))

theorem l1Clean (core sec : Nat) (drop : Bool) (h : SameRest s j a) : SameRest s j (a.l1Clean core sec drop) := by
  unfold State.l1Clean
  split
  · exact h
  · exact ite h (setCore _ _ rfl (sectorHome _ _ _ h))

theorem l1CleanAll (core : Nat) (p : Sector → Bool) (drop : Bool) (h : SameRest s j a) : SameRest s j (a.l1CleanAll core p drop) :=
  foldl (fun _ _ hb => l1Clean _ _ _ hb) _ h

theorem l1Room (core line : Nat) (h : SameRest s j a) : SameRest s j (a.l1Room core line) := by
  unfold State.l1Room
  refine ite h ?_
  dsimp only
  split
  · exact foldl (fun _ _ hb => l1Clean _ _ _ hb) _ h
  · exact h

theorem l1Fill (core pa coh ctx : Nat) (h : SameRest s j a) : SameRest s j (a.l1Fill core pa coh ctx) := by
  unfold State.l1Fill
  split
  · exact h
  · exact setCore _ _ rfl (homePrep _ _ _ _ (l1Room _ _ h))

theorem readPrep (core pa coh ctx : Nat) (h : SameRest s j a) : SameRest s j (a.readPrep core pa coh ctx) :=
  ite (homePrep _ _ _ _ h) (l1Fill _ _ _ _ h)

theorem coreWrite (core pa coh ctx : Nat) (bs : List Byte) (h : SameRest s j a) : SameRest s j (a.coreWrite core pa coh ctx bs) := by
  unfold State.coreWrite
  refine ite (nearStore _ _ _ _ (l2Write _ _ _ _ (combine _ h))) ?_
  dsimp only
  split
  · exact l1Fill core pa coh ctx h
  · exact setCore _ _ rfl (l1Fill core pa coh ctx h)

theorem corePoison (core pa coh : Nat) (h : SameRest s j a) : SameRest s j (a.corePoison core pa coh) := by
  unfold State.corePoison
  refine ite (ite (setPoison _ h) (withSlice _ h)) ?_
  split
  · exact setPoison _ h
  · exact setCore _ _ rfl h

theorem stashLineHome (me core : Nat) (m : Stash) (line : Nat) (mask : BitVec 64) (h : SameRest s j a) :
    SameRest s j (a.stashLineHome me core m line mask) := by
  unfold State.stashLineHome
  split
  · exact h
  · exact foldl (fun _ _ hb => ite (ite (corePoison _ _ _ (coreWrite _ _ _ _ _ (doom _ _ _ hb))) (coreWrite _ _ _ _ _ (doom _ _ _ hb))) hb) _ h

theorem stashClean (me core : Nat) (unfill : Bool) (p : Stash → Bool) (h : SameRest s j a) : SameRest s j (a.stashClean me core unfill p) := by
  have hback : SameRest s j (((a.core core).stash.filter p).foldl
      (fun (b : State) m => m.dirty.foldl (fun (b : State) d => b.stashLineHome me core m d.1 d.2) b) a) :=
    foldl (fun _ m hb => foldl (fun _ d hc => stashLineHome me core m d.1 d.2 hc) m.dirty hb) _ h
  refine setCore_of core _ (fun hk hs => ?_) hback
  rw [hk, h.stash hs]
  rfl

theorem releaseAt (me : Nat) (t : Strand) (scope : Nat) (h : SameRest s j a) : SameRest s j (a.releaseAt me t scope) := by
  have h1 := ite (c := 1 ≤ a.scopeOf t scope) (stashClean me t.core false (fun _ => true) h) h
  have h2 := ite (c := 2 ≤ a.scopeOf t scope) (l1CleanAll t.core State.isSc false h1) h1
  have h3 := ite (c := 3 ≤ a.scopeOf t scope) (combineClu (t.core / 2) h2) h2
  exact ite (c := 5 ≤ a.scopeOf t scope) (sliceClean t.part h3) h3

theorem scrubCore (core : Nat) (h : SameRest s j a) : SameRest s j (a.scrubCore core) := setCore _ _ rfl (l1CleanAll _ _ _ h)

theorem takeCore (core ctx creg cscr : Nat) (h : SameRest s j a) : SameRest s j (a.takeCore core ctx creg cscr) := by
  have hs : SameRest s j (if a.coreStands core ctx creg cscr then a else a.scrubCore core) := ite h (scrubCore core h)
  have hc := setCore core { (if a.coreStands core ctx creg cscr then a else a.scrubCore core).core core with
    creg := creg, cscr := cscr, lastCtx := some ctx } rfl hs
  exact ite hc (setClu _ _ hc)

theorem holdAttached (p : Part) (clu core ipk size : Nat) (slots : List Nat) (h : SameRest s j a) :
    SameRest s j (a.holdAttached p clu core ipk size slots) := by
  refine foldl (fun b e hb => ?_) _ h
  exact ite hb (setClu _ _ hb)

end SameRest

/-! #### The turn through scratch and its stash (R76, R79) -/

theorem stashFill_cur (a : State) (me wk off : Nat) : (a.stashFill me wk off).cur = a.cur := by
  unfold State.stashFill
  split
  · rfl
  · rename_i w _
    split
    · rfl
    · rename_i m _
      have hfold := SameRest.foldl (f := fun (b : State) (i : Nat) => (b.doom me (m.page + 256 * (off / 256 % 16) + 64 * i) false).readPrep
        w.home (m.page + 256 * (off / 256 % 16) + 64 * i) m.coh w.ctx) (fun _ _ hb => (hb.doom _ _ _).readPrep _ _ _ _) (List.range 4) (SameRest.refl a 0)
      exact State.ite_keeps (P := fun b : State => b.cur = a.cur) rfl hfold.cur

theorem stashEvict_cur (a : State) (me core : Nat) (x : Stash) (line : Nat) (mask : BitVec 64) : (a.stashEvict me core x line mask).cur = a.cur :=
  ((SameRest.refl a 0).stashLineHome me core x line mask).cur

theorem stashEvictOldest_cur (a : State) (me core : Nat) (o : Option (Stash × Nat × BitVec 64)) :
    (match o with | some x => a.stashEvict me core x.1 x.2.1 x.2.2 | none => a).cur = a.cur := by
  cases o with
  | none => rfl
  | some x => exact stashEvict_cur a me core _ _ _

theorem stashDirty_cur (a : State) (me wk off n : Nat) : (a.stashDirty me wk off n).cur = a.cur := by
  unfold State.stashDirty
  split
  · rfl
  · split
    · rfl
    · exact State.ite_keeps (P := fun b : State => b.cur = a.cur) (stashEvictOldest_cur _ _ _ _) rfl

theorem scrWrite_cur (a : State) (me wk off : Nat) (bs : List Byte) : (a.scrWrite me wk off bs).cur = a.cur :=
  (stashDirty_cur _ me wk off bs.length).trans (stashFill_cur a me wk off)

theorem claspPrep_cur (a : State) (me : Nat) (p : CPlace) : (a.claspPrep me p).cur = a.cur := by
  cases p with
  | scr wk off => exact stashFill_cur a me wk off
  | mem pa => exact (((SameRest.refl a 0).combine pa).doom me pa false).cur

theorem claspWrite_cur (a : State) (me : Nat) (p : CPlace) (c : Clasp) : (a.claspWrite me p c).cur = a.cur := by
  cases p with
  | scr wk off => exact scrWrite_cur a me wk off _
  | mem pa => exact ((((SameRest.refl a 0).combine pa).doom me pa true).homeStore pa _).cur

end Sys2Proof.Proofs
end

/-! ### The frame of lane instructions: suppression and the register budget (spec/02 R59, spec/05 R142, spec/08 R241, spec/19 R327) -/
section
namespace Sys2Proof.Proofs
open Sys2Proof Sys2Proof.Machine Sys2Proof.Rules

variable {s : State} {t : Strand} {i : Instr} {f : LaneF} {regs : List Nat}

/-! #### Suppression -/

theorem suppressed_of_stage (h : 1 ≤ f.stg ∧ t.stage.getLsbD (f.stg - 1) = false) : t.suppressed f = true := by
  obtain ⟨hstg, hbit⟩ := h
  have hne : f.stg ≠ 0 := by omega
  simp [Strand.suppressed, hne, hbit]

theorem laneItem_suppressed (hr : s.runs t) (h : t.suppressed f = true) (body : Strand → Host.Outcome State Fault Refusal) :
    s.laneItem f body = .next (s.setCur (t.advance 1)) := by
  unfold State.laneItem
  rw [State.run_of_runs hr, if_pos h]
  rfl

theorem laneItem_active (hr : s.runs t) (h : t.suppressed f = false) (body : Strand → Host.Outcome State Fault Refusal) :
    s.laneItem f body = body t := by
  unfold State.laneItem
  rw [State.run_of_runs hr, if_neg (by simp [h])]

/-- Every lane instruction but LNOP runs inside the frame of R155. -/
theorem exec_eq_laneItem (h : laneOfInstr i = some f) :
    i = .lnop f ∨ ∃ body, exec i s = s.laneItem f body := by
  unfold laneOfInstr at h
  split at h <;> cases h
  case h_78 => exact Or.inl rfl
  all_goals exact Or.inr ⟨_, rfl⟩

theorem suppressedLaneInstructionsHaveNoEffect : SuppressedLaneInstructionsHaveNoEffect := by
  intro s t i f hr hi h
  obtain rfl | ⟨body, hbody⟩ := exec_eq_laneItem (s := s) hi
  · exact State.run_of_runs hr _
  · obtain hstage | rfl := h
    · rw [hbody, laneItem_suppressed hr (suppressed_of_stage hstage)]
    · exact State.run_of_runs hr _

/-! #### The budget -/

/-- The first register of the list at or beyond the budget. -/
theorem overBudget_some (h : ∃ r ∈ regs, t.budget ≤ r) : ∃ r ∈ regs, t.budget ≤ r ∧ t.overBudget regs = some r := by
  obtain ⟨r, hr⟩ : ∃ r, t.overBudget regs = some r := by
    rw [← Option.isSome_iff_exists]
    simpa [Strand.overBudget] using h
  have hmem := List.mem_of_find?_eq_some hr
  have hle := List.find?_some hr
  exact ⟨r, hmem, by simpa using hle, hr⟩

/-- An item that reads FMT where `fmt`, and else checks its registers first, raises REG_BOUND. -/
theorem laneOp_overBudget {fmt : Bool} (hr : s.runs t) (hs : t.suppressed f = false) (hf : fmt = true → t.fmtBad = false)
    (h : ∃ r ∈ regs, t.budget ≤ r) (eff : Strand → Strand) :
    ∃ r ∈ regs, t.budget ≤ r ∧ s.laneOp f fmt regs eff = s.raise t { code := 8, arg := r, lanes := t.exec } := by
  obtain ⟨r, hmem, hle, hfind⟩ := overBudget_some h
  refine ⟨r, hmem, hle, ?_⟩
  have hbad : (fmt && t.fmtBad) = false := by
    cases fmt
    · rfl
    · simp [hf]
  unfold State.laneOp
  rw [laneItem_active hr hs, hfind, if_neg (by simp [hbad])]

/-- Instruction i is a lane operation that reads FMT where `fmt` and names the registers regs. -/
def isLaneOp (i : Instr) (f : LaneF) (fmt : Bool) (regs : List Nat) : Prop :=
  ∃ regs' eff, (∀ s, exec i s = s.laneOp f fmt regs' eff) ∧ ∀ r, r ∈ regs ↔ r ∈ regs'

theorem isLaneOp_intro {fmt : Bool} (eff : Strand → Strand) (h : ∀ s, exec i s = s.laneOp f fmt regs eff) : isLaneOp i f fmt regs :=
  ⟨regs, eff, h, fun _ => Iff.rfl⟩

theorem isLaneOp_raises {fmt : Bool} (hi : isLaneOp i f fmt regs) (hr : s.runs t) (hs : t.suppressed f = false)
    (hf : fmt = true → t.fmtBad = false) (h : ∃ r ∈ regs, t.budget ≤ r) : raisesRegBound s t i regs := by
  obtain ⟨regs', eff, hexec, hmem⟩ := hi
  obtain ⟨r, hr', hle, he⟩ := laneOp_overBudget (regs := regs') hr hs hf (by simpa [hmem] using h) eff
  exact ⟨r, (hmem r).2 hr', hle, (hexec s).trans he⟩

/-! #### Which lane operation each instruction is -/

theorem intLane_isLaneOp {l : Nat} {a b c v : Word} (h : intLane t l a b c i = some (f, regs, v)) : isLaneOp i f false regs := by
  unfold intLane at h
  split at h <;> cases h
  all_goals exact isLaneOp_intro _ (fun _ => rfl)

theorem pairLane_isLaneOp {l : Nat} {v : DWord} (h : pairLane t l i = some (f, regs, v)) : isLaneOp i f false regs := by
  unfold pairLane at h
  split at h <;> cases h
  case h_1 => exact ⟨_, _, fun _ => rfl, fun r => by by_cases hb : f.bsrc = 0 <;> simp [laneRegs, hb] <;> tauto⟩
  case h_2 => exact isLaneOp_intro _ (fun _ => rfl)

theorem floatLane_isLaneOp {l : Nat} {v : Word} (h : floatLane t l i = some (f, regs, v)) : isLaneOp i f true regs := by
  unfold floatLane at h
  split at h <;> cases h
  all_goals exact isLaneOp_intro _ (fun _ => rfl)

theorem specialNo_isLaneOp {n : Nat} (h : specialNo i = some (f, n)) : isLaneOp i f true [f.vd, f.va] := by
  unfold specialNo at h
  split at h <;> cases h
  all_goals exact isLaneOp_intro _ (fun _ => rfl)

theorem crossLane_isLaneOp {l : Nat} {fmt : Bool} {v : Word} (h : crossLane t l i = some (f, regs, fmt, v)) : isLaneOp i f fmt regs := by
  unfold crossLane at h
  split at h <;> cases h
  all_goals exact isLaneOp_intro _ (fun _ => rfl)

theorem quadLane_isLaneOp {l : Nat} {fmt v : Bool} (h : quadLane t l i = some (f, regs, fmt, v)) : isLaneOp i f fmt regs := by
  unfold quadLane at h
  split at h <;> cases h
  all_goals exact isLaneOp_intro _ (fun _ => rfl)

theorem scalarLane_isLaneOp {fmt : Bool} {v : Word} (h : scalarLane t i = some (f, regs, fmt, v)) : isLaneOp i f fmt regs := by
  unfold scalarLane at h
  split at h <;> cases h
  all_goals exact isLaneOp_intro _ (fun _ => rfl)

theorem aluRegs_isLaneOp {fmt : Bool} (h : aluRegs t i = some (f, regs, fmt)) : isLaneOp i f fmt regs := by
  simp only [aluRegs, Option.or_eq_some_iff, Option.map_eq_some_iff, Prod.mk.injEq] at h
  obtain ⟨⟨f, regs, v⟩, h, rfl, rfl, rfl⟩ | ⟨-, h⟩ := h
  · exact intLane_isLaneOp h
  obtain ⟨⟨f, regs, v⟩, h, rfl, rfl, rfl⟩ | ⟨-, h⟩ := h
  · exact pairLane_isLaneOp h
  obtain ⟨⟨f, regs, v⟩, h, rfl, rfl, rfl⟩ | ⟨-, h⟩ := h
  · exact floatLane_isLaneOp h
  obtain ⟨⟨f, n⟩, h, rfl, rfl, rfl⟩ | ⟨-, h⟩ := h
  · exact specialNo_isLaneOp h
  obtain ⟨⟨f, regs, fmt, v⟩, h, rfl, rfl, rfl⟩ | ⟨-, h⟩ := h
  · exact crossLane_isLaneOp h
  obtain ⟨⟨f, regs, fmt, v⟩, h, rfl, rfl, rfl⟩ | ⟨-, h⟩ := h
  · exact quadLane_isLaneOp h
  obtain ⟨⟨f, regs, fmt, v⟩, h, rfl, rfl, rfl⟩ | ⟨-, h⟩ := h
  · exact scalarLane_isLaneOp h
  split at h <;> cases h
  all_goals exact isLaneOp_intro _ (fun _ => rfl)

/-! #### The dot instructions -/

theorem dotLane_eq_dotGo {l cls : Nat} {int : Bool} {v : Word} (h : dotLane t l i = some (f, cls, int, v)) :
    ∃ op val, exec i s = dotGo op cls int val f s := by
  unfold dotLane at h
  split at h <;> cases h
  all_goals exact ⟨_, _, rfl⟩

theorem dotScale_ne_nan {hi : Nat} (h : t.scaleFmt ≠ 0 → f.imm / 2 ^ (8 * hi) % 256 ≠ 255) : dotScale t f hi ≠ 255 := by
  unfold dotScale
  by_cases hz : t.scaleFmt = 0
  · simp [hz]
  · simpa [hz, fld] using h hz

theorem dotGo_overBudget {op cls : Nat} {int : Bool} (val : Strand → Nat → Word) (hr : s.runs t) (hs : t.suppressed f = false)
    (hfmt : t.fmtBad = false) (hcls : fmtClass t = some cls) (hb : if t.scaleFmt = 0 then f.bsrc = 0 → f.imm = 0 else f.bsrc = 0)
    (hnan : int = true → t.scaleFmt ≠ 0 → f.imm % 256 ≠ 255 ∧ f.imm / 256 % 256 ≠ 255)
    (h : ∃ r ∈ laneRegs f true true true, t.budget ≤ r) :
    ∃ r ∈ laneRegs f true true true, t.budget ≤ r ∧ dotGo op cls int val f s = s.raise t { code := 8, arg := r, lanes := t.exec } := by
  obtain ⟨r, hmem, hle, hfind⟩ := overBudget_some h
  refine ⟨r, hmem, hle, ?_⟩
  have hill : ¬(if t.scaleFmt = 0 then f.bsrc == 0 && f.imm != 0 else f.bsrc != 0) = true := by
    by_cases hz : t.scaleFmt = 0 <;> simpa [hz] using hb
  have hform : ¬(t.fmtBad || fmtClass t != some cls || (int && (dotScale t f 0 == 255 || dotScale t f 1 == 255))) = true := by
    cases int
    · simp [hfmt, hcls]
    · have h0 : dotScale t f 0 ≠ 255 := dotScale_ne_nan (fun hz => by simpa using (hnan rfl hz).1)
      have h1 : dotScale t f 1 ≠ 255 := dotScale_ne_nan (fun hz => by simpa using (hnan rfl hz).2)
      simp [hfmt, hcls, h0, h1]
  unfold dotGo
  rw [laneItem_active hr hs, if_neg hill, if_neg hform, hfind]

theorem laneRegistersBeyondTheBudgetRaiseRegBound : LaneRegistersBeyondTheBudgetRaiseRegBound := by
  refine ⟨fun s t i f regs fmt hr _ hi hs hf h => isLaneOp_raises (aluRegs_isLaneOp hi) hr hs hf h, ?_⟩
  intro s t i f cls int v hr _ hi hs hfmt hcls hb hnan h
  obtain ⟨op, val, he⟩ := dotLane_eq_dotGo (s := s) hi
  unfold raisesRegBound
  rw [he]
  exact dotGo_overBudget val hr hs hfmt hcls hb hnan h

/-! #### Memory and matrix instructions -/

theorem budgeted_overBudget (hr : s.runs t) (hs : t.suppressed f = false) (hx : t.exec ≠ 0#128) (h : ∃ r ∈ regs, t.budget ≤ r)
    (body : Strand → Host.Outcome State Fault Refusal) :
    ∃ r ∈ regs, t.budget ≤ r ∧ s.budgeted f regs body = s.raise t { code := 8, arg := r, lanes := t.exec } := by
  obtain ⟨r, hmem, hle, hfind⟩ := overBudget_some h
  refine ⟨r, hmem, hle, ?_⟩
  unfold State.budgeted
  rw [laneItem_active hr hs, if_neg hx, hfind]

theorem watchStop_none (hw : ∀ a, s.watchHit t a = none) (accs : List Acc) (scalar : Bool) : s.watchStop t accs scalar = none := by
  simp [State.watchStop, hw]

theorem budgetedG_overBudget (hr : s.runs t) (hs : t.suppressed f = false) (hx : t.exec ≠ 0#128) (hw : ∀ a, s.watchHit t a = none)
    (h : ∃ r ∈ State.gRegs f ++ regs, t.budget ≤ r) (accs : Strand → List Acc) (body : Strand → Host.Outcome State Fault Refusal) :
    ∃ r ∈ State.gRegs f ++ regs, t.budget ≤ r ∧ s.budgetedG f regs accs body = s.raise t { code := 8, arg := r, lanes := t.exec } := by
  obtain ⟨r, hmem, hle, hfind⟩ := overBudget_some h
  refine ⟨r, hmem, hle, ?_⟩
  unfold State.budgetedG
  rw [laneItem_active hr hs, if_neg hx, hfind]
  simp [watchStop_none hw]

theorem execMma_overBudget (hr : s.runs t) (hs : t.suppressed f = false) (hx : t.exec ≠ 0#128) (hill : mmaIllegal t f = false)
    (hfmt : mmaFormat t f = false) (h : ∃ r ∈ mmaNames f, t.budget ≤ r) :
    ∃ r ∈ mmaNames f, t.budget ≤ r ∧ execMma f s = s.raise t { code := 8, arg := r, lanes := t.exec } := by
  obtain ⟨r, hmem, hle, hfind⟩ := overBudget_some h
  refine ⟨r, hmem, hle, ?_⟩
  unfold execMma
  rw [laneItem_active hr hs]
  simp [hx, mmaFault, hill, hfmt, hfind]

theorem execMzero_overBudget (hr : s.runs t) (hs : t.suppressed f = false) (hx : t.exec ≠ 0#128) (h : ∃ r ∈ mmaRegs f.vd 32, t.budget ≤ r) :
    ∃ r ∈ mmaRegs f.vd 32, t.budget ≤ r ∧ execMzero f s = s.raise t { code := 8, arg := r, lanes := t.exec } := by
  obtain ⟨r, hmem, hle, hfind⟩ := overBudget_some h
  refine ⟨r, hmem, hle, ?_⟩
  unfold execMzero
  rw [laneItem_active hr hs]
  simp [hx, hfind]

/-- The registers that MSTORE names (R238). -/
def mstoreRegs (f : LaneF) : List Nat := mmaRegs f.va (msNc f) ++ [f.vc] ++ (if msScr f then [] else [f.vc + 1])

theorem execMstore_overBudget (hr : s.runs t) (hs : t.suppressed f = false) (hx : t.exec ≠ 0#128) (hw : ∀ a, s.watchHit t a = none)
    (hfmt : t.fmtBad = false ∧ (t.accFmt = 1 → msSc f = 0 ∧ msAmax f = false)) (h : ∃ r ∈ mstoreRegs f, t.budget ≤ r) :
    ∃ r ∈ mstoreRegs f, t.budget ≤ r ∧ execMstore f s = s.raise t { code := 8, arg := r, lanes := t.exec } := by
  obtain ⟨r, hmem, hle, hfind⟩ := overBudget_some h
  obtain ⟨hbad, hacc⟩ := hfmt
  refine ⟨r, hmem, hle, ?_⟩
  have hwatch : msWatch s t f = none := by simp [msWatch, watchStop_none hw]
  have hform : ¬(t.exec != 0#128 && (t.fmtBad || (t.accFmt == 1 && (msSc f != 0 || msAmax f)))) = true := by
    by_cases ha : t.accFmt = 1
    · simp [hbad, ha, hacc ha]
    · simp [hbad, ha]
  unfold execMstore
  rw [laneItem_active hr hs, hwatch]
  simp only [if_neg hform, if_neg hx]
  unfold mstoreRegs at hfind
  rw [hfind]

/-- The registers of an atomic's groups are those that the model checks (R224). -/
theorem opcRegs_eq (opc : Nat) : opcRegs opc = atomSize opc / 4 := by
  unfold opcRegs atomSize
  split <;> split <;> omega
theorem operandRegs_eq (opc : Nat) : operandRegs opc = atomRegs opc := by
  unfold atomRegs
  split <;> simp_all [operandRegs]

theorem memoryAndMatrixRegistersBeyondTheBudgetRaiseRegBound : MemoryAndMatrixRegistersBeyondTheBudgetRaiseRegBound := by
  intro s t i f regs hr _ hi hs hx hw hmma hmst h
  unfold memRegs at hi
  split at hi <;> cases hi
  case h_1 => exact budgetedG_overBudget hr hs hx hw h _ _
  case h_2 => exact budgetedG_overBudget hr hs hx hw h _ _
  case h_3 =>
    rw [List.append_assoc, opcRegs_eq, operandRegs_eq] at h ⊢
    exact budgetedG_overBudget hr hs hx hw h _ _
  case h_4 =>
    rw [operandRegs_eq] at h ⊢
    exact budgetedG_overBudget hr hs hx hw h _ _
  case h_5 => exact budgeted_overBudget hr hs hx h _
  case h_6 => exact budgeted_overBudget hr hs hx h _
  case h_7 => exact budgeted_overBudget hr hs hx h _
  case h_8 =>
    rw [opcRegs_eq, operandRegs_eq] at h ⊢
    exact budgeted_overBudget hr hs hx h _
  case h_9 => exact budgeted_overBudget hr hs hx h _
  case h_10 => exact budgeted_overBudget hr hs hx h _
  case h_11 => exact execMma_overBudget hr hs hx (hmma rfl).1 (hmma rfl).2 h
  case h_12 => exact execMzero_overBudget hr hs hx h
  case h_13 => exact execMstore_overBudget hr hs hx hw (hmst rfl) h

/-- Proves O5: suppression and the budget check are the frame's, the same for every lane instruction; of the memory and matrix
instructions each has its own checks before the budget's, which the premises exclude. -/
theorem suppressedOrOutOfBudgetLaneInstructionsWriteNothing : Obligations.SuppressedOrOutOfBudgetLaneInstructionsWriteNothing :=
  ⟨suppressedLaneInstructionsHaveNoEffect, laneRegistersBeyondTheBudgetRaiseRegBound, memoryAndMatrixRegistersBeyondTheBudgetRaiseRegBound⟩

end Sys2Proof.Proofs
end

/-! ### The spin detector's demotion (spec/02 R54, R55) -/
section
namespace Sys2Proof.Proofs
open Sys2Proof Sys2Proof.Machine Sys2Proof.Rules

/-- The save area's words after a demotion, by R55: the current path's place, mask and low FMT half stand in them. -/
theorem getS_demote (t : Strand) (r : Nat) : t.demote.getS r =
    if r = t.regionBase + 7 then t.fmt.extractLsb' 0 16 ++ ((t.getS (t.regionBase + 7)).extractLsb' 0 16 ||| 0x800#16)
    else if r = t.regionBase + 11 then maskW t.exec 3 else if r = t.regionBase + 10 then maskW t.exec 2
    else if r = t.regionBase + 9 then maskW t.exec 1 else if r = t.regionBase + 8 then maskW t.exec 0
    else if r = t.regionBase + 6 then t.first else if r = t.regionBase + 5 then loW (t.hspc - t.secBase) else t.getS r := by
  simp only [Strand.demote]
  rw [show ∀ (a : Strand) e f n st, Strand.getS { a with exec := e, fmt := f, spin := n, status := st } r = a.getS r from fun _ _ _ _ _ => rfl]
  simp only [Strand.getS_jump, getS_putS_ite]

/-- SPINDEM, bits 23 to 8 of STATUS, counts up and stays at its top (R55). -/
theorem spindem_counts (x : Word) :
    (if fld x.toNat 8 16 = 0xFFFF then x else x + 0x100#32).toNat / 2 ^ 8 % 2 ^ 16 = min 0xFFFF (x.toNat / 2 ^ 8 % 2 ^ 16 + 1) := by
  unfold fld
  have hx := x.isLt
  split
  · omega
  · rw [BitVec.toNat_add]
    simp only [BitVec.toNat_ofNat]
    omega

theorem toNat_append16 (a b : BitVec 16) : (a ++ b : BitVec 32).toNat = a.toNat * 2 ^ 16 + b.toNat := by
  rw [BitVec.toNat_append, ← Nat.shiftLeft_add_eq_or_of_lt b.isLt, Nat.shiftLeft_eq]

/-- The high half of x over the high half of y. -/
theorem append_high_halves (x y : Word) :
    (x.extractLsb' 16 16 ++ y.extractLsb' 16 16 : BitVec 32) = BitVec.ofNat 32 (x.toNat / 2 ^ 16 * 2 ^ 16 + y.toNat / 2 ^ 16) := by
  apply BitVec.eq_of_toNat_eq
  rw [toNat_append16]
  simp only [BitVec.extractLsb'_toNat, Nat.shiftRight_eq_div_pow, BitVec.toNat_ofNat]
  omega

/-- The demotion swaps the current path with the pending one of its region (R55). -/
theorem demote_swaps (t : Strand) (hp : (t.getS (t.regionBase + 7)).getLsbD 10 = true) :
    standsAt t.demote (t.secBase + (t.getS (t.regionBase + 5)).setWidth 64) (t.getS (t.regionBase + 6)) ∧
      t.demote.exec = t.getQ (t.regionBase + 8) ∧
      t.demote.getS (t.regionBase + 5) = BitVec.ofNat 32 (t.hspc - t.secBase).toNat ∧ t.demote.getS (t.regionBase + 6) = t.first ∧
      t.demote.quadHolds (t.regionBase + 8) t.exec ∧ (t.demote.getS (t.regionBase + 7)).getLsbD 11 = true ∧
      (t.demote.getS (t.regionBase + 7)).getLsbD 10 = true ∧
      t.demote.fmt = (if (t.getS (t.regionBase + 7)).getLsbD 11 then
          BitVec.ofNat 32 (t.fmt.toNat / 2 ^ 16 * 2 ^ 16 + (t.getS (t.regionBase + 7)).toNat / 2 ^ 16)
        else t.getS (t.regionBase + 4)) ∧
      (t.demote.getS (t.regionBase + 7)).toNat / 2 ^ 16 = t.fmt.toNat % 2 ^ 16 ∧
      t.demote.status.toNat / 2 ^ 8 % 2 ^ 16 = min 0xFFFF (t.status.toNat / 2 ^ 8 % 2 ^ 16 + 1) ∧ t.demote.loops = t.loops := by
  have h7 : t.demote.getS (t.regionBase + 7) =
      t.fmt.extractLsb' 0 16 ++ ((t.getS (t.regionBase + 7)).extractLsb' 0 16 ||| 0x800#16) := by simp [getS_demote]
  refine ⟨by simp [standsAt, Strand.demote, Strand.jump], by simp [Strand.demote], ?_, by simp [getS_demote], ?_, ?_, ?_, ?_, ?_, ?_, ?_⟩
  · simp [getS_demote, loW, BitVec.extractLsb']
  · intro w hw
    interval_cases w <;> simp [getS_demote]
  · rw [h7, BitVec.getLsbD_append]
    simp
  · rw [h7, BitVec.getLsbD_append]
    rw [if_pos (by decide), BitVec.getLsbD_or, BitVec.getLsbD_extractLsb']
    simp only [hp, Nat.zero_add, Nat.reduceLT, decide_true, Bool.true_and, Bool.true_or]
  · simp only [Strand.demote, append_high_halves]
  · rw [h7, toNat_append16]
    have := ((t.getS (t.regionBase + 7)).extractLsb' 0 16 ||| 0x800#16).isLt
    simp only [BitVec.extractLsb'_toNat, Nat.shiftRight_zero]
    omega
  · rw [show t.demote.status = if fld t.status.toNat 8 16 = 0xFFFF then t.status else t.status + 0x100#32 by simp [Strand.demote]]
    exact spindem_counts t.status
  · simp [Strand.demote]

/-- The strand that a crossing leaves in a watched region, but for a demotion (R54). -/
def crossed (t : Strand) : Strand :=
  { t with spin := { log := [], hash := some (Config.spinHash t.spin.log), count := t.spin.count + 1, wrote := false } }

/-- A crossing of a watched region with nothing new written counts, and demotes at the 64th (R54, R55). -/
theorem cross_watched {t : Strand} (ho : t.regionOpen = true) (hp : (t.getS (t.regionBase + 7)).getLsbD 10 = true)
    (hw : t.spin.wrote = false) (hh : t.spin.hash = some (Config.spinHash t.spin.log)) :
    t.cross = if 64 ≤ t.spin.count + 1 then (crossed t).demote else crossed t := by
  simp [Strand.cross, crossed, ho, hp, hw, hh]

/-- Settles O11: below a count of 63 a crossing only counts, at 63 it demotes. -/
theorem theSixtyFourthCrossingDemotesThePath : Obligations.TheSixtyFourthCrossingDemotesThePath := by
  intro t ho hp hw hh
  rw [cross_watched ho hp hw hh]
  constructor
  · intro h
    rw [if_neg (by omega)]
    exact ⟨rfl, rfl, rfl⟩
  · intro h
    rw [if_pos (by omega)]
    exact demote_swaps (crossed t) hp

end Sys2Proof.Proofs
end

/-! ### MSPLIT and MJOIN (spec/02 R51, R52) -/
section
namespace Sys2Proof.Proofs
open Sys2Proof Sys2Proof.Machine Sys2Proof.Rules

/-- The save area and the registers beside it after MSPLIT (R51). -/
theorem getS_split (t : Strand) (c sv soff loff r : Nat) : (t.split c sv soff loff).getS r =
    let pend := t.exec &&& ~~~ t.getQ c
    if r = sv + 11 then maskW pend 3 else if r = sv + 10 then maskW pend 2 else if r = sv + 9 then maskW pend 1
    else if r = sv + 8 then maskW pend 0 else if r = sv + 7 then regionWord t pend
    else if r = sv + 6 then t.first + BitVec.ofNat 32 t.nl + sextW loff 16
    else if r = sv + 5 then loW (t.itemAddr + sextD soff 16 * 4#64 - t.secBase) else if r = sv + 4 then t.fmt
    else if r = sv + 3 then maskW t.exec 3 else if r = sv + 2 then maskW t.exec 2 else if r = sv + 1 then maskW t.exec 1
    else if r = sv then maskW t.exec 0 else t.getS r := by
  simp only [Strand.split]
  rw [show ∀ (a : Strand) e n p, Strand.getS { a with exec := e, seqNo := n, splits := p } r = a.getS r from fun _ _ _ _ => rfl]
  simp only [getS_setRegion, getS_setQ_ite, getS_setS_ite, Nat.add_assoc, Nat.reduceAdd]

/-- Beside the scalar registers MSPLIT changes EXEC, the region pointer and the model's note of the split. -/
theorem besidesScalars_split (t : Strand) (c sv soff loff : Nat) :
    { (t.split c sv soff loff).besidesScalars with exec := t.exec, region := t.region, seqNo := t.seqNo, splits := t.splits } =
      t.besidesScalars := by
  have key : ∀ (u : Strand) (w : Word) (e : Mask) (n : Nat) (p : AMap Nat), u.besidesScalars = t.besidesScalars →
      { ({ u.setRegion w with exec := e, seqNo := n, splits := p } : Strand).besidesScalars with
        exec := t.exec, region := t.region, seqNo := t.seqNo, splits := t.splits } = t.besidesScalars := by
    intro u w e n p hu
    have hr : u.region = t.region := (congrArg Strand.region hu : u.besidesScalars.region = _)
    have h := besidesScalars_setRegion u w
    rw [hu, hr] at h
    exact congrArg (fun x : Strand => { x with exec := t.exec, seqNo := t.seqNo, splits := t.splits }) h
  exact key _ _ _ _ _ (by simp)

/-- The bits of the region word that MSPLIT writes: OPEN set, DEMOTED clear, PEND by the other path's mask, OUTER (R51, R167). -/
theorem regionWord_bits (t : Strand) (m : Mask) :
    (regionWord t m).getLsbD 9 = true ∧ (regionWord t m).getLsbD 11 = false ∧ ((regionWord t m).getLsbD 10 = true ↔ m ≠ 0#128) ∧
      (t.regionOpen = true → fld (regionWord t m).toNat 0 9 = t.regionBase) := by
  have hb : t.regionBase < 512 := fld_lt _ 0 9
  have ho : (if t.regionOpen then t.regionBase else 0x1FF) < 512 := by split <;> omega
  generalize hx : (if t.regionOpen then t.regionBase else 0x1FF) = x at ho
  have hw : (regionWord t m).toNat = x + 0x200 + bitIf (m != 0#128) 10 := by
    simp only [regionWord, hx, BitVec.toNat_ofNat, bitIf]
    split <;> omega
  simp only [BitVec.getLsbD, hw, Nat.testBit_eq_decide_div_mod_eq, fld, bitIf]
  by_cases hm : m = 0#128
  · simp only [hm, bne_self_eq_false, Bool.false_eq_true, if_false, ne_eq, not_true_eq_false, iff_false, decide_eq_true_eq, decide_eq_false_iff_not]
    refine ⟨by omega, by omega, by omega, fun h => ?_⟩
    rw [if_pos h] at hx
    omega
  · simp only [bne_iff_ne, ne_eq, hm, not_false_eq_true, if_true, iff_true, decide_eq_true_eq, decide_eq_false_iff_not]
    refine ⟨by omega, by omega, by omega, fun h => ?_⟩
    rw [if_pos h] at hx
    omega

/-- The saved SPC is the low word of the pending path's offset from the section base (R51). -/
theorem loW_splitSpc (a b : DWord) (n : Nat) :
    loW (a + sextD n 16 * 4#64 - b) = BitVec.ofInt 32 ((a.toNat : Int) + 4 * sextI n 16 - b.toNat) := by
  apply BitVec.eq_of_toNat_eq
  simp [loW, sextD, BitVec.extractLsb'_toNat, BitVec.toNat_ofInt]
  omega

theorem splitLpc_eq (a : Word) (n loff : Nat) :
    a + BitVec.ofNat 32 n + sextW loff 16 = BitVec.ofInt 32 ((a.toNat : Int) + n + sextI loff 16) := by
  apply BitVec.eq_of_toNat_eq
  simp [sextW, BitVec.toNat_ofInt]
  omega

/-- MSPLIT completes with the strand of R51 past its two words. -/
theorem exec_msplit {s : State} {t : Strand} (hr : s.runs t) (c sv soff loff : Nat) :
    exec (.msplit c sv soff loff) s = .next (s.setCur ((t.split c sv soff loff).advance 2)) :=
  State.run_of_runs hr _

theorem msplitSavesThePathAndNarrowsExec : MsplitSavesThePathAndNarrowsExec := by
  intro s t c sv soff loff hr hwf
  obtain ⟨h9, h11, h10, hout⟩ := regionWord_bits t (t.exec &&& ~~~ t.getQ c)
  have h7 : ((t.split c sv soff loff).advance 2).getS (sv + 7) = regionWord t (t.exec &&& ~~~ t.getQ c) := by
    simp [getS_split]
  refine ⟨_, exec_msplit hr c sv soff loff, by simp [Strand.split], ?_, by simp [getS_split], by simp [getS_split, loW_splitSpc],
    by simp [getS_split, splitLpc_eq], ?_, h7 ▸ h9, h7 ▸ h11, h7 ▸ h10, h7 ▸ hout, by simp [Strand.split], ?_, ?_,
    State.sameMemory_setCur _ _⟩
  · intro w hw
    interval_cases w <;> simp [getS_split]
  · intro w hw
    interval_cases w <;> simp [getS_split]
  · intro r hout
    have hne : ∀ i, i < 12 → r ≠ sv + i := fun i hi e => hout (List.mem_map.mpr ⟨i, List.mem_range.mpr hi, e.symm⟩)
    have h0 : r ≠ sv := hne 0 (by decide)
    simp [getS_split, hne, h0]
  · simpa using besidesScalars_split t c sv soff loff

theorem besidesScalars_exec_fmt {t u : Strand} (h : u.besidesScalars = t.besidesScalars) (e : Mask) (f : Word) :
    { ({ u with exec := e, fmt := f } : Strand).besidesScalars with exec := t.exec, fmt := t.fmt } = t.besidesScalars :=
  congrArg (fun x : Strand => { x with exec := t.exec, fmt := t.fmt }) h

/-- MJOIN at a pending entry: the other path runs, at the place and under the mask that the save area holds (R52). -/
theorem exec_mjoin_pending {s : State} {t : Strand} {sv : Nat} (hr : s.runs t) (h9 : (t.getS (sv + 7)).getLsbD 9 = true)
    (h10 : (t.getS (sv + 7)).getLsbD 10 = true) :
    exec (.mjoin sv) s = .next (s.setCur
      { ((t.setS (sv + 7) (t.getS (sv + 7) &&& ~~~ 0x400#32)).jump (t.secBase + (t.getS (sv + 5)).setWidth 64) (t.getS (sv + 6))) with
        exec := t.getQ (sv + 8) &&& t.live,
        fmt := if (t.getS (sv + 7)).getLsbD 11 then ((t.getS (sv + 7)).extractLsb' 16 16).setWidth 32 else t.getS (sv + 4) }) := by
  refine (State.run_of_runs hr _).trans ?_
  simp only [h9, h10, Bool.true_eq_false, if_false, if_true]

/-- The strand after a closing MJOIN, before it goes on (R52). -/
def joined (t : Strand) (sv : Nat) : Strand :=
  { (t.setS (sv + 7) (t.getS (sv + 7) &&& ~~~ 0x200#32)).setRegion (BitVec.ofNat 32
      (if fld (t.getS (sv + 7)).toNat 0 9 = 0x1FF then 0x1FF else fld (t.getS (sv + 7)).toNat 0 9 + 0x200)) with
    exec := t.getQ sv &&& t.live &&& ~~~ joinExclude t sv, fmt := t.getS (sv + 4) }

theorem exec_mjoin_closing {s : State} {t : Strand} {sv : Nat} (hr : s.runs t) (h9 : (t.getS (sv + 7)).getLsbD 9 = true)
    (h10 : (t.getS (sv + 7)).getLsbD 10 = false) : exec (.mjoin sv) s = .next (s.setCur ((joined t sv).advance 1)) := by
  refine (State.run_of_runs hr _).trans ?_
  simp only [h9, h10, Bool.true_eq_false, Bool.false_eq_true, if_false]
  rfl

theorem getS_joined (t : Strand) (sv r : Nat) :
    (joined t sv).getS r = if r = sv + 7 then t.getS (sv + 7) &&& ~~~ 0x200#32 else t.getS r :=
  (getS_setRegion _ _ _).trans (getS_setS_ite _ _ _ _)

theorem besidesScalars_joined (t : Strand) (sv : Nat) :
    { (joined t sv).besidesScalars with exec := t.exec, fmt := t.fmt, region := t.region } = t.besidesScalars := by
  have h := besidesScalars_setRegion (t.setS (sv + 7) (t.getS (sv + 7) &&& ~~~ 0x200#32)) (BitVec.ofNat 32
      (if fld (t.getS (sv + 7)).toNat 0 9 = 0x1FF then 0x1FF else fld (t.getS (sv + 7)).toNat 0 9 + 0x200))
  exact congrArg (fun x : Strand => { x with exec := t.exec, fmt := t.fmt }) (h.trans (Strand.besidesScalars_setS _ _ _))

theorem mjoinRunsThePendingPathOrRestores : MjoinRunsThePendingPathOrRestores := by
  intro s t sv hr hwf h9
  constructor
  · intro h10
    refine ⟨_, exec_mjoin_pending hr h9 h10, ⟨rfl, rfl, rfl⟩, rfl, ?_, ?_, ?_, ?_, State.sameMemory_setCur _ _⟩
    · have h : ((t.getS (sv + 7)).extractLsb' 16 16).setWidth 32 = BitVec.ofNat 32 ((t.getS (sv + 7)).toNat / 2 ^ 16) := by
        apply BitVec.eq_of_toNat_eq
        simp [BitVec.extractLsb'_toNat, Nat.shiftRight_eq_div_pow]
        omega
      simp only [h]
    · exact Strand.getS_setS _ _ _
    · exact t.setS_sameScalars _ _
    · exact besidesScalars_exec_fmt (by simp) _ _
  · intro h10
    have hp : ((joined t sv).advance 1).hspc = (t.advance 1).hspc ∧ ((joined t sv).advance 1).item = (t.advance 1).item :=
      advance_place (t := t) (u := joined t sv) 1 (by simp [joined]) (by simp [joined]) (by simp [joined]) (by simp [joined])
    refine ⟨_, exec_mjoin_closing hr h9 h10, by simp [joined], by simp [joined], ?_, ?_, ?_, ?_, hp.1, hp.2, State.sameMemory_setCur _ _⟩
    · rw [Strand.getS_advance, getS_joined, if_pos rfl]
      rfl
    · intro r hr'
      rw [Strand.getS_advance, getS_joined, if_neg (by simpa using hr')]
    · simp only [Strand.advance_region, joined, region_setRegion]
      split <;> rfl
    · rw [Strand.besidesScalars_advance]
      exact besidesScalars_joined t sv

/-- Settles O12: MSPLIT and MJOIN. -/
theorem msplitAndMjoinRunBothPathsOfARegion : Obligations.MsplitAndMjoinRunBothPathsOfARegion :=
  ⟨msplitSavesThePathAndNarrowsExec, mjoinRunsThePendingPathOrRestores⟩

end Sys2Proof.Proofs
end

/-! ### Clause headers (spec/02 R34 to R36, spec/20 R346) -/
section
namespace Sys2Proof.Proofs
open Sys2Proof Sys2Proof.Machine Sys2Proof.Rules

theorem setCur_inj {s : State} {t u : Strand} (h : s.setCur t = s.setCur u) : t = u := by
  have ht := s.strand_setCur t
  rw [h, s.strand_setCur u] at ht
  exact (Option.some.inj ht).symm

/-- A strand at a header, its scalar 3 uncorrectable, which no earlier capture has met (R346). -/
def uncorrectableStrand : Strand := { newStrand 0 1 0 0 0 0 4 0 0 false 0#64 0#64 0#64 0#32 0 0 with bad := [3] }
def uncorrectableState : State := { State.reset with strands := [(0, uncorrectableStrand)] }

/-- The header of an empty clause completes, and captures with the scalars that register 3 is uncorrectable. -/
theorem exec_header_uncorrectable : ∃ u, exec (.clauseHeader 0 15 15 0 0) uncorrectableState = .next (uncorrectableState.setCur u) ∧
    u.capBad = [3] := ⟨_, rfl, by decide⟩

/-- Refutes O14: its frame leaves capS and claims open but not capBad, which a header captures beside the scalars (R346). -/
theorem not_headersWaitpAndFenceWaitForWhatTheyName : ¬ Obligations.HeadersWaitpAndFenceWaitForWhatTheyName := by
  rintro ⟨h, -⟩
  obtain ⟨t', he, -, -, -, hframe, -⟩ := (h uncorrectableState uncorrectableStrand 0 15 15 0 0 rfl (by decide) rfl).2
    (fun i _ hi => by simp at hi) (by decide)
  obtain ⟨u, hu, hbad⟩ := exec_header_uncorrectable
  have htu : t' = u := setCur_inj (Host.Outcome.next.inj (he.symm.trans hu))
  have hcap : t'.capBad = [] := congrArg Strand.capBad hframe
  rw [htu, hbad] at hcap
  cases hcap

end Sys2Proof.Proofs
end

/-! ### Accesses that complete (spec/02 R37, spec/05 R152) -/
section
namespace Sys2Proof.Proofs
open Sys2Proof Sys2Proof.Machine Sys2Proof.Rules

/-- The strand with what a landing element may touch left open. -/
def besidesLanding (t : Strand) : Strand :=
  { t with s := [], v := [], bad := [], spin := { log := [], hash := none, count := 0, wrote := false } }

theorem besidesLanding_setV (t : Strand) (r : Nat) (m : Mask) (x : Vec) : besidesLanding (t.setV r m x) = besidesLanding t := by
  unfold Strand.setV; split <;> rfl

theorem besidesLanding_land1 (t : Strand) (x : Land) : besidesLanding (t.land1 x) = besidesLanding t := by
  unfold Strand.land1
  split
  · rfl
  · split
    · rfl
    · exact besidesLanding_setV t _ _ _

theorem besidesLanding_landAll (t : Strand) (xs : List Land) : besidesLanding (t.landAll xs) = besidesLanding t :=
  foldl_keeps (P := fun u => besidesLanding u = besidesLanding t) (fun u x hu => (besidesLanding_land1 u x).trans hu) xs t rfl

theorem one_shiftLeft_getLsbD {l i : Nat} (hi : i < 128) : (1#128 <<< l).getLsbD i = decide (i = l) := by
  rw [BitVec.getLsbD_shiftLeft]
  by_cases h : i < l
  · simp [h, Nat.ne_of_lt h]
  · by_cases he : i = l
    · simp [he]; omega
    · have : i - l ≠ 0 := by omega
      simp [he, h, hi, this]

/-- A lane written alone: that lane holds the value, every other lane and register what it held. -/
theorem lane_setV1 (t : Strand) {r q l i : Nat} (v : Word) (hi : i < 128) :
    Vec.lane ((t.setV1 r l v).getV q) i = if q = r ∧ i = l then v else Vec.lane (t.getV q) i := by
  by_cases hq : q = r
  · subst hq
    simp only [Strand.setV1, Strand.lane_setV _ _ _ hi, one_shiftLeft_getLsbD hi, Strand.Vec_lane_ofFn _ hi, decide_eq_true_eq, true_and]
  · simp [Strand.setV1, Strand.getV_setV_ne _ _ _ hq, hq]

/-- An element that has landed stands in its register. -/
theorem holds_land1 (t : Strand) {x : Land} (hd : x.done = false) : holds (t.land1 x) x.dst x.val := by
  obtain ⟨dst, val, done⟩ := x
  subst hd
  cases dst with
  | s r => exact Strand.getS_setS t r val
  | v r l => exact fun hl => (lane_setV1 t val hl).trans (by simp)

/-- An element that lands elsewhere leaves it there. -/
theorem holds_land1_ne {t : Strand} {x : Land} {dst : Dst} {w : Word} (hne : x.dst ≠ dst) (hw : holds t dst w) : holds (t.land1 x) dst w := by
  unfold Strand.land1
  split
  · exact hw
  · cases dst with
    | s q =>
      cases hx : x.dst with
      | s r => exact (Strand.getS_setS_ne t _ (fun e => hne (hx.trans (congrArg Dst.s e.symm)))).trans hw
      | v r l => exact (Strand.getS_setV t _ _ _ _).trans hw
    | v q i =>
      cases hx : x.dst with
      | s r => exact hw
      | v r l =>
        intro hi
        have hn : ¬ (q = r ∧ i = l) := fun e => hne (by rw [hx, e.1, e.2])
        exact (lane_setV1 t x.val hi).trans ((if_neg hn).trans (hw hi))

theorem holds_landAll_of_notMem {xs : List Land} {t : Strand} {dst : Dst} {w : Word} (hn : dst ∉ xs.map (·.dst)) (hw : holds t dst w) :
    holds (t.landAll xs) dst w := by
  induction xs generalizing t with
  | nil => exact hw
  | cons x xs ih =>
    simp only [List.map_cons, List.mem_cons, not_or] at hn
    exact ih hn.2 (holds_land1_ne (Ne.symm hn.1) hw)

/-- Elements that go to different places all stand there once they have landed. -/
theorem holds_landAll {xs : List Land} {t : Strand} (hd : ∀ x ∈ xs, x.done = false) (hn : (xs.map (·.dst)).Nodup) :
    ∀ x ∈ xs, holds (t.landAll xs) x.dst x.val := by
  induction xs generalizing t with
  | nil => intro x hx; cases hx
  | cons y ys ih =>
    simp only [List.map_cons, List.nodup_cons] at hn
    intro x hx
    rcases List.mem_cons.mp hx with rfl | hx
    · exact holds_landAll_of_notMem (xs := ys) hn.1 (holds_land1 t (hd x List.mem_cons_self))
    · exact ih (fun z hz => hd z (List.mem_cons_of_mem _ hz)) hn.2 x hx

/-- With distinct ids, the operations without o's id are all but o. -/
theorem perm_without {l : List Op} {o : Op} (ho : o ∈ l) (hn : (l.map (·.id)).Nodup) : l.Perm (o :: l.filter (fun x => x.id != o.id)) := by
  induction l with
  | nil => cases ho
  | cons y ys ih =>
    simp only [List.map_cons, List.nodup_cons] at hn
    rcases List.mem_cons.mp ho with rfl | hy
    · have : ys.filter (fun x => x.id != o.id) = ys := List.filter_eq_self.mpr fun x hx => by
        simpa using fun e : x.id = o.id => hn.1 (e ▸ List.mem_map_of_mem hx)
      simp [this]
    · have hne : y.id ≠ o.id := fun e => hn.1 (e ▸ List.mem_map_of_mem hy)
      simp only [List.filter_cons, bne_iff_ne, ne_eq, hne, not_false_eq_true, if_true]
      exact ((ih hy hn.2).cons y).trans (List.Perm.swap _ _ _)

/-- A strand's oldest operation on a path completes without an error: no trap waits, none is entered. -/
theorem completeOp_eq {s : State} {k : Nat} {t : Strand} {p : Path} {o : Op} (hk : s.strand? k = some t) (hp : t.pend = none)
    (ho : t.ops.find? (fun x => x.path == p) = some o) (he : o.err = none) :
    s.completeOp k p = s.setStrand k { t.landAll o.lands with ops := t.ops.filter (fun x => x.id != o.id) } := by
  have hfr := besidesLanding_landAll t o.lands
  have hops : (t.landAll o.lands).ops = t.ops := (congrArg Strand.ops hfr : (besidesLanding _).ops = _)
  have hpend : (t.landAll o.lands).pend = none := (congrArg Strand.pend hfr : (besidesLanding _).pend = _).trans hp
  have hc : t.complete o = { t.landAll o.lands with ops := t.ops.filter (fun x => x.id != o.id) } := by
    simp only [Strand.complete, he, hops]
  simp only [State.completeOp, State.oldest, hk, ho, State.logPoison, he, hc, State.tryEnter, State.strand_setStrand, hpend]

theorem returningAccessesLandWhenTheyComplete : ReturningAccessesLandWhenTheyComplete := by
  intro s k t p o hk hp hpath ho he hd hn hid
  have hmem : o ∈ t.ops := List.mem_of_find?_eq_some ho
  have hop : (o.path == p) = true := List.find?_some (p := fun x : Op => x.path == p) ho
  refine ⟨{ t.landAll o.lands with ops := t.ops.filter (fun x => x.id != o.id) }, ?_, holds_landAll hd hn, rfl, ?_, ?_, rfl, fun _ _ _ => rfl⟩
  · rw [← completeOp_eq hk hp ho he]
    rcases hpath with rfl | rfl | rfl <;> rfl
  · have := ((perm_without hmem hid).filter (fun x => x.path == p)).length_eq
    simp only [List.filter_cons, hop, if_true, List.length_cons] at this
    exact this.symm
  · exact congrArg (fun u : Strand => { u with s := t.s, v := t.v, bad := t.bad, spin := t.spin, ops := t.ops }) (besidesLanding_landAll t o.lands)

theorem sourcingAccessesOnlyLowerTheirCounter : SourcingAccessesOnlyLowerTheirCounter := by
  intro s k t p o hk hp hpath ho he hl hid
  constructor
  · have h := completeOp_eq hk hp ho he
    rw [hl] at h
    rw [show exec (.srcComplete k p.code) s = .next (s.completeOp k p) by rcases hpath with rfl | rfl | rfl <;> rfl, h]
    rfl
  · exact (perm_without (List.mem_of_find?_eq_some ho) hid).length_eq.symm

/-- Settles O17: RETURNING_ACCESS_COMPLETE and SOURCING_ACCESS_COMPLETE. -/
theorem completionsLandAndLowerTheirCounter : Obligations.CompletionsLandAndLowerTheirCounter :=
  ⟨returningAccessesLandWhenTheyComplete, sourcingAccessesOnlyLowerTheirCounter⟩

end Sys2Proof.Proofs
end

/-! ### The back edge of a counted loop (spec/02 R58, R63) -/
section
namespace Sys2Proof.Proofs
open Sys2Proof Sys2Proof.Machine Sys2Proof.Rules

/-- A counted loop that rotates registers, two trips left. -/
def rotatingLoop : LoopFrame :=
  { startSpc := 0#64, endSpc := 0#64, startLpc := 0#32, endLpc := 0#32, trips := 2#32, rot := true, item := false, stages := 1, depth := 0,
    ireg := 0, stage := 0#8, entry := 0#128, lexit := 0#128, seq := 0 }

/-- A strand whose back edge is due, with a rotating region of 200 registers from 0 and RB 0. -/
def wideRegionStrand : Strand :=
  { newStrand 0 1 0 0 0 0 255 0 0 false 0#64 0#64 0#64 0#32 0 0 with rot := 0xC800#32, loops := [rotatingLoop], edge := true }
def wideRegionState : State := { State.reset with strands := [(0, wideRegionStrand)] }

/-- The rewind steps RB to 199, of which the field RB of rot holds the low seven bits. -/
theorem exec_backEdge_wideRegion : ∃ u, exec .backEdge wideRegionState = .next (wideRegionState.setCur u) ∧ u.rotRb = 71 :=
  ⟨_, rfl, by decide⟩

/-- Refutes O18: RB has seven bits, the size of the rotating region eight, so that RB is cut where a region of more than 128
registers steps back from RB 0. -/
theorem not_loopsOpenRewindAndExit : ¬ Obligations.LoopsOpenRewindAndExit := by
  rintro ⟨-, h⟩
  obtain ⟨t', he, -, -, -, -, -, hrot, -⟩ := (h wideRegionState wideRegionStrand rotatingLoop [] rfl rfl rfl rfl).1 (by decide) (Or.inl rfl)
  obtain ⟨-, -, hrb⟩ := hrot rfl (by decide) (by decide) (by decide)
  obtain ⟨u, hu, hurb⟩ := exec_backEdge_wideRegion
  rw [setCur_inj (Host.Outcome.next.inj (he.symm.trans hu)), hurb] at hrb
  revert hrb
  decide

end Sys2Proof.Proofs
end

/-! ### LEXIT, LBRK, ROTSET, SKPUT and LDEPTH (spec/02 R61 to R63) -/
section
namespace Sys2Proof.Proofs
open Sys2Proof Sys2Proof.Machine Sys2Proof.Rules

/-- The strand whose lanes m have left its innermost loop l (R61). -/
def lanesOut (t : Strand) (m : Mask) (l : LoopFrame) (ls : List LoopFrame) : Strand :=
  { t with exec := t.exec &&& ~~~ m, loops := { l with lexit := l.lexit ||| m } :: ls }

/-- LEXIT and LBRK are one operation, on the mask that they name. -/
theorem exec_eq_lexitGo {s : State} {t : Strand} {i : Instr} {m : Mask}
    (hi : i = .lbrk ∧ m = t.exec ∨ ∃ x, i = .lexit x ∧ m = t.getQ x) : ∃ f : Strand → Mask, exec i s = lexitGo f s ∧ f t = m := by
  rcases hi with ⟨rfl, rfl⟩ | ⟨x, rfl, rfl⟩
  · exact ⟨fun t => t.exec, rfl, rfl⟩
  · exact ⟨fun t => t.getQ x, rfl, rfl⟩

/-- The loop goes on while a lane is left in EXEC, or EXEC was empty before. -/
theorem lexitGo_goesOn {s : State} {t : Strand} {f : Strand → Mask} {l : LoopFrame} {ls : List LoopFrame} (hr : s.runs t)
    (hl : t.loops = l :: ls) (h : t.exec = 0#128 ∨ t.exec &&& ~~~ f t ≠ 0#128) :
    lexitGo f s = .next (s.setCur ((lanesOut t (f t) l ls).advance 1)) := by
  refine (State.run_of_runs hr _).trans ?_
  simp only [hl, h, if_true]
  rfl

/-- The last lane out of a counted loop ends it, and no more where the enclosing loop ends elsewhere (R60, R61). -/
theorem lexitGo_ends {s : State} {t : Strand} {f : Strand → Mask} {l : LoopFrame} {ls : List LoopFrame} (hr : s.runs t)
    (hl : t.loops = l :: ls) (hx : t.exec ≠ 0#128) (hm : t.exec &&& ~~~ f t = 0#128) (hc : l.item = false)
    (ha : endsAlone t l.endSpc ls) :
    lexitGo f s = .next (s.setCur ((lanesOut t (f t) l ls).popLoop.jump (s.afterEnd (lanesOut t (f t) l ls) l.endSpc) l.endLpc)) := by
  have he : ((lanesOut t (f t) l ls).popLoop.jump (s.afterEnd (lanesOut t (f t) l ls) l.endSpc) l.endLpc).edgeAt l.endSpc = false := by
    cases ls with
    | nil => rfl
    | cons m ms =>
      have h := ha m (by simp)
      show (m.endSpc == l.endSpc && m.depth == t.rets.length) = false
      simpa using h
  refine (State.run_of_runs hr _).trans ?_
  have hn : ¬ (t.exec = 0#128 ∨ t.exec &&& ~~~ f t ≠ 0#128) := by simp [hx, hm]
  simp only [hl, hn, if_false, hc, Bool.false_eq_true]
  show (if ((lanesOut t (f t) l ls).popLoop.jump (s.afterEnd (lanesOut t (f t) l ls) l.endSpc) l.endLpc).edgeAt l.endSpc then _ else _) = _
  rw [he]
  rfl

theorem lexitAndLbrkTakeLanesOutOfTheLoop : LexitAndLbrkTakeLanesOutOfTheLoop := by
  intro s t i m l ls hr hi hl
  obtain ⟨f, he, rfl⟩ := exec_eq_lexitGo hi
  rw [he]
  constructor
  · intro h
    refine ⟨_, lexitGo_goesOn hr hl h, by simp [lanesOut], by simp [lanesOut], ?_⟩
    rw [Strand.besidesPlace_advance]
    rfl
  · intro hx hm hc ha
    exact ⟨_, lexitGo_ends hr hl hx hm hc ha, ⟨⟨rfl, rfl, rfl⟩, rfl, rfl, rfl, rfl⟩, rfl, rfl, rfl⟩

/-- The rotating region that ROTSET sets, within the widths of rot's fields (R63). -/
theorem rotset_fields {base size : Nat} (hb : base < 256) (hs : size ≤ 128) :
    fld (BitVec.ofNat 32 (base + size * 256)).toNat 0 8 = base ∧ fld (BitVec.ofNat 32 (base + size * 256)).toNat 8 8 = size ∧
      fld (BitVec.ofNat 32 (base + size * 256)).toNat 16 7 = 0 := by
  simp only [fld, BitVec.toNat_ofNat]
  omega

theorem exec_rotset {s : State} {t : Strand} (hr : s.runs t) (base size : Nat) :
    exec (.rotset base size) s = if t.budget < base + size then s.raise t { code := 8, arg := base + size - 1 }
      else .next (s.setCur ({ t with rot := BitVec.ofNat 32 (base + size * 256) }.advance 1)) :=
  State.run_of_runs hr _

/-- SKPUT's state: the indices that fit appended to a skein of the strand's core (R62). -/
def skeinPut (s : State) (t : Strand) (x z n : Nat) : State :=
  s.setCore t.core (if z = 0 then { s.core t.core with sk0 := (s.core t.core).sk0 ++ (List.range n).map (fun i => t.getS x + BitVec.ofNat 32 i) }
    else { s.core t.core with sk1 := (s.core t.core).sk1 ++ (List.range n).map (fun i => t.getS x + BitVec.ofNat 32 i) })

theorem exec_skput {s : State} {t : Strand} {k : Nat} (hr : s.runs t) (hk : s.skeinOf t = some k) (x y z : Nat) :
    let n := min (t.getS y).toNat (4096 - (if z = 0 then (s.core t.core).sk0 else (s.core t.core).sk1).length)
    exec (.skput x y z) s = .next ((skeinPut s t x z n).setCur ((t.setS y (BitVec.ofNat 32 n)).advance 1)) := by
  refine (State.run_of_runs hr _).trans ?_
  simp only [hk, State.finish_eq, skeinPut]
  split <;> rfl

theorem rotsetSkputAndLdepthSetTheirRegisters : RotsetSkputAndLdepthSetTheirRegisters := by
  intro s t hr
  refine ⟨?_, ?_, ?_⟩
  · intro base size hwf
    have hw : (decide (base < 256) && decide (1 ≤ size) && decide (size ≤ 128)) = true := hwf
    simp only [Bool.and_eq_true, decide_eq_true_eq] at hw
    obtain ⟨⟨hb, -⟩, hs⟩ := hw
    obtain ⟨h0, h8, h16⟩ := rotset_fields hb hs
    constructor
    · intro hle
      refine ⟨{ t with rot := BitVec.ofNat 32 (base + size * 256) }.advance 1, ?_, ?_, ?_, ?_, ?_⟩
      · rw [exec_rotset hr, if_neg (by omega)]
      · simpa [Strand.rotBase] using h0
      · simpa [Strand.rotSize] using h8
      · simpa [Strand.rotRb] using h16
      · rw [Strand.besidesPlace_advance]
        rfl
    · intro hlt
      rw [exec_rotset hr, if_pos hlt]
  · intro x y z k _ hk
    refine ⟨_, _, _, exec_skput hr hk x y z, State.strand_setCur _ _, rfl, by simp, ?_, by simp, ?_, rfl⟩
    · intro r hr'
      rw [Strand.getS_advance]
      exact t.setS_sameScalars _ _ r hr'
    · simp only [State.setCur_core, skeinPut, State.core_setCore]
      split <;> rfl
  · intro x
    refine ⟨_, setReg_completes hr x _, by simp [Nat.mul_comm], ?_, by simp, State.sameMemory_setCur _ _⟩
    intro r hr'
    rw [Strand.getS_advance]
    exact t.setS_sameScalars _ _ r hr'

/-- Settles O20: LEXIT and LBRK; ROTSET, SKPUT and LDEPTH. -/
theorem loopControlWordsChangeMasksRotationAndSkein : Obligations.LoopControlWordsChangeMasksRotationAndSkein :=
  ⟨lexitAndLbrkTakeLanesOutOfTheLoop, rotsetSkputAndLdepthSetTheirRegisters⟩

end Sys2Proof.Proofs
end

/-! ### The departure of a strand (spec/02 R44, R45, spec/03 R111) -/
section
namespace Sys2Proof.Proofs
open Sys2Proof Sys2Proof.Machine Sys2Proof.Rules

/-- A strand with every wait of R44 over: it leaves by DETACH, with no operation outstanding. -/
def leavingStrand : Strand := { newStrand 0 1 0 0 0 0 4 0 0 false 0#64 0#64 0#64 0#32 0 0 with leave := .detach }

/-- A strand of another weave in a serial transaction that has read byte 0 of memory. -/
def serialStrand : Strand :=
  { newStrand 1 2 0 0 0 1 4 0 0 false 0#64 0#64 0#64 0#32 0 0 with
    tx := some { failSpc := 0#64, failLpc := 0#32, depth := 1, lanes := 1#128, dead := [], doom := 0#128,
                 reads := [{ lane := 0, addr := 0, val := 0#8, coh := 0 }], writes := [], reds := [], lines := [0], serial := true,
                 sys := false, exec := 1#128, loops := [], rot := 0#32, stage := 0#8, region := 0#32, poisoned := false } }

/-- The leaving strand's weave, a weave clasp registered at scratch 0. -/
def claspedWeave : Weave :=
  { wid := 0, bolt := 0, home := 0, part := 0, ctx := 0, wmin := 0, wmax := 4, y := 0, resv := [], attSeq := 0,
    binds := [(0, { bolt := false, addr := 0 })], recs := [], helds := [], scr := [], scrLen := 32, scrPoison := [], children := 0 }

/-- Both strands on core 0, where a dirty stash line over page 0 lies in the serial transaction's footprint. -/
def heldBackState : State :=
  { State.reset with
    strands := [(0, leavingStrand), (1, serialStrand)],
    weaves := [(1, claspedWeave)],
    cores := [(0, { State.coreDefault with
      stash := [{ weave := 1, off := 0, page := 0, coh := 0, filled := 1#16, ever := 1#16, dirty := [(0, 1#64)] }] })] }

/-- A departure whose leave of a clasp must wait for a serial transaction changes nothing (R111). -/
theorem exec_departure_waits {s : State} {k : Nat} {t : Strand} (ht : s.strand? k = some t) (hw : s.claspsWait k t = true) :
    exec (.departure k) s = .next s := by
  have harm : exec (.departure k) s = execDeparture k s := rfl
  rw [harm]
  unfold execDeparture
  simp [ht, hw]

/-- Refutes O24: leaving a registered clasp releases at its scope, which waits while a serial transaction of another strand holds
what the release writes back (R111); the departure then does not take effect though the strand's own counters are zero. -/
theorem not_detachIsRefusedOrLeavesEveryClasp : ¬ Obligations.DetachIsRefusedOrLeavesEveryClasp := by
  intro h
  have ht : heldBackState.strand? 0 = some leavingStrand := rfl
  obtain ⟨s', he, hgone, -⟩ := (h heldBackState 0 leavingStrand claspedWeave ht rfl).2 (by decide) rfl rfl (by simp [claspedWeave])
  have hs : heldBackState = s' := Host.Outcome.next.inj ((exec_departure_waits ht (by decide)).symm.trans he)
  rw [← hs, ht] at hgone
  cases hgone

end Sys2Proof.Proofs
end

/-! ### Membership reports and reservations (spec/02 R48, R49, spec/06 R180, R181) -/
section
namespace Sys2Proof.Proofs
open Sys2Proof Sys2Proof.Machine Sys2Proof.Rules

/-- What an item that writes one scalar and moves on leaves, beside a change of the state that keeps memory and whose turn it is. -/
theorem answers_setCur {s s1 : State} {t : Strand} {i : Instr} {x : Nat} {v : Word}
    (hexec : exec i s = .next (s1.setCur ((t.setS x v).advance 1))) (hmem : s1.mem = s.mem) :
    answers s (s1.setCur ((t.setS x v).advance 1)) t i x v := by
  refine ⟨(t.setS x v).advance 1, hexec, ?_, by simp, ?_, by simp, by simpa using hmem⟩
  · exact s1.strand_setCur _
  · intro r hr
    have hrx : r ≠ x := by simpa using hr
    simp [getS_setS_ite, hrx]

section
variable {s : State} {t : Strand} {w : Weave}

/-- The weave after an item that changes it and then moves its strand on. -/
theorem weave_setCur_updWeave {k : Nat} (f : Weave → Weave) (u : Strand) (hw : s.weave? k = some w) :
    ((s.updWeave k f).setCur u).weave? k = some (f w) :=
  s.weave_updWeave f hw

/-- An update of a weave is told by what it makes of the present one. -/
theorem updWeave_congr {k : Nat} {f g : Weave → Weave} (hw : s.weave? k = some w) (h : f w = g w) : s.updWeave k f = s.updWeave k g := by
  unfold State.weave? at hw
  simp [State.updWeave, AMap.upd, hw, h]

theorem counted_eq (s : State) (wk : Nat) :
    s.counted wk = (s.strands.filter (fun e => decide (e.1 < ccBase) && e.2.weave == wk && e.2.leave != .detach)).map (·.2) := by
  have h : (fun t : Strand => t.leave != .detach) ∘ (fun e : Nat × Strand => e.2) = fun e => e.2.leave != .detach := rfl
  simp only [State.counted, State.members, List.filter_map, List.filter_filter, h]
  congr 1
  exact List.filter_congr fun e _ => Bool.and_comm _ _

theorem counted_length (s : State) (wk : Nat) : (s.counted wk).length = memberCount s wk := by
  rw [counted_eq, List.length_map, ← List.countP_eq_length_filter]
  rfl

theorem counted_rank (s : State) (wk i : Nat) :
    ((s.counted wk).filter (fun v => decide (v.widx < i))).length = rankOf s wk i := by
  rw [counted_eq, List.filter_map, List.length_map, List.filter_filter, ← List.countP_eq_length_filter]
  unfold rankOf
  refine List.countP_congr fun e _ => ?_
  simp only [Function.comp_apply, Bool.and_eq_true, decide_eq_true_eq]
  tauto

theorem whoWord_eq (u : Strand) (hu : u.weave = t.weave) : whoWord (s.counted t.weave) w.home u = whoOf s w u := by
  unfold whoWord whoOf
  rw [counted_rank, hu]
  congr 1
  split <;> omega

theorem growOver_iff {p : Part} {n : Nat} (hp : s.part? t.part = some p) : growOver s t w n = true ↔ pastCeiling s t w p n := by
  simp [growOver, pastCeiling, State.weaveLoad, counted_length, hp]

theorem exec_who (hr : s.runs t) (hw : s.weave? t.weave = some w) (x y z : Nat) : exec (.who x y z) s =
    .next (s.setCur ((t.setS x (if z = 0 then whoWord (s.counted t.weave) w.home t else
      match (s.counted t.weave).find? (fun u => u.widx == (t.getS y).toNat) with
      | some u => whoWord (s.counted t.weave) w.home u
      | none => 0xFFFFFFFF#32)).advance 1)) := by
  refine (State.run_of_runs hr _).trans ?_
  simp only [hw, Option.map_some, Option.getD_some, State.finish_eq] <;> rfl

theorem exec_grow (hr : s.runs t) (hw : s.weave? t.weave = some w) (x role : Nat) : exec (.grow x role) s =
    if growOver s t w (t.getS x).toNat then .next (s.setCur ((t.setS x 0#32).advance 1))
    else if growFits s w role (t.getS x).toNat then .next ((growTake s t role (t.getS x).toNat).setCur ((t.setS x (t.getS x)).advance 1))
    else s.hold t .grow := by
  refine (State.run_of_runs hr _).trans ?_
  simp only [hw, State.finish_eq]

theorem hold_spec (s : State) (t : Strand) (w : Wait) :
    ∃ t', s.hold t w = .next (s.setCur t') ∧ t'.wait = w ∧ { t' with wait := t.wait, since := t.since } = t := by
  unfold State.hold
  split
  · rename_i h
    exact ⟨t, rfl, h, rfl⟩
  · exact ⟨_, rfl, rfl, rfl⟩

theorem membershipReportsAnswerFromTheWeave : MembershipReportsAnswerFromTheWeave := by
  intro s t x w hr _ hw
  refine ⟨?_, ?_, ?_, fun y _ => ⟨fun hnone => ?_, fun e he hk hwk hleave hidx huniq => ?_⟩, fun role _ => ?_, fun role p _ hp => ⟨?_, ?_, ?_⟩⟩
  · by_cases hy : w.y = 0
    · have hexec : exec (.yieldq x) s = .next (s.setCur ((t.setS x 0#32).advance 1)) := by
        refine (State.run_of_runs hr _).trans ?_
        simp only [hw, Option.map_some, Option.getD_some, hy, if_true, State.finish_eq]
      refine ⟨_, by simpa [hy] using answers_setCur hexec rfl, ?_⟩
      have hsame : { w with y := w.y - 1 } = w := by simp [hy]; rw [← hy]
      rw [hsame]
      exact hw
    · have hexec : exec (.yieldq x) s =
          .next ((s.updWeave t.weave (fun w => { w with y := w.y - 1 })).setCur ((t.setS x 1#32).advance 1)) := by
        refine (State.run_of_runs hr _).trans ?_
        simp only [hw, Option.map_some, Option.getD_some, hy, if_false, State.finish_eq]
      exact ⟨_, by simpa [hy] using answers_setCur hexec rfl, weave_setCur_updWeave _ _ hw⟩
  · have hexec : exec (.count x) s = .next (s.setCur ((t.setS x (BitVec.ofNat 32 (memberCount s t.weave + 2 ^ 8 * w.wmin + 2 ^ 16 * w.wmax))).advance 1)) := by
      refine (State.run_of_runs hr _).trans ?_
      have hsum : (s.counted t.weave).length + (w.wmin * 2 ^ 8 + w.wmax * 2 ^ 16) =
          memberCount s t.weave + 2 ^ 8 * w.wmin + 2 ^ 16 * w.wmax := by
        rw [counted_length]
        omega
      simp only [hw, Option.map_some, Option.getD_some, hsum, State.finish_eq]
    exact ⟨_, answers_setCur hexec rfl, hw⟩
  · have hexec := exec_who hr hw x 0 0
    rw [if_pos rfl, whoWord_eq t rfl] at hexec
    exact ⟨_, answers_setCur hexec rfl⟩
  · have hexec := exec_who hr hw x y 1
    have hfind : (s.counted t.weave).find? (fun u => u.widx == (t.getS y).toNat) = none := by
      rw [List.find?_eq_none]
      intro u hu
      simp only [counted_eq, List.mem_map, List.mem_filter, Bool.and_eq_true, decide_eq_true_eq, beq_iff_eq, bne_iff_ne] at hu
      obtain ⟨e, ⟨hm, ⟨hk, hwk⟩, hl⟩, rfl⟩ := hu
      simpa using hnone e hm hk hwk hl
    rw [if_neg (by decide), hfind] at hexec
    exact ⟨_, answers_setCur hexec rfl⟩
  · have hexec := exec_who hr hw x y 1
    have hmem : e.2 ∈ s.counted t.weave := by
      simp only [counted_eq, List.mem_map, List.mem_filter, Bool.and_eq_true, decide_eq_true_eq, beq_iff_eq, bne_iff_ne]
      exact ⟨e, ⟨he, ⟨hk, hwk⟩, hleave⟩, rfl⟩
    have hfind : (s.counted t.weave).find? (fun u => u.widx == (t.getS y).toNat) = some e.2 := by
      cases hf : (s.counted t.weave).find? (fun u => u.widx == (t.getS y).toNat) with
      | none => simpa [hidx] using List.find?_eq_none.1 hf e.2 hmem
      | some u =>
        have hu := List.mem_of_find?_eq_some hf
        have hq : u.widx = (t.getS y).toNat := by simpa using List.find?_some hf
        simp only [counted_eq, List.mem_map, List.mem_filter, Bool.and_eq_true, decide_eq_true_eq, beq_iff_eq] at hu
        obtain ⟨g, ⟨hg, ⟨-, hgw⟩, -⟩, rfl⟩ := hu
        rw [huniq g hg hgw (hq.trans hidx.symm)]
    rw [if_neg (by decide), hfind] at hexec
    simp only [whoWord_eq e.2 hwk] at hexec
    exact ⟨_, answers_setCur hexec rfl⟩
  · have hexec : exec (.shrink x role) s =
        .next ((s.updWeave t.weave (fun w => { w with resv := w.resv.set role (w.resv.getD role 0 - (t.getS x).toNat) })).setCur
          ((t.setS x (BitVec.ofNat 32 (w.resv.getD role 0 - (t.getS x).toNat))).advance 1)) := by
      refine (State.run_of_runs hr _).trans ?_
      have hleft : w.resv.getD role 0 - min (t.getS x).toNat (w.resv.getD role 0) = w.resv.getD role 0 - (t.getS x).toNat := by omega
      have hupd := updWeave_congr (s := s) (f := fun v => { v with resv := v.resv.set role (w.resv.getD role 0 - (t.getS x).toNat) })
        (g := fun v => { v with resv := v.resv.set role (v.resv.getD role 0 - (t.getS x).toNat) }) hw rfl
      simp only [hw, Option.map_some, Option.getD_some, hleft, State.finish_eq, hupd]
    exact ⟨_, answers_setCur hexec rfl, weave_setCur_updWeave _ _ hw⟩
  · intro hpast
    have hexec := exec_grow hr hw x role
    rw [if_pos ((growOver_iff hp).2 hpast)] at hexec
    exact ⟨_, answers_setCur hexec rfl, hw⟩
  · intro hpast hfits
    have hexec := exec_grow hr hw x role
    rw [if_neg (mt (growOver_iff hp).1 hpast), if_pos hfits] at hexec
    exact ⟨_, answers_setCur hexec rfl, weave_setCur_updWeave _ _ hw⟩
  · intro hpast hfits
    have hexec := exec_grow hr hw x role
    rw [if_neg (mt (growOver_iff hp).1 hpast), if_neg (by simp [hfits])] at hexec
    rw [hexec]
    exact hold_spec s t .grow

end

/-! #### A fetch does not look at the strands but for the serial transactions -/

/-- Two states with the same memory, caches and partitions, on the same turn. -/
structure Twin (s s' : State) : Prop where
  mem : s'.mem = s.mem
  poison : s'.poison = s.poison
  window : s'.window = s.window
  linkUp : s'.linkUp = s.linkUp
  parts : s'.parts = s.parts
  clus : s'.clus = s.clus
  cores : s'.cores = s.cores
  slice : s'.slice = s.slice
  cur : s'.cur = s.cur

namespace Twin
variable {s s' : State}

theorem refl (s : State) : Twin s s := ⟨rfl, rfl, rfl, rfl, rfl, rfl, rfl, rfl, rfl⟩

theorem homeByte (h : Twin s s') (pa : Nat) : s'.homeByte pa = s.homeByte pa := by simp only [State.homeByte, h.mem]
theorem homeRead (h : Twin s s') (pa n : Nat) : s'.homeRead pa n = s.homeRead pa n := by
  simp only [State.homeRead, State.homeBytes, h.homeByte]
theorem isPoison (h : Twin s s') (pa : Nat) : s'.isPoison pa = s.isPoison pa := by simp only [State.isPoison, h.poison]
theorem clu (h : Twin s s') (c : Nat) : s'.clu c = s.clu c := by simp only [State.clu, h.clus]
theorem core (h : Twin s s') (c : Nat) : s'.core c = s.core c := by simp only [State.core, h.cores]
theorem part (h : Twin s s') (p : Nat) : s'.part? p = s.part? p := by simp only [State.part?, h.parts]
theorem csr (h : Twin s s') (p off : Nat) : s'.csr p off = s.csr p off := by simp only [State.csr, h.part]
theorem csr64 (h : Twin s s') (p off : Nat) : s'.csr64 p off = s.csr64 p off := by simp only [State.csr64, h.part]
theorem win (h : Twin s s') (off : Nat) : s'.win off = s.win off := by simp only [State.win, h.window]
theorem ownerOf (h : Twin s s') (c : Nat) : s'.ownerOf c = s.ownerOf c := by simp only [State.ownerOf, h.parts]
theorem homePart (h : Twin s s') (c : Nat) : s'.homePart c = s.homePart c := by simp only [State.homePart, h.ownerOf]
theorem frozenClu (h : Twin s s') (c : Nat) : s'.frozenClu c = s.frozenClu c := by
  simp only [State.frozenClu, State.frozenAt, h.ownerOf, h.csr]
theorem isPeer (h : Twin s s') (pa : Nat) : s'.isPeer pa = s.isPeer pa := by simp only [State.isPeer, h.win]

theorem setClu (h : Twin s s') (c : Nat) (x : Clu) : Twin (s.setClu c x) (s'.setClu c x) := by
  obtain ⟨hm, hp, hw, hl, hpt, hc, hco, hs, hcu⟩ := h
  exact ⟨hm, hp, hw, hl, hpt, congrArg (fun m => AMap.set m c x State.cluDefault) hc, hco, hs, hcu⟩

theorem setWin (h : Twin s s') (off : Nat) (v : Word) : Twin (s.setWin off v) (s'.setWin off v) := by
  obtain ⟨hm, hp, hw, hl, hpt, hc, hco, hs, hcu⟩ := h
  exact ⟨hm, hp, congrArg (fun m => AMap.set m off v 0#32) hw, hl, hpt, hc, hco, hs, hcu⟩

theorem homeStore (h : Twin s s') (pa : Nat) (bs : List Byte) : Twin (s.homeStore pa bs) (s'.homeStore pa bs) := by
  unfold State.homeStore
  rw [h.linkUp]
  split
  · rw [h.win]
    exact h.setWin _ _
  · obtain ⟨hm, hp, hw, hl, hpt, hc, hco, hs, hcu⟩ := h
    exact ⟨by simp [hm], by simp [hp], hw, hl, hpt, hc, hco, hs, hcu⟩

theorem combineWord (h : Twin s s') (wa opc v : Nat) : Twin (s.combineWord wa opc v) (s'.combineWord wa opc v) := by
  unfold State.combineWord
  rw [h.isPoison, h.isPoison, h.homeRead]
  split
  · exact h
  · exact h.homeStore _ _

theorem foldl {α : Type} (f g : State → α → State) (hf : ∀ s s' a, Twin s s' → Twin (f s a) (g s' a)) (xs : List α) (h : Twin s s') :
    Twin (xs.foldl f s) (xs.foldl g s') := by
  induction xs generalizing s s' with
  | nil => exact h
  | cons x xs ih => exact ih (hf _ _ _ h)

theorem combineLineAt (h : Twin s s') (c : Nat) (l : CombLine) : Twin (s.combineLineAt c l) (s'.combineLineAt c l) := by
  unfold State.combineLineAt
  rw [h.clu]
  exact (h.setClu _ _).foldl (fun s (e : Nat × Nat × Nat) => s.combineWord e.1 e.2.1 e.2.2) _ (fun _ _ e h => h.combineWord e.1 e.2.1 e.2.2) _

theorem combine (h : Twin s s') (pa : Nat) : Twin (s.combine pa) (s'.combine pa) := by
  unfold State.combine
  rw [h.clus]
  refine h.foldl _ _ (fun s s' c h => ?_) _
  rw [h.clu]
  split
  · rw [h.frozenClu]
    split
    · exact h
    · exact h.combineLineAt _ _
  · exact h

theorem usable (h : Twin s s') (part pa : Nat) : s'.usable part pa = s.usable part pa := by simp only [State.usable, h.part]

theorem walk (h : Twin s s') (part va lv tab : Nat) (w x u : Bool) : s'.walk part va lv tab w x u = s.walk part va lv tab w x u := by
  induction lv generalizing tab w x u with
  | zero => rfl
  | succ lv ih => simp only [State.walk, h.usable, (h.combine _).homeRead, h.isPeer, ih]

theorem walkReads (h : Twin s s') (part va lv tab : Nat) : s'.walkReads part va lv tab = s.walkReads part va lv tab := by
  induction lv generalizing tab with
  | zero => rfl
  | succ lv ih => simp only [State.walkReads, h.usable, (h.combine _).homeRead, ih]

theorem tlbHit (h : Twin s s') (part ctx core va : Nat) : s'.tlbHit part ctx core va = s.tlbHit part ctx core va := by
  simp only [State.tlbHit, h.core, h.clu]

theorem rootOf (h : Twin s s') (part ctx : Nat) : s'.rootOf part ctx = s.rootOf part ctx := by simp only [State.rootOf, h.csr64]

theorem lookup (h : Twin s s') (part ctx core va : Nat) : s'.lookup part ctx core va = s.lookup part ctx core va := by
  simp only [State.lookup, h.csr64, h.tlbHit, h.usable, h.walk, h.rootOf]

theorem inTransition (h : Twin s s') (part ctx va : Nat) : s'.inTransition part ctx va = s.inTransition part ctx va := by
  simp only [State.inTransition, h.part]

theorem nearRead (h : Twin s s') (part pa n coh : Nat) : s'.nearRead part pa n coh = s.nearRead part pa n coh := by
  simp only [State.nearRead, h.homeRead, h.slice]
theorem nearPoison (h : Twin s s') (part pa coh : Nat) : s'.nearPoison part pa coh = s.nearPoison part pa coh := by
  simp only [State.nearPoison, h.isPoison, h.slice]
theorem coreRead (h : Twin s s') (core pa n coh : Nat) : s'.coreRead core pa n coh = s.coreRead core pa n coh := by
  simp only [State.coreRead, h.nearRead, h.homePart, h.core]
theorem readPoison (h : Twin s s') (core pa coh : Nat) : s'.readPoison core pa coh = s.readPoison core pa coh := by
  simp only [State.readPoison, h.linkUp, h.nearPoison, h.homePart, h.core]

end Twin

/-- The serial transactions of two states, as other strands meet them (R111). -/
def SameSerial (s s' : State) : Prop :=
  (s'.strands.any (fun e => e.2.tx.any (·.serial)) = s.strands.any (fun e => e.2.tx.any (·.serial))) ∧
    ∀ me pa wr, s'.serialHolds me pa wr = s.serialHolds me pa wr

theorem Twin.walkWaits {s s' : State} (h : Twin s s') (hs : SameSerial s s') (me part ctx core va : Nat) (wr : Bool) :
    s'.walkWaits me part ctx core va wr = s.walkWaits me part ctx core va wr := by
  simp only [State.walkWaits, hs.1, hs.2, h.walkReads, h.homeRead, h.tlbHit, h.rootOf]

theorem Twin.xlate {s s' : State} (h : Twin s s') (hs : SameSerial s s') (part ctx core va : Nat) (priv : Bool) (use : State.Use) :
    s'.xlate part ctx core va priv use = s.xlate part ctx core va priv use := by
  simp only [State.xlate, h.walkWaits hs, h.lookup, h.inTransition, h.cur]

theorem Twin.wordAt {s s' : State} (h : Twin s s') (hs : SameSerial s s') (t : Strand) (va : DWord) : s'.wordAt t va = s.wordAt t va := by
  simp only [State.wordAt, State.fetch, h.xlate hs, h.coreRead, h.readPoison]

/-! #### Denial -/

theorem mem_put_of_mem {β : Type} {m : AMap β} {a : Nat} {v : β} {e : Nat × β} (h : e ∈ m) (hne : AMap.look m a = some e.2 → e.1 ≠ a) :
    e ∈ AMap.put m a v := by
  induction m with
  | nil => cases h
  | cons x m ih =>
    obtain ⟨k, y⟩ := x
    simp only [AMap.put]
    split
    · exact List.mem_cons_of_mem _ h
    · split
      · rename_i hk
        obtain rfl | h := List.mem_cons.mp h
        · exact absurd hk.symm (hne (by simp [AMap.look, hk]))
        · exact List.mem_cons_of_mem _ h
      · rename_i hk
        obtain rfl | h := List.mem_cons.mp h
        · exact List.mem_cons_self
        · exact List.mem_cons_of_mem _ (ih h (fun hl => hne (by simpa [AMap.look, hk] using hl)))

theorem mem_of_look {β : Type} {m : AMap β} {a : Nat} {v : β} (h : AMap.look m a = some v) : (a, v) ∈ m := by
  induction m with
  | nil => cases h
  | cons x m ih =>
    obtain ⟨k, y⟩ := x
    simp only [AMap.look] at h
    split at h
    · rename_i hk
      simp [hk, Option.some.inj h]
    · exact List.mem_cons_of_mem _ (ih h)

/-- A test of the listed values that the new value passes as the old one did. -/
theorem any_put {β : Type} {m : AMap β} {a : Nat} {u v : β} (hu : AMap.look m a = some u) (q : Nat × β → Bool) (hq : q (a, v) = q (a, u)) :
    (AMap.put m a v).any q = m.any q := by
  rw [Bool.eq_iff_iff, List.any_eq_true, List.any_eq_true]
  constructor
  · rintro ⟨e, he, hqe⟩
    obtain rfl | he := AMap.mem_put he
    · exact ⟨(a, u), mem_of_look hu, hq ▸ hqe⟩
    · exact ⟨e, he, hqe⟩
  · rintro ⟨e, he, hqe⟩
    by_cases hn : AMap.look m a = some e.2 ∧ e.1 = a
    · obtain ⟨hl, rfl⟩ := hn
      obtain rfl : e.2 = u := Option.some.inj (hl.symm.trans hu)
      exact ⟨(e.1, v), mem_of_look (AMap.look_put_self _ _ _), hq.trans hqe⟩
    · exact ⟨e, mem_put_of_mem he (fun hl h => hn ⟨hl, h⟩), hqe⟩

theorem sameSerial_setStrand {s : State} {k : Nat} {t u : Strand} (ht : s.strand? k = some t) (hu : u.tx = t.tx) :
    SameSerial s (s.setStrand k u) := by
  refine ⟨any_put ht _ (by simp [hu]), fun me pa wr => any_put ht _ (by simp [hu])⟩

/-- A blocked GROW on register x that completes with v (R181). -/
def grownStrand (now : Nat) (u : Strand) (x : Nat) (v : Word) : Strand := { (u.setS x v).advance 1 with wait := .none, since := now }

theorem growBlocked_grownStrand (now : Nat) (u : Strand) (x : Nat) (v : Word) : growBlocked (grownStrand now u x v) = false := rfl

theorem grown_setStrand {s' : State} {k now x : Nat} {u : Strand} {v : Word} (h : s'.strand? k = some (grownStrand now u x v)) :
    grown s' k u x v := by
  refine ⟨_, h, ?_, fun r hr => ?_, rfl, ?_⟩
  · show ((u.setS x v).advance 1).getS x = v
    simp
  · show ((u.setS x v).advance 1).getS r = u.getS r
    have hrx : r ≠ x := by simpa using hr
    simp [getS_setS_ite, hrx]
  · have hb : ((u.setS x v).advance 1).besidesScalars = u.besidesScalars := by simp
    exact congrArg (fun t : Strand => { t with wait := u.wait, since := u.since }) hb

theorem denyGrow_blocked {s : State} {k x role : Nat} {t : Strand} (ht : s.strand? k = some t) (hb : growBlocked t = true)
    (hi : growItem s t = some (x, role)) : denyGrow s k = s.setStrand k (grownStrand s.time t x 0#32) := by
  unfold denyGrow
  simp only [ht, hb, hi]
  rfl

/-- A denial changes one strand, and leaves its transaction. -/
theorem denyGrow_cases (s : State) (k : Nat) :
    denyGrow s k = s ∨ ∃ t u, s.strand? k = some t ∧ u.tx = t.tx ∧ growBlocked t = true ∧ denyGrow s k = s.setStrand k u := by
  cases ht : s.strand? k with
  | none => exact Or.inl (by unfold denyGrow; simp [ht])
  | some t =>
    by_cases hb : growBlocked t = true
    · cases hi : growItem s t with
      | none => exact Or.inl (by unfold denyGrow; simp [ht, hb, hi])
      | some y =>
        refine Or.inr ⟨t, grownStrand s.time t y.1 0#32, rfl, ?_, hb, denyGrow_blocked ht hb hi⟩
        show ((t.setS y.1 0#32).advance 1).tx = t.tx
        simp
    · exact Or.inl (by unfold denyGrow; simp [ht, hb])

/-- What the denials of some strands leave for later ones. -/
structure Denied (s s' : State) : Prop where
  twin : Twin s s'
  serial : SameSerial s s'
  time : s'.time = s.time

theorem Denied.trans {s s1 s2 : State} (h : Denied s s1) (h' : Denied s1 s2) : Denied s s2 := by
  obtain ⟨⟨a1, a2, a3, a4, a5, a6, a7, a8, a9⟩, ⟨b1, b2⟩, c⟩ := h
  obtain ⟨⟨a1', a2', a3', a4', a5', a6', a7', a8', a9'⟩, ⟨b1', b2'⟩, c'⟩ := h'
  exact ⟨⟨a1'.trans a1, a2'.trans a2, a3'.trans a3, a4'.trans a4, a5'.trans a5, a6'.trans a6, a7'.trans a7, a8'.trans a8, a9'.trans a9⟩,
    ⟨b1'.trans b1, fun me pa wr => (b2' me pa wr).trans (b2 me pa wr)⟩, c'.trans c⟩

theorem Denied.growItem {s s' : State} (h : Denied s s') (t : Strand) : Machine.growItem s' t = Machine.growItem s t := by
  simp only [Machine.growItem, h.twin.wordAt h.serial]

theorem denied_denyGrow (s : State) (k : Nat) : Denied s (denyGrow s k) := by
  obtain h | ⟨t, u, ht, hu, -, h⟩ := denyGrow_cases s k <;> rw [h]
  · exact ⟨Twin.refl s, ⟨rfl, fun _ _ _ => rfl⟩, rfl⟩
  · exact ⟨⟨rfl, rfl, rfl, rfl, rfl, rfl, rfl, rfl, rfl⟩, sameSerial_setStrand ht hu, rfl⟩

theorem denyGrow_ne (s : State) {j k : Nat} (h : j ≠ k) : (denyGrow s k).strand? j = s.strand? j := by
  obtain he | ⟨t, u, -, -, -, he⟩ := denyGrow_cases s k <;> rw [he]
  exact AMap.look_put_ne _ _ h

theorem denyGrow_of_not_blocked {s : State} {j k : Nat} {t : Strand} (ht : s.strand? j = some t) (hb : growBlocked t = false) :
    (denyGrow s k).strand? j = some t := by
  by_cases hjk : j = k
  · subst hjk
    obtain he | ⟨t', u, ht', -, hb', -⟩ := denyGrow_cases s j
    · rw [he]
      exact ht
    · obtain rfl : t = t' := Option.some.inj (ht.symm.trans ht')
      rw [hb] at hb'
      cases hb'
  · rw [denyGrow_ne s hjk]
    exact ht

/-- The denials of several strands: a blocked one among them is denied, once, and one that is not blocked stays as it is. -/
theorem denyGrow_foldl (ks : List Nat) (s : State) :
    Denied s (ks.foldl denyGrow s) ∧
      (∀ j t, s.strand? j = some t → growBlocked t = false → (ks.foldl denyGrow s).strand? j = some t) ∧
      ∀ j ∈ ks, ∀ t x role, s.strand? j = some t → growBlocked t = true → growItem s t = some (x, role) →
        (ks.foldl denyGrow s).strand? j = some (grownStrand s.time t x 0#32) := by
  induction ks generalizing s with
  | nil => exact ⟨⟨Twin.refl s, ⟨rfl, fun _ _ _ => rfl⟩, rfl⟩, fun _ _ ht _ => ht, fun _ h => absurd h List.not_mem_nil⟩
  | cons k ks ih =>
    have hd := denied_denyGrow s k
    obtain ⟨hrest, hkeep, hdeny⟩ := ih (denyGrow s k)
    refine ⟨hd.trans hrest, fun j t ht hb => hkeep j t (denyGrow_of_not_blocked ht hb) hb, fun j hj t x role ht hb hi => ?_⟩
    by_cases hjk : j = k
    · subst hjk
      refine hkeep j _ ?_ (growBlocked_grownStrand _ _ _ _)
      rw [denyGrow_blocked ht hb hi]
      exact s.strand_setStrand _ _
    · have hmem : j ∈ ks := by simpa [hjk] using hj
      have h := hdeny j hmem t x role (by rw [denyGrow_ne s hjk]; exact ht) hb (by rw [hd.growItem]; exact hi)
      rwa [hd.time] at h

theorem pendingGrowIsGrantedOrDeniedForTheWholeCore : PendingGrowIsGrantedOrDeniedForTheWholeCore := by
  intro s k t x role w p ht hb hi hw hp hpast
  have hover : growOver s t w (t.getS x).toNat = false := by
    rw [← Bool.not_eq_true]
    exact mt (growOver_iff hp).1 hpast
  constructor
  · intro hfits
    have hexec : exec (.growDecided k) s =
        .next ((growTake s t role (t.getS x).toNat).setStrand k (grownStrand s.time t x (t.getS x))) := by
      have harm : exec (.growDecided k) s = execGrowDecided k s := rfl
      rw [harm]
      unfold execGrowDecided
      simp only [ht, hb, hi, hw, hover, hfits]
      rfl
    exact ⟨_, hexec, grown_setStrand (State.strand_setStrand _ _ _), s.weave_updWeave _ hw, rfl⟩
  · intro hfits hk hall
    have hall' : allGrow s t.core = true := by
      have hmem : (k, t) ∈ s.strands.filter (fun e => decide (e.1 < ccBase) && e.2.core == t.core) := by
        simp [mem_of_look ht, hk]
      simp only [allGrow, Bool.and_eq_true, Bool.not_eq_true', List.isEmpty_eq_false_iff_exists_mem, List.all_eq_true]
      refine ⟨⟨_, hmem⟩, fun e he => ?_⟩
      simp only [List.mem_filter, Bool.and_eq_true, decide_eq_true_eq, beq_iff_eq] at he
      exact hall e he.1 he.2.1 he.2.2
    let on := s.strands.filter (fun e => decide (e.1 < ccBase) && e.2.core == t.core)
    have hexec : exec (.growDecided k) s =
        .next (((on.map (·.1)).foldl denyGrow s).updPart t.part (fun p => p.logNf 3 t.ctx t.core t.slot 0)) := by
      have harm : exec (.growDecided k) s = execGrowDecided k s := rfl
      rw [harm, List.foldl_map]
      unfold execGrowDecided
      simp only [ht, hb, hi, hw, hover, hfits, hall']
      rfl
    obtain ⟨hd, -, hdeny⟩ := denyGrow_foldl (on.map (·.1)) s
    refine ⟨_, hexec, hd.twin.mem, fun j u y r hj hu hcore hiu => ?_⟩
    have hmem : (j, u) ∈ on := by simp [on, mem_of_look hu, hj, hcore]
    exact grown_setStrand (hdeny j (List.mem_map_of_mem (f := (·.1)) hmem) u y r hu (hall _ (mem_of_look hu) hj hcore) hiu)

/-- Proves O25: reports read the counted members; a denial of a whole core goes strand by strand, and what a strand fetches does not
depend on the others but for their transactions, which a denial leaves. -/
theorem membershipIsReportedGrownAndShrunk : Obligations.MembershipIsReportedGrownAndShrunk :=
  ⟨membershipReportsAnswerFromTheWeave, pendingGrowIsGrantedOrDeniedForTheWholeCore⟩

end Sys2Proof.Proofs
end

/-! ### ATTACH (spec/02 R42, R43, spec/06 R178, R179) -/
section
namespace Sys2Proof.Proofs
open Sys2Proof Sys2Proof.Machine Sys2Proof.Rules

/-! #### Where strands are placed (R42) -/

/-- Four spindles whose free slots are their own, each once, and all in P. -/
structure Open (P : Nat → Prop) (xs : List Spindle) : Prop where
  length : xs.length = 4
  nodup : ∀ x ∈ xs, x.free.Nodup
  slot : ∀ (i : Nat) (x : Spindle), xs[i]? = some x → ∀ n ∈ x.free, n / 24 = i ∧ P n

section
variable {P : Nat → Prop} {xs : List Spindle}

theorem Open.slot_lt (h : Open P xs) {i : Nat} {x : Spindle} (hx : xs[i]? = some x) {n : Nat} (hn : n ∈ x.free) : n < 96 := by
  obtain ⟨hlt, -⟩ := List.getElem?_eq_some_iff.mp hx
  have hdiv := (h.slot i x hx n hn).1
  rw [h.length] at hlt
  omega

/-- Spindles from which free slots have been taken. -/
theorem Open.map_sub (h : Open P xs) {ys : List Spindle} (hlen : ys.length = xs.length)
    (hsub : ∀ (i : Nat) (y : Spindle), ys[i]? = some y → ∃ x, xs[i]? = some x ∧ y.free.Sublist x.free) : Open P ys where
  length := hlen.trans h.length
  nodup := fun y hy => by
    obtain ⟨i, hi⟩ := List.mem_iff_getElem?.mp hy
    obtain ⟨x, hx, hs⟩ := hsub i y hi
    exact (h.nodup x (List.mem_of_getElem? hx)).sublist hs
  slot := fun i y hy n hn => by
    obtain ⟨x, hx, hs⟩ := hsub i y hy
    exact h.slot i x hx n (hs.subset hn)

theorem fits_free {b : Nat} {x : Spindle} (h : x.fits b = true) : ∃ n rest, x.free = n :: rest := by
  cases hf : x.free with
  | nil => simp [Spindle.fits, hf] at h
  | cons n rest => exact ⟨n, rest, rfl⟩

theorem Open.modify (h : Open P xs) (i : Nat) {f : Spindle → Spindle} (hf : ∀ x, (f x).free.Sublist x.free) : Open P (xs.modify i f) := by
  refine h.map_sub (List.length_modify ..) fun j y hy => ?_
  rw [List.getElem?_modify] at hy
  obtain ⟨x, hx, rfl⟩ := Option.map_eq_some_iff.mp hy
  refine ⟨x, hx, ?_⟩
  split
  · exact hf x
  · exact List.Sublist.refl _

theorem Open.map (h : Open P xs) {f : Spindle → Spindle} (hf : ∀ x, (f x).free.Sublist x.free) : Open P (xs.map f) := by
  refine h.map_sub (List.length_map ..) fun j y hy => ?_
  rw [List.getElem?_map] at hy
  obtain ⟨x, hx, rfl⟩ := Option.map_eq_some_iff.mp hy
  exact ⟨x, hx, hf x⟩

theorem reserve_sublist (b : Nat) (x : Spindle) : (x.reserve b).free.Sublist x.free := List.dropLast_sublist _

/-- What reservations withhold leaves the spindles' own slots. -/
theorem Open.withhold (role b : Nat) : ∀ (n : Nat) {xs : List Spindle}, Open P xs → Open P (Machine.withhold role b n xs)
  | 0, _, h => h
  | n + 1, xs, h => by
    unfold Machine.withhold
    split
    · split
      · split
        · exact Open.withhold role b n (h.map (reserve_sublist b))
        · exact h
      · exact Open.withhold role b n h
    · split
      · exact Open.withhold role b n (h.modify _ (reserve_sublist b))
      · exact h

theorem Open.weaken {Q : Nat → Prop} (h : Open P xs) (hPQ : ∀ n, P n → Q n) : Open Q xs where
  length := h.length
  nodup := h.nodup
  slot := fun i x hx n hn => ⟨(h.slot i x hx n hn).1, hPQ n (h.slot i x hx n hn).2⟩

/-- Slots taken from open spindles: open before, each once, and gone from what is left. -/
structure Taken (P : Nat → Prop) (slots : List Nat) (ys : List Spindle) : Prop where
  nodup : slots.Nodup
  mem : ∀ n ∈ slots, n < 96 ∧ P n
  rest : Open (fun n => P n ∧ n ∉ slots) ys

/-- Slots taken one group after another. -/
theorem Taken.append {slots more : List Nat} {ys zs : List Spindle} (h : Taken P slots ys)
    (h' : Taken (fun n => P n ∧ n ∉ slots) more zs) : Taken P (slots ++ more) zs where
  nodup := List.nodup_append'.mpr ⟨h.nodup, h'.nodup, fun n hn hm => (h'.mem n hm).2.2 hn⟩
  mem := fun n hn => by
    rcases List.mem_append.mp hn with hn | hn
    · exact h.mem n hn
    · exact ⟨(h'.mem n hn).1, (h'.mem n hn).2.1⟩
  rest := h'.rest.weaken fun n hn => ⟨hn.1.1, by simp [hn.1.2, hn.2]⟩

theorem foldl_choose {α : Type} {Q : α → Prop} (c : α → α → Prop) [∀ a b, Decidable (c a b)] (l : List α) (a : α) (ha : Q a)
    (hl : ∀ b ∈ l, Q b) : Q (l.foldl (fun m j => if c m j then j else m) a) := by
  induction l generalizing a with
  | nil => exact ha
  | cons b l ih =>
    refine ih (if c a b then b else a) ?_ (fun d hd => hl d (by simp [hd]))
    split
    · exact hl b (by simp)
    · exact ha

/-- The spindle picked has room (R42, R313). -/
theorem pickSpindle_fits {least : Bool} {b i : Nat} (h : pickSpindle least b xs = some i) : ∃ x, xs[i]? = some x ∧ x.fits b = true := by
  have hok : ∀ j ∈ (List.range xs.length).filter (fun i => match xs[i]? with | some x => x.fits b | none => false),
      ∃ x, xs[j]? = some x ∧ x.fits b = true := by
    intro j hj
    have hf := (List.mem_filter.mp hj).2
    cases hx : xs[j]? with
    | none => simp [hx] at hf
    | some x => exact ⟨x, rfl, by simpa [hx] using hf⟩
  unfold pickSpindle at h
  dsimp only at h
  split at h
  · cases h
  · rename_i j js hlist
    have hmem : ∀ a ∈ j :: js, ∃ x, xs[a]? = some x ∧ x.fits b = true := fun a ha => hok a (hlist ▸ ha)
    split at h
    · cases h
      exact foldl_choose (Q := fun i => ∃ x, xs[i]? = some x ∧ x.fits b = true)
        (fun m j => ((xs[j]?).map (·.res)).getD 0 < ((xs[m]?).map (·.res)).getD 0) js j (hmem j (by simp)) (fun a ha => hmem a (by simp [ha]))
    · cases h
      exact hmem _ (by simp)

theorem taken_place1 {least : Bool} {b n : Nat} {ys : List Spindle} (h : Open P xs) (hp : place1 least b xs = some (n, ys)) : Taken P [n] ys := by
  unfold place1 at hp
  split at hp
  · cases hp
  · rename_i i hpick
    obtain ⟨x, hx, hfit⟩ := pickSpindle_fits hpick
    obtain ⟨m, rest, hfree⟩ := fits_free hfit
    rw [hx] at hp
    cases hp
    have hhead : x.free.headD 0 = m := by rw [hfree]; rfl
    have hm : m ∈ x.free := by simp [hfree]
    have hnd := h.nodup x (List.mem_of_getElem? hx)
    rw [hfree] at hnd
    have htake : (x.take b).free = rest := by simp [Spindle.take, hfree]
    rw [hhead]
    refine ⟨by simp, fun k hk => ?_, ?_⟩
    · rw [List.mem_singleton.mp hk]
      exact ⟨h.slot_lt hx hm, (h.slot i x hx m hm).2⟩
    · refine ⟨(List.length_set ..).trans h.length, fun y hy => ?_, fun j y hy k hk => ?_⟩
      · rcases List.mem_or_eq_of_mem_set hy with hy | rfl
        · exact h.nodup y hy
        · rw [htake]; exact (List.nodup_cons.mp hnd).2
      · by_cases hij : i = j
        · subst hij
          have hy' : y = x.take b := by
            rw [List.getElem?_set_self (List.getElem?_eq_some_iff.mp hx).1] at hy
            exact (Option.some.inj hy).symm
          rw [hy', htake] at hk
          obtain ⟨hdiv, hP⟩ := h.slot i x hx k (by simp [hfree, hk])
          exact ⟨hdiv, hP, fun hkm => (List.nodup_cons.mp hnd).1 (List.mem_singleton.mp hkm ▸ hk)⟩
        · rw [List.getElem?_set_ne hij] at hy
          obtain ⟨hdiv, hP⟩ := h.slot j y hy k hk
          refine ⟨hdiv, hP, fun hkm => hij ?_⟩
          rw [← (h.slot i x hx m hm).1, ← hdiv, List.mem_singleton.mp hkm]

theorem taken_placeN {least : Bool} {b : Nat} : ∀ {k : Nat} {P : Nat → Prop} {xs : List Spindle} {slots : List Nat} {ys : List Spindle},
    Open P xs → placeN least b k xs = some (slots, ys) → Taken P slots ys ∧ slots.length = k
  | 0, P, xs, _, _, h, hp => by
    cases hp
    exact ⟨⟨List.nodup_nil, by simp, h.weaken fun n hn => ⟨hn, by simp⟩⟩, rfl⟩
  | k + 1, P, xs, _, _, h, hp => by
    unfold placeN at hp
    split at hp
    · cases hp
    · rename_i n zs h1
      split at hp
      · rename_i r us hrest
        cases hp
        have ht := taken_place1 h h1
        obtain ⟨hr, hlen⟩ := taken_placeN ht.rest hrest
        exact ⟨ht.append hr, by simp [hlen]⟩
      · cases hp

theorem taken_place4 {b : Nat} {slots : List Nat} {ys : List Spindle} (h : Open P xs) (hp : place4 b xs = some (slots, ys)) :
    Taken P slots ys ∧ slots.length = 4 := by
  unfold place4 at hp
  split at hp
  · rename_i hall
    cases hp
    have hhead : ∀ (i : Nat) (x : Spindle), xs[i]? = some x → ∃ rest, x.free = x.free.headD 0 :: rest := by
      intro i x hx
      obtain ⟨n, rest, hf⟩ := fits_free (List.all_eq_true.mp hall x (List.mem_of_getElem? hx))
      exact ⟨rest, by rw [hf]; rfl⟩
    have hmem : ∀ (i : Nat) (x : Spindle), xs[i]? = some x → x.free.headD 0 ∈ x.free := by
      intro i x hx
      obtain ⟨rest, hf⟩ := hhead i x hx
      rw [hf]; simp
    have hdivs : (xs.map (fun x => x.free.headD 0)).map (· / 24) = List.range xs.length := by
      refine List.ext_getElem? fun i => ?_
      rw [List.map_map, List.getElem?_map]
      cases hx : xs[i]? with
      | none =>
        have hle := List.getElem?_eq_none_iff.mp hx
        simp [hle]
      | some x =>
        obtain ⟨hlt, -⟩ := List.getElem?_eq_some_iff.mp hx
        rw [List.getElem?_range hlt]
        simp only [Option.map_some, Function.comp_apply, (h.slot i x hx _ (hmem i x hx)).1]
    refine ⟨⟨List.Nodup.of_map _ (hdivs ▸ List.nodup_range), fun n hn => ?_, ?_⟩, by simp [h.length]⟩
    · obtain ⟨x, hx, rfl⟩ := List.mem_map.mp hn
      obtain ⟨i, hi⟩ := List.mem_iff_getElem?.mp hx
      exact ⟨h.slot_lt hi (hmem i x hi), (h.slot i x hi _ (hmem i x hi)).2⟩
    · have htake : ∀ x : Spindle, (x.take b).free.Sublist x.free := fun x => List.drop_sublist 1 x.free
      have hmap := h.map (f := Spindle.take b) htake
      refine ⟨hmap.length, hmap.nodup, fun i y hy n hn => ?_⟩
      obtain ⟨hdiv, hP⟩ := hmap.slot i y hy n hn
      refine ⟨hdiv, hP, fun hmem' => ?_⟩
      obtain ⟨x, hx, rfl⟩ := List.mem_map.mp hmem'
      obtain ⟨j, hj⟩ := List.mem_iff_getElem?.mp hx
      have hij : j = i := (h.slot j x hj _ (hmem j x hj)).1.symm.trans hdiv
      subst hij
      rw [List.getElem?_map, hj] at hy
      obtain ⟨rest, hf⟩ := hhead j x hj
      have hnd := h.nodup x hx
      have hdrop : y.free = rest := by rw [← Option.some.inj hy, Spindle.take, hf]; rfl
      rw [hf] at hnd
      exact (List.nodup_cons.mp hnd).1 (hdrop ▸ hn)
  · cases hp

theorem taken_placeQ {b : Nat} : ∀ {k : Nat} {P : Nat → Prop} {xs : List Spindle} {slots : List Nat} {ys : List Spindle},
    Open P xs → placeQ b k xs = some (slots, ys) → Taken P slots ys ∧ slots.length = 4 * k
  | 0, P, xs, _, _, h, hp => by
    cases hp
    exact ⟨⟨List.nodup_nil, by simp, h.weaken fun n hn => ⟨hn, by simp⟩⟩, rfl⟩
  | k + 1, P, xs, _, _, h, hp => by
    unfold placeQ at hp
    split at hp
    · cases hp
    · rename_i n zs h1
      split at hp
      · rename_i r us hrest
        cases hp
        obtain ⟨ht, h4⟩ := taken_place4 h h1
        obtain ⟨hr, hlen⟩ := taken_placeQ ht.rest hrest
        exact ⟨ht.append hr, by rw [List.length_append, h4, hlen]; omega⟩
      · cases hp

theorem taken_placeRole {least : Bool} {role b k : Nat} {slots : List Nat} {ys : List Spindle} (hk : role = 1 → k % 4 = 0) (h : Open P xs)
    (hp : placeRole least role b k xs = some (slots, ys)) : Taken P slots ys ∧ slots.length = k := by
  unfold placeRole at hp
  split at hp
  · rename_i hr
    obtain ⟨ht, hlen⟩ := taken_placeQ h hp
    have := hk hr
    exact ⟨ht, by omega⟩
  · exact taken_placeN h hp

end

/-! #### The free slots of a core -/

section
variable {s : State}

/-- No strand of the core stands in slot n. -/
def slotFree (s : State) (core n : Nat) : Prop := ∀ t ∈ s.onCore core, t.slot ≠ n

theorem open_spindles (s : State) (core creg : Nat) : Open (slotFree s core) (s.spindles core creg) := by
  have hget : ∀ (i : Nat) (x : Spindle), (s.spindles core creg)[i]? = some x → i < 4 ∧ x.free =
      ((List.range 24).map (24 * i + ·)).filter (fun n => !((s.onCore core).filter (fun t => t.slot / 24 == i)).any (fun t => t.slot == n)) := by
    intro i x hx
    unfold State.spindles at hx
    dsimp only at hx
    rw [List.getElem?_map] at hx
    obtain ⟨q, hq, rfl⟩ := Option.map_eq_some_iff.mp hx
    obtain ⟨hlt, rfl⟩ := List.getElem?_eq_some_iff.mp hq
    rw [List.length_range] at hlt
    simp [hlt]
  refine ⟨by simp [State.spindles], fun x hx => ?_, fun i x hx n hn => ?_⟩
  · obtain ⟨i, hi⟩ := List.mem_iff_getElem?.mp hx
    rw [(hget i x hi).2]
    exact (List.nodup_range.map fun a b hab => Nat.add_left_cancel hab).filter _
  · rw [(hget i x hx).2, List.mem_filter, List.mem_map] at hn
    obtain ⟨⟨j, hj, rfl⟩, hno⟩ := hn
    rw [List.mem_range] at hj
    refine ⟨by omega, fun t ht he => ?_⟩
    have : t.slot / 24 = i := by omega
    simp only [Bool.not_eq_true', List.any_eq_false, List.mem_filter] at hno
    exact hno t ⟨ht, by simpa using this⟩ (by simpa using he)

theorem open_openSpindles (s : State) (core creg wk role n : Nat) : Open (slotFree s core) (s.openSpindles core creg wk role n) := by
  have hw : Open (slotFree s core) (State.openSpindles.open_ s core creg wk role n) := by
    unfold State.openSpindles.open_
    refine foldl_keeps (P := Open (slotFree s core)) (fun xs e hxs => ?_) _ _ (open_spindles s core creg)
    split
    · split
      · exact hxs
      · exact foldl_keeps (P := Open (slotFree s core)) (fun ys r hys => hys.withhold _ _ _) _ _ hxs
    · exact hxs
  have hs := open_spindles s core creg
  refine hw.map_sub ?_ fun i y hy => ?_
  · rw [State.openSpindles, List.length_zipWith, hw.length, hs.length, Nat.min_self]
  · rw [State.openSpindles, List.getElem?_zipWith] at hy
    cases hx : (State.openSpindles.open_ s core creg wk role n)[i]? with
    | none => simp [hx] at hy
    | some x =>
      cases hz : (s.spindles core creg)[i]? with
      | none => simp [hx, hz] at hy
      | some z =>
        simp only [hx, hz] at hy
        exact ⟨x, rfl, by rw [← Option.some.inj hy]⟩

/-- The slots of an attach: as many as asked, each once, and free (R42, R179). -/
theorem attachSlots_spec {wk role core k : Nat} {w : Weave} {d : Desc} {slots : List Nat} (hk : role = 1 → k % 4 = 0)
    (h : s.attachSlots wk w d role core k = some slots) :
    slots.length = k ∧ slots.Nodup ∧ ∀ n ∈ slots, n < 96 ∧ slotFree s core n := by
  unfold State.attachSlots at h
  split at h
  · cases h
  · obtain ⟨⟨sl, ys⟩, hp, rfl⟩ := Option.map_eq_some_iff.mp h
    obtain ⟨ht, hlen⟩ := taken_placeRole hk (open_openSpindles s core d.creg wk role (w.resv.getD role 0)) hp
    exact ⟨hlen, ht.nodup, ht.mem⟩

end

/-! #### The strands that an attach starts (R42) -/

section
variable {s : State} {t : Strand} {w : Weave} {x role core budget : Nat}

/-- A strand as ATTACH of strand t places it, its registers set. -/
def attached (t : Strand) (w : Weave) (x role core budget : Nat) (e : Nat × Nat) (sid quad now : Nat) : Strand :=
  ((((newStrand sid t.weave e.1 role core e.2 budget t.part t.ctx t.priv t.sbase t.lbase (t.secBase + (t.getS (x + 1)).setWidth 64)
    (t.getS (x + 2)) quad now).putS 0 (BitVec.ofNat 32 sid)).putS 1 (BitVec.ofNat 32 e.1)).putS 2 (BitVec.ofNat 32 t.widx)).putS 3
    (BitVec.ofNat 32 (w.attSeq + 1))

theorem started_attached (e : Nat × Nat) (sid quad now : Nat) :
    started t (attached t w x role core budget e sid quad now) w x e.1 role core e.2 := by
  have hs : ∀ r, (newStrand sid t.weave e.1 role core e.2 budget t.part t.ctx t.priv t.sbase t.lbase
      (t.secBase + (t.getS (x + 1)).setWidth 64) (t.getS (x + 2)) quad now).getS r = 0#32 := fun _ => rfl
  have hget : ∀ r, (attached t w x role core budget e sid quad now).getS r = if r = 3 then BitVec.ofNat 32 (w.attSeq + 1)
      else if r = 2 then BitVec.ofNat 32 t.widx else if r = 1 then BitVec.ofNat 32 e.1 else if r = 0 then BitVec.ofNat 32 sid else 0#32 := by
    intro r
    simp only [attached, getS_putS_ite, hs]
  have hsid : (attached t w x role core budget e sid quad now).sid = sid := rfl
  refine ⟨rfl, rfl, rfl, rfl, rfl, rfl, rfl, rfl, rfl, rfl, rfl, rfl, rfl, rfl, rfl, rfl, ?_, ?_, ?_, ?_, ?_, ?_⟩
  · rw [hget, hsid]; rfl
  · rw [hget]; rfl
  · rw [hget]; rfl
  · rw [hget]; rfl
  · intro r hr
    rw [hget, if_neg (by omega), if_neg (by omega), if_neg (by omega), if_neg (by omega)]
  · intro r l
    show (List.replicate 128 0#32).getD l 0#32 = 0#32
    rw [List.getD_eq_getElem?_getD, List.getElem?_replicate]
    split <;> rfl

/-- The strands that an attach starts, put in place one after another. -/
def putAll (t : Strand) (w : Weave) (x role core budget : Nat) (es : List (Nat × Nat)) (n : Nat) (s : State) : State :=
  State.putAttached t.weave role core budget t (t.secBase + (t.getS (x + 1)).setWidth 64) (t.getS (x + 2)) (w.attSeq + 1) es n s

theorem putAll_spec (es : List (Nat × Nat)) (n : Nat) (s : State) :
    let a := putAll t w x role core budget es n s
    a.cur = s.cur ∧ a.weaves = s.weaves ∧ a.cores = s.cores ∧ (∀ j, (∀ e ∈ es, j ≠ 96 * core + e.2) → a.strand? j = s.strand? j) ∧
      ((es.map (·.2)).Nodup → ∀ e ∈ es, ∃ u, a.strand? (96 * core + e.2) = some u ∧ started t u w x e.1 role core e.2) := by
  induction es generalizing n s with
  | nil => exact ⟨rfl, rfl, rfl, fun _ _ => rfl, by simp⟩
  | cons e es ih =>
    obtain ⟨widx, slot⟩ := e
    let k := if role = 1 ∧ n % 4 = 0 then { s with nextKey := s.nextKey + 1 } else s
    let u := attached t w x role core budget (widx, slot) (k.freeId t.part) (if role = 1 then k.nextKey else 0) k.time
    have hkey : k.cur = s.cur ∧ k.weaves = s.weaves ∧ k.cores = s.cores ∧ k.strands = s.strands := by
      simp only [k]
      split <;> exact ⟨rfl, rfl, rfl, rfl⟩
    obtain ⟨hkc, hkw, hkco, hks⟩ := hkey
    obtain ⟨hcur, hweaves, hcores, hout, hin⟩ := ih (n + 1) (k.setStrand (96 * core + slot) u)
    refine ⟨hcur.trans hkc, hweaves.trans hkw, hcores.trans hkco, fun j hj => ?_, fun hnd e he => ?_⟩
    · have hne : j ≠ 96 * core + slot := hj (widx, slot) (by simp)
      refine (hout j fun e he => hj e (by simp [he])).trans ?_
      rw [State.strand_setStrand_ne _ _ hne, State.strand?, State.strand?, hks]
    · rw [List.map_cons, List.nodup_cons] at hnd
      rcases List.mem_cons.mp he with rfl | he
      · refine ⟨u, (hout _ fun e he heq => hnd.1 ?_).trans (State.strand_setStrand ..), started_attached ..⟩
        exact List.mem_map.mpr ⟨e, he, by omega⟩
      · exact hin hnd.2 e he

end

/-! #### Scratch and the clasps in it (R43, R175) -/

section

/-- The bytes of a scratch write, in place. -/
theorem get_writeScr (g : Nat → Byte) (off a : Nat) (m : AMap Byte) : ∀ n : Nat,
    AMap.get ((List.range n).foldl (fun m i => AMap.set m (off + i) (g i) 0#8) m) a 0#8 =
      if off ≤ a ∧ a < off + n then g (a - off) else AMap.get m a 0#8
  | 0 => by rw [if_neg (by omega)]; rfl
  | n + 1 => by
    rw [List.range_succ, List.foldl_append, List.foldl_cons, List.foldl_nil]
    by_cases ha : a = off + n
    · rw [ha, AMap.get_set_self, if_pos (by omega), Nat.add_sub_cancel_left]
    · rw [AMap.get_set_ne _ _ _ _ ha, get_writeScr g off a m n]
      by_cases hin : off ≤ a ∧ a < off + n
      · rw [if_pos hin, if_pos (by omega)]
      · rw [if_neg hin, if_neg (by omega)]

/-- Word at offset o of a scratch region. -/
def scrWord (m : AMap Byte) (o : Nat) : Word := BitVec.ofNat 32 (natOf ((List.range 4).map (fun i => AMap.get m (o + i) 0#8)))

theorem scrWord_congr {m m' : AMap Byte} {o : Nat} (h : ∀ i, i < 4 → AMap.get m' (o + i) 0#8 = AMap.get m (o + i) 0#8) :
    scrWord m' o = scrWord m o := by
  unfold scrWord
  rw [List.map_congr_left fun i hi => h i (List.mem_range.mp hi)]

/-- A word whose bytes stand at o. -/
theorem scrWord_of_bytes {m : AMap Byte} {o : Nat} {v : Word} (h : ∀ i, i < 4 → AMap.get m (o + i) 0#8 = byteAt v.toNat i) : scrWord m o = v := by
  unfold scrWord
  rw [List.map_congr_left fun i hi => h i (List.mem_range.mp hi)]
  apply BitVec.eq_of_toNat_eq
  have hv := v.isLt
  simp [List.range, List.range.loop, natOf, byteAt]
  omega

/-- The word of scratch at o is poisoned. -/
def wordPoison (w : Weave) (o : Nat) : Bool := (List.range ((o % 4 + 4 + 3) / 4)).any (fun i => w.scrPoison.contains (o / 4 + i))

variable {w w' : Weave} {wk off : Nat} {a : State}

theorem stashOf_none (hst : (a.core w.home).stash = []) (wk off : Nat) : a.stashOf w wk off = none := by
  rw [State.stashOf, hst]
  rfl

theorem stashFill_eq_self (hw : a.weave? wk = some w) (hst : (a.core w.home).stash = []) (me off : Nat) : a.stashFill me wk off = a := by
  unfold State.stashFill
  simp only [hw, stashOf_none hst]

theorem stashDirty_eq_self (hw : a.weave? wk = some w) (hst : (a.core w.home).stash = []) (me off n : Nat) : a.stashDirty me wk off n = a := by
  unfold State.stashDirty
  simp only [hw, stashOf_none hst]

theorem claspRead_scr_j (hw : a.weave? wk = some w) (hst : (a.core w.home).stash = []) (off : Nat) :
    (a.claspRead (.scr wk off)).j = scrWord w.scr (off + 12) := by
  unfold State.claspRead
  simp only [stashFill_eq_self hw hst, State.scrRead, hw]
  rfl

theorem claspPoison_scr (hw : a.weave? wk = some w) (hst : (a.core w.home).stash = []) (off : Nat) :
    a.claspPoison (.scr wk off) = (List.range 6).filter (fun i => wordPoison w (off + 4 * i)) := by
  unfold State.claspPoison
  simp only [stashFill_eq_self hw hst, State.scrPoisoned, hw]
  rfl

/-- A scratch write of a weave with no stash. -/
def scrPut (off : Nat) (bs : List Byte) (w : Weave) : Weave :=
  { w with
    scr := (List.range bs.length).foldl (fun m i => AMap.set m (off + i) (bs.getD i 0#8) 0#8) w.scr,
    scrPoison := w.scrPoison.filter (fun x => !(State.wholeWords off bs.length).contains x) }

theorem scrWrite_eq (hw : a.weave? wk = some w) (hst : (a.core w.home).stash = []) (me off : Nat) (bs : List Byte) :
    a.scrWrite me wk off bs = a.updWeave wk (scrPut off bs) := by
  have hw' : (a.updWeave wk (scrPut off bs)).weave? wk = some (scrPut off bs w) := State.weave_updWeave a _ hw
  have hst' : ((a.updWeave wk (scrPut off bs)).core (scrPut off bs w).home).stash = [] := hst
  unfold State.scrWrite
  rw [stashFill_eq_self hw hst]
  exact stashDirty_eq_self hw' hst' me off bs.length

/-- A write to scratch clears poison and sets none. -/
theorem wordPoison_scrPut {o : Nat} (h : wordPoison w o = false) (off : Nat) (bs : List Byte) : wordPoison (scrPut off bs w) o = false := by
  simp only [wordPoison, List.any_eq_false, List.contains_iff_mem] at h ⊢
  intro i hi hmem
  exact h i hi (List.mem_of_mem_filter hmem)

theorem scrWord_scrPut_out {o : Nat} {bs : List Byte} (h : o + 4 ≤ off ∨ off + bs.length ≤ o) : scrWord (scrPut off bs w).scr o = scrWord w.scr o := by
  refine scrWord_congr fun i hi => ?_
  rw [scrPut, get_writeScr (fun i => bs.getD i 0#8), if_neg (by omega)]

/-- The words of a clasp written at off: its J stands at off + 12. -/
theorem scrWord_scrPut_clasp (c : Clasp) :
    scrWord (scrPut off (State.bytesOfWords [c.w0, c.e, c.a, c.j, c.early, c.held]) w).scr (off + 12) = c.j := by
  refine scrWord_of_bytes fun i hi => ?_
  have hlen : (State.bytesOfWords [c.w0, c.e, c.a, c.j, c.early, c.held]).length = 24 := rfl
  rw [scrPut, get_writeScr (fun i => (State.bytesOfWords [c.w0, c.e, c.a, c.j, c.early, c.held]).getD i 0#8), hlen, if_pos (by omega),
    show off + 12 + i - off = 12 + i by omega]
  have hcase : i = 0 ∨ i = 1 ∨ i = 2 ∨ i = 3 := by omega
  rcases hcase with rfl | rfl | rfl | rfl <;> rfl

/-! #### Joiners at the clasps (R43) -/

/-- The release before a change of the clasp at b. -/
def joinReleased (me : Nat) (t : Strand) (a : State) (b : Bind) : State := a.releaseAt me t (State.claspScope b)

/-- J of the object at p raised by k. -/
def raiseJ (me k : Nat) (a : State) (p : CPlace) : State :=
  (a.claspPrep me p).claspWrite me p { (a.claspPrep me p).claspRead p with j := ((a.claspPrep me p).claspRead p).j + BitVec.ofNat 32 k }

/-- J of the object that b reaches, raised by k. -/
def raisedAt (me k : Nat) (t : Strand) (w : Weave) (a : State) (b : Bind) : State :=
  match a.claspPlace t w b with
  | none => a
  | some p => raiseJ me k a p

/-- The records of joiners at handle h. -/
def joinRecs (h : Nat) (idxs : List Nat) (w : Weave) : Weave :=
  { w with recs := idxs.foldl (fun r i => AMap.put r (64 * h + i) { State.member with joins := true }) w.recs }

def joinStep (me : Nat) (t : Strand) (w : Weave) (idxs : List Nat) (a : State) (e : Nat × Bind) : State :=
  (raisedAt me idxs.length t w (joinReleased me t a e.2) e.2).updWeave t.weave (joinRecs e.1 idxs)

theorem claspJoin_eq {t : Strand} (hw : a.weave? t.weave = some w) (me : Nat) (idxs : List Nat) :
    State.claspJoin me a t idxs = (claspHandles w).foldl (joinStep me t w idxs) a := by
  unfold State.claspJoin
  rw [hw]
  rfl

theorem raiseJ_cur (me k : Nat) (a : State) (p : CPlace) : (raiseJ me k a p).cur = a.cur :=
  (claspWrite_cur _ me p _).trans (claspPrep_cur a me p)

theorem joinStep_cur (me : Nat) (t : Strand) (w : Weave) (idxs : List Nat) (a : State) (e : Nat × Bind) :
    (joinStep me t w idxs a e).cur = a.cur := by
  have hrel : (joinReleased me t a e.2).cur = a.cur := ((SameRest.refl a 0).releaseAt me t _).cur
  have hraise : (raisedAt me idxs.length t w (joinReleased me t a e.2) e.2).cur = (joinReleased me t a e.2).cur := by
    unfold raisedAt
    split
    · rfl
    · exact raiseJ_cur _ _ _ _
  exact hraise.trans hrel

theorem claspJoin_cur {t : Strand} (hw : a.weave? t.weave = some w) (me : Nat) (idxs : List Nat) : (State.claspJoin me a t idxs).cur = a.cur := by
  rw [claspJoin_eq hw]
  exact foldl_keeps (P := fun b : State => b.cur = a.cur) (fun b e hb => (joinStep_cur me t w idxs b e).trans hb) _ _ rfl

/-- In a the weave wk is at home on a core with no stash, and its clasp at scratch offset off has no poison and J = v. -/
structure Holds (home wk off : Nat) (v : Word) (a : State) : Prop where
  stash : (a.core home).stash = []
  weave : ∃ w, a.weave? wk = some w ∧ w.home = home ∧ (∀ i, i < 6 → wordPoison w (off + 4 * i) = false) ∧ scrWord w.scr (off + 12) = v

variable {home : Nat} {v : Word}

theorem Holds.rest {b : State} (h : Holds home wk off v a) (hb : SameRest a home b) : Holds home wk off v b := by
  obtain ⟨w, hw, hrest⟩ := h.weave
  refine ⟨hb.stash h.stash, w, ?_, hrest⟩
  rw [State.weave?, hb.weaves]
  exact hw

/-- An update of the weave that leaves its home, its scratch and its poison. -/
theorem Holds.updWeave (h : Holds home wk off v a) (f : Weave → Weave) (hf : ∀ w, (f w).home = w.home ∧ (f w).scr = w.scr ∧ (f w).scrPoison = w.scrPoison) :
    Holds home wk off v (a.updWeave wk f) := by
  obtain ⟨w, hw, hhome, hpoison, hj⟩ := h.weave
  obtain ⟨h1, h2, h3⟩ := hf w
  refine ⟨h.stash, f w, State.weave_updWeave a f hw, h1.trans hhome, fun i hi => ?_, by rw [h2, hj]⟩
  rw [wordPoison, h3]
  exact hpoison i hi

/-- A write to another object of the scratch. -/
theorem Holds.scrWrite (h : Holds home wk off v a) (me : Nat) {o : Nat} {bs : List Byte} (ho : off + 16 ≤ o ∨ o + bs.length ≤ off) :
    Holds home wk off v (a.scrWrite me wk o bs) := by
  obtain ⟨w, hw, hhome, hpoison, hj⟩ := h.weave
  have hst : (a.core w.home).stash = [] := hhome ▸ h.stash
  rw [scrWrite_eq hw hst]
  refine ⟨h.stash, _, State.weave_updWeave a _ hw, hhome, fun i hi => wordPoison_scrPut (hpoison i hi) _ _, ?_⟩
  rw [scrWord_scrPut_out (by omega), hj]

theorem Holds.raiseJ_other (h : Holds home wk off v a) (me k : Nat) {o : Nat} (ho : off + 32 ≤ o ∨ o + 32 ≤ off) :
    Holds home wk off v (raiseJ me k a (.scr wk o)) := by
  obtain ⟨w, hw, hhome, hrest⟩ := h.weave
  have hst : (a.core w.home).stash = [] := hhome ▸ h.stash
  have hprep : a.claspPrep me (.scr wk o) = a := stashFill_eq_self hw hst me o
  unfold raiseJ
  rw [hprep]
  refine h.scrWrite me ?_
  rw [show (State.bytesOfWords _).length = 24 from rfl]
  omega

theorem Holds.raiseJ_same (h : Holds home wk off v a) (me k : Nat) : Holds home wk off (v + BitVec.ofNat 32 k) (raiseJ me k a (.scr wk off)) := by
  obtain ⟨w, hw, hhome, hpoison, hj⟩ := h.weave
  have hst : (a.core w.home).stash = [] := hhome ▸ h.stash
  have hprep : a.claspPrep me (.scr wk off) = a := stashFill_eq_self hw hst me off
  have hwrite : ∀ c : Clasp, Holds home wk off c.j (a.claspWrite me (.scr wk off) c) := by
    intro c
    unfold State.claspWrite
    dsimp only
    rw [scrWrite_eq hw hst]
    exact ⟨h.stash, _, State.weave_updWeave a _ hw, hhome, fun i hi => wordPoison_scrPut (hpoison i hi) _ _, scrWord_scrPut_clasp c⟩
  unfold raiseJ
  rw [hprep, claspRead_scr_j hw hst, hj]
  exact hwrite { a.claspRead (.scr wk off) with j := v + BitVec.ofNat 32 k }

theorem Holds.raiseJ_mem (h : Holds home wk off v a) (me k pa : Nat) : Holds home wk off v (raiseJ me k a (.mem pa)) :=
  h.rest (((((((SameRest.refl a home).combine pa).doom me pa false).combine pa).doom me pa true)).homeStore pa _)

/-- The object that a scratch clasp's handle reaches. -/
theorem claspPlace_scr {t : Strand} {b : Bind} (hb : b.bolt = false) :
    a.claspPlace t w b = if b.addr % 32 ≠ 0 ∨ w.scrLen < b.addr + 32 then none
      else if (a.claspPoison (.scr t.weave b.addr)).isEmpty then some (.scr t.weave b.addr) else none := by
  unfold State.claspPlace
  simp only [hb, Bool.false_eq_true, if_false]
  split
  · rfl
  · exact Option.filter_some

theorem claspPlace_bolt {t : Strand} {b : Bind} {p : CPlace} (hb : b.bolt = true) (h : a.claspPlace t w b = some p) : ∃ pa, p = .mem pa := by
  unfold State.claspPlace at h
  simp only [hb, if_true] at h
  obtain ⟨hq, -⟩ := Option.filter_eq_some_iff.mp h
  split at hq
  · cases hq
  · split at hq
    · cases hq
    · exact ⟨_, (Option.some.inj hq).symm⟩

/-- Handle binds the scratch clasp at off. -/
def bindsAt (off : Nat) (e : Nat × Bind) : Bool := !e.2.bolt && e.2.addr == off

theorem Holds.raisedAt {t : Strand} (h : Holds home t.weave off v a) (w : Weave) (hal : off % 32 = 0) (hlen : off + 32 ≤ w.scrLen) (me k : Nat)
    (e : Nat × Bind) : Holds home t.weave off (v + BitVec.ofNat 32 (if bindsAt off e then k else 0)) (Proofs.raisedAt me k t w a e.2) := by
  obtain ⟨w', hw', hhome, hpoison, -⟩ := h.weave
  have hst : (a.core w'.home).stash = [] := hhome ▸ h.stash
  unfold Proofs.raisedAt
  cases hbolt : e.2.bolt with
  | true =>
    rw [bindsAt, hbolt, if_neg (by simp), BitVec.add_zero]
    split
    · exact h
    · rename_i p hp
      obtain ⟨pa, rfl⟩ := claspPlace_bolt hbolt hp
      exact h.raiseJ_mem me k pa
  | false =>
    rw [claspPlace_scr hbolt]
    by_cases haddr : e.2.addr = off
    · have hclean : (a.claspPoison (.scr t.weave off)).isEmpty = true := by
        rw [claspPoison_scr hw' hst]
        simpa [List.filter_eq_nil_iff] using hpoison
      have hok : ¬ (off % 32 ≠ 0 ∨ w.scrLen < off + 32) := by omega
      have hat : bindsAt off e = true := by simp [bindsAt, hbolt, haddr]
      rw [haddr, if_neg hok, if_pos hclean, if_pos hat]
      exact h.raiseJ_same me k
    · rw [bindsAt, if_neg (by simp [haddr]), BitVec.add_zero]
      by_cases hbad : e.2.addr % 32 ≠ 0 ∨ w.scrLen < e.2.addr + 32
      · rw [if_pos hbad]
        exact h
      · rw [if_neg hbad]
        split
        · exact h
        · rename_i p hp
          obtain ⟨-, hp⟩ := Option.ite_none_right_eq_some.mp hp
          cases hp
          exact h.raiseJ_other me k (by omega)

theorem Holds.joinStep {t : Strand} (h : Holds home t.weave off v a) (w : Weave) (hal : off % 32 = 0) (hlen : off + 32 ≤ w.scrLen) (me : Nat)
    (idxs : List Nat) (e : Nat × Bind) :
    Holds home t.weave off (v + BitVec.ofNat 32 (if bindsAt off e then idxs.length else 0)) (Proofs.joinStep me t w idxs a e) :=
  ((h.rest ((SameRest.refl a home).releaseAt me t _)).raisedAt w hal hlen me idxs.length e).updWeave _ fun _ => ⟨rfl, rfl, rfl⟩

/-- J rises by the number of joiners at each handle that binds the clasp. -/
theorem Holds.joinAll {t : Strand} (w : Weave) (hal : off % 32 = 0) (hlen : off + 32 ≤ w.scrLen) (me : Nat) (idxs : List Nat)
    (es : List (Nat × Bind)) {v : Word} {a : State} (h : Holds home t.weave off v a) :
    Holds home t.weave off (v + BitVec.ofNat 32 (es.countP (bindsAt off) * idxs.length)) (es.foldl (Proofs.joinStep me t w idxs) a) := by
  induction es generalizing v a with
  | nil => simpa using h
  | cons e es ih =>
    have hstep := ih (h.joinStep w hal hlen me idxs e)
    rw [List.foldl_cons, List.countP_cons]
    convert hstep using 1
    rw [BitVec.add_assoc, ← BitVec.ofNat_add]
    congr 2
    split
    · ring
    · rw [Nat.add_zero, Nat.zero_add]

/-- With keys that do not repeat every entry is what its key finds. -/
theorem look_of_mem {β : Type} {m : AMap β} (hnd : (m.map (·.1)).Nodup) {e : Nat × β} (he : e ∈ m) : AMap.look m e.1 = some e.2 := by
  induction m with
  | nil => cases he
  | cons d m ih =>
    rw [List.map_cons, List.nodup_cons] at hnd
    rcases List.mem_cons.mp he with rfl | he
    · simp [AMap.look]
    · have hne : d.1 ≠ e.1 := fun hde => hnd.1 (hde ▸ List.mem_map_of_mem (f := fun x : Nat × β => x.1) he)
      simpa [AMap.look, hne.symm] using ih hnd.2 he

/-- One handle of those that stand for their objects binds the clasp (R175). -/
theorem countP_claspHandles {h : Nat} {b : Bind} (hb : AMap.look w.binds h = some b) (hnd : (w.binds.map (·.1)).Nodup) (hbolt : b.bolt = false) :
    (claspHandles w).countP (bindsAt b.addr) = 1 := by
  have hlook : ∀ e ∈ w.binds, AMap.look w.binds e.1 = some e.2 := fun e he => look_of_mem hnd he
  obtain ⟨x, hx⟩ : ∃ x, w.binds.find? (fun x => x.2 == b) = some x := by
    cases hf : w.binds.find? (fun x => x.2 == b) with
    | none => exact absurd (List.find?_eq_none.mp hf _ (mem_of_look hb)) (by simp)
    | some x => exact ⟨x, rfl⟩
  have hxmem := List.mem_of_find?_eq_some hx
  have hxb : x.2 = b := by simpa using List.find?_some hx
  have hiff : ∀ e ∈ w.binds, (bindsAt b.addr e && (State.canonH w e.1 == e.1)) = true ↔ (e == x) = true := by
    intro e he
    have hbind : bindsAt b.addr e = true ↔ e.2 = b := by
      obtain ⟨k, ⟨bolt, addr⟩⟩ := e
      cases b
      simp_all [bindsAt]
    rw [Bool.and_eq_true, hbind, beq_iff_eq, beq_iff_eq]
    constructor
    · rintro ⟨heb, hc⟩
      rw [State.canonH, hlook e he, heb] at hc
      simp only [hx] at hc
      exact Prod.ext hc.symm (heb.trans hxb.symm)
    · rintro rfl
      refine ⟨hxb, ?_⟩
      rw [State.canonH, hlook e he, hxb]
      simp only [hx]
  rw [claspHandles, List.countP_filter, List.countP_congr hiff]
  exact List.count_eq_one_of_mem (List.Nodup.of_map _ hnd) hxmem

end

/-! #### ATTACH -/

section
variable {s : State} {t : Strand} {w : Weave} {d : Desc} {p : Part} {x coord role core k : Nat} {slots : List Nat}

/-- ATTACH tests its operands in order (R179). -/
theorem exec_attach (hr : s.runs t) (hw : s.weave? t.weave = some w) (hd : s.descOf w = some d) (hp : s.part? t.part = some p) :
    exec (.attach x coord role) s =
      if (t.getS (x + 1)).toNat % 4 ≠ 0 then s.raise t { code := 3, sub := 1, arg := (t.getS (x + 1)).toNat }
      else if (t.getS x).toNat = 0 ∨ 64 < (t.getS x).toNat then s.raise t { code := 0xF, sub := 1, arg := (t.getS x).toNat }
      else if role = 1 ∧ (t.getS x).toNat % 4 ≠ 0 then s.raise t { code := 0xF, sub := 2, arg := (t.getS x).toNat }
      else if State.coordCore w coord / 2 ≠ w.home / 2 then s.raise t { code := 0xF, sub := 3, arg := coord }
      else attachGo x role (State.coordCore w coord) (t.getS x).toNat t w d p s := by
  refine (State.run_of_runs hr _).trans ?_
  simp only [hw, hd, hp]

/-- The refusal of an attach. -/
theorem attachGo_refused (h : w.wmax < memberCount s t.weave + k ∨ p.knob (4 * t.ctx + 1) < memberCount s t.weave + k ∨
    s.attachSlots t.weave w d role core k = none) :
    attachGo x role core k t w d p s = .next (s.setCur ((t.setS x 0#32).advance 1)) := by
  unfold attachGo
  dsimp only
  rw [counted_length]
  split
  · rfl
  · rename_i hno
    have hslots : s.attachSlots t.weave w d role core k = none := by
      rcases h with h | h | h
      · exact absurd (.inl h) hno
      · refine absurd (.inr (.inl ?_)) hno
        rw [State.underCeiling, counted_length]
        exact decide_eq_false (by omega)
      · exact h
    rw [hslots]
    rfl

/-- The part with an attach's charge, current and core. -/
def attachCharged (s : State) (t : Strand) (d : Desc) (p : Part) (core k : Nat) (slots : List Nat) : State :=
  ((s.charge p (core / 2) t.weave (shareUp d.enw k d.size) 0).holdAttached p (core / 2) core d.ipk (max 1 d.size) slots).claimCore core t.ctx d

/-- The weave after an attach of k strands of a role. -/
def attachWeave (role k : Nat) (w : Weave) : Weave := { w with attSeq := w.attSeq + 1, resv := w.resv.set role (w.resv.getD role 0 - k) }

/-- The strands of an attach have joined the clasps of their weave. -/
def attachJoined (s : State) (t : Strand) (d : Desc) (p : Part) (role core k : Nat) (slots : List Nat) : State :=
  (State.claspJoin (attachCharged s t d p core k slots).cur (attachCharged s t d p core k slots) t (s.freeIdx t.weave k)).updWeave t.weave (attachWeave role k)

/-- The strands of an attach are in their slots. -/
def attachPlaced (s : State) (t : Strand) (w : Weave) (d : Desc) (p : Part) (x role core k : Nat) (slots : List Nat) : State :=
  putAll t w x role core (d.budget role) ((s.freeIdx t.weave k).zip slots) 0 (attachJoined s t d p role core k slots)

theorem attachGo_placed (hmax : memberCount s t.weave + k ≤ w.wmax) (hknob : memberCount s t.weave + k ≤ p.knob (4 * t.ctx + 1))
    (hclasps : s.claspsWait s.cur t = false) (htake : s.takeWaits core t.ctx d.creg d.cscr = false) (hidx : k ≤ (s.freeIdx t.weave k).length)
    (hcharge : s.chargeFits p (core / 2) (shareUp d.enw k d.size) (shareUp d.ipk k d.size) = true)
    (hslots : s.attachSlots t.weave w d role core k = some slots) :
    attachGo x role core k t w d p s =
      .next ((attachPlaced s t w d p x role core k slots).setCur ((t.setS x (BitVec.ofNat 32 k)).advance 1)) := by
  have hunder : s.underCeiling p t k = true := by
    rw [State.underCeiling, counted_length]
    exact decide_eq_true hknob
  have hgo : ¬ (w.wmax < memberCount s t.weave + k ∨ s.underCeiling p t k = false ∨ (s.freeIdx t.weave k).length < k ∨
      s.chargeFits p (core / 2) (shareUp d.enw k d.size) (shareUp d.ipk k d.size) = false) := by
    rw [hunder, hcharge]
    simp only [Bool.true_eq_false, or_false, false_or]
    omega
  unfold attachGo
  dsimp only
  rw [counted_length, if_neg hgo, hslots]
  simp only [hclasps, htake, Bool.or_self, Bool.false_eq_true, if_false, State.finish_eq, attachPlaced, attachJoined, attachCharged, putAll]
  rfl

theorem attachCharged_rest (j : Nat) : SameRest s j (attachCharged s t d p core k slots) :=
  (((SameRest.refl s j).setClu _ _).holdAttached _ _ _ _ _ _).takeCore _ _ _ _

theorem attachJoined_cur (hw : s.weave? t.weave = some w) : (attachJoined s t d p role core k slots).cur = s.cur := by
  have hrest := attachCharged_rest (s := s) (t := t) (d := d) (p := p) (core := core) (k := k) (slots := slots) 0
  have hw' : (attachCharged s t d p core k slots).weave? t.weave = some w := by rw [State.weave?, hrest.weaves]; exact hw
  exact (claspJoin_cur hw' _ (s.freeIdx t.weave k)).trans hrest.cur

/-- The slots of an attach are not the strand's own (R42). -/
theorem key_ne_of_slotFree {n : Nat} (hr : s.runs t) (hcur : s.cur = 96 * t.core + t.slot) (hslot : t.slot < 96) (hcc : s.cur < ccBase)
    (hn : n < 96 ∧ slotFree s core n) : 96 * core + n ≠ s.cur := by
  intro he
  have hcore : core = t.core := by omega
  have hmem : t ∈ s.onCore core := by
    have hst : (s.cur, t) ∈ s.strands := mem_of_look hr
    exact List.mem_map.mpr ⟨(s.cur, t), List.mem_filter.mpr ⟨hst, by simp [hcc, hcore]⟩, rfl⟩
  exact hn.2 t hmem (by omega)

/-- J of a clasp in scratch rises by the number of strands attached (R43). -/
theorem claspRead_attachPlaced {h : Nat} {b : Bind} (hw : s.weave? t.weave = some w) (hb : AMap.look w.binds h = some b)
    (hnd : (w.binds.map (·.1)).Nodup) (hbolt : b.bolt = false) (hal : b.addr % 32 = 0) (hlen : b.addr + 32 ≤ w.scrLen)
    (hst : (s.core w.home).stash = []) (hpoison : s.claspPoison (.scr t.weave b.addr) = []) (u : Strand) :
    (((attachPlaced s t w d p x role core k slots).setCur u).claspRead (.scr t.weave b.addr)).j =
      (s.claspRead (.scr t.weave b.addr)).j + BitVec.ofNat 32 (s.freeIdx t.weave k).length := by
  have hs : Holds w.home t.weave b.addr (scrWord w.scr (b.addr + 12)) s := by
    refine ⟨hst, w, hw, rfl, fun i hi => ?_, rfl⟩
    rw [claspPoison_scr hw hst, List.filter_eq_nil_iff] at hpoison
    simpa using hpoison i (List.mem_range.mpr hi)
  have hrest := attachCharged_rest (s := s) (t := t) (d := d) (p := p) (core := core) (k := k) (slots := slots) w.home
  have hw' : (attachCharged s t d p core k slots).weave? t.weave = some w := by rw [State.weave?, hrest.weaves]; exact hw
  have hjoin := (hs.rest hrest).joinAll w hal hlen (attachCharged s t d p core k slots).cur (s.freeIdx t.weave k) (claspHandles w)
  rw [countP_claspHandles hb hnd hbolt, Nat.one_mul, ← claspJoin_eq hw'] at hjoin
  obtain ⟨hst', w', hwj, hhome, -, hj⟩ := hjoin.updWeave (attachWeave role k) fun _ => ⟨rfl, rfl, rfl⟩
  obtain ⟨-, hweaves, hcores, -, -⟩ := putAll_spec (t := t) (w := w) (x := x) (role := role) (core := core) (budget := d.budget role)
    ((s.freeIdx t.weave k).zip slots) 0 (attachJoined s t d p role core k slots)
  have hwp : ((attachPlaced s t w d p x role core k slots).setCur u).weave? t.weave = some w' := by
    show AMap.look (attachPlaced s t w d p x role core k slots).weaves t.weave = some w'
    rw [attachPlaced, hweaves]
    exact hwj
  have hstp : (((attachPlaced s t w d p x role core k slots).setCur u).core w'.home).stash = [] := by
    show (AMap.get (attachPlaced s t w d p x role core k slots).cores w'.home _).stash = []
    rw [attachPlaced, hcores, hhome]
    exact hst'
  rw [claspRead_scr_j hwp hstp, claspRead_scr_j hw hst, hj]

end

/-- Proves O23: the slots of an attach are free, each once; a scratch clasp is bound by one handle of those that stand for their objects,
and no other change of the attach reaches its words. -/
theorem attachPlacesAllItsStrandsOrNone : Obligations.AttachPlacesAllItsStrandsOrNone := by
  intro s t x coord role w d p hr _ hw hd hp
  have hexec := exec_attach (x := x) (coord := coord) (role := role) hr hw hd hp
  refine ⟨fun hal => ?_, fun hal hk => ?_, fun hal hk hk' => ⟨fun hrole hq => ?_, fun hq hcl => ?_⟩, fun hal hk hk' hq hcl => ⟨fun hno => ?_, ?_⟩⟩
  · rw [hexec, if_pos hal]
  · rw [hexec, if_neg (by omega), if_pos hk]
  · rw [hexec, if_neg (by omega), if_neg (by omega), if_pos ⟨hrole, hq⟩]
  · rw [hexec, if_neg (by omega), if_neg (by omega), if_neg fun h => h.2 (hq h.1), if_pos hcl]
  · rw [if_neg (by omega), if_neg (by omega), if_neg fun h => h.2 (hq h.1), if_neg (by omega)] at hexec
    exact answers_setCur (hexec.trans (attachGo_refused hno)) rfl
  · intro slots hcur hslot hcc hmax hknob hclasps htake hidx hcharge hslots
    rw [if_neg (by omega), if_neg (by omega), if_neg fun h => h.2 (hq h.1), if_neg (by omega),
      attachGo_placed hmax hknob hclasps htake hidx hcharge hslots, BitVec.ofNat_toNat, BitVec.setWidth_eq] at hexec
    obtain ⟨hlen, hnd, hfree⟩ := attachSlots_spec hq hslots
    have hidxlen : (s.freeIdx t.weave (t.getS x).toNat).length = (t.getS x).toNat :=
      Nat.le_antisymm (List.length_take_le _ _) hidx
    obtain ⟨hpcur, -, -, -, hput⟩ := putAll_spec (t := t) (w := w) (x := x) (role := role) (core := State.coordCore w coord)
      (budget := d.budget role) ((s.freeIdx t.weave (t.getS x).toNat).zip slots) 0
      (attachJoined s t d p role (State.coordCore w coord) (t.getS x).toNat slots)
    have hsnd : ((s.freeIdx t.weave (t.getS x).toNat).zip slots).map (·.2) = slots := List.map_snd_zip (by omega)
    refine ⟨_, _, hexec, State.strand_setCur _ _, by simp, by simp, fun r hrx => ?_, hlen, fun e he => ?_, ?_⟩
    · have hne : r ≠ x := by simpa using hrx
      simp [getS_setS_ite, hne]
    · obtain ⟨u, hu, hstart⟩ := hput (by rw [hsnd]; exact hnd) e he
      refine ⟨u, ?_, hstart⟩
      have hne := key_ne_of_slotFree hr hcur hslot hcc (hfree e.2 (List.of_mem_zip he).2)
      rw [← attachJoined_cur hw, ← hpcur] at hne
      exact (State.strand_setCur_ne _ _ hne).trans hu
    · intro h b hb hbnd hbolt hbal hblen hst hpoison
      rw [claspRead_attachPlaced hw hb hbnd hbolt hbal hblen hst hpoison, hidxlen, BitVec.ofNat_toNat, BitVec.setWidth_eq]

end Sys2Proof.Proofs
end

/-! ### Transactions (spec/02 R70, spec/03 R105 to R111, spec/06 R189 to R191) -/
section
namespace Sys2Proof.Proofs
open Sys2Proof Sys2Proof.Machine Sys2Proof.Rules

variable {s : State} {t : Strand} {soff loff : Nat} {x : Tx}

/-! #### Opening, nesting and aborting -/

/-- A fail target in words of four bytes from an address. -/
theorem add_sextD_mul_four (a : DWord) (n : Nat) : a + sextD n 16 * 4#64 = BitVec.ofInt 64 ((a.toNat : Int) + 4 * sextI n 16) := by
  apply BitVec.eq_of_toNat_eq
  simp [sextD, BitVec.toNat_ofInt]
  omega

theorem openStat_one (serial : Bool) : openStat 1 serial = BitVec.ofNat 32 (2 ^ 13 + (if serial then 2 ^ 16 else 0)) := by
  cases serial <;> rfl

theorem opened_txOpen (t : Strand) (soff loff : Nat) (serial : Bool) : opened t ((txOpen t soff loff serial).advance 2) soff loff serial := by
  have htx : ((txOpen t soff loff serial).advance 2).tx = (txOpen t soff loff serial).tx := Strand.advance_tx _ _
  refine ⟨_, htx, ?_⟩
  refine ⟨add_sextD_mul_four _ _, splitLpc_eq _ _ _, rfl, rfl, rfl, rfl, rfl, rfl, rfl, rfl, rfl, rfl, rfl, rfl, rfl, ?_, ?_⟩
  · rw [Strand.advance_txstat]
    exact openStat_one serial
  · rw [Strand.besidesPlace_advance]
    rfl

/-- What TBEGIN does outside a transaction (R105). -/
theorem exec_tbegin_outside (hr : s.runs t) (hx : t.tx = none) :
    exec (.tbegin soff loff) s = .next (s.setCur ((txOpen t soff loff false).advance 2)) := by
  refine (State.run_of_runs hr _).trans ?_
  simp only [hx, State.finish_eq]

theorem exec_tbegin_inside (hr : s.runs t) (hx : t.tx = some x) : exec (.tbegin soff loff) s = txDeeper t x s := by
  refine (State.run_of_runs hr _).trans ?_
  simp only [hx]

theorem exec_tserial_outside (hr : s.runs t) (hx : t.tx = none) : exec (.tserial soff loff) s =
    if s.tokenHeld t.part then s.hold t .token else .next (s.setCur ((txOpen t soff loff true).advance 2)) := by
  refine (State.run_of_runs hr _).trans ?_
  simp only [hx, State.finish_eq]

theorem exec_tserial_inside (hr : s.runs t) (hx : t.tx = some x) :
    exec (.tserial soff loff) s = if x.serial then txDeeper t x s else .next (s.setCur (t.abortTx 9 0)) := by
  refine (State.run_of_runs hr _).trans ?_
  simp only [hx]

theorem exec_tabort (hr : s.runs t) (arg : Nat) :
    exec (.tabort arg) s = if t.tx.isSome then .next (s.setCur (t.abortTx 4 arg)) else .next (s.setCur (t.advance 1)) :=
  State.run_of_runs hr _

theorem txDeeper_of_lt (h : x.depth < 7) : txDeeper t x s =
    .next (s.setCur (Strand.advance { t with tx := some { x with depth := x.depth + 1 }, txstat := openStat (x.depth + 1) x.serial } 2)) := by
  rw [txDeeper, if_neg (by omega)]
  rfl

theorem txDeeper_of_ge (h : 7 ≤ x.depth) : txDeeper t x s = .next (s.setCur (t.abortTx 9 0)) := by
  rw [txDeeper, if_pos h]

/-- Of rot an abort restores RB alone (R70). -/
theorem rot_restored (a b : Word) : (a &&& 0xFF80FFFF#32) ||| (b &&& 0x7F0000#32) =
    BitVec.ofNat 32 (a.toNat / 2 ^ 23 * 2 ^ 23 + b.toNat / 2 ^ 16 % 2 ^ 7 * 2 ^ 16 + a.toNat % 2 ^ 16) := by
  have hsum : a.toNat / 2 ^ 23 * 2 ^ 23 + b.toNat / 2 ^ 16 % 2 ^ 7 * 2 ^ 16 + a.toNat % 2 ^ 16 =
      2 ^ 16 * (2 ^ 7 * (a.toNat / 2 ^ 23) + b.toNat / 2 ^ 16 % 2 ^ 7) + a.toNat % 2 ^ 16 := by omega
  rw [hsum]
  refine BitVec.eq_of_getLsbD_eq fun i hi => ?_
  rw [BitVec.getLsbD_ofNat, Nat.testBit_two_pow_mul_add _ (Nat.mod_lt _ (by decide)), Nat.testBit_two_pow_mul_add _ (Nat.mod_lt _ (by decide))]
  have hm : ∀ i, i < 32 → (0xFF80FFFF#32).getLsbD i = !(decide (16 ≤ i) && decide (i < 23)) ∧ (0x7F0000#32).getLsbD i = (decide (16 ≤ i) && decide (i < 23)) := by
    decide
  obtain ⟨hout, hin⟩ := hm i hi
  simp only [BitVec.getLsbD_or, BitVec.getLsbD_and, hout, hin, hi, decide_true, Bool.true_and, Nat.testBit_mod_two_pow, Nat.testBit_div_two_pow]
  change (a.getLsbD i && _ || b.getLsbD i && _) = if _ then _ && a.getLsbD i else if _ then _ && b.getLsbD (i - 16 + 16) else a.getLsbD (i - 16 - 7 + 23)
  by_cases hlo : i < 16
  · simp [hlo, show ¬ 16 ≤ i by omega]
  by_cases hmid : i < 23
  · simp [hlo, hmid, show 16 ≤ i by omega, show i - 16 < 7 by omega]
  · simp [hlo, hmid, show ¬ i - 16 < 7 by omega, show i - 16 - 7 + 23 = i by omega]

/-- The code of an abort that no lane's own comes before (R110). -/
theorem abortStat_plain (hdead : x.dead = []) (hp : x.poisoned = false) (code arg : Nat) : Strand.abortStat x code arg =
    BitVec.ofNat 32 (code + 2 ^ 4 * (if code = 4 then arg else 0) + 2 ^ 12 * (if code = 1 ∨ code = 2 ∨ code = 6 then 1 else 0)) := by
  have hbit : bitIf (Strand.retryCode code) 12 = 2 ^ 12 * (if code = 1 ∨ code = 2 ∨ code = 6 then 1 else 0) := by
    simp only [bitIf, Strand.retryCode, Bool.or_eq_true, beq_iff_eq, or_assoc, mul_ite, Nat.mul_one, Nat.mul_zero]
  rw [← hbit, Nat.mul_comm (2 ^ 4)]
  unfold Strand.abortStat
  rw [hdead, hp]
  cases lowest x.lanes <;> rfl

/-- The txstat of an abort by code and argument (R110). -/
def statWord (code arg : Nat) : Word :=
  BitVec.ofNat 32 (code + 2 ^ 4 * (if code = 4 then arg else 0) + 2 ^ 12 * (if code = 1 ∨ code = 2 ∨ code = 6 then 1 else 0))

/-- What an abort leaves (R70, R109). -/
theorem rolledBack_of_abortStat (hx : t.tx = some x) {code arg c a : Nat}
    (hstat : Strand.abortStat x (if x.poisoned then 7 else code) arg = statWord c a) :
    rolledBack t (t.abortTx code arg) x c a ∧ (t.abortTx code arg).s = t.s := by
  simp only [rolledBack, Strand.abortTx, hx, hstat]
  unfold Strand.setRegion
  split
  · rename_i hreg
    exact ⟨⟨rfl, rfl, rfl, trivial, trivial, rot_restored _ _, trivial, hreg, trivial, rfl, rfl, rfl, rfl⟩, rfl⟩
  · exact ⟨⟨rfl, rfl, rfl, trivial, trivial, rot_restored _ _, trivial, rfl, trivial, rfl, rfl, rfl, rfl⟩, rfl⟩

/-- What an abort leaves, with no lane aborted before and no poison met. -/
theorem rolledBack_abortTx (hx : t.tx = some x) (hdead : x.dead = []) (hp : x.poisoned = false) (code arg : Nat) :
    rolledBack t (t.abortTx code arg) x code arg ∧ (t.abortTx code arg).s = t.s := by
  refine rolledBack_of_abortStat hx ?_
  rw [hp, if_neg Bool.false_ne_true]
  exact abortStat_plain hdead hp code arg

theorem transactionsOpenNestAndAbortToTheirFailTarget : TransactionsOpenNestAndAbortToTheirFailTarget := by
  intro s t soff loff hr _
  refine ⟨fun hx => ⟨⟨_, exec_tbegin_outside hr hx, opened_txOpen ..⟩, fun hno => ?_, fun e he hpart x hex hser => ?_, fun arg => ?_⟩,
    fun x hx => ⟨fun hd i hi => ?_, fun hdead hp => ⟨fun hd => ?_, fun hser => ?_, fun arg _ => ?_⟩⟩⟩
  · have hfree : s.tokenHeld t.part = false := by
      simp only [State.tokenHeld, List.any_eq_false, Bool.and_eq_true, beq_iff_eq, not_and]
      intro e he hpart
      cases hex : e.2.tx with
      | none => exact Bool.false_ne_true
      | some y => simp [hno e he hpart y hex]
    refine ⟨_, ?_, opened_txOpen ..⟩
    rw [exec_tserial_outside hr hx, hfree, if_neg Bool.false_ne_true]
  · have hheld : s.tokenHeld t.part = true := by
      simp only [State.tokenHeld, List.any_eq_true, Bool.and_eq_true, beq_iff_eq]
      exact ⟨e, he, hpart, by rw [hex]; exact hser⟩
    rw [exec_tserial_outside hr hx, hheld, if_pos rfl]
    exact hold_spec s t .token
  · rw [exec_tabort hr, hx]
    rfl
  · have hdeep : exec i s = txDeeper t x s := by
      rcases hi with rfl | ⟨rfl, hser⟩
      · exact exec_tbegin_inside hr hx
      · rw [exec_tserial_inside hr hx, hser, if_pos rfl]
    exact ⟨_, hdeep.trans (txDeeper_of_lt hd), by simp, by simp; rfl⟩
  · have h := rolledBack_abortTx hx hdead hp 9 0
    exact ⟨_, (exec_tbegin_inside hr hx).trans (txDeeper_of_ge hd), h⟩
  · have h := rolledBack_abortTx hx hdead hp 9 0
    exact ⟨_, by rw [exec_tserial_inside hr hx, hser, if_neg Bool.false_ne_true], h⟩
  · exact ⟨_, by rw [exec_tabort hr, hx, Option.isSome_some, if_pos rfl], rolledBack_abortTx hx hdead hp 4 arg⟩

/-! #### Masks of lanes -/

theorem getLsbD_maskOfLanes (ls : List Nat) (l : Nat) : (maskOfLanes ls).getLsbD l = (decide (l < 128) && ls.contains l) := by
  have hacc : ∀ (ls : List Nat) (m : Mask),
      (ls.foldl (fun m l => m ||| (1#128 <<< l)) m).getLsbD l = (m.getLsbD l || (decide (l < 128) && ls.contains l)) := by
    intro ls
    induction ls with
    | nil => simp
    | cons a as ih =>
      intro m
      rw [List.foldl_cons, ih]
      have hbit : (1#128 <<< a).getLsbD l = (decide (l < 128) && l == a) := by
        by_cases hla : l = a
        · simp [hla]
        · by_cases hlt : l < a
          · simp [hlt, hla]
          · simp [hla, show ¬ l - a = 0 by omega]
      rw [BitVec.getLsbD_or, hbit, List.contains_cons, Bool.and_or_distrib_left, Bool.or_assoc]
  simpa [maskOfLanes] using hacc ls 0#128

theorem mem_lanesOf {m : Mask} {l : Nat} : l ∈ lanesOf m ↔ l < 128 ∧ m.getLsbD l = true := by
  simp [lanesOf]

theorem maskOfLanes_lanesOf (m : Mask) : maskOfLanes (lanesOf m) = m := by
  refine BitVec.eq_of_getLsbD_eq fun l hl => ?_
  rw [getLsbD_maskOfLanes]
  by_cases h : m.getLsbD l = true
  · simp [hl, h, mem_lanesOf]
  · simp [h, mem_lanesOf]

/-! #### The fates of the lanes (R107, R108) -/

/-- Lanes of which no two conflict all win. -/
theorem losers_eq_nil (h : ∀ a b, a < 128 → b < 128 → x.lanes.getLsbD a = true → x.lanes.getLsbD b = true → a ≠ b → x.conflict a b = false) :
    x.losers (lanesOf x.lanes) [] = [] := by
  have hgen : ∀ (ls won : List Nat), (won ++ ls).Nodup → (∀ l ∈ won ++ ls, l ∈ lanesOf x.lanes) → x.losers ls won = [] := by
    intro ls
    induction ls with
    | nil => intros; rfl
    | cons l ls ih =>
      intro won hnd hmem
      have hno : won.any (fun m => x.conflict m l) = false := by
        rw [List.any_eq_false]
        intro m hm
        obtain ⟨ha, ha'⟩ := mem_lanesOf.mp (hmem m (by simp [hm]))
        obtain ⟨hb, hb'⟩ := mem_lanesOf.mp (hmem l (by simp))
        have hne : m ≠ l := fun hml => by
          subst hml
          exact (List.nodup_append.mp hnd).2.2 m hm m (by simp) rfl
        simp [h m l ha hb ha' hb' hne]
      rw [Tx.losers, hno, if_neg Bool.false_ne_true]
      exact ih (won ++ [l]) (by simpa using hnd) (by simpa using hmem)
  exact hgen (lanesOf x.lanes) [] (by simpa [lanesOf] using List.nodup_range.filter _) (by simp)

/-- Lane l fails at TEND: doomed, or one of its reads is no longer current. -/
def fails (s : State) (t : Strand) (x : Tx) (l : Nat) : Bool := x.doom.getLsbD l || (!x.serial && !s.readsCurrent t.core x l)

theorem look_foldl_put (ls : List Nat) (v : Nat) (d : AMap Nat) (l : Nat) :
    AMap.look (ls.foldl (fun d l => AMap.put d l v) d) l = if l ∈ ls then some v else AMap.look d l := by
  induction ls generalizing d with
  | nil => rfl
  | cons a as ih =>
    rw [List.foldl_cons, ih]
    by_cases has : l ∈ as
    · simp [has]
    · by_cases hla : l = a
      · simp [hla]
      · simp [has, hla, AMap.look_put_ne]

/-- With no lane aborted before and no conflict, the lanes that fail are aborted with code 1. -/
theorem look_txFates (hdead : x.dead = []) (hl : x.losers (lanesOf x.lanes) [] = []) (l : Nat) :
    AMap.look (txFates s t x) l = if l ∈ lanesOf x.lanes ∧ fails s t x l = true then some 1 else none := by
  have hopen : (lanesOf x.lanes).filter (fun l => (AMap.look x.dead l).isNone) = lanesOf x.lanes := by
    rw [hdead]
    exact List.filter_eq_self.mpr (fun _ _ => rfl)
  unfold txFates
  simp only [hopen, hl]
  rw [look_foldl_put, hdead]
  simp [fails, AMap.look]

/-! #### Memory with nothing held back

A core with no stash and no dirty sector, in a part with no buffered reduction and no peer's line in a home slice: releases
and acquires have nothing to write, and a store through coh 0 is a store at the home. -/

structure Settled (core : Nat) (link : Bool) (m : AMap Byte) (a : State) : Prop where
  mem : a.mem = m
  link : a.linkUp = link
  stash : (a.core core).stash = []
  dirty : ∀ k, ∀ y ∈ (a.core k).l1, y.2.dirty = 0#16
  comb : ∀ c, (a.clu c).comb = []
  slice : a.slice = []

theorem combine_eq_self {a : State} (h : ∀ c, (a.clu c).comb = []) (pa : Nat) : a.combine pa = a := by
  unfold State.combine
  generalize a.clus.map (fun e => e.1) = cs
  induction cs with
  | nil => rfl
  | cons c cs ih =>
    rw [List.foldl_cons, h c]
    exact ih

theorem sectorHome_clean {a : State} {y : Sector} (h : y.dirty = 0#16) (core sec : Nat) : a.sectorHome core sec y = a := by
  unfold State.sectorHome
  simp [h]

namespace Settled
variable {core : Nat} {link : Bool} {m : AMap Byte} {a : State}

theorem combine (h : Settled core link m a) (pa : Nat) : a.combine pa = a := combine_eq_self h.comb pa

theorem setCore (h : Settled core link m a) (k : Nat) (c : Cor) (hst : k = core → c.stash = []) (hl1 : ∀ y ∈ c.l1, y.2.dirty = 0#16) :
    Settled core link m (a.setCore k c) where
  mem := h.mem
  link := h.link
  stash := by
    by_cases hk : core = k
    · rw [hk, State.core_setCore]; exact hst hk.symm
    · rw [State.core_setCore_ne _ _ hk]; exact h.stash
  dirty := by
    intro j y hy
    by_cases hk : j = k
    · rw [hk, State.core_setCore] at hy; exact hl1 y hy
    · rw [State.core_setCore_ne _ _ hk] at hy; exact h.dirty j y hy
  comb := h.comb
  slice := h.slice

theorem stashClean (h : Settled core link m a) (me : Nat) (unfill : Bool) (p : Stash → Bool) :
    Settled core link m (a.stashClean me core unfill p) := by
  have hs : a.stashClean me core unfill p = a.setCore core { a.core core with stash := [] } := by
    unfold State.stashClean
    rw [h.stash]
    rfl
  rw [hs]
  exact h.setCore core _ (fun _ => rfl) (h.dirty core)

theorem l1Clean (h : Settled core link m a) (sec : Nat) : Settled core link m (a.l1Clean core sec false) := by
  unfold State.l1Clean
  split
  · exact h
  · rename_i y hy
    have hd : y.dirty = 0#16 := h.dirty core _ (mem_of_look hy)
    split
    · exact h
    · rw [sectorHome_clean hd]
      refine h.setCore core _ (fun _ => h.stash) (fun z hz => ?_)
      rcases AMap.mem_put hz with rfl | hz
      · rfl
      · exact h.dirty core z hz

theorem l1CleanAll (h : Settled core link m a) (p : Sector → Bool) : Settled core link m (a.l1CleanAll core p false) :=
  foldl_keeps (P := Settled core link m) (fun _ _ hb => hb.l1Clean _) _ _ h

theorem combineClu (h : Settled core link m a) (c : Nat) : a.combineClu c = a := by
  rw [State.combineClu, h.comb]
  rfl

theorem sliceClean (h : Settled core link m a) (part : Nat) : a.sliceClean part = a := by
  rw [State.sliceClean, State.slicesOf, h.slice]
  rfl

theorem sliceDrop (h : Settled core link m a) (part : Nat) : a.sliceDrop part = a := by
  rw [State.sliceDrop, State.slicesOf, h.slice]
  rfl

/-- A release has nothing to write. -/
theorem releaseAt {t : Strand} (h : Settled t.core link m a) (me scope : Nat) : Settled t.core link m (a.releaseAt me t scope) := by
  unfold State.releaseAt
  have h1 : Settled t.core link m (if 1 ≤ a.scopeOf t scope then a.stashClean me t.core false (fun _ => true) else a) :=
    State.ite_keeps (P := Settled t.core link m) (h.stashClean me false _) h
  have h2 := State.ite_keeps (P := Settled t.core link m) (c := 2 ≤ a.scopeOf t scope) (h1.l1CleanAll State.isSc) h1
  have h3 := State.ite_keeps (P := Settled t.core link m) (c := 3 ≤ a.scopeOf t scope) ((h2.combineClu (t.core / 2)).symm ▸ h2) h2
  exact State.ite_keeps (P := Settled t.core link m) ((h3.sliceClean t.part).symm ▸ h3) h3

theorem sliceFill_mem (b : State) (part pa : Nat) : (b.sliceFill part pa).mem = b.mem := by
  unfold State.sliceFill
  split <;> rfl

theorem sliceFill_clu (b : State) (part pa c : Nat) : (b.sliceFill part pa).clu c = b.clu c := by
  unfold State.sliceFill
  split <;> rfl

theorem homePrep_mem_comb {b : State} (hc : ∀ c, (b.clu c).comb = []) (core pa coh ctx : Nat) :
    (b.homePrep core pa coh ctx).mem = b.mem ∧ ∀ c, ((b.homePrep core pa coh ctx).clu c).comb = [] := by
  unfold State.homePrep
  rw [combine_eq_self hc]
  split
  · exact ⟨rfl, hc⟩
  · exact ⟨sliceFill_mem _ _ _, fun c => (congrArg Clu.comb (sliceFill_clu _ _ _ c)).trans (hc c)⟩

/-- An acquire writes nothing to memory. -/
theorem acquireAt_mem {t : Strand} (h : Settled t.core link m a) (me scope : Nat) : (a.acquireAt me t scope).mem = m := by
  have hdrop : ∀ b : State, Settled t.core link m b → (b.l1DropClean t.core State.isSc).mem = m := by
    intro b hb
    have hfold := foldl_keeps (P := fun b : State => b.mem = m ∧ ∀ c, (b.clu c).comb = [])
      (f := fun (b : State) (e : Nat × Sector) => b.l1Refresh t.core e.1 e.2)
      (fun b e hb => by
        obtain ⟨hm, hc⟩ := homePrep_mem_comb hb.2 t.core (e.1 * 64) e.2.coh e.2.ctx
        exact ⟨hm.trans hb.1, hc⟩)
    unfold State.l1DropClean
    exact (hfold _ (b.setCore _ _) ⟨hb.mem, hb.comb⟩).1
  have h1 : Settled t.core link m (if 1 ≤ a.scopeOf t scope then
      (a.stashClean me t.core true (fun _ => true)).setCore t.core { (a.stashClean me t.core true (fun _ => true)).core t.core with cc := [] }
      else a) := by
    have hc := h.stashClean me true (fun _ => true)
    exact State.ite_keeps (P := Settled t.core link m) (hc.setCore _ _ (fun _ => hc.stash) (hc.dirty _)) h
  have h2 := State.ite_keeps (P := Settled t.core link m) (c := 5 ≤ a.scopeOf t scope) ((h1.sliceDrop t.part).symm ▸ h1) h1
  exact State.ite_keeps (P := fun b : State => b.mem = m) (c := 2 ≤ a.scopeOf t scope) (hdrop _ h2) h2.mem

theorem homeStore (h : Settled core link m a) (pa : Nat) (bs : List Byte) : Settled core link (a.homeStore pa bs).mem (a.homeStore pa bs) where
  mem := rfl
  link := (State.homeStore_linkUp a pa bs).trans h.link
  stash := by simp only [State.core, State.homeStore_cores]; exact h.stash
  dirty := by simp only [State.core, State.homeStore_cores]; exact h.dirty
  comb := by simp only [State.clu, State.homeStore_clus]; exact h.comb
  slice := by unfold State.homeStore; split <;> exact h.slice

theorem coreWrite_eq (h : Settled core link m a) (c pa ctx : Nat) (bs : List Byte) :
    a.coreWrite c pa 0 ctx bs = (a.l2Write c ctx pa bs.length).homeStore pa bs := by
  rw [State.coreWrite, h.combine]
  rfl

theorem l2Write (h : Settled core link m a) (c ctx pa n : Nat) : Settled core link m (a.l2Write c ctx pa n) :=
  ⟨h.mem, h.link, h.stash, h.dirty, h.comb, h.slice⟩

theorem doom (h : Settled core link m a) (me pa : Nat) (wr : Bool) : Settled core link m (a.doom me pa wr) :=
  ⟨h.mem, h.link, h.stash, h.dirty, h.comb, h.slice⟩

theorem ccNote (h : Settled core link m a) (me c pa n : Nat) : Settled core link m (a.ccNote me c pa n) := by
  unfold State.ccNote
  split
  · exact h
  · split
    · exact h
    · exact h.setCore _ _ (fun hc => hc ▸ h.stash) (h.dirty _)

theorem claspStore (h : Settled core link m a) (t : Strand) (bolt : Bool) (addr size at_ : Nat) :
    Settled core link m (a.claspStore t bolt addr size at_) := by
  unfold State.claspStore
  dsimp only
  split
  · exact ⟨h.mem, h.link, h.stash, h.dirty, h.comb, h.slice⟩
  · exact h

end Settled

/-! #### The commit -/

/-- From s to a the bytes of the writes chosen by W have been written, and no other. -/
def Wrote (W : TxWrite → Prop) (s a : State) : Prop :=
  (∀ y, W y → a.homeByte y.addr = y.val) ∧ ∀ b, (∀ y, W y → y.addr ≠ b) → a.homeByte b = s.homeByte b

theorem wrote_refl {W : TxWrite → Prop} {a b : State} (hW : ∀ y, ¬ W y) (hm : b.mem = a.mem) : Wrote W a b :=
  ⟨fun y hy => absurd hy (hW y), fun c _ => by rw [State.homeByte, State.homeByte, hm]⟩

theorem Wrote.congr {V W : TxWrite → Prop} {a b : State} (h : ∀ y, V y ↔ W y) (hv : Wrote V a b) : Wrote W a b := by
  have hVW : V = W := funext fun y => propext (h y)
  exact hVW ▸ hv

/-- What follows a write without touching memory. -/
theorem Wrote.of_mem {W : TxWrite → Prop} {a b a' b' : State} (h : Wrote W a b) (ha : a.mem = a'.mem) (hb : b'.mem = b.mem) : Wrote W a' b' := by
  simp only [Wrote, State.homeByte, hb, ← ha] at h ⊢
  exact h

/-- Writes in order, of which those at one address are one. -/
theorem Wrote.trans {V W : TxWrite → Prop} {a b c : State} (hv : Wrote V a b) (hw : Wrote W b c)
    (hone : ∀ y z, V y ∨ W y → W z → y.addr = z.addr → y = z) : Wrote (fun y => V y ∨ W y) a c := by
  refine ⟨fun y hy => ?_, fun d hd => ?_⟩
  · by_cases hz : ∃ z, W z ∧ z.addr = y.addr
    · obtain ⟨z, hz, hza⟩ := hz
      rw [hone y z hy hz hza.symm]
      exact hw.1 z hz
    · have hno : ∀ z, W z → z.addr ≠ y.addr := fun z hz' he => hz ⟨z, hz', he⟩
      have hVy : V y := hy.resolve_right fun hWy => hno y hWy rfl
      rw [hw.2 _ hno]
      exact hv.1 y hVy
  · exact (hw.2 d (fun y hy => hd y (.inr hy))).trans (hv.2 d (fun y hy => hd y (.inl hy)))

/-- Writes in the order of a list. -/
theorem wrote_foldl {ι : Type} {f : State → ι → State} {W : ι → TxWrite → Prop} {Q : State → Prop} (l : List ι)
    (hf : ∀ i ∈ l, ∀ a, Q a → Q (f a i) ∧ Wrote (W i) a (f a i))
    (hone : ∀ i ∈ l, ∀ j ∈ l, ∀ y z, W i y → W j z → y.addr = z.addr → y = z) {a : State} (ha : Q a) :
    Q (l.foldl f a) ∧ Wrote (fun y => ∃ i ∈ l, W i y) a (l.foldl f a) := by
  induction l generalizing a with
  | nil => exact ⟨ha, wrote_refl (by simp) rfl⟩
  | cons i l ih =>
    obtain ⟨hq, hw⟩ := hf i (by simp) a ha
    obtain ⟨hq', hw'⟩ := ih (fun j hj => hf j (by simp [hj])) (fun j hj k hk => hone j (by simp [hj]) k (by simp [hk])) hq
    refine ⟨hq', (hw.trans hw' fun y z hy hz => ?_).congr fun y => by simp⟩
    obtain ⟨k, hk, hz⟩ := hz
    rcases hy with hy | ⟨j, hj, hy⟩
    · exact hone i (by simp) k (by simp [hk]) y z hy hz
    · exact hone j (by simp [hj]) k (by simp [hk]) y z hy hz

/-- A state in which memory holds nothing back. -/
def AtRest (core : Nat) (link : Bool) (a : State) : Prop := ∃ m, Settled core link m a

/-- A write that the home takes from a core. -/
def taken (link : Bool) (y : TxWrite) : Prop := y.coh = 0 ∧ (isSys (y.addr / 4 * 4) = false ∨ link = true)

theorem isSys_word (pa : Nat) : isSys (pa / 4 * 4) = isSys pa := by
  simp only [isSys, decide_eq_decide]
  omega

theorem atRest_coreWrite {core c ctx : Nat} {link : Bool} {a : State} {y : TxWrite} (ha : AtRest core link a) (hy : taken link y) :
    AtRest core link (a.coreWrite c y.addr y.coh ctx [y.val]) ∧ Wrote (· = y) a (a.coreWrite c y.addr y.coh ctx [y.val]) := by
  obtain ⟨m, hm⟩ := ha
  obtain ⟨hcoh, hr⟩ := hy
  rw [hcoh, hm.coreWrite_eq]
  have hl := hm.l2Write c ctx y.addr 1
  refine ⟨⟨_, hl.homeStore _ _⟩, fun z hz => ?_, fun b hb => ?_⟩
  · subst hz
    rw [isSys_word, ← hl.link] at hr
    exact State.homeByte_homeStore_in (i := 0) _ hr rfl
  · have hne := hb y rfl
    exact State.homeByte_homeStore_out _ (by rw [List.length_singleton]; omega)

/-- A whole word of four writes is one store of four bytes. -/
theorem atRest_coreWrite_word {core c ctx wa : Nat} {link : Bool} {a : State} {ws : List TxWrite} {bs : List Byte} (ha : AtRest core link a)
    (hr : isSys wa = false ∨ link = true) (hlen : bs.length = 4) (hword : ∀ y ∈ ws, y.addr / 4 * 4 = wa)
    (hone : ∀ y ∈ ws, ∀ z ∈ ws, y.addr = z.addr → y = z)
    (hbs : ∀ i, i < 4 → (ws.find? (fun y => y.addr == wa + i)).map (·.val) = bs[i]?) :
    AtRest core link (a.coreWrite c wa 0 ctx bs) ∧ Wrote (· ∈ ws) a (a.coreWrite c wa 0 ctx bs) := by
  obtain ⟨m, hm⟩ := ha
  rw [hm.coreWrite_eq]
  have hl := hm.l2Write c ctx wa bs.length
  refine ⟨⟨_, hl.homeStore _ _⟩, fun y hy => ?_, fun b hb => ?_⟩
  · have hwa := hword y hy
    have hi : y.addr - wa < 4 := by omega
    have hval : bs[y.addr - wa]? = some y.val := by
      rw [← hbs _ hi, show wa + (y.addr - wa) = y.addr by omega]
      cases hf : ws.find? (fun z => z.addr == y.addr) with
      | none => exact absurd (List.find?_eq_none.mp hf y hy) (by simp)
      | some z =>
        have hz := List.find?_some hf
        rw [hone y hy z (List.mem_of_find?_eq_some hf) (by simpa using hz : z.addr = y.addr).symm]
        rfl
    rw [← hl.link] at hr
    have hin := State.homeByte_homeStore_in (i := y.addr - wa) _ hr hval
    rwa [show wa + (y.addr - wa) = y.addr by omega] at hin
  · refine State.homeByte_homeStore_out _ ?_
    rw [hlen]
    by_contra hcov
    have hi : b - wa < 4 := by omega
    have hsome : (ws.find? (fun y => y.addr == wa + (b - wa))).map (·.val) ≠ none := by
      rw [hbs _ hi, ne_eq, List.getElem?_eq_none_iff]
      omega
    cases hf : ws.find? (fun y => y.addr == wa + (b - wa)) with
    | none => exact hsome (by rw [hf]; rfl)
    | some z =>
      have hz := List.find?_some hf
      simp only [beq_iff_eq] at hz
      exact hb z (List.mem_of_find?_eq_some hf) (by omega)

/-- The writes of a lane to one word are all that commitWord writes. -/
theorem atRest_commitWord {t : Strand} {link : Bool} {a : State} {ws : List TxWrite} {w : Nat} (me : Nat) (ha : AtRest t.core link a)
    (htaken : ∀ y ∈ ws, taken link y) (hword : ∀ y ∈ ws, y.addr / 4 = w) (hone : ∀ y ∈ ws, ∀ z ∈ ws, y.addr = z.addr → y = z) :
    AtRest t.core link (a.commitWord me t ws) ∧ Wrote (· ∈ ws) a (a.commitWord me t ws) := by
  cases ws with
  | nil => exact ⟨ha, wrote_refl (by simp) rfl⟩
  | cons y ys =>
    have hcoh : y.coh = 0 := (htaken y (by simp)).1
    obtain ⟨m, hm⟩ := ha
    have hd : AtRest t.core link (a.doom me (y.addr / 4 * 4) true) := ⟨m, hm.doom ..⟩
    have hnote : ∀ b, AtRest t.core link b ∧ Wrote (· ∈ y :: ys) (a.doom me (y.addr / 4 * 4) true) b →
        AtRest t.core link ((b.ccNote me t.core (y.addr / 4 * 4) 4).claspStore t true (y.va / 4 * 4) 4 (y.addr / 4 * 4)) ∧
        Wrote (· ∈ y :: ys) a ((b.ccNote me t.core (y.addr / 4 * 4) 4).claspStore t true (y.va / 4 * 4) 4 (y.addr / 4 * 4)) := by
      rintro b ⟨⟨m', hb⟩, hw⟩
      have hc := (hb.ccNote me t.core (y.addr / 4 * 4) 4).claspStore t true (y.va / 4 * 4) 4 (y.addr / 4 * 4)
      exact ⟨⟨_, hc⟩, hw.of_mem rfl (hc.mem.trans hb.mem.symm)⟩
    unfold State.commitWord
    refine hnote _ ?_
    split
    · rename_i b0 b1 b2 b3 h0 h1 h2 h3
      rw [hcoh]
      refine atRest_coreWrite_word hd (htaken y (by simp)).2 rfl (fun z hz => ?_) hone (fun i hi => ?_)
      · rw [hword z hz, hword y (by simp)]
      · have hcase : i = 0 ∨ i = 1 ∨ i = 2 ∨ i = 3 := by omega
        rcases hcase with rfl | rfl | rfl | rfl
        · exact h0
        · exact h1
        · exact h2
        · exact h3
    · have hfold := wrote_foldl (Q := AtRest t.core link) (W := fun z => (· = z)) (f := fun (b : State) (z : TxWrite) => b.coreWrite t.core z.addr z.coh t.ctx [z.val])
        (y :: ys).reverse (fun z hz b hb => atRest_coreWrite hb (htaken z (List.mem_reverse.mp hz)))
        (fun z hz u hu v v' hv hv' he => by
          subst hv hv'
          exact hone _ (List.mem_reverse.mp hz) _ (List.mem_reverse.mp hu) he) hd
      exact ⟨hfold.1, hfold.2.congr fun z => by simp only [List.mem_reverse, exists_eq_right']⟩

/-- The writes of lane l. -/
def laneWrites (x : Tx) (l : Nat) : List TxWrite := x.writes.filter (·.lane == l)

/-- The writes of the lanes that commit are all that the commit writes (R108). -/
theorem atRest_commitLanes {t : Strand} {link : Bool} {a : State} (me : Nat) (ls : List Nat) (ha : AtRest t.core link a)
    (htaken : ∀ y ∈ x.writes, taken link y) (hone : ∀ y ∈ x.writes, ∀ z ∈ x.writes, y.addr = z.addr → y = z) (hreds : x.reds = []) :
    AtRest t.core link (a.commitLanes me t x ls) ∧ Wrote (fun y => y ∈ x.writes ∧ y.lane ∈ ls) a (a.commitLanes me t x ls) := by
  have hsub : ∀ l w, ∀ y ∈ (laneWrites x l).filter (fun y => y.addr / 4 == w), y ∈ x.writes :=
    fun l w y hy => List.mem_of_mem_filter (List.mem_of_mem_filter hy)
  have hlane := fun (l : Nat) (b : State) (hb : AtRest t.core link b) =>
    wrote_foldl (Q := AtRest t.core link) (W := fun w => (· ∈ (laneWrites x l).filter (fun y => y.addr / 4 == w)))
      (f := fun (b : State) w => b.commitWord me t ((laneWrites x l).filter (fun y => y.addr / 4 == w)))
      ((laneWrites x l).map (·.addr / 4)).eraseDups
      (fun w _ b hb => atRest_commitWord me hb (fun y hy => htaken y (hsub l w y hy)) (w := w)
        (fun y hy => by simpa using (List.mem_filter.mp hy).2)
        (fun y hy z hz => hone y (hsub l w y hy) z (hsub l w z hz)))
      (fun w _ u _ y z hy hz => hone y (hsub l w y hy) z (hsub l u z hz)) hb
  have hall := wrote_foldl (Q := AtRest t.core link) (W := fun l => (· ∈ laneWrites x l)) ls
    (fun l _ b hb => ⟨(hlane l b hb).1, (hlane l b hb).2.congr fun y => by simpa using fun hy => ⟨y, hy, rfl⟩⟩)
    (fun l _ k _ y z hy hz => hone y (List.mem_of_mem_filter hy) z (List.mem_of_mem_filter hz)) ha
  have hhome : x.writes.filter (fun w => w.coh == 1 && ls.contains w.lane) = [] :=
    List.filter_eq_nil_iff.mpr fun y hy => by simp [(htaken y hy).1]
  unfold State.commitLanes State.commitHome
  rw [hreds, hhome]
  refine ⟨hall.1, hall.2.congr fun y => ?_⟩
  simp [laneWrites, and_comm]

/-! #### TEND -/

theorem exec_tend_outside (hr : s.runs t) (hx : t.tx = none) (q : Nat) :
    exec (.tend q) s = .next (s.setCur ((t.setQ q t.exec).advance 1)) := by
  refine (State.run_of_runs hr _).trans ?_
  simp only [hx, State.finish_eq]

/-- A nested TEND answers the lanes that have not aborted (R108). -/
def tendNested (t : Strand) (x : Tx) (q : Nat) : Strand :=
  { t.setQ q x.lanes with tx := some { x with depth := x.depth - 1 }, txstat := openStat (x.depth - 1) x.serial }

theorem exec_tend_nested (hr : s.runs t) (hx : t.tx = some x) (hdead : x.dead = []) (hd : 1 < x.depth) (q : Nat) :
    exec (.tend q) s = .next (s.setCur ((tendNested t x q).advance 1)) := by
  have hmask : maskOf (fun l => x.lanes.getLsbD l && (AMap.look x.dead l).isNone) = x.lanes := by
    rw [hdead]
    refine Eq.trans ?_ (maskOfLanes_lanesOf x.lanes)
    simp [maskOf, lanesOf, AMap.look]
  refine (State.run_of_runs hr _).trans ?_
  simp only [hx, hd, hmask, if_true, State.finish_eq]
  rfl

theorem exec_tend_commit (hr : s.runs t) (hx : t.tx = some x) (hd : x.depth = 1) (hdr : t.drained3 = true) (hp : x.poisoned = false)
    (q : Nat) : exec (.tend q) s = txCommit s t x q := by
  refine (State.run_of_runs hr _).trans ?_
  simp only [hx, hd, hdr, hp, Nat.lt_irrefl, Bool.not_true, Bool.false_eq_true, if_false]

/-- A strand with the scalar file that writing a quad leaves. -/
theorem quad_of_scalars {u : Strand} {q : Nat} {m : Mask} (hu : u.s = (t.setQ q m).s) :
    u.quadHolds q m ∧ t.sameScalars u (Strand.quadRegs q) := by
  have hg : ∀ r, u.getS r = (t.setQ q m).getS r := fun r => by rw [Strand.getS, Strand.getS, hu]
  exact ⟨fun w hw => (hg _).trans (Strand.setQ_holds _ q m w hw), fun r hr => (hg r).trans (Strand.setQ_sameScalars _ q m r hr)⟩

theorem lowest_of_ne_zero {m : Mask} (h : m ≠ 0#128) : ∃ l ∈ lanesOf m, lowest m = some l := by
  cases hl : lowest m with
  | none =>
    refine absurd (BitVec.eq_of_getLsbD_eq fun l hlt => ?_) h
    have hno := List.find?_eq_none.mp hl l (List.mem_range.mpr hlt)
    simpa using hno
  | some l =>
    have hbit := List.find?_some hl
    have hmem := List.mem_of_find?_eq_some hl
    exact ⟨l, mem_lanesOf.mpr ⟨List.mem_range.mp hmem, hbit⟩, rfl⟩

/-- A strand whose lanes all fail at TEND, before the abort. -/
def tendLost (t : Strand) (x : Tx) (q : Nat) (d : AMap Nat) : Strand := { t.setQ q 0#128 with tx := some { x with dead := d } }

/-- Where every lane fails, TEND ends the transaction with CONFLICT (R107, R110). -/
theorem rolledBack_tendLost (hlanes : x.lanes ≠ 0#128) (hp : x.poisoned = false) {d : AMap Nat}
    (hd : ∀ l ∈ lanesOf x.lanes, AMap.look d l = some 1) (q : Nat) :
    rolledBack t ((tendLost t x q d).abortTx 0 0) x 1 0 ∧ ((tendLost t x q d).abortTx 0 0).s = (t.setQ q 0#128).s := by
  obtain ⟨l, hl, hlow⟩ := lowest_of_ne_zero hlanes
  have hstat : Strand.abortStat { x with dead := d } (if x.poisoned then 7 else 0) 0 = statWord 1 0 := by
    have hget : AMap.get d l 0 = 1 := by rw [AMap.get, hd l hl]; rfl
    simp only [Strand.abortStat, hp, hlow, hget, Bool.false_eq_true, if_false]
    rfl
  obtain ⟨hback, hs⟩ := rolledBack_of_abortStat (t := tendLost t x q d) (code := 0) (arg := 0) rfl hstat
  have hkeep : (tendLost t x q d).live = t.live ∧ (tendLost t x q d).rot = t.rot ∧ (tendLost t x q d).v = t.v ∧
      (tendLost t x q d).fmt = t.fmt ∧ (tendLost t x q d).rets = t.rets := by
    simp only [tendLost, Strand.setQ, Strand.setS_live, Strand.setS_rot, Strand.setS_v, Strand.setS_fmt, Strand.setS_rets, and_self]
  obtain ⟨hlive', hrot', hv', hfmt', hrets'⟩ := hkeep
  refine ⟨?_, hs⟩
  obtain ⟨h1, h2, h3, hexec, h5, hrot, h7, h8, h9, hv, hfmt, hrets, h13⟩ := hback
  refine ⟨h1, h2, h3, ?_, h5, ?_, h7, h8, h9, ?_, ?_, ?_, h13⟩
  · rw [hexec, hlive']
  · rw [hrot, hrot']
  · rw [hv, hv']
  · rw [hfmt, hfmt']
  · rw [hrets, hrets']

/-- The scope of a commit's release and acquire (R108). -/
def commitScope (x : Tx) : Nat := if x.sys then 5 else 4

theorem txCommit_lost (hrel : s.releaseWaits s.cur t (commitScope x) = false) (hacq : s.acquireWaits s.cur t (commitScope x) = false)
    (hwon : (lanesOf x.lanes).filter (fun l => (AMap.look (txFates s t x) l).isNone) = []) (q : Nat) :
    txCommit s t x q = .next (s.setCur ((tendLost t x q (txFates s t x)).abortTx 0 0)) := by
  unfold commitScope at hrel hacq
  unfold txCommit
  simp only [hrel, hacq, hwon, Bool.or_self, Bool.false_eq_true, if_false]
  rfl

/-- A strand whose lanes all commit. -/
def tendWon (t : Strand) (x : Tx) (q : Nat) : Strand := { (t.setQ q x.lanes).noteWrite with tx := none, txstat := 0#32 }

/-- What a commit of every lane leaves. -/
def committed (s : State) (t : Strand) (x : Tx) : State :=
  ((s.releaseAt s.cur t (commitScope x)).commitLanes s.cur t x (lanesOf x.lanes)).acquireAt s.cur t (commitScope x)

theorem txCommit_won (hrel : s.releaseWaits s.cur t (commitScope x) = false) (hacq : s.acquireWaits s.cur t (commitScope x) = false)
    (hlanes : x.lanes ≠ 0#128) (hfate : ∀ l ∈ lanesOf x.lanes, AMap.look (txFates s t x) l = none) (q : Nat) :
    txCommit s t x q = .next ((committed s t x).setCur ((tendWon t x q).advance 1)) := by
  have hwon : (lanesOf x.lanes).filter (fun l => (AMap.look (txFates s t x) l).isNone) = lanesOf x.lanes :=
    List.filter_eq_self.mpr fun l hl => by rw [hfate l hl]; rfl
  have hcode : (lanesOf x.lanes).find? (fun l => (AMap.look (txFates s t x) l).isSome) = none :=
    List.find?_eq_none.mpr fun l hl => by rw [hfate l hl]; exact Bool.false_ne_true
  unfold commitScope at hrel hacq
  unfold txCommit
  simp only [hrel, hacq, hwon, hcode, maskOfLanes_lanesOf, hlanes, Bool.or_self, Bool.false_eq_true, if_false, State.finish_eq]
  rfl

/-- Reads that memory still answers are current (R108). -/
theorem readsCurrent_of (hcomb : ∀ c, (s.clu c).comb = []) (hreads : ∀ r ∈ x.reads, r.coh = 0 ∧ s.homeByte r.addr = r.val) (core l : Nat) :
    s.readsCurrent core x l = true := by
  rw [State.readsCurrent, List.all_eq_true]
  intro r hr
  obtain ⟨hcoh, hval⟩ := hreads r (List.mem_of_mem_filter hr)
  rw [hcoh, State.curByte, if_pos rfl, combine_eq_self hcomb, hval, beq_self_eq_true]

/-- What a commit of every lane writes: its transaction's writes, and nothing else (R108 step 3). -/
theorem wrote_committed {link : Bool} {m : AMap Byte} (h : Settled t.core link m s) (hreds : x.reds = [])
    (htaken : ∀ y ∈ x.writes, taken link y) (hlane : ∀ y ∈ x.writes, y.lane ∈ lanesOf x.lanes)
    (hone : ∀ y ∈ x.writes, ∀ z ∈ x.writes, y.addr = z.addr → y = z) : Wrote (· ∈ x.writes) s (committed s t x) := by
  have hrel := h.releaseAt s.cur (commitScope x)
  obtain ⟨⟨m', hm'⟩, hw⟩ := atRest_commitLanes s.cur (lanesOf x.lanes) ⟨m, hrel⟩ htaken hone hreds
  have hw' : Wrote (· ∈ x.writes) _ _ := hw.congr fun y => ⟨fun hy => hy.1, fun hy => ⟨hy, hlane y hy⟩⟩
  exact hw'.of_mem (hrel.mem.trans h.mem.symm) ((hm'.acquireAt_mem _ _).trans hm'.mem.symm)

theorem tendWon_fields (t : Strand) (x : Tx) (q : Nat) : (tendWon t x q).exec = t.exec ∧ (tendWon t x q).v = t.v ∧
    (tendWon t x q).item = t.item ∧ (tendWon t x q).nl = t.nl ∧ (tendWon t x q).ns = t.ns ∧ (tendWon t x q).hspc = t.hspc := by
  simp only [tendWon, Strand.noteWrite, Strand.setQ, Strand.setS_exec, Strand.setS_v, Strand.setS_item, Strand.setS_nl, Strand.setS_ns,
    Strand.setS_hspc, and_self]

theorem tendCommitsTheSurvivingLanesInOneStep : TendCommitsTheSurvivingLanesInOneStep := by
  intro s t q hr _
  refine ⟨fun hx => ?_, fun x hx hdead hlanes => ⟨fun hd => ?_, fun hd hld hsc hat hp hconf hrel hacq => ?_⟩⟩
  · obtain ⟨hq, hsame⟩ := quad_of_scalars (t := t) (q := q) (m := t.exec) (Strand.advance_s (t.setQ q t.exec) 1)
    exact ⟨_, exec_tend_outside hr hx q, hq, hsame, by simp, State.sameMemory_setCur _ _⟩
  · have hs : ((tendNested t x q).advance 1).s = (t.setQ q x.lanes).s := Strand.advance_s _ _
    exact ⟨_, exec_tend_nested hr hx hdead hd q, (quad_of_scalars hs).1, by rw [Strand.advance_tx]; rfl⟩
  have hcommit := exec_tend_commit hr hx hd (by simp [Strand.drained3, hld, hsc, hat]) hp q
  have hlook := look_txFates (s := s) (t := t) hdead (losers_eq_nil hconf)
  refine ⟨fun hdoom hst hdirty hcomb hslice hreds hreads hwrites hone => ?_, fun hdoom => ?_⟩
  · have hfate : ∀ l ∈ lanesOf x.lanes, AMap.look (txFates s t x) l = none := by
      intro l _
      have hf : fails s t x l = false := by simp [fails, hdoom, readsCurrent_of hcomb hreads]
      rw [hlook, hf, if_neg (by simp)]
    obtain ⟨hin, hout⟩ := wrote_committed (t := t) (link := s.linkUp) ⟨rfl, rfl, hst, hdirty, hcomb, hslice⟩ hreds
      (fun y hy => ⟨(hwrites y hy).1, (hwrites y hy).2.2.2⟩) (fun y hy => mem_lanesOf.mpr ⟨(hwrites y hy).2.2.1, (hwrites y hy).2.1⟩) hone
    obtain ⟨hexec, hv, hitem, hnl, hns, hhspc⟩ := tendWon_fields t x q
    have hs : ((tendWon t x q).advance 1).s = (t.setQ q x.lanes).s := Strand.advance_s _ _
    obtain ⟨hq, hsame⟩ := quad_of_scalars hs
    obtain ⟨hplace, hplace'⟩ := advance_place 1 hitem hnl hns hhspc
    refine ⟨_, _, hcommit.trans (txCommit_won hrel hacq hlanes hfate q), State.strand_setCur _ _, hq, ?_, ?_, ?_, ?_, hsame, hplace, hplace',
      hin, hout⟩
    · rw [Strand.advance_tx]; rfl
    · rw [Strand.advance_txstat]; rfl
    · rw [Strand.advance_exec, hexec]
    · rw [Strand.advance_v, hv]
  · have hfate : ∀ l ∈ lanesOf x.lanes, AMap.look (txFates s t x) l = some 1 := by
      intro l hl
      have hbit : x.doom.getLsbD l = true := by
        obtain ⟨hlt, hlane⟩ := mem_lanesOf.mp hl
        have hno := congrArg (fun m : Mask => m.getLsbD l) hdoom
        simpa [hlane, hlt] using hno
      rw [hlook, if_pos ⟨hl, by simp [fails, hbit]⟩]
    have hwon : (lanesOf x.lanes).filter (fun l => (AMap.look (txFates s t x) l).isNone) = [] :=
      List.filter_eq_nil_iff.mpr fun l hl => by rw [hfate l hl]; exact Bool.false_ne_true
    obtain ⟨hback, hs⟩ := rolledBack_tendLost (t := t) hlanes hp hfate q
    obtain ⟨hq, hsame⟩ := quad_of_scalars hs
    exact ⟨_, hcommit.trans (txCommit_lost hrel hacq hwon q), hback, hq, hsame, State.sameMemory_setCur _ _⟩

/-- Proves O33: a commit with nothing held back is its stores at the home, one after another; those at one address are one. -/
theorem transactionsOpenAbortOrCommitWhole : Obligations.TransactionsOpenAbortOrCommitWhole :=
  ⟨transactionsOpenNestAndAbortToTheirFailTarget, tendCommitsTheSurvivingLanesInOneStep⟩

end Sys2Proof.Proofs
end

/-! ### The signal of a bolt (spec/02 R68, spec/11 R247, spec/16 R300) -/
section
namespace Sys2Proof.Proofs
open Sys2Proof Sys2Proof.Machine Sys2Proof.Rules

/-- A partition without clusters that owns the LPDDR channels, context 0's page table root valid. -/
def lpPart : Part :=
  { cfg := { p := 0, dies := 0, x0 := 0, x1 := 0, y0 := 0, y1 := 0, ioshare := 0, lpmask := 2 ^ 48 - 1, pb := 0 },
    csr := [(0x200, 1#32)], queues := [], havePrev := false, prevS := 0, prevA := 0, anchor := 0, lastDec := none, knobSw := [],
    knobAct := none, pwr := (0#32, 0#32), slewPtr := 0,
    meas := { start := 0, etot := 0, ecomp := 0, emem := 0, hi := 0, waitN := 0, wait := 0, thru := [], latN := [], lat := [], strands := [],
              live := [], util := { bytes := 0, cycles := 0, issued := [] } },
    adm := [], reAnchor := 0, hmSeq := 0, hmEnd := 0, hmFirst := none, rem := [], ctxEnd := [], failed := [], degr := false, attr := none,
    saved := [], noAdmit := [], stopWait := [], heldBlocks := [], children := 0, sRing := (0, 0), tRing := (0, 0), spun := 0, used := [],
    utilB := { bytes := 0, cycles := 0, issued := [] } }

/-- A launch whose signal is 7, at virtual address 0. -/
def signalDesc : Desc :=
  { addr := 0, sbase := 0, lbase := 0, nweave := 0, wmin := 1, wmax := 1, priv := true, sken := false, sksel := 0, ncopy := 0, nmat := 0,
    nepi := 0, bcopy := 0, bmat := 0, bepi := 0, creg := 0, cscr := 0, scrw := 0, clasps := [], args := 0, sigaddr := 0, sigval := 7,
    enw := 0, ipk := 0 }

/-- Its bolt, every weave retired. -/
def doneBolt : Bolt :=
  { bid := 1, desc := signalDesc, depth := 0, parent := none, part := 0, ctx := 0, priv := true, lane := none, signal := true, dies := [],
    started := true, time := 0 }

/-- A peer's page (COH 5) whose base lies 4 bytes before the end of a sector. -/
def splitPage : Tlb :=
  { base := 2 ^ 40 + 60, w := true, x := false, u := true, coh := 5, owner := 0, rof := false, pinok := false, dirty := true, peer := true }

/-- The bolt's partition, the translation held by its front end's TLB, and byte 4 of the signal's place holding 1. -/
def signalState : State :=
  { State.reset with
    parts := [(0, lpPart)],
    bolts := [(1, doneBolt)],
    mem := [(2 ^ 40 + 64, 1#8)],
    cores := [(257, { State.coreDefault with tlb := [(0, splitPage)] })] }

theorem exec_boltComplete_split : ∃ s', exec (.boltComplete 1) signalState = .next s' ∧ s'.homeRead (2 ^ 40 + 60) 8 = 7 + 2 ^ 32 :=
  ⟨_, rfl, by decide⟩

/-- The front end may write the signal: the access checks against that translation. -/
theorem checkAcc_signal :
    ((signalState.publish 0).publish 0).checkAcc 1000000 (State.boltAgent (signalState.publish 0) doneBolt) (signalAcc 0 true) true =
      .ok splitPage := rfl

/-- No slice holds a line of a peer. -/
theorem noPeers_publish : noPeers ((signalState.publish 0).publish 0) 0 := by
  have hslice : ((signalState.publish 0).publish 0).slice = [] := rfl
  simp [noPeers, hslice]

/-- Refutes O37: a translation's base need not be a multiple of a sector, and a peer's page is written in the home slices by sector: of a
signal that crosses the end of one, the upper word lands at that sector's start, and its own place keeps what it held. -/
theorem not_weavesAreAdmittedRetireAndCompleteTheirBolt : ¬ Obligations.WeavesAreAdmittedRetireAndCompleteTheirBolt := by
  intro h
  obtain ⟨-, -, hdone, -⟩ := h signalState
  obtain ⟨-, hsig⟩ := hdone 1 doneBolt rfl (by simp [doneBolt]) rfl rfl (by decide)
  obtain ⟨s', he, -, -, hwritten⟩ := hsig (by decide)
  have hread : s'.homeRead (2 ^ 40 + 60) 8 = 7 :=
    hwritten splitPage rfl (by decide) checkAcc_signal (Or.inl (by decide)) noPeers_publish
  obtain ⟨u, hu, hval⟩ := exec_boltComplete_split
  rw [Host.Outcome.next.inj (he.symm.trans hu), hval] at hread
  revert hread
  decide

end Sys2Proof.Proofs
end

/-! ### EXIT of a quad's member (spec/02 R53, spec/08 R231, R232, spec/03 R79, R99) -/
section
namespace Sys2Proof.Proofs
open Sys2Proof Sys2Proof.Machine Sys2Proof.Rules

/-- An MMA of one active lane with block scales: the A tile at scratch 4096, the B tile at scratch 0. -/
def scaledMma : Posted :=
  { f := { vd := 0, va := 64, vb := 100, vc := 0, stg := 0, fs := 0, bsrc := 0, rnd := 0, sub := 0, mod := 0, imm := 32 },
    fmt := 0x402D#32, rot := 0#32, exec := 1#128, batch := 0, pos := 1, spc := 0#64, item := 0 }

/-- A member of quad 1 in the given slot that has posted it. -/
def postedMember (slot : Nat) : Strand :=
  { newStrand slot 1 0 0 0 slot 128 0 0 false 0#64 0#64 0#64 0#32 1 0 with
      mx := { quad := 1, batch := 0, opened := 1, counts := [(0, 1)], q := [.mma scaledMma], mopf := 0, dis := [], old := [], save := [] } }

/-- Their weave; the A tile's first word is uncorrectable. -/
def tiledWeave : Weave :=
  { wid := 0, bolt := 0, home := 0, part := 0, ctx := 0, wmin := 0, wmax := 4, y := 0, resv := [], attSeq := 0, binds := [], recs := [],
    helds := [], scr := [], scrLen := 8192, scrPoison := [1024], children := 0 }

/-- The four members of a quad with that MMA posted, the first one running. Scratch 0 is stashed over physical page 0 and not yet
filled, and a combining buffer holds a reduction of word 0. -/
def meetingState : State :=
  { State.reset with
    strands := [(0, postedMember 0), (24, postedMember 24), (48, postedMember 48), (72, postedMember 72)],
    weaves := [(1, tiledWeave)],
    cores := [(0, { State.coreDefault with
      stash := [{ weave := 1, off := 0, page := 0, coh := 0, filled := 0#16, ever := 0#16, dirty := [] }] })],
    clus := [(0, { State.cluDefault with comb := [{ line := 0, words := [(0, (0, 1))], ctxs := [] }] })] }

theorem meetingState_runs : meetingState.runs (postedMember 0) := rfl

/-- The EXIT of a strand's last lanes begins its retirement (R53). -/
theorem exec_exit_last {s : State} {t : Strand} (hr : s.runs t) (h : t.live &&& ~~~ t.exec = 0#128) :
    exec .exit s = .next (s.beginLeave s.cur t .retire) := by
  have hrun : exec .exit s = _ := State.run_of_runs hr _
  rw [hrun, if_pos h]

/-- The leaving member's MMA meets: the fill of the stashed B tile combines the buffered copy, and word 0 of memory becomes 1. -/
theorem beginLeave_meeting_writes : (meetingState.beginLeave 0 (postedMember 0) .retire).homeByte 0 = 1#8 := by
  decide

/-- Refutes O46: an EXIT that ends its strand lets the MMAs of the quad meet first, and the fill of a stashed scale tile then
combines buffered reductions, so that memory does not keep every byte. -/
theorem not_rftRestoresAndExitEnds : ¬ Obligations.RftRestoresAndExitEnds := by
  rintro ⟨-, h⟩
  obtain ⟨s', t', he, -, -, -, -, -, -, -, hmem, -⟩ := (h meetingState (postedMember 0) meetingState_runs).2 (by decide)
  have hs : s' = meetingState.beginLeave 0 (postedMember 0) .retire := Host.Outcome.next.inj (he.symm.trans (exec_exit_last meetingState_runs (by decide)))
  have hkept : (meetingState.beginLeave 0 (postedMember 0) .retire).homeByte 0 = 0#8 :=
    congrArg (fun m : AMap Byte => AMap.get m 0 memDefault) ((congrArg State.mem hs.symm).trans hmem)
  rw [beginLeave_meeting_writes] at hkept
  revert hkept
  decide

end Sys2Proof.Proofs
end

/-! ### The issue arbiters (spec/02 R32, spec/12 R260, R268) -/
section
namespace Sys2Proof.Proofs
open Sys2Proof Sys2Proof.Machine Sys2Proof.Rules

/-! #### Round robin over requests in ascending order -/

/-- Requests in ascending order of their place. -/
def Ascending (es : List (Nat × Nat)) : Prop := es.Pairwise (fun a b => a.1 < b.1)

theorem Ascending.filter {es : List (Nat × Nat)} (h : Ascending es) (q : Nat × Nat → Bool) : Ascending (es.filter q) :=
  List.Pairwise.filter q h

theorem nextAfter_eq_none {l : Nat} {es : List (Nat × Nat)} : nextAfter l es = none ↔ es = [] := by
  cases es <;> simp [nextAfter]

theorem ne_nil_of_nextAfter {l : Nat} {es : List (Nat × Nat)} {e : Nat × Nat} (h : nextAfter l es = some e) : es ≠ [] := by
  rintro rfl
  cases h

/-- The round robin takes a request of the list, the first after place l. -/
theorem nextAfter_spec {l : Nat} {es : List (Nat × Nat)} {e : Nat × Nat} (hs : Ascending es) (h : nextAfter l es = some e) :
    e ∈ es ∧ ∀ x ∈ es, inTurn l e.1 x.1 := by
  unfold nextAfter at h
  cases hf : es.find? (fun e => decide (l < e.1)) with
  | some y =>
    obtain rfl : y = e := by simpa [hf] using h
    obtain ⟨hy, as, bs, rfl, has⟩ := List.find?_eq_some_iff_append.mp hf
    simp only [decide_eq_true_eq] at hy
    refine ⟨by simp, fun x hx => ?_⟩
    obtain hx | rfl | hx := by simpa using hx
    · have hle : x.1 ≤ l := by simpa using has x hx
      exact ⟨fun hlt => by omega, fun _ => Or.inl hy⟩
    · exact ⟨fun _ => ⟨hy, Nat.le_refl _⟩, fun _ => Or.inl hy⟩
    · have hlt : y.1 < x.1 := (List.pairwise_cons.mp (List.pairwise_append.mp hs).2.1).1 x hx
      exact ⟨fun _ => ⟨hy, hlt.le⟩, fun _ => Or.inl hy⟩
  | none =>
    cases es with
    | nil => simp at h
    | cons y ys =>
      obtain rfl : y = e := by simpa [hf] using h
      refine ⟨by simp, fun x hx => ?_⟩
      have hle : x.1 ≤ l := by simpa using List.find?_eq_none.mp hf x hx
      refine ⟨fun hlt => by omega, fun _ => Or.inr ?_⟩
      obtain rfl | hx := List.mem_cons.mp hx
      · exact Nat.le_refl _
      · exact ((List.pairwise_cons.mp hs).1 x hx).le

/-! #### The ready strands of a spindle -/

theorem sorted_lt {β : Type} {m : AMap β} {lo : Nat} (h : AMap.sortedFrom lo m = true) {e : Nat × β} (he : e ∈ m) : lo ≤ e.1 := by
  induction m generalizing lo with
  | nil => cases he
  | cons x m ih =>
    simp only [AMap.sortedFrom, Bool.and_eq_true, decide_eq_true_eq] at h
    obtain ⟨hlo, hm⟩ := h
    obtain rfl | he := List.mem_cons.mp he
    · exact hlo
    · have := ih hm he
      omega

/-- A key of an ordered map has one entry. -/
theorem sorted_entry_unique {β : Type} {m : AMap β} {lo : Nat} (h : AMap.sortedFrom lo m = true) {d e : Nat × β} (hd : d ∈ m) (he : e ∈ m)
    (hk : d.1 = e.1) : d = e := by
  induction m generalizing lo with
  | nil => cases hd
  | cons x m ih =>
    simp only [AMap.sortedFrom, Bool.and_eq_true, decide_eq_true_eq] at h
    obtain ⟨-, hm⟩ := h
    obtain rfl | hdm := List.mem_cons.mp hd <;> obtain rfl | hem := List.mem_cons.mp he
    · rfl
    · have := sorted_lt hm hem
      omega
    · have := sorted_lt hm hdm
      omega
    · exact ih hm hdm hem

/-- Strands stand under their keys, in order, their contexts below 16. -/
def StrandsInPlace (s : State) : Prop :=
  AMap.sortedFrom 0 s.strands = true ∧
    ∀ e ∈ s.strands, e.1 < ccBase → e.1 = 96 * e.2.core + e.2.slot ∧ e.2.slot < 96 ∧ e.2.ctx < 16

/-- Strand e may issue on t's spindle, and a turn would find it ready; strand k is known to be. -/
def Ready (s : State) (k : Nat) (t : Strand) (e : Nat × Strand) : Prop := e ∈ s.rivals t ∧ (e.1 = k ∨ s.isReady e.1 e.2 = true)

section
variable {s : State} {k : Nat} {t : Strand}

theorem mem_rivals {e : Nat × Strand} (h : e ∈ s.rivals t) :
    e ∈ s.strands ∧ e.1 < ccBase ∧ e.2.core = t.core ∧ e.2.slot / 24 = t.slot / 24 := by
  simp only [State.rivals, List.mem_filter, Bool.and_eq_true, decide_eq_true_eq, beq_iff_eq] at h
  obtain ⟨hmem, ⟨⟨⟨hk, hcore⟩, hsp⟩, -⟩, -⟩ := h
  exact ⟨hmem, hk, hcore, hsp⟩

theorem rivals_slot_unique (hp : StrandsInPlace s) {d e : Nat × Strand} (hd : d ∈ s.rivals t) (he : e ∈ s.rivals t)
    (h : d.2.slot = e.2.slot) : d = e := by
  obtain ⟨hsort, hplace⟩ := hp
  obtain ⟨hdm, hdk, hdc, -⟩ := mem_rivals hd
  obtain ⟨hem, hek, hec, -⟩ := mem_rivals he
  have h1 := (hplace d hdm hdk).1
  have h2 := (hplace e hem hek).1
  exact sorted_entry_unique hsort hdm hem (by rw [h1, h2, hdc, hec, h])

theorem rivals_ctx (hp : StrandsInPlace s) {e : Nat × Strand} (he : e ∈ s.rivals t) : e.2.ctx < 16 := by
  obtain ⟨hem, hek, -⟩ := mem_rivals he
  exact (hp.2 e hem hek).2.2

theorem mem_readies (hp : StrandsInPlace s) {e : Nat × Strand} : e ∈ s.readies k t ↔ Ready s k t e := by
  simp only [State.readies, List.mem_filterMap, List.mem_range]
  constructor
  · rintro ⟨i, -, hf⟩
    have hmem := List.mem_of_find?_eq_some hf
    have hq := List.find?_some hf
    simp only [Bool.and_eq_true, beq_iff_eq, Bool.or_eq_true] at hq
    exact ⟨hmem, hq.2⟩
  · rintro ⟨hmem, hready⟩
    obtain ⟨-, -, -, hsp⟩ := mem_rivals hmem
    refine ⟨e.2.slot % 24, Nat.mod_lt _ (by decide), ?_⟩
    have hslot : e.2.slot = t.slot / 24 * 24 + e.2.slot % 24 := by omega
    have hq : (e.2.slot == t.slot / 24 * 24 + e.2.slot % 24 && (e.1 == k || s.isReady e.1 e.2)) = true := by
      simpa [← hslot] using hready
    cases hf : (s.rivals t).find? (fun d => d.2.slot == t.slot / 24 * 24 + e.2.slot % 24 && (d.1 == k || s.isReady d.1 d.2)) with
    | none => exact absurd hq (List.find?_eq_none.mp hf e hmem)
    | some d =>
      have hd := List.find?_some hf
      simp only [Bool.and_eq_true, beq_iff_eq] at hd
      rw [rivals_slot_unique hp (List.mem_of_find?_eq_some hf) hmem (by omega)]

theorem requests_ascending : Ascending (State.requests (s.readies k t)) := by
  unfold Ascending State.requests State.readies
  rw [List.pairwise_map, List.pairwise_filterMap]
  refine List.pairwise_lt_range.imp ?_
  intro i j hij d hd e he
  have hslot : ∀ {n : Nat} {x : Nat × Strand},
      (s.rivals t).find? (fun e => e.2.slot == t.slot / 24 * 24 + n && (e.1 == k || s.isReady e.1 e.2)) = some x →
        x.2.slot = t.slot / 24 * 24 + n := by
    intro n x hx
    have := List.find?_some hx
    simp only [Bool.and_eq_true, beq_iff_eq] at this
    exact this.1
  rw [hslot hd, hslot he]
  omega

theorem mem_requests {es : List (Nat × Strand)} {r : Nat × Nat} :
    r ∈ State.requests es ↔ ∃ e ∈ es, e.2.slot = r.1 ∧ e.2.ctx = r.2 := by
  simp [State.requests, Prod.ext_iff]

/-! #### The choice -/

/-- The strands of t's spindle whose requests a filter lets through, given as the predicate P. -/
def Chosen (s : State) (k : Nat) (t : Strand) (q : Nat × Nat → Bool) (P : Nat × Strand → Prop) : Prop :=
  ∀ e, P e ↔ Ready s k t e ∧ q (e.2.slot, e.2.ctx) = true

theorem requests_filter_eq_nil (hp : StrandsInPlace s) {q : Nat × Nat → Bool} {P : Nat × Strand → Prop} (hP : Chosen s k t q P) :
    (State.requests (s.readies k t)).filter q = [] ↔ ∀ e, ¬P e := by
  rw [List.filter_eq_nil_iff]
  constructor
  · intro h e he
    obtain ⟨hr, hq⟩ := (hP e).1 he
    exact h (e.2.slot, e.2.ctx) (mem_requests.2 ⟨e, (mem_readies hp).2 hr, rfl, rfl⟩) hq
  · intro h r hr hq
    obtain ⟨e, he, h1, h2⟩ := mem_requests.1 hr
    exact h e ((hP e).2 ⟨(mem_readies hp).1 he, by rw [h1, h2]; exact hq⟩)

/-- What the round robin after place l picks of the requests that a filter lets through is the first strand of them after l. -/
theorem firstOf_of_nextAfter (hp : StrandsInPlace s) {l : Nat} {q : Nat × Nat → Bool} {P : Nat × Strand → Prop} {u : Nat × Strand}
    (hP : Chosen s k t q P) (hu : Ready s k t u)
    (h : nextAfter l ((State.requests (s.readies k t)).filter q) = some (u.2.slot, u.2.ctx)) : firstOf l P u := by
  obtain ⟨hmem, hfirst⟩ := nextAfter_spec (requests_ascending.filter q) h
  refine ⟨(hP u).2 ⟨hu, (List.mem_filter.1 hmem).2⟩, fun e he => ?_⟩
  obtain ⟨hr, hq⟩ := (hP e).1 he
  exact hfirst (e.2.slot, e.2.ctx) (List.mem_filter.2 ⟨mem_requests.2 ⟨e, (mem_readies hp).2 hr, rfl, rfl⟩, hq⟩)

theorem owes_iff {a : Arb} {p : Part} {x : Nat} : a.owes p.fi x = true ↔ owed a p x := by
  simp [Arb.owes, owed, deficitMax, Part.fi]

theorem arbOwed_eq_some {a : Arb} {floor : Nat → Nat} {rs : List (Nat × Nat)} {x : Nat} (h : a.owed floor rs = some x) :
    a.owes floor x = true ∧ ∀ y, y < x → (∃ r ∈ rs, r.2 = y) → a.owes floor y = false := by
  obtain ⟨hx, -, hmin⟩ := List.find?_range_eq_some.1 h
  simp only [Bool.and_eq_true, List.any_eq_true, beq_iff_eq] at hx
  refine ⟨hx.2, fun y hy hr => ?_⟩
  have hn := hmin y hy
  simp only [Bool.not_eq_true', Bool.and_eq_false_iff, List.any_eq_false, beq_iff_eq] at hn
  obtain hn | hn := hn
  · obtain ⟨r, hr, hry⟩ := hr
    exact absurd hry (hn r hr)
  · exact hn

theorem arbOwed_eq_none {a : Arb} {floor : Nat → Nat} {rs : List (Nat × Nat)} :
    a.owed floor rs = none ↔ ∀ x, x < 16 → (∃ r ∈ rs, r.2 = x) → a.owes floor x = false := by
  unfold Arb.owed
  rw [List.find?_range_eq_none]
  refine forall₂_congr fun x _ => ?_
  simp only [Bool.not_eq_true', Bool.and_eq_false_iff, List.any_eq_false, beq_iff_eq]
  constructor
  · rintro (h | h) ⟨r, hr, hx⟩
    · exact absurd hx (h r hr)
    · exact h
  · intro h
    by_cases hr : ∃ r ∈ rs, r.2 = x
    · exact Or.inr (h hr)
    · exact Or.inl (fun r hm hx => hr ⟨r, hm, hx⟩)

theorem nextAfter_mem {l : Nat} {es : List (Nat × Nat)} {e : Nat × Nat} (h : nextAfter l es = some e) : e ∈ es := by
  unfold nextAfter at h
  cases hf : es.find? (fun e => decide (l < e.1)) with
  | some y =>
    obtain rfl : y = e := by simpa [hf] using h
    exact List.mem_of_find?_eq_some hf
  | none =>
    rw [hf] at h
    exact List.mem_of_mem_head? h

/-- The choice within an entitled context: the requests that the rotation has not served, if there are any, else all. -/
theorem inContext_eq (a : Arb) (c : Nat) (rs : List (Nat × Nat)) :
    a.inContext c rs =
      if rs.filter (fun e => !a.served.contains e.1 && e.2 == c) = [] then nextAfter (AMap.get a.last c 127) (rs.filter (fun e => e.2 == c))
      else nextAfter (AMap.get a.last c 127) (rs.filter (fun e => !a.served.contains e.1 && e.2 == c)) := by
  unfold Arb.inContext
  simp only [List.filter_filter]
  cases h : nextAfter (AMap.get a.last c 127) (rs.filter (fun e => !a.served.contains e.1 && e.2 == c)) with
  | none =>
    rw [if_pos (nextAfter_eq_none.1 h)]
    rfl
  | some r =>
    rw [if_neg (ne_nil_of_nextAfter h)]
    rfl

/-- The weighted choice: unserved requests of this rotation, else those of the next, else those of the first. -/
theorem rotate_fst_eq (a : Arb) (weight : Nat → Nat) (rs : List (Nat × Nat)) :
    (a.rotate weight rs).map (·.1) =
      if rs.filter (fun e => !a.served.contains e.1 && decide (a.left < weight e.2)) = [] then
        (if rs.filter (fun e => decide (a.left + 1 < weight e.2)) = [] then nextAfter a.turn (rs.filter (fun e => decide (0 < weight e.2)))
         else nextAfter a.turn (rs.filter (fun e => decide (a.left + 1 < weight e.2))))
      else nextAfter a.turn (rs.filter (fun e => !a.served.contains e.1 && decide (a.left < weight e.2))) := by
  unfold Arb.rotate Arb.openIn
  simp only [List.filter_filter]
  cases h : nextAfter a.turn (rs.filter (fun e => !a.served.contains e.1 && decide (a.left < weight e.2))) with
  | none =>
    rw [if_pos (nextAfter_eq_none.1 h)]
    by_cases hi : rs.filter (fun e => decide (a.left + 1 < weight e.2)) = []
    · simp only [if_pos hi, Option.map_map, Function.comp_def, Option.map_id']
    · simp only [if_neg hi, Option.map_map, Function.comp_def, Option.map_id']
  | some r =>
    simp only [if_neg (ne_nil_of_nextAfter h), Option.map_some]

theorem pick_eq_inContext {a : Arb} {floor weight : Nat → Nat} {rs : List (Nat × Nat)} {c : Nat} (h : a.owed floor rs = some c) :
    a.pick floor weight rs = a.inContext c rs := by
  simp [Arb.pick, h]

theorem pick_eq_rotate {a : Arb} {floor weight : Nat → Nat} {rs : List (Nat × Nat)} (h : a.owed floor rs = none) :
    a.pick floor weight rs = (a.rotate weight rs).map (·.1) := by
  simp [Arb.pick, h]

theorem pick_mem {a : Arb} {floor weight : Nat → Nat} {rs : List (Nat × Nat)} {r : Nat × Nat} (h : a.pick floor weight rs = some r) :
    r ∈ rs := by
  unfold Arb.pick at h
  split at h
  · rw [inContext_eq] at h
    split at h <;> exact (List.mem_filter.1 (nextAfter_mem h)).1
  · rw [rotate_fst_eq] at h
    split at h
    · split at h <;> exact (List.mem_filter.1 (nextAfter_mem h)).1
    · exact (List.mem_filter.1 (nextAfter_mem h)).1

/-- A granted strand is ready, and its request is the one that the arbiter picks. -/
theorem granted_spec {p : Part} {g : Nat × Strand} (hp : StrandsInPlace s) (hpart : s.part? t.part = some p)
    (h : s.granted t (s.readies k t) = some g) :
    Ready s k t g ∧
      (s.arbNow p t.core (t.slot / 24)).pick p.fi p.weight (State.requests (s.readies k t)) = some (g.2.slot, g.2.ctx) := by
  unfold State.granted at h
  rw [hpart] at h
  obtain ⟨r, hpick, hfind⟩ := Option.bind_eq_some_iff.1 h
  have hg := (mem_readies hp).1 (List.mem_of_find?_eq_some hfind)
  have hslot : g.2.slot = r.1 := by simpa using List.find?_some hfind
  obtain ⟨e, he, h1, h2⟩ := mem_requests.1 (pick_mem hpick)
  obtain rfl : e = g := rivals_slot_unique hp ((mem_readies hp).1 he).1 hg.1 (h1.trans hslot.symm)
  exact ⟨hg, by rw [hpick, h1, h2]⟩

/-! #### The charge -/

theorem get_foldl_set (g : Nat → Nat → Nat) (x : Nat) (xs : List Nat) (hn : xs.Nodup) (d : AMap Nat) :
    AMap.get (xs.foldl (fun d y => AMap.set d y (g y (AMap.get d y 0)) 0) d) x 0 =
      if x ∈ xs then g x (AMap.get d x 0) else AMap.get d x 0 := by
  induction xs generalizing d with
  | nil => simp
  | cons y ys ih =>
    obtain ⟨hy, hys⟩ := List.nodup_cons.1 hn
    rw [List.foldl_cons, ih hys]
    by_cases hx : x = y
    · subst hx
      simp [hy]
    · simp [hx, AMap.get_set_ne _ _ _ _ hx]

/-- The counters after a grant, one by one (R268). -/
theorem get_deficitNext (floor : Nat → Nat) (cs : List Nat) (c cost : Nat) (d : AMap Nat) {x : Nat} (hx : x < 16) :
    AMap.get (deficitNext floor cs c cost d) x 0 =
      let n := min 512 (AMap.get d x 0 + floor x)
      let n := if x ∈ cs then n else min 256 n
      if x = c then n - cost else n := by
  have h := get_foldl_set (fun y v =>
    let n := min deficitMax (v + floor y)
    let n := if cs.contains y then n else min 256 n
    if y = c then n - cost else n) x (List.range 16) List.nodup_range d
  rw [if_pos (List.mem_range.2 hx)] at h
  simpa [deficitNext, deficitMax] using h

/-- The arbiter of t's spindle after it has granted strand u of the ready strands es (R268). -/
def chargedArb (s : State) (t : Strand) (p : Part) (es : List (Nat × Strand)) (u : Strand) : Arb :=
  { (s.arbNow p t.core (t.slot / 24)).grant p.fi p.weight (State.requests es) (u.slot, u.ctx) 256 1 1 with now := some u.sid, at_ := s.time }

theorem arb_noteGrant {p : Part} (hpart : s.part? t.part = some p) (es : List (Nat × Strand)) (n : Nat) (u : Strand) :
    AMap.get ((s.noteGrant es n t u).core t.core).arb (t.slot / 24) State.arbDefault = chargedArb s t p es u := by
  have hcore : (s.noteGrant es n t u).core t.core =
      { s.core t.core with arb := AMap.put (s.core t.core).arb (t.slot / 24) (chargedArb s t p es u) } := by
    unfold State.noteGrant
    simp only [hpart, State.core, State.setPart_cores, State.setClu_cores, State.setCore]
    exact AMap.get_set_self _ _ _ _
  rw [hcore]
  simp [AMap.get]

/-- The charge falls on the counters, the rotation and the order within the context (R268). -/
theorem chargedArb_spec (p : Part) (es : List (Nat × Strand)) (u : Strand) :
    let a := s.arbNow p t.core (t.slot / 24)
    let b := chargedArb s t p es u
    AMap.look b.last u.ctx = some u.slot ∧ (∀ x, x ≠ u.ctx → AMap.look b.last x = AMap.look a.last x) ∧ u.slot ∈ b.served ∧
      (a.owed p.fi (State.requests es) = none → b.turn = u.slot) ∧
      ∀ x, x < 16 →
        let d := min 512 (AMap.get a.deficit x 0 + fld (p.rd (0x40A0 + 4 * x)).toNat 0 8)
        let d := if (∃ e ∈ es, e.2.ctx = x) then d else min 256 d
        AMap.get b.deficit x 0 = if x = u.ctx then d - 256 else d := by
  intro a b
  refine ⟨AMap.look_put_self _ _ _, fun x hx => AMap.look_put_ne _ _ hx, List.mem_cons_self, fun hn => ?_, fun x hx => ?_⟩
  · have howed : ((s.arbNow p t.core (t.slot / 24)).owed p.fi (State.requests es)).isSome = false := by simpa [a] using hn
    simp [b, chargedArb, Arb.grant, howed]
  · have hmem : (x ∈ ((State.requests es).map (·.2)).eraseDups) ↔ ∃ e ∈ es, e.2.ctx = x := by
      simp [State.requests]
    have h := get_deficitNext p.fi ((State.requests es).map (·.2)).eraseDups u.ctx 256 a.deficit hx
    have hd : b.deficit = deficitNext p.fi ((State.requests es).map (·.2)).eraseDups u.ctx 256 a.deficit := by
      simp only [b, chargedArb, Arb.grant, a]
    rw [hd, h]
    by_cases hm : ∃ e ∈ es, e.2.ctx = x
    · simp only [if_pos hm, if_pos (hmem.2 hm)]
      rfl
    · simp only [if_neg hm, if_neg (mt hmem.1 hm)]
      rfl

/-- The strands that the choice within an entitled context is among, unserved ones and all. -/
theorem chosen_inContext (served : List Nat) (c : Nat) :
    Chosen s k t (fun r => !served.contains r.1 && r.2 == c) (fun e => (Ready s k t e ∧ e.2.ctx = c) ∧ e.2.slot ∉ served) ∧
      Chosen s k t (fun r => r.2 == c) (fun e => Ready s k t e ∧ e.2.ctx = c) := by
  refine ⟨fun e => ?_, fun e => ?_⟩
  · simp only [Bool.and_eq_true, beq_iff_eq, Bool.not_eq_true', List.contains_eq_mem, decide_eq_false_iff_not]
    tauto
  · simp only [beq_iff_eq]

/-- The strands that a rotation is among: of contexts whose weight lets them take part, unserved ones and all. -/
theorem chosen_rotate (served : List Nat) (p : Part) (i : Nat) :
    Chosen s k t (fun r => !served.contains r.1 && decide (i < p.weight r.2))
        (fun e => (Ready s k t e ∧ i < p.knob (4 * e.2.ctx)) ∧ e.2.slot ∉ served) ∧
      Chosen s k t (fun r => decide (i < p.weight r.2)) (fun e => Ready s k t e ∧ i < p.knob (4 * e.2.ctx)) := by
  have hw : ∀ x, p.weight x = p.knob (4 * x) := fun _ => rfl
  refine ⟨fun e => ?_, fun e => ?_⟩
  · simp only [hw, Bool.and_eq_true, decide_eq_true_eq, Bool.not_eq_true', List.contains_eq_mem, decide_eq_false_iff_not]
    tauto
  · simp only [hw, decide_eq_true_eq]

end

/-- Proves O60: the requests of a spindle stand in ascending slot order, so that the round robin's choice is the first strand after the
place it counts from; the counters, one for each context, move independently. -/
theorem theIssueArbiterServesOwedContextsFirstAndSlotsInTurn : Obligations.TheIssueArbiterServesOwedContextsFirstAndSlotsInTurn := by
  intro s k t p c u hsort hplace hpart es hg a ready unserved within none_
  have hp : StrandsInPlace s := ⟨hsort, hplace⟩
  obtain ⟨hready, hpick⟩ := granted_spec hp hpart hg
  have hctx : ∀ e, ready e → e.2.ctx < 16 := fun e he => rivals_ctx hp he.1
  have hreq : ∀ e, ready e → ∃ r ∈ State.requests es, r.2 = e.2.ctx := fun e he =>
    ⟨(e.2.slot, e.2.ctx), mem_requests.2 ⟨e, (mem_readies hp).2 he, rfl, rfl⟩, rfl⟩
  have hnone : (∀ e, ready e → ¬owed a p e.2.ctx) → a.owed p.fi (State.requests es) = none := by
    intro h
    rw [arbOwed_eq_none]
    rintro x - ⟨r, hr, rfl⟩
    obtain ⟨e, he, -, hx⟩ := mem_requests.1 hr
    rw [← hx, ← Bool.not_eq_true, owes_iff]
    exact h e ((mem_readies hp).1 he)
  refine ⟨fun e => mem_readies hp, hready, fun e he howed => ?_, fun hno => ?_, fun n => ?_⟩
  · obtain ⟨x, hx⟩ : ∃ x, a.owed p.fi (State.requests es) = some x := by
      rw [← Option.ne_none_iff_exists', Ne, arbOwed_eq_none]
      intro h
      have := h e.2.ctx (hctx e he) (hreq e he)
      rw [owes_iff.2 howed] at this
      cases this
    have hin : a.inContext x (State.requests es) = some (u.slot, u.ctx) := (pick_eq_inContext hx).symm.trans hpick
    obtain rfl : u.ctx = x := by
      rw [inContext_eq] at hin
      split at hin <;> have hmem := (List.mem_filter.1 (nextAfter_mem hin)).2 <;> simp at hmem
      · exact hmem
      · exact hmem.2
    obtain ⟨howes, hmin⟩ := arbOwed_eq_some hx
    obtain ⟨hunserved, hmine⟩ := chosen_inContext (s := s) (k := k) (t := t) a.served u.ctx
    refine ⟨owes_iff.1 howes, ?_, fun hne => ?_, fun hno => ?_⟩
    · by_contra hlt
      have := hmin e.2.ctx (by omega) (hreq e he)
      rw [owes_iff.2 howed] at this
      cases this
    · rw [inContext_eq, if_neg (fun h => hne ((requests_filter_eq_nil hp hunserved).1 h))] at hin
      exact firstOf_of_nextAfter (u := (c, u)) hp hunserved hready hin
    · rw [inContext_eq, if_pos ((requests_filter_eq_nil hp hunserved).2 hno)] at hin
      exact firstOf_of_nextAfter (u := (c, u)) hp hmine hready hin
  · have hrot : (a.rotate p.weight (State.requests es)).map (·.1) = some (u.slot, u.ctx) :=
      (pick_eq_rotate (hnone hno)).symm.trans hpick
    rw [rotate_fst_eq] at hrot
    obtain ⟨hunserved, -⟩ := chosen_rotate (s := s) (k := k) (t := t) a.served p a.left
    obtain ⟨-, hnext⟩ := chosen_rotate (s := s) (k := k) (t := t) a.served p (a.left + 1)
    obtain ⟨-, hfirst⟩ := chosen_rotate (s := s) (k := k) (t := t) a.served p 0
    refine ⟨fun hne => ?_, fun hno hne => ?_, fun hno hno' => ?_⟩
    · rw [if_neg (fun h => hne ((requests_filter_eq_nil hp hunserved).1 h))] at hrot
      exact firstOf_of_nextAfter (u := (c, u)) hp hunserved hready hrot
    · rw [if_pos ((requests_filter_eq_nil hp hunserved).2 hno),
        if_neg (fun h => hne ((requests_filter_eq_nil hp hnext).1 h))] at hrot
      exact firstOf_of_nextAfter (u := (c, u)) hp hnext hready hrot
    · rw [if_pos ((requests_filter_eq_nil hp hunserved).2 hno), if_pos ((requests_filter_eq_nil hp hnext).2 hno')] at hrot
      exact firstOf_of_nextAfter (u := (c, u)) hp hfirst hready hrot
  · have hb := chargedArb_spec (s := s) (t := t) p es u
    rw [arb_noteGrant hpart]
    obtain ⟨h1, h2, h3, h4, h5⟩ := hb
    exact ⟨h1, h2, h3, fun hno => h4 (hnone hno), h5⟩

end Sys2Proof.Proofs
end

/-! ### A step runs the decoded instruction (spec/02 R28, R34, spec/05 R137 to R141) -/
section
namespace Sys2Proof.Proofs
open Sys2Proof Sys2Proof.Machine Sys2Proof.Rules

variable {w w2 : Nat} {i : Instr} {s : State} {k : Nat} {t : Strand}

/-! #### The first word of an item -/

theorem decodeMsk_second (h : fld w 20 6 ≠ 0) (a b : Nat) : decodeMsk w a = decodeMsk w b := by
  unfold decodeMsk
  split
  · contradiction
  all_goals rfl

theorem decodeTx_second (h : ¬ (fld w 20 6 = 0 ∨ fld w 20 6 = 3)) (a b : Nat) : decodeTx w a = decodeTx w b := by
  unfold decodeTx
  split
  case h_1 h0 => exact absurd (.inl h0) h
  case h_4 h3 => exact absurd (.inr h3) h
  all_goals rfl

/-- The words that announce a second (R138). -/
theorem two_of_scalarWords (h : scalarWords w = 2) :
    fld w 26 6 ∈ [38, 39, 40, 41, 42, 45] ∨ fld w 26 6 = 44 ∧ fld w 20 6 = 0 ∨ fld w 26 6 = 55 ∧ (fld w 20 6 = 0 ∨ fld w 20 6 = 3) := by
  unfold scalarWords at h
  split at h
  case h_7 hm => exact .inr (.inl ⟨hm, by by_contra hx; rw [if_neg hx] at h; cases h⟩)
  case h_8 hm => exact .inr (.inr ⟨hm, by by_contra hx; rw [if_neg hx] at h; cases h⟩)
  case h_9 => cases h
  all_goals simp [*]

/-- A word that announces no second decodes alike with any. -/
theorem decodeScalar_second (h : scalarWords w = 1) (a b : Nat) : decodeScalar w a = decodeScalar w b := by
  unfold decodeScalar
  unfold scalarWords at h
  split at h
  case h_7 hm => simp only [hm]; exact decodeMsk_second (by simpa using h) a b
  case h_8 hm => simp only [hm]; exact decodeTx_second (fun hx => by rw [if_pos hx] at h; cases h) a b
  case h_9 h1 h2 h3 h4 h5 h6 h7 h8 =>
    split
    case h_38 hm => exact absurd hm h1
    case h_39 hm => exact absurd hm h2
    case h_40 hm => exact absurd hm h3
    case h_41 hm => exact absurd hm h4
    case h_42 hm => exact absurd hm h5
    case h_45 hm => exact absurd hm h6
    case h_44 hm => exact absurd hm h7
    case h_55 hm => exact absurd hm h8
    all_goals rfl
  all_goals contradiction

/-- Two candidates that differ in operands of the second word alone. -/
theorem accept_alike {i j x : Instr} {z : Bool} (h : accept i z = .ok x) (hwf : i.wf = true → j.wf = true)
    (he : endsClause j = endsClause i) : ∃ y, accept j z = .ok y ∧ endsClause y = endsClause x := by
  obtain ⟨rfl, hi, rfl⟩ := accept_ok h
  exact ⟨j, accept_of_wf (hwf hi), he⟩

/-- What a first word shows of where its instruction stands is what the whole instruction says. -/
theorem firstWord_of_decodeScalar (hs : scalarWords w = 1 ∨ scalarWords w = 2) (h : decodeScalar w w2 = .ok i) :
    ∃ j, State.firstWord w = .ok j ∧ endsClause j = endsClause i := by
  unfold State.firstWord
  rcases hs with h1 | h2
  · exact ⟨i, (decodeScalar_second h1 _ _).trans h, rfl⟩
  have hlong : fld 0x20000 0 32 < 2 ^ 32 := by decide
  have hlow : fld 0x20000 0 16 < 2 ^ 16 := by decide
  have hhigh : fld 0x20000 16 16 < 2 ^ 16 := by decide
  have hend : 2 ≤ fld 0x20000 16 16 := by decide
  unfold decodeScalar at h ⊢
  rcases two_of_scalarWords h2 with hm | ⟨hm, hx⟩ | ⟨hm, hx⟩
  · simp only [List.mem_cons, List.not_mem_nil, or_false] at hm
    rcases hm with hm | hm | hm | hm | hm | hm <;> simp only [hm] at h ⊢ <;>
      refine accept_alike h (fun hwf => ?_) rfl <;>
      simp only [Instr.wf, Bool.and_eq_true, decide_eq_true_eq] at hwf ⊢ <;> tauto
  · simp only [hm, decodeMsk, hx] at h ⊢
    refine accept_alike h (fun hwf => ?_) rfl
    simp only [Instr.wf, Bool.and_eq_true, decide_eq_true_eq] at hwf ⊢
    tauto
  · rcases hx with hx | hx <;> simp only [hm, decodeTx, hx] at h ⊢ <;>
      refine accept_alike h (fun _ => ?_) rfl <;>
      simp only [Instr.wf, hlow, hhigh, decide_true, Bool.and_self]

/-! #### The next item -/

def isHeader (i : Instr) : Bool := match i with | .clauseHeader _ _ _ _ _ => true | _ => false

/-- The decoder's answer is a header. -/
def headed (e : Except DecodeError Instr) : Bool := match e with | .ok i => isHeader i | .error _ => false

@[simp] theorem headed_error (e : DecodeError) : headed (.error e) = false := rfl

@[simp] theorem headed_accept (i : Instr) (z : Bool) : headed (accept i z) = (z && i.wf && isHeader i) := by
  cases z
  · rfl
  · cases hw : i.wf <;> simp [accept, hw, headed]

/-- Only a word of major 63 is a header (R137). -/
theorem headed_decodeScalar (h : fld w 26 6 ≠ 63) : headed (decodeScalar w w2) = false := by
  unfold decodeScalar decodeBit decodeJx decodeMsk decodeLctl decodeClasp decodeWeave decodeSpr decodeSys decodeSht decodeTx
  split
  case h_56 hm => exact absurd hm h
  all_goals repeat' split
  all_goals simp [isHeader]

/-- A header names its lane instructions in bits 3 to 5 (R137). -/
theorem lanes_of_header {wm sa sb nl ns : Nat} (h : decodeScalar w w2 = .ok (.clauseHeader wm sa sb nl ns)) : nl = fld w 3 3 := by
  have hm : fld w 26 6 = 63 := by
    by_contra hne
    have hh := headed_decodeScalar (w2 := w2) hne
    rw [h] at hh
    cases hh
  simp only [decodeScalar, hm] at h
  obtain ⟨hi, -, -⟩ := accept_ok h
  exact (Instr.clauseHeader.inj hi).2.2.2.1

theorem headerItem_of_holds {wm sa sb nl ns : Nat} (hf : s.fetch t t.hspc.toNat 4 = .ok w)
    (hd : decodeScalar w 0 = .ok (.clauseHeader wm sa sb nl ns)) (hcc : ccBase ≤ k → fld w 3 3 = 0) :
    s.headerItem k t = .ok (.clauseHeader wm sa sb nl ns) := by
  have hnl : nl = fld w 3 3 := lanes_of_header hd
  have hno : ¬ (ccBase ≤ k ∧ nl ≠ 0) := fun h => h.2 (hnl.trans (hcc h.1))
  simp only [State.headerItem, hf, hd, hno, if_false]

theorem wordItem_of_holds (hf : s.fetch t t.itemAddr.toNat 4 = .ok w) (hm : fld w 26 6 ≠ 63)
    (h2 : scalarWords w = 1 ∧ w2 = 0 ∨ scalarWords w = 2 ∧ s.fetch t (t.itemAddr + 4#64).toNat 4 = .ok w2)
    (hd : decodeScalar w w2 = .ok i) (hin : t.item + scalarWords w ≤ t.nl + t.ns + 1)
    (hend : endsClause i = true → t.item + scalarWords w = t.nl + t.ns + 1) (hcc : ccBase ≤ k → ccWord w = true) :
    s.wordItem k t = .ok i := by
  obtain ⟨j, hj, he⟩ := firstWord_of_decodeScalar (h2.imp And.left And.left) hd
  have hplace : State.misplaced k t w = false := by
    simp only [State.misplaced, hj, he, Bool.or_eq_false_iff, beq_eq_false_iff_ne, ne_eq, decide_eq_false_iff_not, Bool.and_eq_false_imp,
      bne_eq_false_iff_eq, Bool.not_eq_false', decide_eq_true_eq]
    refine ⟨⟨⟨hm, by omega⟩, fun h => ?_⟩, hcc⟩
    have := hend h
    omega
  rcases h2 with ⟨h1, rfl⟩ | ⟨h2, hf2⟩
  · simp [State.wordItem, hf, hplace, hj, h1, hd]
  · simp [State.wordItem, hf, hplace, hj, h2, hf2, hd, -BitVec.toNat_add]

/-- The item at a strand's clause position is the instruction that the position holds; on the command core where it executes it. -/
theorem nextItem_of_holdsItem (h : holdsItem s t i) (hcc : ccBase ≤ k → forCommandCore s t) : s.nextItem k t = .ok i := by
  rcases h with ⟨h0, w, wm, sa, sb, nl, ns, hf, rfl, hd⟩ | ⟨hpos, hle, w, hf, hd⟩ | ⟨hgt, w, w2, hf, hm, h2, hd, hin, hend⟩
  · rw [State.nextItem, if_pos h0]
    refine headerItem_of_holds hf hd (fun hk => ?_)
    rcases hcc hk with ⟨-, hnl⟩ | ⟨hgt, -⟩
    · exact hnl w hf
    · omega
  · rw [State.nextItem, if_neg (by omega), if_pos hle]
    have hf' : s.fetchLane t (State.laneAt t) = .ok w := hf
    simp only [hf', hd]
  · rw [State.nextItem, if_neg (by omega), if_neg (by omega)]
    refine wordItem_of_holds hf hm h2 hd hin hend (fun hk => ?_)
    rcases hcc hk with ⟨h0, -⟩ | ⟨-, hw⟩
    · omega
    · exact hw w hf

/-! #### An unhindered turn -/

theorem stopBefore_none (hh : State.heldAt t (some i) = none) (hb : s.badRead t i = none) : stopBefore k t i s = none := by
  unfold stopBefore
  simp only [hh, hb]

/-- A turn that nothing hinders runs the item of its clause position. -/
theorem issueOne_of_unhindered (hk : k < ccBase) (hi : holdsItem (s.touchItem k t) t i) (hu : unhindered s k t i) :
    issueOne k t s = itemRun s k t i := by
  obtain ⟨hedge, hlost, hbrk, hdel, hfh, hheld, hbad⟩ := hu
  have hnext := nextItem_of_holdsItem (k := k) hi (by omega)
  have hre : s.relocate t = .ok t := by simp [State.relocate, hlost]
  simp only [issueOne, hedge, hre, hlost, issueAt, hbrk, hdel, hfh, hnext, stopBefore_none hheld hbad, Bool.false_eq_true, if_false]
  rfl

theorem lateFor_of_arrived (h : allArrived s) : s.lateFor k = s := if_pos ⟨h.2.1, h.2.2⟩

theorem seenTurn_of_arrived (h : allArrived s) (ht : s.strand? k = some t) : seenTurn k s = issueTurn k t s := by
  have hs : (if s.lagsApart && decide (k < ccBase) then s else { s with lags := [] }) = s := by
    have h0 : { s with lags := [] } = s := by rw [← h.1]
    rw [h0, ite_self]
  unfold seenTurn
  simp only [hs, ht, h.1, if_true]

/-- With nothing on its way a turn is the strand's own. -/
theorem viewTurn_of_arrived (h : allArrived s) (ht : s.strand? k = some t) : viewTurn k s = issueTurn k t s := by
  unfold viewTurn
  simp only [lateFor_of_arrived h, seenTurn_of_arrived h ht, h.2.1, h.2.2, and_self, or_true, if_true]
  cases issueTurn k t s <;> rfl

theorem flush_of_arrived (h : allArrived s) : s.flush = s := by
  obtain ⟨hl, hr, hw⟩ := h
  have hs : { s with lags := [], reds := [], wins := [] } = s := by
    cases s
    dsimp only at hl hr hw
    subst hl hr hw
    rfl
  simpa only [State.flush, State.landLate, hr, hw, List.foldl_nil] using hs

/-- With nothing on its way no act lets anything arrive. -/
theorem flushFor_of_arrived (h : allArrived s) (a : Act) : flushFor a s = s := by
  unfold flushFor
  split
  · exact flush_of_arrived h
  · split
    · exact if_pos ⟨h.2.1, h.2.2⟩
    · rfl

theorem thenDo_thenDo (o : Host.Outcome State Fault Refusal) (f g : State → State) : thenDo (thenDo o f) g = thenDo o (fun s => g (f s)) := by
  cases o <;> rfl

/-- A step whose act is strand k's turn. -/
theorem step_issue {rest : List Act} (hp : s.plan = .issue k :: rest) :
    step s = thenDo (viewTurn k (if ccBase ≤ k then toWords { s with plan := rest } else { s with plan := rest }))
      (fun s2 => measure s (noteMx (.issue k) { s with plan := rest } s2.settle)) := by
  simp only [step, hp, act, flushFor, keepsLags, actGo, issue, thenDo_thenDo]
  rfl

/-- A strand that may run takes its turn; where it moves its arbiter, which grants it, is charged. -/
theorem issueTurn_of_unhindered (hk : k < ccBase) (hm : mayRun s t) :
    let s1 : State := { s with cur := k }
    holdsItem (s1.touchItem k t) t i → unhindered s1 k t i →
    (State.moved k t (itemRun s1 k t i) = false → issueTurn k t s = itemRun s1 k t i) ∧
    (State.moved k t (itemRun s1 k t i) = true → s1.granted t (s1.readies k t) = some (k, t) →
      issueTurn k t s = thenDo (itemRun s1 k t i) (fun s2 => s2.noteGrant (s1.readies k t) (s1.issueFifths t) t t)) := by
  intro s1 hi hu
  obtain ⟨hrun, hpend, hleave, hchange, hactive⟩ := hm
  have hcc : ¬ ccBase ≤ k := by omega
  have hmay : mayIssue s1 k t = true := by
    have hch : (s1.clu (t.core / 2)).change = none := hchange
    simp [mayIssue, hcc, hrun, hpend, hleave, hch]
  have hact : (s1.clu (t.core / 2)).active = true := hactive
  have hone := issueOne_of_unhindered hk hi hu
  unfold issueTurn
  constructor
  · intro hmov
    simp only [show ({ s with cur := k } : State) = s1 from rfl, hmay, hcc, hone, hmov, if_true, if_false, Bool.true_eq_false]
  · intro hmov hg
    simp only [show ({ s with cur := k } : State) = s1 from rfl, hmay, hcc, hone, hmov, hact, hu.1, hg, if_true, if_false,
      Bool.true_eq_false, Bool.false_eq_true]

/-- The command core runs the lanes whose word is next. -/
theorem issueTurn_of_proGroup {ln : Nat} (hln : ln ∈ proGroup { s with cur := ccBase + ln }) :
    issueTurn (ccBase + ln) t s = runEach ccItem (proGroup { s with cur := ccBase + ln }) { s with cur := ccBase + ln } := by
  have hle : ccBase ≤ ccBase + ln := by omega
  have hc : (proGroup { s with cur := ccBase + ln }).contains (ccBase + ln - ccBase) = true := by
    simpa [Nat.add_sub_cancel_left] using hln
  simp only [issueTurn, mayIssue, issueCc, hle, hc, if_true, Bool.true_eq_false, if_false]

/-- Lane ln of the command core runs the word at its clause position. -/
theorem ccItem_of_unhindered {ln : Nat} {s1 u : State} (ht : s.strand? (ccBase + ln) = some t)
    (hs1 : ({ s with cur := ccBase + ln } : State) = s1) (hu : s1.touchItem (ccBase + ln) t = u) (hi : holdsItem u t i)
    (hcc : forCommandCore u t) (hround : (s.queue ln).round + itemWords t s1 ≤ 64) (hwords : (s.queue ln).words + itemWords t s1 ≤ 4096)
    (hfh : s1.fetchHeld (ccBase + ln) t = false) (hheld : State.heldAt t (some i) = none) (hbad : u.badRead t i = none) :
    ccItem ln s = thenDo (exec i u) (fun s2 => ccSettle ln (itemWords t s1) t u s2) := by
  have hnext := nextItem_of_holdsItem (k := ccBase + ln) hi (fun _ => hcc)
  have hq : s1.queue ln = s.queue ln := by rw [← hs1]; rfl
  have hr : ¬ 64 < (s.queue ln).round + itemWords t s1 := by omega
  have hw : ¬ 4096 < (s.queue ln).words + itemWords t s1 := by omega
  simp only [ccItem, ht, hs1, hu, hq, hr, hw, hfh, hnext, stopBefore_none hheld hbad, if_false, Bool.false_eq_true]

/-- An event that is no packet, with no strand traced, is its meaning. -/
theorem happen_of_untraced (hi : i.isItem = false) (hp : packetOf i = none) (htr : ∀ e ∈ s.strands, e.2.tr.on = false) :
    happen i s = thenDo (exec i s) State.settle := by
  have hf : s.strands.filter (fun e => e.2.tr.on) = [] := by simpa [List.filter_eq_nil_iff] using htr
  unfold happen
  rw [if_neg (by rw [hi]; exact Bool.false_ne_true), hp, hf]
  rfl

/-- Proves O42: with nothing on its way the views of memory and the arrivals drop out of a turn, and what its first word shows of an
item's place agrees with the whole item. -/
theorem aStepRunsTheDecodedInstruction : Obligations.AStepRunsTheDecodedInstruction := by
  refine ⟨?_, ?_, ?_, ?_⟩
  · intro s k t i rest hp harr ht hk hm s0 s1 o es hi hu
    have harr0 : allArrived s0 := harr
    have hcc : ¬ ccBase ≤ k := by omega
    have hturn := issueTurn_of_unhindered (s := s0) hk hm hi hu
    have hstep := step_issue hp
    rw [if_neg hcc, viewTurn_of_arrived harr0 ht] at hstep
    refine ⟨fun hmov => ?_, fun hmov hg => ?_⟩
    · rw [hstep, hturn.1 hmov]
    · rw [hstep, hturn.2 hmov hg, thenDo_thenDo]
  · intro s ln t rest hp _ s0 s1 harr ht hln
    have harr' : allArrived (toWords s0) := harr
    have hle : ccBase ≤ ccBase + ln := by omega
    rw [step_issue hp, if_pos hle, viewTurn_of_arrived harr' ht, issueTurn_of_proGroup hln]
  · intro s ln t i ht s1 u
    exact ccItem_of_unhindered ht rfl rfl
  · intro s i rest hp harr hi hpk htr s0
    have harr0 : allArrived s0 := harr
    have hflush := flushFor_of_arrived harr0 (.event i)
    have hh : happen i s0 = thenDo (exec i s0) State.settle := happen_of_untraced hi hpk htr
    simp only [step, hp, act, actGo, hflush, hh, thenDo_thenDo, show ({ s with plan := rest } : State) = s0 from rfl]

end Sys2Proof.Proofs
end

/-! ### Cross-lane instructions (spec/04 R133, R134, spec/07 R200, R203, R212 to R214) -/
section
namespace Sys2Proof.Proofs
open Sys2Proof Sys2Proof.Machine Sys2Proof.Rules

/-! #### What a lane operation writes -/

section
variable {s : State} {t : Strand} {i : Instr} {f : LaneF} {regs : List Nat} {fmt : Bool} {eff : Strand → Strand}

/-- A lane operation whose effect writes one vector register lane by lane. -/
theorem writesLanes_of_laneOp {vd : Nat} {v val : Nat → Word} (hr : s.runs t) (hl : laneRuns t f regs fmt)
    (he : exec i s = s.laneOp f fmt regs eff) (heff : eff t = t.writeLanes vd v) (hv : ∀ l, l < 128 → v l = val l) :
    writesLanes s t i vd val := by
  obtain ⟨hsup, hregs, hfmt⟩ := hl
  refine ⟨(t.writeLanes vd v).advance 1, ?_, ?_, ?_, by simp, State.sameMemory_setCur _ _⟩
  · rw [he, State.laneOp_completes eff hr hsup hfmt hregs, heff]
  · intro l hlt
    rw [Strand.getV_advance, t.writeLanes_holds vd v l hlt, hv l hlt]
  · intro r hne
    rw [Strand.getV_advance, t.writeLanes_sameVectors vd v r hne]

/-- A lane operation whose effect writes one quad. -/
theorem writesQuad_of_laneOp {q : Nat} {m : Mask} (hr : s.runs t) (hl : laneRuns t f regs fmt)
    (he : exec i s = s.laneOp f fmt regs eff) (heff : eff t = t.setQ q m) : writesQuad s t i q m := by
  obtain ⟨hsup, hregs, hfmt⟩ := hl
  refine ⟨(t.setQ q m).advance 1, ?_, ?_, ?_, by simp, State.sameMemory_setCur _ _⟩
  · rw [he, State.laneOp_completes eff hr hsup hfmt hregs, heff]
  · intro w hw
    rw [Strand.getS_advance, t.setQ_holds q m w hw]
  · intro r hne
    rw [Strand.getS_advance, t.setQ_sameScalars q m r hne]

/-- A lane operation whose effect writes one scalar. -/
theorem writesScalar_of_laneOp {d : Nat} {v : Word} (hr : s.runs t) (hl : laneRuns t f regs fmt)
    (he : exec i s = s.laneOp f fmt regs eff) (heff : eff t = t.setS d v) : writesScalar s t i d v := by
  obtain ⟨hsup, hregs, hfmt⟩ := hl
  refine ⟨(t.setS d v).advance 1, ?_, by simp, ?_, by simp, State.sameMemory_setCur _ _⟩
  · rw [he, State.laneOp_completes eff hr hsup hfmt hregs, heff]
  · intro r hne
    rw [Strand.getS_advance, t.setS_sameScalars d v r hne]

end

/-! #### SHFL and SCAN -/

/-- The bounds of a segment, tested on integers. -/
theorem ite_within_natCast {α : Type} (a : Nat → α) (d : α) (base z n : Nat) :
    (if (base : Int) ≤ (n : Int) ∧ (n : Int) < base + z then a (n : Int).toNat else d) = if base ≤ n ∧ n < base + z then a n else d :=
  if_congr (by omega) rfl rfl

/-- The lane that SHFL reads, found by natural numbers in the model and by an integer in R212. -/
theorem shflLane_eq_shuffled (t : Strand) (f : LaneF) (l : Nat) :
    shflLane t f l = shuffled f (t.opA f) ((t.opB f l).toNat % 128) l := by
  have hbase : ∀ z, l - l % z = l / z * z := fun z => Nat.sub_eq_of_eq_add (Nat.div_add_mod' l z).symm
  simp only [shflLane, shuffled, shuffleFrom, hbase, ← Int.natCast_ediv, ← Int.natCast_mul]
  generalize 128 / 2 ^ (f.sub / 4) = z
  generalize (t.opB f l).toNat % 128 = k
  match f.sub % 4 with
  | 0 => exact (ite_within_natCast _ _ _ _ _).symm
  | 1 =>
    by_cases hk : k ≤ l
    · simp only [hk, if_true, ← Int.ofNat_sub hk]
      exact (ite_within_natCast _ _ _ _ _).symm
    · have hout : ¬((l / z * z : Nat) : Int) ≤ (l : Int) - k := by omega
      simp only [hk, if_false, hout, false_and]
  | 2 => exact (ite_within_natCast _ _ _ _ _).symm
  | _ + 3 => exact (ite_within_natCast _ _ _ _ _).symm

/-- SHFL and SCAN are lane operations that compute every lane's value before they write one. -/
theorem crossLane_laneOp {t : Strand} {i : Instr} {f : LaneF} {regs : List Nat} {fmt : Bool} {l₀ : Nat} {x : Word}
    (h : crossLane t l₀ i = some (f, regs, fmt, x)) :
    ∃ eff v, (∀ s, exec i s = s.laneOp f fmt regs eff) ∧ eff t = t.writeLanes f.vd v ∧ ∀ l, crossLane t l i = some (f, regs, fmt, v l) := by
  unfold crossLane at h
  split at h <;> cases h
  case h_1 => exact ⟨_, _, fun _ => rfl, rfl, fun l => by simp only [crossLane, shflLane_eq_shuffled]⟩
  case h_2 => exact ⟨_, _, fun _ => rfl, rfl, fun _ => rfl⟩

theorem shuffleAndScanReadAllLanesFirst : ShuffleAndScanReadAllLanesFirst := by
  intro s t i f regs fmt val hr _ hi hl
  obtain ⟨eff, v, he, heff, hv⟩ := crossLane_laneOp (hi 0 (by omega))
  refine writesLanes_of_laneOp hr hl (he s) heff fun l hlt => ?_
  simpa using (hv l).symm.trans (hi l hlt)

/-! #### ICMP, FCMP and BALLOT -/

theorem getLsbD_maskOf (g : Nat → Bool) {l : Nat} (hl : l < 128) : (maskOf g).getLsbD l = g l := by
  rw [maskOf, getLsbD_maskOfLanes]
  cases h : g l <;> simp [hl, h]

theorem maskOf_eq {g : Nat → Bool} {m : Mask} (h : ∀ l, l < 128 → g l = m.getLsbD l) : maskOf g = m :=
  BitVec.eq_of_getLsbD_eq fun l hl => by rw [getLsbD_maskOf g hl, h l hl]

theorem icmpCond_eq_compared (c : Nat) (u : Bool) (a b : Word) :
    icmpCond c u a b = compared c (if u then (a.toNat : Int) else a.toInt) (if u then (b.toNat : Int) else b.toInt) := by
  have heq : (a = b) ↔ (if u then (a.toNat : Int) else a.toInt) = (if u then (b.toNat : Int) else b.toInt) := by
    cases u
    · simp [BitVec.toInt_inj]
    · simp [BitVec.toNat_inj]
  have hlt : ∀ x y : Word, (if u then ltU x y else ltS x y) =
      decide ((if u then (x.toNat : Int) else x.toInt) < (if u then (y.toNat : Int) else y.toInt)) := by
    cases u <;> simp [ltU, ltS]
  unfold icmpCond compared
  simp only [hlt]
  split
  case h_1 => simp [beq_eq_decide, heq]
  case h_2 => simp [bne, beq_eq_decide, heq]
  case h_3 | h_5 => rfl
  all_goals simp [← decide_not]

/-- The order of values is asymmetric, and leaves NaN out (R203). -/
theorem lt_asymm {x y : FVal} (h : FVal.lt false x y = true) : FVal.lt false y x = false := by
  cases x with
  | nan => cases h
  | inf s => cases y <;> simp_all [FVal.lt]
  | fin s m e =>
    cases y with
    | nan => cases h
    | inf r => simp_all [FVal.lt]
    | fin r n g =>
      simp only [FVal.lt] at h ⊢
      rw [min_comm g e]
      split at h <;> simp_all [and_comm]
      omega

theorem not_nan_of_lt {x y : FVal} (h : FVal.lt false x y = true) : x.isNan = false ∧ y.isNan = false := by
  cases x <;> cases y <;> simp_all [FVal.lt, FVal.isNan]

theorem fcmpCond_eq_comparedF (c : Nat) (x y : FVal) : fcmpCond c x y = comparedF c x y := by
  have hxy : FVal.lt false x y = true → FVal.lt false y x = false ∧ (x.isNan || y.isNan) = false := fun h =>
    ⟨lt_asymm h, by simp [not_nan_of_lt h]⟩
  have hyx : FVal.lt false y x = true → FVal.lt false x y = false ∧ (x.isNan || y.isNan) = false := fun h =>
    ⟨lt_asymm h, by simp [not_nan_of_lt h]⟩
  simp only [fcmpCond, comparedF]
  revert hxy hyx
  generalize FVal.lt false x y = p
  generalize FVal.lt false y x = q
  generalize (x.isNan || y.isNan) = n
  intro hxy hyx
  split <;> revert p q n <;> decide

/-- ICMP, FCMP and BALLOT are lane operations that write one quad, whose bits the rules give lane by lane. -/
theorem quadLane_laneOp {t : Strand} {i : Instr} {f : LaneF} {regs : List Nat} {fmt : Bool} {l₀ : Nat} {x : Bool}
    (h : quadLane t l₀ i = some (f, regs, fmt, x)) :
    ∃ eff g, (∀ s, exec i s = s.laneOp f fmt regs eff) ∧ eff t = t.setQ (4 * f.vd) (maskOf g) ∧
      ∀ l, quadLane t l i = some (f, regs, fmt, g l) := by
  unfold quadLane at h
  split at h <;> cases h
  case h_1 => exact ⟨_, _, fun _ => rfl, rfl, fun l => by simp only [quadLane, icmpCond_eq_compared]⟩
  case h_2 => exact ⟨_, _, fun _ => rfl, rfl, fun l => by simp only [quadLane, fcmpCond_eq_comparedF]⟩
  case h_3 => exact ⟨_, _, fun _ => rfl, rfl, fun l => by rw [quadLane, bne, beq_eq_decide, decide_not]⟩

theorem comparesAndBallotWriteTheirMaskQuad : ComparesAndBallotWriteTheirMaskQuad := by
  intro s t i f regs fmt m hr _ hi hl
  obtain ⟨eff, g, he, heff, hg⟩ := quadLane_laneOp (hi 0 (by omega))
  have hm : maskOf g = m := maskOf_eq fun l hlt => by simpa using (hg l).symm.trans (hi l hlt)
  exact writesQuad_of_laneOp hr hl (he s) (hm ▸ heff)

/-! #### V2S, VOTE and REDL -/

section
variable {op : Word → Word → Word}

/-- A level of the tree keeps the sum in order: an associative operation may combine neighbours first. -/
theorem foldl_treeLevel (hassoc : ∀ x y z, op (op x y) z = op x (op y z)) (xs : List Word) (a : Word) :
    (treeLevel op xs).foldl op a = xs.foldl op a := by
  induction xs using treeLevel.induct generalizing a with
  | case1 x y xs ih => rw [treeLevel, List.foldl_cons, ih, ← hassoc, List.foldl_cons, List.foldl_cons]
  | case2 xs h => rw [treeLevel]; exact h

theorem length_treeLevel : ∀ xs : List Word, (treeLevel op xs).length = (xs.length + 1) / 2
  | [] => rfl
  | [_] => by simp [treeLevel]
  | x :: y :: xs => by
    simp only [treeLevel, List.length_cons, length_treeLevel xs]
    omega

/-- The tree of R133 over 2^n values is their sum in order, where the operation is associative. -/
theorem redTree_eq_foldl {e : Word} (hassoc : ∀ x y z, op (op x y) z = op x (op y z)) (hid : ∀ x, op e x = x) (n : Nat)
    (xs : List Word) (hn : xs.length = 2 ^ n) : redTree op n xs = xs.foldl op e := by
  induction n generalizing xs with
  | zero =>
    obtain ⟨x, rfl⟩ := List.length_eq_one_iff.1 hn
    simp [redTree, hid]
  | succ n ih =>
    rw [redTree, ih _ (by rw [length_treeLevel, hn]; omega), foldl_treeLevel hassoc]

/-- Inactive lanes add nothing (R133). -/
theorem redTree_redIn {code : Nat} (t : Strand) (f : LaneF) (hassoc : ∀ x y z, op (op x y) z = op x (op y z))
    (hleft : ∀ x, op (redIdent code) x = x) (hright : ∀ x, op x (redIdent code) = x) :
    redTree op 7 (redIn t f code) = (activeVals t f).foldl op (redIdent code) := by
  rw [redTree_eq_foldl hassoc hleft 7 _ (by simp [redIn]), redIn, activeVals, List.foldl_map, List.foldl_map, List.foldl_filter]
  congr 1
  funext x l
  cases t.exec.getLsbD l <;> simp [hright]

end

theorem boolW_eq (b : Bool) : boolW b = BitVec.ofNat 32 b.toNat := by cases b <;> rfl

/-- All values of a list equal its first where all of them are equal. -/
theorem all_beq_headD (xs : List Word) (d : Word) : (xs.all (· == xs.headD d)) = decide (∀ x ∈ xs, ∀ y ∈ xs, x = y) := by
  cases xs with
  | nil => simp
  | cons x xs =>
    rw [Bool.eq_iff_iff, decide_eq_true_iff, List.all_eq_true]
    simp only [beq_iff_eq, List.headD_cons]
    exact ⟨fun h a ha b hb => (h a ha).trans (h b hb).symm, fun h a ha => h a ha x List.mem_cons_self⟩

/-- VOTE's answer (R213). -/
theorem scalarLane_vote (t : Strand) (f : LaneF) : scalarLane t (.vote f) = some (f, [f.va], false, voteW t f) := by
  have hvals : (lanesOf t.exec).map (t.opA f) = activeVals t f := rfl
  simp only [scalarLane, voteW, hvals, boolW_eq]
  match f.sub with
  | 0 => simp [List.all_eq, bne, beq_eq_decide]
  | 1 => simp [List.any_eq, bne, beq_eq_decide]
  | 2 => simp only [all_beq_headD]
  | _ + 3 => simp only [List.countP_eq_length_filter]

/-- V2S's value (R213). -/
theorem scalarLane_v2s (t : Strand) (f : LaneF) : scalarLane t (.v2s f) = some (f, [f.va], false,
    if f.sub = 0 then t.opA f ((t.opB f 0).toNat % 128) else match lowest t.exec with | some l => t.opA f l | none => 0#32) := by
  have hlow : ((activeVals t f).head?).getD 0#32 = match lowest t.exec with | some l => t.opA f l | none => 0#32 := by
    rw [activeVals, List.head?_map, List.head?_filter, ← lowest]
    cases lowest t.exec <;> rfl
  rw [scalarLane, hlow]

/-- REDL's value (R214): the tree of R133, whose integer additions and logical operations may be taken in any grouping. -/
theorem scalarLane_redl (t : Strand) (f : LaneF) : scalarLane t (.redl f) = some (f, [f.va], decide (f.sub ≤ 2),
    redTree (redOp (t.mode f) t.ftz f.sub) 7 (redIn t f f.sub)) := by
  refine congrArg (fun v => some (f, [f.va], decide (f.sub ≤ 2), v)) ?_
  split
  case h_1 h => rw [h]; exact (redTree_redIn (code := 3) t f BitVec.add_assoc BitVec.zero_add BitVec.add_zero).symm
  case h_2 h =>
    rw [h]
    exact (redTree_redIn (code := 4) t f BitVec.and_assoc (fun _ => BitVec.allOnes_and) (fun _ => BitVec.and_allOnes)).symm
  case h_3 h =>
    rw [h]
    exact (redTree_redIn (code := 5) t f BitVec.or_assoc (fun _ => BitVec.zero_or) (fun _ => BitVec.or_zero)).symm
  case h_4 h =>
    rw [h]
    exact (redTree_redIn (code := 6) t f BitVec.xor_assoc (fun _ => BitVec.zero_xor) (fun _ => BitVec.xor_zero)).symm
  case h_5 => rfl

/-- V2S, VOTE and REDL are lane operations that write one scalar. -/
theorem scalarLane_laneOp {t : Strand} {i : Instr} {f : LaneF} {regs : List Nat} {fmt : Bool} {v : Word}
    (h : scalarLane t i = some (f, regs, fmt, v)) :
    ∃ eff, (∀ s, exec i s = s.laneOp f fmt regs eff) ∧ eff t = t.setS (f.vc * 256 + f.vd) v := by
  cases i with
  | v2s g => cases (scalarLane_v2s t g).symm.trans h; exact ⟨_, fun _ => rfl, rfl⟩
  | vote g => cases (scalarLane_vote t g).symm.trans h; exact ⟨_, fun _ => rfl, rfl⟩
  | redl g => cases (scalarLane_redl t g).symm.trans h; exact ⟨_, fun _ => rfl, rfl⟩
  | _ => cases h

theorem reductionsWriteOneScalar : ReductionsWriteOneScalar := by
  intro s t i f regs fmt v hr _ hi hl
  obtain ⟨eff, he, heff⟩ := scalarLane_laneOp hi
  exact writesScalar_of_laneOp hr hl (he s) heff

/-- Proves O4: every cross-lane instruction is one lane operation, whose effect is computed from the strand as it stood before any of it
is written; the rules' values agree with the model's lane by lane, and the tree of R133 with a sum in lane order. -/
theorem crossLaneInstructionsReadAllLanesThenWrite : Obligations.CrossLaneInstructionsReadAllLanesThenWrite :=
  ⟨shuffleAndScanReadAllLanesFirst, comparesAndBallotWriteTheirMaskQuad, reductionsWriteOneScalar⟩

end Sys2Proof.Proofs
end

/-! ### The meeting of a quad (spec/04 R118, R120, R129, R131, spec/08 R229, R231, R232, spec/20 R347) -/
section
namespace Sys2Proof.Proofs
open Sys2Proof Sys2Proof.Machine Sys2Proof.Rules

/-! #### Lists -/

/-- Steps that each leave the start as it is. -/
theorem foldl_eq_self {α β : Type} {f : β → α → β} {b : β} {as : List α} (h : ∀ a ∈ as, f b a = b) : as.foldl f b = b := by
  induction as with
  | nil => rfl
  | cons a as ih => rw [List.foldl_cons, h a List.mem_cons_self, ih fun a' ha => h a' (List.mem_cons_of_mem a ha)]

/-- A fold over pairs, the first part in turn, the second an alternative. -/
theorem foldl_pair {α β : Type} (g : α → β → α) (h : β → Bool) (bs : List β) (a : α) (c : Bool) :
    bs.foldl (fun r b => (g r.1 b, r.2 || h b)) (a, c) = (bs.foldl g a, c || bs.any h) := by
  induction bs generalizing a c with
  | nil => simp
  | cons b bs ih => rw [List.foldl_cons, ih, List.foldl_cons, List.any_cons, Bool.or_assoc]

theorem getD_eq_nil {α : Type} {L : List (List α)} (h : ∀ x ∈ L, x = []) (i : Nat) : L.getD i [] = [] := by
  rw [List.getD_eq_getElem?_getD]
  cases hi : L[i]? with
  | none => rfl
  | some x => exact h x (List.mem_of_getElem? hi)

theorem foldl_zipIdx {α β : Type} (f : β → α → β) (as : List α) (b : β) : as.zipIdx.foldl (fun b e => f b e.1) b = as.foldl f b := by
  conv_rhs => rw [← List.zipIdx_map_fst 0 as, List.foldl_map]

theorem zipWith_map_range {α β : Type} (f : α → α → β) (g h : Nat → α) (k : Nat) :
    List.zipWith f ((List.range k).map g) ((List.range k).map h) = (List.range k).map (fun i => f (g i) (h i)) := by
  rw [List.zipWith_map, List.zipWith_self]

/-! #### The operands of a clean member, as the engine reads them -/

/-- A member of the joint operation whose strand the engine reads as it stands. -/
def asRead (m : Nat × Strand × Posted) : MMem := ⟨m.1, m.2.1, m.2.2⟩

/-- A member of the meeting as the statement takes it: one MMA of the class posted, and nothing of what it reads saved, uncorrectable or
stashed. -/
structure CleanMember (s : State) (cls : Nat) (m : Nat × Strand × Posted) : Prop where
  queue : m.2.1.mx.q = [.mma m.2.2]
  save : m.2.1.mx.save = []
  bad : m.2.1.bad = []
  fmt : fmtClass { m.2.1 with fmt := m.2.2.fmt } = some cls
  budget : Strand.rotOf m.2.2.rot m.2.2.f.vb < m.2.1.budget
  poison : ∀ w, s.weave? m.2.1.weave = some w → w.scrPoison = []
  stash : ∀ w, s.weave? m.2.1.weave = some w → (s.core w.home).stash = []

theorem clean_of_oneClassQuad {s : State} {cls q : Nat} {ms : List (Nat × Strand × Posted)} (h : oneClassQuad s cls ms q) :
    ∀ m ∈ ms, CleanMember s cls m := by
  intro m hm
  obtain ⟨-, -, -, -, hms⟩ := h
  obtain ⟨hq, hsave, hbad, hfmt, hb, hscr, -⟩ := hms m hm
  exact ⟨hq, hsave, hbad, hfmt, hb, fun w hw => (hscr w hw).1, fun w hw => (hscr w hw).2⟩

theorem engineView_clean {s : State} {cls : Nat} {ms : List (Nat × Strand × Posted)} (h : ∀ m ∈ ms, CleanMember s cls m) :
    engineView (fun _ => []) ms = ms.map asRead := by
  conv_rhs => rw [← List.zipIdx_map_fst 0 ms, List.map_map]
  refine List.map_congr_left fun e he => ?_
  have hm := h e.1 (List.fst_mem_of_mem_zipIdx he)
  have hclean : cleanBad e.1.2.1 = e.1.2.1 := by simp [cleanBad, hm.save, hm.bad]
  simp [missed, missedVals, hclean, asRead]

theorem missedTiles_nil (s : State) (ms : List (Nat × Strand × Posted)) : missedTiles (fun _ => []) ms s = s := by
  simp [missedTiles, missedVals]

theorem tileFill_eq_self {s : State} {t : Strand} (h : ∀ w, s.weave? t.weave = some w → (s.core w.home).stash = []) (nb : Nat)
    (p : Posted) : tileFill s nb t p = s := by
  have hfill : ∀ off, s.stashFill hwAgent t.weave off = s := fun off => by
    cases hw : s.weave? t.weave with
    | none => simp [State.stashFill, hw]
    | some w => exact stashFill_eq_self hw (h w hw) _ _
  have hfold : ∀ is : List Nat,
      is.foldl (fun s i => State.stashFill s hwAgent t.weave (tileA p.f + 128 * (blockJ p.f + i))) s = s := fun is =>
    foldl_eq_self fun _ _ => hfill _
  simp [tileFill, hfold, hfill]

theorem scrPoisoned_eq_false {s : State} {wk : Nat} (h : ∀ w, s.weave? wk = some w → w.scrPoison = []) (off n : Nat) :
    s.scrPoisoned wk off n = false := by
  unfold State.scrPoisoned
  cases hw : s.weave? wk with
  | none => rfl
  | some w => simp [h w hw]

/-! #### The elements and scales of a block -/

section
variable {s : State} {cls : Nat} {ms : List (Nat × Strand × Posted)} {m : Nat × Strand × Posted} {l n b : Nat}

theorem mmaBits_eq_elBits (hcls : cls < 4) : mmaBits cls = elBits cls := by
  interval_cases cls <;> rfl

theorem mmaBlocks_eq (hcls : cls < 4) : mmaK cls / 32 = alongK cls / 32 := by
  interval_cases cls <;> rfl

/-- Element k of a row or column stands in word k / w of w elements each. -/
theorem word_of_element (hcls : cls < 4) (k : Nat) : k * elBits cls / 32 = k / (32 / elBits cls) := by
  interval_cases cls <;> simp [elBits] <;> omega

theorem elem_eq_div_mod (x : Word) (i w : Nat) : elem x i w = x.toNat / 2 ^ (w * i) % 2 ^ w := by
  rw [elem, fld, Nat.mul_comm]

theorem blockEls_row (hcls : cls < 4) (m : Nat × Strand × Posted) (l b : Nat) :
    blockEls (mmaBits cls) b ((asRead m).aWord l) = (List.range 32).map (fun i => aElem cls m.2.1 m.2.2 l (32 * b + i)) := by
  simp only [blockEls, mmaBits_eq_elBits hcls, word_of_element hcls, elem_eq_div_mod]
  rfl

theorem blockEls_column (hcls : cls < 4) (h : ∀ m ∈ ms, CleanMember s cls m) (n b : Nat) :
    blockEls (mmaBits cls) b (bWord (ms.map asRead) n) = (List.range 32).map (fun i => bElem cls ms n (32 * b + i)) := by
  simp only [blockEls, mmaBits_eq_elBits hcls, word_of_element hcls, elem_eq_div_mod, bWord, bElem, List.getElem?_map]
  cases hm : ms[n / 8]? with
  | none => simp
  | some m =>
    have hlt := (h m (List.mem_of_getElem? hm)).budget
    simp [asRead, Nat.not_le.2 hlt]

theorem mmaScale_eq (hp : ∀ w, s.weave? m.2.1.weave = some w → w.scrPoison = []) (l n b : Nat) :
    mmaScale s (asRead m) l n b = some (scalesAt s m.2.1 m.2.2 l n b) := by
  have hmode : fld m.2.2.fmt.toNat 14 2 = scaleMode m.2.2 := rfl
  simp only [mmaScale, asRead, scalesAt, hmode]
  split
  case h_1 => rfl
  case h_2 => simp [fld]
  case h_3 => simp [scaleByte, scrPoisoned_eq_false hp, tileA, tileB, blockJ, tiles, fld, Nat.mul_comm]

/-! #### One block and one element -/

theorem clampW_signed (x : Int) : clampW false x = BitVec.ofInt 32 (min (2 ^ 31 - 1) (max (-(2 ^ 31)) x)) := by
  simp only [clampW, Bool.false_eq_true, if_false]
  congr 1
  split_ifs <;> omega

theorem fdotSum_of_ne_nil {ps : List FVal} (h : ps ≠ []) : fdotSum ps = ps.tail.foldl (FVal.add false) (ps.head?.getD .nan) := by
  cases ps with
  | nil => exact absurd rfl h
  | cons p ps => rfl

theorem floatProducts_ne_nil (cls : Nat) (ms : List (Nat × Strand × Posted)) (t : Strand) (p : Posted) (l n b : Nat) :
    floatProducts cls ms t p l n b ≠ [] := by
  simp [floatProducts]

/-- Whether block b of an element of an integer class has a NaN scale (R131, R347). -/
def nanBlock (s : State) (cls : Nat) (m : Nat × Strand × Posted) (l n b : Nat) : Bool := decide (cls = 2) && noScale s m.2.1 m.2.2 l n b

/-- One block of a member (R131, R231): the accumulator's new value, and MXERR for a NaN scale of an integer block. -/
theorem mmaBlock_eq (s : State) (cls : Nat) (ms : List (Nat × Strand × Posted)) (m : Nat × Strand × Posted) (l n b : Nat) (acc : Word) :
    mmaBlock cls (asRead m) (some (scalesAt s m.2.1 m.2.2 l n b))
      ((List.range 32).map (fun i => aElem cls m.2.1 m.2.2 l (32 * b + i))) ((List.range 32).map (fun i => bElem cls ms n (32 * b + i))) acc =
    (blockStep s cls ms m.2.1 m.2.2 l n acc b, nanBlock s cls m l n b) := by
  have hmode : fld m.2.2.fmt.toNat 14 2 = scaleMode m.2.2 := rfl
  rcases hsc : scalesAt s m.2.1 m.2.2 l n b with ⟨ea, eb⟩
  simp only [mmaBlock, blockStep, nanBlock, asRead, hmode, zipWith_map_range, noScale, hsc]
  by_cases hc : cls = 2
  · subst hc
    have hsum : ((List.range 32).map (fun i => sextI (aElem 2 m.2.1 m.2.2 l (32 * b + i)) 8 * sextI (bElem 2 ms n (32 * b + i)) 8)).foldl
        (· + ·) 0 = (intProducts ms m.2.1 m.2.2 l n b).sum := List.sum_eq_foldl.symm
    have hnan : (decide (scaleMode m.2.2 = 1) && (decide (ea = 255) || decide (eb = 255))) =
        decide (scaleMode m.2.2 = 1 ∧ (ea = 255 ∨ eb = 255)) := by simp
    simp only [hsum, hnan, shiftInt, clampW_signed, Nat.testBit_zero, decide_eq_true_eq, if_true, decide_true, Bool.true_and]
    by_cases hn : scaleMode m.2.2 = 1 ∧ (ea = 255 ∨ eb = 255)
    · simp only [if_pos hn, decide_eq_true hn]
    · simp only [if_neg hn, decide_eq_false hn]
  · have hprods : (List.range 32).map (fun i =>
        FVal.mul ((fpOfFmt (fld m.2.2.fmt.toNat 0 3)).unpack false (aElem cls m.2.1 m.2.2 l (32 * b + i)))
          ((fpOfFmt (fld m.2.2.fmt.toNat 3 3)).unpack false (bElem cls ms n (32 * b + i)))) = floatProducts cls ms m.2.1 m.2.2 l n b := by
      simp [floatProducts, fld]
    have hsum := fdotSum_of_ne_nil (floatProducts_ne_nil cls ms m.2.1 m.2.2 l n b)
    simp only [hprods, hsum, blockAdd, hc, if_false, decide_false, Bool.false_and]
    by_cases hz : scaleMode m.2.2 = 0 <;> simp [hz]

/-- The blocks of a row and a column in ascending K (R231). -/
theorem mmaElem_eq (hcls : cls < 4) (h : ∀ m ∈ ms, CleanMember s cls m) (hm : m ∈ ms) (l n : Nat) :
    mmaElem s cls (ms.map asRead) (asRead m) l n = (accumulated s cls ms m.2.1 m.2.2 l n,
      (List.range (alongK cls / 32)).any (nanBlock s cls m l n)) := by
  simp only [mmaElem, mmaPart, mmaBlocks_eq hcls, mmaScale_eq (h m hm).poison, blockEls_row hcls, blockEls_column hcls h, mmaBlock_eq]
  exact foldl_pair _ _ _ _ _

end

/-! #### A member's results -/

/-- Register names stay apart under rotation (R63). -/
theorem rotOf_injective (rot : Word) : Function.Injective (Strand.rotOf rot) := by
  intro a b h
  simp only [Strand.rotOf] at h
  generalize fld rot.toNat 0 8 = base at h
  generalize fld rot.toNat 8 8 = z at h
  generalize fld rot.toNat 16 7 = rb at h
  have hrange : ∀ x, z ≠ 0 → x % z < z := fun x hz => Nat.mod_lt x (Nat.pos_of_ne_zero hz)
  split at h <;> split at h
  case isTrue.isTrue ha hb =>
    have hmod : a - base ≡ b - base [MOD z] := Nat.ModEq.add_right_cancel' rb (Nat.add_left_cancel h)
    have heq := hmod.eq_of_lt_of_lt (by omega) (by omega)
    omega
  case isTrue.isFalse ha hb =>
    have := hrange (a - base + rb) ha.1
    omega
  case isFalse.isTrue ha hb =>
    have := hrange (b - base + rb) hb.1
    omega
  case isFalse.isFalse => exact h

/-- Column n of a member's mmaResults, written to its accumulator. -/
def putColumn (kept : List Nat) (p : Posted) (d : List Vec) (t : Strand) (n : Nat) : Strand :=
  let r := Strand.rotOf p.rot (p.f.vd + n)
  let stays := fun (e : Nat) => kept.contains e && p.after e
  { t.putV r ((List.range 128).map (fun l =>
      if p.exec.getLsbD l && !stays (512 + 128 * r + l) then Vec.lane (d.getD n []) l else Vec.lane (t.getV r) l)) with
    bad := t.bad.filter (fun b => !(decide (512 + 128 * r ≤ b) && decide (b < 640 + 128 * r) && p.exec.getLsbD (b % 128) && !stays b)) }

/-- The first k columns.  Irreducible: the lemmas below say what it does, and no unification should run it. -/
@[irreducible] def putColumns (p : Posted) (d : List Vec) (t : Strand) (k : Nat) : Strand := (List.range k).foldl (putColumn [] p d) t

theorem mmaStore_eq (t : Strand) (p : Posted) (d : List Vec) : mmaStore [] t p d =
    Strand.drainZero { putColumns p d t 32 with
      mx := { (putColumns p d t 32).mx with q := (putColumns p d t 32).mx.q.drop 1, save := [] } } := by
  rw [putColumns]
  rfl

theorem putColumns_zero (p : Posted) (d : List Vec) (t : Strand) : putColumns p d t 0 = t := by
  rw [putColumns]
  rfl

theorem putColumns_succ (p : Posted) (d : List Vec) (t : Strand) (k : Nat) : putColumns p d t (k + 1) = putColumn [] p d (putColumns p d t k) k := by
  simp [putColumns, List.range_succ]

theorem getV_putColumn_same (p : Posted) (d : List Vec) (t : Strand) (n : Nat) {l : Nat} (hl : l < 128) :
    Vec.lane ((putColumn [] p d t n).getV (Strand.rotOf p.rot (p.f.vd + n))) l =
      if p.exec.getLsbD l then Vec.lane (d.getD n []) l else Vec.lane (t.getV (Strand.rotOf p.rot (p.f.vd + n))) l := by
  have hget : (putColumn [] p d t n).getV (Strand.rotOf p.rot (p.f.vd + n)) = _ := t.getV_putV _ _
  rw [hget]
  simp only [List.contains_nil, Bool.false_and, Bool.not_false, Bool.and_true]
  exact Strand.Vec_lane_ofFn _ hl

theorem getV_putColumn_ne (p : Posted) (d : List Vec) (t : Strand) {n r : Nat} (h : r ≠ Strand.rotOf p.rot (p.f.vd + n)) :
    (putColumn [] p d t n).getV r = t.getV r :=
  t.getV_putV_ne _ h

theorem getV_putColumns_ne (p : Posted) (d : List Vec) (t : Strand) {k r : Nat} (h : ∀ n, n < k → r ≠ Strand.rotOf p.rot (p.f.vd + n)) :
    (putColumns p d t k).getV r = t.getV r := by
  induction k with
  | zero => rw [putColumns_zero]
  | succ k ih =>
    rw [putColumns_succ, getV_putColumn_ne _ _ _ (h k (by omega)), ih fun n hn => h n (by omega)]

/-- The accumulators are distinct registers, so each column stands where it was written. -/
theorem lane_putColumns (p : Posted) (d : List Vec) (t : Strand) {k n l : Nat} (hn : n < k) (hl : l < 128) :
    Vec.lane ((putColumns p d t k).getV (Strand.rotOf p.rot (p.f.vd + n))) l =
      if p.exec.getLsbD l then Vec.lane (d.getD n []) l else Vec.lane (t.getV (Strand.rotOf p.rot (p.f.vd + n))) l := by
  have hapart : ∀ {i j : Nat}, i ≠ j → Strand.rotOf p.rot (p.f.vd + i) ≠ Strand.rotOf p.rot (p.f.vd + j) := fun hij h =>
    hij (Nat.add_left_cancel (rotOf_injective p.rot h))
  induction k with
  | zero => omega
  | succ k ih =>
    rw [putColumns_succ]
    by_cases hnk : n = k
    · subst hnk
      rw [getV_putColumn_same _ _ _ _ hl, getV_putColumns_ne _ _ _ fun i hi => hapart (by omega)]
    · rw [getV_putColumn_ne _ _ _ (hapart hnk), ih (by omega)]

theorem putColumn_eq (p : Posted) (d : List Vec) {t : Strand} (h : t.bad = []) (n : Nat) :
    putColumn [] p d t n = { t with v := (putColumn [] p d t n).v } := by
  cases t
  cases h
  rfl

/-- Nothing but the vector file changes. -/
theorem putColumns_eq (p : Posted) (d : List Vec) {t : Strand} (h : t.bad = []) (k : Nat) :
    putColumns p d t k = { t with v := (putColumns p d t k).v } := by
  induction k with
  | zero => rw [putColumns_zero]
  | succ k ih =>
    have hbad : (putColumns p d t k).bad = [] := (congrArg Strand.bad ih).trans h
    rw [putColumns_succ]
    exact (putColumn_eq p d hbad k).trans (congrArg (fun u : Strand => { u with v := (putColumn [] p d (putColumns p d t k) k).v }) ih)

/-- A member after the meeting: its columns hold the results d, it owes no operation, and MXERR where an operand failed. -/
def metStrand (t : Strand) (p : Posted) (d : List Vec) (err : Bool) : Strand :=
  if err then setMxerr (mmaStore [] t p d) else mmaStore [] t p d

theorem mmaStore_of_single {t : Strand} {p : Posted} (hq : t.mx.q = [.mma p]) (hbad : t.bad = []) (d : List Vec) :
    mmaStore [] t p d = { t with v := (putColumns p d t 32).v, mx := { t.mx with q := [], save := [] } } := by
  rw [mmaStore_eq, putColumns_eq p d hbad 32]
  simp only [Strand.drainZero, hq, List.drop_one, List.tail_cons, drainMx]

section
variable {t : Strand} {p : Posted} (hq : t.mx.q = [.mma p]) (hbad : t.bad = []) (d : List Vec) (err : Bool)
include hq hbad

theorem metStrand_eq : metStrand t p d err = { t with
    v := (putColumns p d t 32).v, mx := { t.mx with q := [], save := [] }, status := t.status ||| (if err then 1#32 else 0#32) } := by
  rw [metStrand, mmaStore_of_single hq hbad]
  cases err
  · simp
  · rfl

theorem getV_metStrand (r : Nat) : (metStrand t p d err).getV r = (putColumns p d t 32).getV r := by
  rw [metStrand_eq hq hbad]
  rfl

end

/-! #### The joint operation -/

/-- Members written one after another: each key holds its own strand. -/
theorem strand_foldl_setStrand {α : Type} (key : α → Nat) (new : α → Strand) (ms : List α) (hn : (ms.map key).Nodup) (s : State) :
    (∀ m ∈ ms, (ms.foldl (fun s m => s.setStrand (key m) (new m)) s).strand? (key m) = some (new m)) ∧
      ∀ j, (∀ m ∈ ms, key m ≠ j) → (ms.foldl (fun s m => s.setStrand (key m) (new m)) s).strand? j = s.strand? j := by
  induction ms generalizing s with
  | nil => simp
  | cons a ms ih =>
    obtain ⟨ha, hn⟩ := List.nodup_cons.1 hn
    obtain ⟨hin, hout⟩ := ih hn (s.setStrand (key a) (new a))
    rw [List.foldl_cons]
    refine ⟨fun m hm => ?_, fun j hj => ?_⟩
    · rcases List.mem_cons.1 hm with rfl | hm
      · rw [hout _ fun b hb hkey => ha (List.mem_map.2 ⟨b, hb, hkey⟩), State.strand_setStrand]
      · exact hin m hm
    · rw [hout j fun m hm => hj m (List.mem_cons_of_mem a hm), State.strand_setStrand_ne _ _ (hj a List.mem_cons_self).symm]

theorem mem_foldl_setStrand {α : Type} (key : α → Nat) (new : α → Strand) (ms : List α) (s : State) :
    (ms.foldl (fun s m => s.setStrand (key m) (new m)) s).mem = s.mem := by
  induction ms generalizing s with
  | nil => rfl
  | cons a ms ih => rw [List.foldl_cons, ih]; rfl

/-- The results of a member as the engine has them: column by column, each with whether an operand failed. -/
def mmaResults (s : State) (cls : Nat) (ms : List MMem) (m : MMem) : List (List (Word × Bool)) :=
  (List.range 32).map (fun n => (List.range 128).map (fun l => if m.p.exec.getLsbD l then mmaElem s cls ms m l n else (0#32, false)))

/-- A member as the meeting leaves it. -/
def metAs (s : State) (cls : Nat) (ms : List (Nat × Strand × Posted)) (m : Nat × Strand × Posted) : Strand :=
  let r := mmaResults s cls (ms.map asRead) (asRead m)
  metStrand m.2.1 m.2.2 (r.map (fun v => v.map (·.1))) (r.any (fun v => v.any (·.2)))

/-- The member whose FMT gives the class. -/
theorem exists_lead {ms : List (Nat × Strand × Posted)} (h : ms ≠ []) :
    ∃ m ∈ ms, (ms.find? (fun e => e.2.2.exec != 0#128)).orElse (fun _ => ms.head?) = some m := by
  cases hf : ms.find? (fun e => e.2.2.exec != 0#128) with
  | some m => exact ⟨m, List.mem_of_find?_eq_some hf, rfl⟩
  | none => exact ⟨ms.head h, List.head_mem h, by simp [List.head?_eq_some_head h]⟩

theorem mmaBadReads_clean {t : Strand} (h : t.bad = []) (bits sp : Nat) (p : Posted) : mmaBadReads bits sp t p = [] := by
  simp [mmaBadReads, h]

theorem mmaBadScales_clean {s : State} {t : Strand} (h : ∀ w, s.weave? t.weave = some w → w.scrPoison = []) (nb : Nat) (p : Posted)
    (first : Bool) : mmaBadScales s nb t p first = [] := by
  simp [mmaBadScales, scrPoisoned_eq_false h]

theorem mmaJoint_eq {s : State} {cls q : Nat} {ms : List (Nat × Strand × Posted)} (h : oneClassQuad s cls ms q) :
    mmaJoint (fun _ => []) (fun _ => []) s ms = ms.foldl (fun s' m => s'.setStrand m.1 (metAs s cls ms m)) s := by
  have hms := clean_of_oneClassQuad h
  obtain ⟨-, -, hlen, -, -⟩ := h
  obtain ⟨m₀, hm₀, hlead⟩ := exists_lead (ms := ms) (by rintro rfl; cases hlen)
  obtain ⟨k₀, t₀, p₀⟩ := m₀
  have hcls : fmtClass { t₀ with fmt := p₀.fmt } = some cls := (hms _ hm₀).fmt
  have hview : engineView (fun _ => []) ms = ms.map asRead := engineView_clean hms
  have hfill : ∀ nb, ms.foldl (fun s e => tileFill s nb e.2.1 e.2.2) s = s := fun nb =>
    foldl_eq_self fun m hm => tileFill_eq_self (hms m hm).stash nb m.2.2
  have hreg : ∀ x ∈ ms.zipIdx.map (fun e => mmaBadReads (mmaBits cls) e.2 e.1.2.1 e.1.2.2), x = [] := by
    simp only [List.mem_map, forall_exists_index, and_imp]
    rintro x e he rfl
    exact mmaBadReads_clean (hms e.1 (List.fst_mem_of_mem_zipIdx he)).bad ..
  have hany : (ms.zipIdx.map (fun e => mmaBadReads (mmaBits cls) e.2 e.1.2.1 e.1.2.2)).any (fun b => b.any (·.2)) = false :=
    List.any_eq_false.2 fun x hx => by simp [hreg x hx]
  have hscale : ∀ x ∈ ms.map (fun e => mmaBadScales s (mmaK cls / 32) e.2.1 e.2.2
      ((ms.find? (fun e => e.2.2.exec != 0#128)).map (·.1) == some e.1)), x = [] := by
    simp only [List.mem_map, forall_exists_index, and_imp]
    rintro x e he rfl
    exact mmaBadScales_clean (hms e he).poison ..
  unfold mmaJoint
  simp only [hlead, hcls, Option.getD_some, hview, hfill, missedTiles_nil]
  simp only [getD_eq_nil hreg, getD_eq_nil hscale, hany, List.filter_nil, List.foldl_nil, List.any_nil, Bool.or_false, Bool.false_and]
  rw [foldl_eq_self fun _ _ => rfl]
  refine Eq.trans ?_ (foldl_zipIdx (fun s' m => s'.setStrand m.1 (metAs s cls ms m)) ms s)
  refine List.foldl_ext _ _ _ fun s' e he => ?_
  have hres : ((ms.map asRead).map (fun m => mmaResults s cls (ms.map asRead) m)).getD e.2 [] = mmaResults s cls (ms.map asRead) (asRead e.1) := by
    simp [List.getD_eq_getElem?_getD, List.mem_zipIdx_iff_getElem?.1 he]
  simp only [mmaResults] at hres
  simp only [hres]
  rfl

/-! #### What the meeting leaves in each member -/

section
variable {s : State} {cls q : Nat} {ms : List (Nat × Strand × Posted)} {m : Nat × Strand × Posted}

theorem mmasOf_single {t : Strand} {p : Posted} (h : t.mx.q = [.mma p]) : mmasOf t = [p] := by
  simp [mmasOf, h]

theorem mmaElem_oneClass (h : oneClassQuad s cls ms q) (hm : m ∈ ms) (l n : Nat) :
    mmaElem s cls (ms.map asRead) (asRead m) l n = (accumulated s cls ms m.2.1 m.2.2 l n,
      (List.range (alongK cls / 32)).any (nanBlock s cls m l n)) := by
  have hms := clean_of_oneClassQuad h
  obtain ⟨-, -, -, hcls, -⟩ := h
  exact mmaElem_eq hcls hms hm l n

/-- An active lane of a column holds the blocks' sum. -/
theorem lane_results (h : oneClassQuad s cls ms q) (hm : m ∈ ms) {l n : Nat} (hl : l < 128) (hn : n < 32)
    (hx : m.2.2.exec.getLsbD l = true) :
    Vec.lane (((mmaResults s cls (ms.map asRead) (asRead m)).map (fun v => v.map (·.1))).getD n []) l =
      accumulated s cls ms m.2.1 m.2.2 l n := by
  have hx' : (asRead m).p.exec.getLsbD l = true := hx
  simp [Vec.lane, mmaResults, hl, hn, hx', mmaElem_oneClass h hm]

/-- MXERR is for an integer block with a NaN scale, in a row of an active lane. -/
theorem any_results (h : oneClassQuad s cls ms q) (hm : m ∈ ms) :
    (mmaResults s cls (ms.map asRead) (asRead m)).any (fun v => v.any (·.2)) =
      (decide (cls = 2) && (List.range 128).any (fun l => m.2.2.exec.getLsbD l &&
        (List.range 32).any (fun n => (List.range 2).any (noScale s m.2.1 m.2.2 l n)))) := by
  have hflag : ∀ n l, (if (asRead m).p.exec.getLsbD l then mmaElem s cls (ms.map asRead) (asRead m) l n else (0#32, false)).2 =
      (m.2.2.exec.getLsbD l && (List.range (alongK cls / 32)).any (nanBlock s cls m l n)) := fun n l => by
    have hexec : (asRead m).p.exec = m.2.2.exec := rfl
    cases hx : m.2.2.exec.getLsbD l <;> simp [hexec, hx, mmaElem_oneClass h hm]
  simp only [mmaResults, List.any_map, Function.comp_def, hflag]
  by_cases hc : cls = 2
  · subst hc
    have hblocks : alongK 2 / 32 = 2 := rfl
    rw [Bool.eq_iff_iff]
    simp only [List.any_eq_true, List.mem_range, Bool.and_eq_true, nanBlock, hblocks, decide_true, Bool.true_and]
    exact ⟨fun ⟨n, hn, l, hl, hx, hb⟩ => ⟨l, hl, hx, n, hn, hb⟩, fun ⟨l, hl, hx, n, hn, hb⟩ => ⟨n, hn, l, hl, hx, hb⟩⟩
  · simp [nanBlock, hc]

/-- The members of a quad stand at one position, which their meeting takes up (R232). -/
theorem meet_eq {k : Nat} {t : Strand} (hk : s.strand? k = some t) (hhead : headPos t = ms.head?.map (fun x => (x.2.2.batch, x.2.2.pos)))
    (h : oneClassQuad s cls ms t.mx.quad) :
    s.meet (fun _ => []) (fun _ => []) k = ms.foldl (fun s' m => s'.setStrand m.1 (metAs s cls ms m)) s := by
  have hjoint := mmaJoint_eq h
  have hclean := clean_of_oneClassQuad h
  obtain ⟨hquad, -, hlen, -, hms⟩ := h
  obtain ⟨a, hfirst⟩ : ∃ a, ms.head? = some a := by
    cases ms with
    | nil => cases hlen
    | cons a _ => exact ⟨a, rfl⟩
  have hpos : ∀ m ∈ ms, headPos m.2.1 = headPos t := fun m hm => by
    obtain ⟨-, -, -, -, -, -, hsame⟩ := hms m hm
    rw [hhead, hfirst, headPos, mmasOf_single (hclean m hm).queue]
    simpa [hfirst] using hsame
  have hready : s.quadReady t = true := by
    simp only [State.quadReady, ← hquad]
    simp only [List.length_map, hlen, beq_self_eq_true, Bool.true_and, Bool.and_eq_true, List.all_map, List.all_eq_true]
    exact ⟨by simp [hhead, hfirst], fun m hm => by simp [hpos m hm]⟩
  have hheads : s.quadHeads t = ms := by
    rw [State.quadHeads, ← hquad, List.filterMap_map]
    refine (List.filterMap_congr fun m hm => ?_).trans List.filterMap_some
    simp [mmasOf_single (hclean m hm).queue]
  simp only [State.meet, hk, hready, hheads, if_true, hjoint]

end

/-- Proves O30: the meeting computes every member's columns from the strands as they stand before it and only then writes them, member by
member; block by block the engine's sums are the rule's, and the 32 accumulators of a member are distinct registers. -/
theorem mmaMeetAddsTheProductsInEveryMember : Obligations.MmaMeetAddsTheProductsInEveryMember := by
  unfold Obligations.MmaMeetAddsTheProductsInEveryMember
  intro s k cls t ms hk _ hhead h
  obtain ⟨-, hkeys, -⟩ := id h
  obtain ⟨hin, hout⟩ := strand_foldl_setStrand (fun m => m.1) (metAs s cls ms) ms hkeys s
  refine ⟨_, congrArg Host.Outcome.next (meet_eq hk hhead h), mem_foldl_setStrand _ _ _ _, hout, fun m hm => ⟨_, hin m hm, ?_⟩⟩
  have hq := (clean_of_oneClassQuad h m hm).queue
  have hbad := (clean_of_oneClassQuad h m hm).bad
  refine ⟨?_, ?_, ?_, ?_, ?_⟩
  · rw [metAs, metStrand_eq hq hbad]
  · intro l n hl hn
    rw [metAs, getV_metStrand hq hbad, lane_putColumns _ _ _ hn hl]
    by_cases hx : m.2.2.exec.getLsbD l = true
    · rw [if_pos hx, if_pos hx, lane_results h hm hl hn hx]
    · rw [if_neg hx, if_neg hx]
  · intro r hr
    rw [metAs, getV_metStrand hq hbad, getV_putColumns_ne _ _ _ hr]
  · rw [metAs, metStrand_eq hq hbad]
  · rw [metAs, metStrand_eq hq hbad, any_results h hm]

end Sys2Proof.Proofs
end

/-! ### The two streams: encoding and decoding (spec/05 R136 to R151) -/
section
namespace Sys2Proof.Proofs
open Sys2Proof Sys2Proof.Machine Sys2Proof.Rules

/-! #### The fields of the words that the encoder builds -/

section
variable {m s d a b x y z p fs off lo n r : Nat}

theorem reads_s3 (hm : m < 64) (hd : d < 512) (ha : a < 512) (hb : b < 256) :
    fld (s3 m d a b) 26 6 = m ∧ fld (s3 m d a b) 17 9 = d ∧ fld (s3 m d a b) 8 9 = a ∧ fld (s3 m d a b) 0 8 = b := by
  simp only [fld, s3]
  omega

/-- A shift's amount takes five of the low eight bits (R158). -/
theorem reads_s3_shift (hb : b < 32) : fld (s3 m d a b) 0 5 = b ∧ fld (s3 m d a b) 5 3 = 0 := by
  simp only [fld, s3]
  omega

theorem reads_sd (hm : m < 64) (hd : d < 512) (hr : r < 2 ^ 17) :
    fld (sd m d r) 26 6 = m ∧ fld (sd m d r) 17 9 = d ∧ fld (sd m d r) 0 17 = r := by
  simp only [fld, sd]
  omega

/-- The words that name a register pair, a flag and an offset (R161). -/
theorem reads_pfo (hm : m < 64) (hd : d < 512) (hp : p < 256) (hf : fs < 2) (ho : off < 256) :
    fld (sd m d (pfo p fs off)) 26 6 = m ∧ fld (sd m d (pfo p fs off)) 17 9 = d ∧ fld (sd m d (pfo p fs off)) 9 8 = p ∧
      fld (sd m d (pfo p fs off)) 8 1 = fs ∧ fld (sd m d (pfo p fs off)) 0 8 = off ∧ fld (sd m d (pfo p fs off)) 0 9 = fs * 2 ^ 8 + off := by
  simp only [fld, sd, pfo]
  omega

/-- ATOMS has three fields in its offset (R162). -/
theorem reads_atomsEnc {opc ord scope : Nat} (ho : opc < 8) (hr : ord < 4) (hs : scope < 8) :
    fld (sd m d (pfo p fs (atomsEnc opc ord scope))) 5 3 = opc ∧ fld (sd m d (pfo p fs (atomsEnc opc ord scope))) 3 2 = ord ∧
      fld (sd m d (pfo p fs (atomsEnc opc ord scope))) 0 3 = scope := by
  simp only [fld, sd, pfo, atomsEnc]
  omega

theorem atomsEnc_lt {opc ord scope : Nat} (ho : opc < 8) (hr : ord < 4) (hs : scope < 8) : atomsEnc opc ord scope < 256 := by
  simp only [atomsEnc]
  omega

/-- The words of a sub-op: a nine-bit field and eleven bits below it (R148). -/
theorem reads_sxi (hm : m < 64) (hs : s < 64) (hx : x < 512) (hr : r < 2048) :
    fld (sxi m s x r) 26 6 = m ∧ fld (sxi m s x r) 20 6 = s ∧ fld (sxi m s x r) 11 9 = x := by
  simp only [fld, sxi]
  omega

theorem reads_sxi_low (h : lo + n ≤ 11) : fld (sxi m s x r) lo n = fld r lo n := by
  rw [show sxi m s x r = (m * 2 ^ 15 + s * 2 ^ 9 + x) * 2 ^ 11 + r by simp only [sxi]; ring, fld_below h]

/-- The words of a sub-op with two nine-bit fields and two bits (R148). -/
theorem reads_sxr (hm : m < 64) (hs : s < 64) (hx : x < 512) (hy : y < 512) (hz : z < 4) :
    fld (sxr m s x y z) 26 6 = m ∧ fld (sxr m s x y z) 20 6 = s ∧ fld (sxr m s x y z) 11 9 = x ∧ fld (sxr m s x y z) 2 9 = y ∧
      fld (sxr m s x y z) 0 2 = z ∧ fld (sxr m s x y z) 0 11 = y * 2 ^ 2 + z ∧
      fld (sxr m s x y z) 0 20 = x * 2 ^ 11 + y * 2 ^ 2 + z := by
  simp only [fld, sxr]
  omega

/-- A shuttle command's flag takes one of the two low bits (R186). -/
theorem reads_sxr_flag (hz : z < 2) : fld (sxr m s x y z) 0 1 = z ∧ fld (sxr m s x y z) 1 1 = 0 := by
  simp only [fld, sxr]
  omega

theorem reads_hl (hx : x < 2 ^ 16) (hy : y < 2 ^ 16) : fld (hl x y) 16 16 = x ∧ fld (hl x y) 0 16 = y := by
  simp only [fld, hl]
  omega

theorem reads_headerEnc {wm sa sb nl ns : Nat} (hw : wm < 4096) (ha : sa < 16) (hb : sb < 16) (hl : nl < 8) (hs : ns < 8) :
    fld (headerEnc wm sa sb nl ns) 26 6 = 63 ∧ fld (headerEnc wm sa sb nl ns) 14 12 = wm ∧ fld (headerEnc wm sa sb nl ns) 10 4 = sa ∧
      fld (headerEnc wm sa sb nl ns) 6 4 = sb ∧ fld (headerEnc wm sa sb nl ns) 3 3 = nl ∧ fld (headerEnc wm sa sb nl ns) 0 3 = ns := by
  simp only [fld, headerEnc]
  omega

theorem reads_loopEnc {l c g t i k : Nat} (hl : l < 4) (hc : c < 512) (hg : g < 8) (ht : t < 2) (hi : i < 2) (hk : k < 256) :
    fld (loopEnc l c g t i k) 26 6 = 45 ∧ fld (loopEnc l c g t i k) 24 2 = l ∧ fld (loopEnc l c g t i k) 15 9 = c ∧
      fld (loopEnc l c g t i k) 12 3 = g ∧ fld (loopEnc l c g t i k) 11 1 = t ∧ fld (loopEnc l c g t i k) 10 1 = i ∧
      fld (loopEnc l c g t i k) 8 2 = 0 ∧ fld (loopEnc l c g t i k) 0 8 = k := by
  simp only [fld, loopEnc]
  omega

theorem reads_waitpEnc {i : Nat} (hp : p < 8) (hi : i < 2) (hn : n < 1024) :
    fld (waitpEnc p i n) 26 6 = 47 ∧ fld (waitpEnc p i n) 23 3 = p ∧ fld (waitpEnc p i n) 22 1 = i ∧ fld (waitpEnc p i n) 10 12 = 0 ∧
      fld (waitpEnc p i n) 0 10 = n := by
  simp only [fld, waitpEnc]
  omega

theorem reads_fence (hx : x < 4) (hy : y < 8) :
    fld (48 * 2 ^ 26 + x * 2 ^ 24 + y * 2 ^ 21) 26 6 = 48 ∧ fld (48 * 2 ^ 26 + x * 2 ^ 24 + y * 2 ^ 21) 24 2 = x ∧
      fld (48 * 2 ^ 26 + x * 2 ^ 24 + y * 2 ^ 21) 21 3 = y ∧ fld (48 * 2 ^ 26 + x * 2 ^ 24 + y * 2 ^ 21) 0 21 = 0 := by
  simp only [fld]
  omega

/-- The fields of a lane instruction's 96 bits (R141). -/
theorem reads_lane {f : LaneF} {op : Nat} (ho : op < 256) (hf : f.inRange = true) :
    fld (op * 2 ^ 88 + f.enc) 88 8 = op ∧ laneFields (op * 2 ^ 88 + f.enc) = f := by
  obtain ⟨vd, va, vb, vc, stg, flag, bsrc, rnd, sub, mod, imm⟩ := f
  simp only [LaneF.inRange, Bool.and_eq_true, decide_eq_true_eq] at hf
  simp only [laneFields, LaneF.enc, fld, LaneF.mk.injEq]
  omega

/-- CLASP_REG's handle and BOLT bit (R177). -/
theorem reads_claspReg {h bolt : Nat} (hh : h < 16) (hb : bolt < 2) :
    fld (h + bolt * 2 ^ 4) 0 4 = h ∧ fld (h + bolt * 2 ^ 4) 4 1 = bolt ∧ fld (h + bolt * 2 ^ 4) 5 6 = 0 := by
  simp only [fld]
  omega

/-- WEAVE_ATTACH's coordinate and role (R178). -/
theorem reads_attach {coord role : Nat} (hc : coord < 512) (hr : role < 4) :
    fld (coord + role * 2 ^ 9) 0 9 = coord ∧ fld (coord + role * 2 ^ 9) 9 2 = role := by
  simp only [fld]
  omega

/-- Nothing stands above a field that the value fits. -/
theorem fld_above_lt (h : r < 2 ^ lo) : fld r lo n = 0 := by
  rw [fld, Nat.div_eq_of_lt h, Nat.zero_mod]

end

/-! #### The bounds that a well-formed operand keeps -/

section
variable {r : Nat}

theorem isReg_iff : isReg r = true ↔ r < 384 := by simp [isReg]
theorem isPair_iff : isPair r = true ↔ r < 384 ∧ r % 2 = 0 := by simp [isPair]
theorem isQuad_iff : isQuad r = true ↔ r < 384 ∧ r % 4 = 0 := by simp [isQuad]
theorem isSave_iff : isSave r = true ↔ r ≤ 372 ∧ r % 4 = 0 := by simp [isSave]
theorem isMaskOp_iff {z : Nat} : isMaskOp r z = true ↔ z = 0 ∧ r < 384 ∧ r % 4 = 0 ∨ (z = 1 ∨ z = 2) ∧ r = 0 := by simp [isMaskOp, isQuad]
theorem isSpr_iff : isSpr r = true ↔ r ≤ 0x0E ∨ 0x10 ≤ r ∧ r ≤ 0x15 ∨ 0x20 ≤ r ∧ r < 0x60 := by simp [isSpr, or_assoc]
theorem isSprW_iff : isSprW r = true ↔ r ≤ 3 ∨ 8 ≤ r ∧ r ≤ 0x0C ∨ r = 0x0E := by simp [isSprW, or_assoc]
theorem isCoord_iff : isCoord r = true ↔ r < 2 ∨ 256 ≤ r ∧ r < 512 := by simp [isCoord]
theorem isFlagSel_iff : isFlagSel r = true ↔ r ≤ 11 ∨ r = 15 := by simp [isFlagSel]

end

/-! #### Decoding an encoding (R137, R141, R147, R148, R151) -/

section
variable {i : Instr} {f : LaneF} {op w : Nat}

theorem decodeLane_of_laneOp (hop : laneOp (fld w 88 8) (laneFields w) = some i) (hwf : i.wf = true) : decodeLane w = .ok i := by
  rw [decodeLane, hop]
  exact accept_of_wf hwf

/-- The bits of a lane instruction decode to it. -/
theorem decodeLane_enc (hop : laneOp op f = some i) (ho : op < 256) (hf : f.inRange = true) (hwf : i.wf = true) :
    decodeLane (op * 2 ^ 88 + f.enc) = .ok i := by
  obtain ⟨hread, hfields⟩ := reads_lane ho hf
  exact decodeLane_of_laneOp (by rw [hread, hfields, hop]) hwf

end


section
variable {w w2 : Nat}

/-- The majors that have sub-ops (R148). -/
theorem decodeScalar_subOps :
    (fld w 26 6 = 31 → decodeScalar w w2 = decodeBit w) ∧ (fld w 26 6 = 43 → decodeScalar w w2 = decodeJx w) ∧
    (fld w 26 6 = 44 → decodeScalar w w2 = decodeMsk w w2) ∧ (fld w 26 6 = 46 → decodeScalar w w2 = decodeLctl w) ∧
    (fld w 26 6 = 49 → decodeScalar w w2 = decodeClasp w) ∧ (fld w 26 6 = 50 → decodeScalar w w2 = decodeWeave w) ∧
    (fld w 26 6 = 52 → decodeScalar w w2 = decodeSpr w) ∧ (fld w 26 6 = 53 → decodeScalar w w2 = decodeSys w) ∧
    (fld w 26 6 = 54 → decodeScalar w w2 = decodeSht w) ∧ (fld w 26 6 = 55 → decodeScalar w w2 = decodeTx w w2) := by
  refine ⟨?_, ?_, ?_, ?_, ?_, ?_, ?_, ?_, ?_, ?_⟩ <;> exact fun h => by rw [decodeScalar, h]; rfl

end

section
variable {m s d a b x y z r w2 : Nat} {i : Instr}

/-- A three-operand word decodes as its major's arm says (R157, R158). -/
theorem decodeScalar_s3 {c : Nat → Nat → Nat → Instr}
    (arm : ∀ w, fld w 26 6 = m → decodeScalar w 0 = accept (c (fld w 17 9) (fld w 8 9) (fld w 0 8)) true)
    (hm : m < 64) (hd : d < 512) (ha : a < 512) (hb : b < 256) (hwf : (c d a b).wf = true) : decodeScalar (s3 m d a b) 0 = .ok (c d a b) := by
  obtain ⟨hmajor, hfd, hfa, hfb⟩ := reads_s3 hm hd ha hb
  rw [arm _ hmajor, hfd, hfa, hfb, accept_of_wf hwf]

/-- What every word with a sub-op's fields decodes to, the encoder's word decodes to (R148). -/
theorem decodeScalar_sxr
    (h : ∀ w, fld w 26 6 = m → fld w 20 6 = s → fld w 11 9 = x → fld w 2 9 = y → fld w 0 2 = z → fld w 0 11 = y * 2 ^ 2 + z →
      fld w 0 20 = x * 2 ^ 11 + y * 2 ^ 2 + z → decodeScalar w w2 = .ok i)
    (hm : m < 64) (hs : s < 64) (hx : x < 512) (hy : y < 512) (hz : z < 4) : decodeScalar (sxr m s x y z) w2 = .ok i := by
  obtain ⟨hmajor, hsub, hfx, hfy, hfz, hlow, hall⟩ := reads_sxr hm hs hx hy hz
  exact h _ hmajor hsub hfx hfy hfz hlow hall

theorem decodeScalar_sxi
    (h : ∀ w, fld w 26 6 = m → fld w 20 6 = s → fld w 11 9 = x → (∀ lo n, lo + n ≤ 11 → fld w lo n = fld r lo n) → decodeScalar w w2 = .ok i)
    (hm : m < 64) (hs : s < 64) (hx : x < 512) (hr : r < 2048) : decodeScalar (sxi m s x r) w2 = .ok i := by
  obtain ⟨hmajor, hsub, hfx⟩ := reads_sxi hm hs hx hr
  exact h _ hmajor hsub hfx fun lo n => reads_sxi_low

end

/-- The fields of a scalar word are read back as they were written, format by format. -/
theorem decode_of_encode_one {i : Instr} {w : Nat} (hwf : i.wf = true) (he : encode i = some (.one w)) : decodeScalar w 0 = .ok i := by
  have hb := hwf
  cases i with
  | clauseHeader wm sa sb nl ns =>
    cases he
    simp only [Instr.wf, isFlagSel_iff, Bool.and_eq_true, decide_eq_true_eq] at hb
    simp (disch := omega) only [decodeScalar, reads_headerEnc]
    exact accept_of_wf hwf
  | add d a b | sub d a b | mul d a b | mulh d a b | mulhu d a b | and d a b | or d a b | xor d a b | andn d a b | shl d a b | shr d a b
  | sar d a b | min d a b | max d a b | minu d a b | maxu d a b | seq d a b | sne d a b | slt d a b | sltu d a b
  | addi d a b | andi d a b | ori d a b | xori d a b | slti d a b =>
    cases he
    simp only [Instr.wf, isReg_iff, Bool.and_eq_true, decide_eq_true_eq] at hb
    exact decodeScalar_s3 (fun w h => by rw [decodeScalar, h]; rfl) (by decide) (by omega) (by omega) (by omega) hwf
  | shli d a b | shri d a b | sari d a b =>
    cases he
    simp only [Instr.wf, isReg_iff, Bool.and_eq_true, decide_eq_true_eq] at hb
    simp (disch := omega) only [decodeScalar, reads_s3, reads_s3_shift]
    exact accept_of_wf hwf
  | movi d b | movhi d b =>
    cases he
    simp only [Instr.wf, isReg_iff, Bool.and_eq_true, decide_eq_true_eq] at hb
    simp (disch := omega) only [decodeScalar, reads_sd]
    exact accept_of_wf hwf
  | lds d p fs off | lds2 d p fs off | lds4 d p fs off | sts d p fs off | sts2 d p fs off | launch d p =>
    cases he
    simp only [Instr.wf, isReg_iff, isPair_iff, isQuad_iff, Bool.and_eq_true, decide_eq_true_eq] at hb
    simp (disch := omega) only [decodeScalar, reads_pfo]
    exact accept_of_wf hwf
  | atoms d p fs opc ord scope =>
    cases he
    simp only [Instr.wf, isReg_iff, Bool.and_eq_true, decide_eq_true_eq] at hb
    have hlow : atomsEnc opc ord scope < 256 := atomsEnc_lt (by omega) (by omega) (by omega)
    simp (disch := omega) only [decodeScalar, reads_pfo, reads_atomsEnc]
    exact accept_of_wf hwf
  | waitp path imm n =>
    cases he
    simp only [Instr.wf, isReg_iff, Bool.and_eq_true, Bool.or_eq_true, decide_eq_true_eq, beq_iff_eq] at hb
    simp (disch := omega) only [decodeScalar, reads_waitpEnc]
    exact accept_of_wf hwf
  | fence kind scope =>
    cases he
    simp only [Instr.wf, Bool.and_eq_true, decide_eq_true_eq] at hb
    simp (disch := omega) only [decodeScalar, reads_fence]
    exact accept_of_wf hwf
  | popc x y | clz x y | ctz x y | brev x y | bfi x y | mov x y | not x y | sext8 x y | sext16 x y
  | ret | calli x y | jmpi x y | callv x y | jmpv x y
  | mjoin y | mset y z | mget x y z | mand x y z | mor x y z | mnot x y z | mpopc x y z
  | lexit x | lbrk | skput x y z | ldepth x | detach x | yieldq x | count x | grow x z | shrink x z | who x y z
  | sget x y | sset x y | rft | exit | csrr x y | csrw x y | go x | cancel x | repeatGo x | tend x =>
    cases he
    simp only [Instr.wf, isReg_iff, isPair_iff, isQuad_iff, isSave_iff, isMaskOp_iff, isSpr_iff, isSprW_iff, Bool.and_eq_true, Bool.or_eq_true,
      decide_eq_true_eq, beq_iff_eq] at hb
    refine decodeScalar_sxr (fun w hm hs hx hy hz hlow hall => ?_) (by omega) (by omega) (by omega) (by omega) (by omega)
    simp only [decodeScalar_subOps, hm, decodeBit, decodeJx, decodeMsk, decodeLctl, decodeWeave, decodeSpr, decodeSys, decodeTx,
      hs, hx, hy, hz, hlow, hall]
    exact accept_of_wf hwf
  | shtCopyin x y z | shtCopyout x y z | shtGather x y z | shtStash x y z | shtUnstash x y z | shtFill x y z =>
    cases he
    simp only [Instr.wf, isReg_iff, isPair_iff, isQuad_iff, Bool.and_eq_true, decide_eq_true_eq] at hb
    simp (disch := omega) only [decodeScalar, decodeSht, reads_sxr, reads_sxr_flag]
    exact accept_of_wf hwf
  | bfe x r | rotset x r | trap r | bkpt r | prog r | tabort r
  | claspInit x r | claspArrive x r | claspArrivetx x r | claspWait x r | claspTest x r | claspInval r | claspUnreg r =>
    cases he
    simp only [Instr.wf, isReg_iff, Bool.and_eq_true, decide_eq_true_eq] at hb
    refine decodeScalar_sxi (fun w hm hs hx hlow => ?_) (by omega) (by omega) (by omega) (by omega)
    simp (disch := omega) only [decodeScalar_subOps, decodeBit, decodeLctl, decodeClasp, decodeSys, decodeTx, hs, hx, hlow, fld_zero_of_lt,
      fld_above_lt]
    exact accept_of_wf hwf
  | claspReg x r bolt | attach x r bolt =>
    cases he
    simp only [Instr.wf, isReg_iff, isPair_iff, isQuad_iff, isCoord_iff, Bool.and_eq_true, Bool.or_eq_true, decide_eq_true_eq, beq_iff_eq] at hb
    refine decodeScalar_sxi (fun w hm hs hx hlow => ?_) (by omega) (by omega) (by omega) (by omega)
    simp (disch := omega) only [decodeScalar_subOps, decodeClasp, decodeWeave, hs, hx, hlow, reads_claspReg, reads_attach]
    exact accept_of_wf hwf
  | _ => cases he

/-- The same of the words that announce an operand word (R138). -/
theorem decode_of_encode_two {i : Instr} {w w2 : Nat} (hwf : i.wf = true) (he : encode i = some (.two w w2)) : decodeScalar w w2 = .ok i := by
  have hb := hwf
  cases i with
  | bra soff loff | bz r soff loff | bnz r soff loff | bexz soff loff | call soff loff =>
    cases he
    simp only [Instr.wf, isReg_iff, Bool.and_eq_true, decide_eq_true_eq] at hb
    simp (disch := omega) only [decodeScalar, reads_sd, fld_zero_of_lt]
    exact accept_of_wf hwf
  | msplit x y soff loff | tbegin soff loff | tserial soff loff =>
    cases he
    simp only [Instr.wf, isQuad_iff, isSave_iff, Bool.and_eq_true, decide_eq_true_eq] at hb
    refine decodeScalar_sxr (fun w hm hs hx hy hz hlow hall => ?_) (by omega) (by omega) (by omega) (by omega) (by omega)
    simp (disch := omega) only [decodeScalar_subOps, decodeMsk, decodeTx, hs, hx, hy, hz, hall, reads_hl]
    exact accept_of_wf hwf
  | loop lvl cnt nstg rot item ireg send llen =>
    cases he
    simp only [Instr.wf, isReg_iff, Bool.and_eq_true, decide_eq_true_eq] at hb
    simp (disch := omega) only [decodeScalar, reads_loopEnc, reads_hl]
    exact accept_of_wf hwf
  | _ => cases he

open Sys2Proof.Laws.Fits in
/-- The bits of a lane instruction name its OP and hold its fields within their widths (R141). -/
theorem laneOp_of_encode {i : Instr} {w : Nat} (he : encode i = some (.lane w)) :
    ∃ op f, op < 256 ∧ encode i = laneEnc op f ∧ laneOp op f = some i ∧ (i.wf = true → f.inRange = true) := by
  cases i with
  | iadd f | isub f | imul f | imulh f | imad f | imadw f | iand f | ior f | ixor f | tern f | shlL f | shrL f | sarL f | shf f | imin f
  | imax f | iabs f | popcL f | clzL f | brevL f | bfeL f | bfiL f | prmt f | movL f | laneId f | fadd f | fmul f | ffma f | fmin f
  | fmax f | frnd f | fscl f | hadd2 f | hmul2 f | hfma2 f | rcp f | rsq f | sqrt f | exp2 f | log2 f | sin f | cos f | tanh f | shfl f
  | scan f => exact ⟨_, f, by decide, rfl, rfl, arith_range⟩
  | icmp f | sel f | iaddc f | fcmp f | ballot f | redl f | vote f => exact ⟨_, f, by decide, rfl, rfl, fun h => arith_range (left h)⟩
  | cvt f => exact ⟨_, f, by decide, rfl, rfl, cvtOk_range⟩
  | pack8 f | pack4 f | unpk f => exact ⟨_, f, by decide, rfl, rfl, packOk_range⟩
  | dot8 f | dot4 f | idot4 f | idot8 f | doth2 f => exact ⟨_, f, by decide, rfl, rfl, dotOk_range⟩
  | v2s f => exact ⟨_, f, by decide, rfl, rfl, v2sOk_range⟩
  | ld f | ldsc f | ldwn f => exact ⟨_, f, by decide, rfl, rfl, loadOk_range⟩
  | st f | stsc f | stwn f => exact ⟨_, f, by decide, rfl, rfl, storeOk_range⟩
  | atom f | atomsc f => exact ⟨_, f, by decide, rfl, rfl, atomOk_range⟩
  | red f => exact ⟨_, f, by decide, rfl, rfl, redOk_range⟩
  | pref f => exact ⟨_, f, by decide, rfl, rfl, prefOk_range⟩
  | mma f => exact ⟨_, f, by decide, rfl, rfl, mmaOk_range⟩
  | mopf f | mbatch f | mzero f | lnop f => exact ⟨_, f, by decide, rfl, rfl, bareOk_range⟩
  | mstore f => exact ⟨_, f, by decide, rfl, rfl, mstoreOk_range⟩
  | _ => cases he

theorem decode_of_encode_lane {i : Instr} {w : Nat} (hwf : i.wf = true) (he : encode i = some (.lane w)) : decodeLane w = .ok i := by
  obtain ⟨op, f, hop, henc, hlane, hrange⟩ := laneOp_of_encode he
  cases henc.symm.trans he
  exact decodeLane_enc hlane hop (hrange hwf) hwf

/-- Settles O40: the fields of every format are read back as they were written. -/
theorem decodingAnEncodingGivesTheInstructionBack : Obligations.DecodingAnEncodingGivesTheInstructionBack := by
  unfold Obligations.DecodingAnEncodingGivesTheInstructionBack
  intro i e hwf he
  cases e with
  | one w => exact decode_of_encode_one hwf he
  | two w w2 => exact decode_of_encode_two hwf he
  | lane w => exact decode_of_encode_lane hwf he

/-! #### A word is the encoder's word of its fields (R3, R137, R147, R148) -/

section
variable {w m s : Nat}

theorem word_s3 (hw : w < 2 ^ 32) (hm : fld w 26 6 = m) : s3 m (fld w 17 9) (fld w 8 9) (fld w 0 8) = w := by
  simp only [s3, fld] at *
  omega

theorem word_shift (hw : w < 2 ^ 32) (hm : fld w 26 6 = m) (hz : (fld w 5 3 == 0) = true) :
    s3 m (fld w 17 9) (fld w 8 9) (fld w 0 5) = w := by
  simp only [s3, fld, beq_iff_eq] at *
  omega

theorem word_sd (hw : w < 2 ^ 32) (hm : fld w 26 6 = m) : sd m (fld w 17 9) (fld w 0 17) = w := by
  simp only [sd, fld] at *
  omega

theorem word_branch (hw : w < 2 ^ 32) (hm : fld w 26 6 = m) (hz : (fld w 17 9 == 0) = true) : sd m 0 (fld w 0 17) = w :=
  (eq_of_beq hz) ▸ word_sd hw hm

theorem pfo_fields (w : Nat) : pfo (fld w 9 8) (fld w 8 1) (fld w 0 8) = fld w 0 17 := by
  simp only [pfo, fld]
  omega

theorem atomsEnc_fields (w : Nat) : atomsEnc (fld w 5 3) (fld w 3 2) (fld w 0 3) = fld w 0 8 := by
  simp only [atomsEnc, fld]
  omega

theorem word_pfo (hw : w < 2 ^ 32) (hm : fld w 26 6 = m) : sd m (fld w 17 9) (pfo (fld w 9 8) (fld w 8 1) (fld w 0 8)) = w := by
  rw [pfo_fields, word_sd hw hm]

theorem word_atoms (hw : w < 2 ^ 32) (hm : fld w 26 6 = m) :
    sd m (fld w 17 9) (pfo (fld w 9 8) (fld w 8 1) (atomsEnc (fld w 5 3) (fld w 3 2) (fld w 0 3))) = w := by
  rw [atomsEnc_fields, word_pfo hw hm]

theorem word_launch (hw : w < 2 ^ 32) (hm : fld w 26 6 = m) (hz : (fld w 0 9 == 0) = true) : sd m (fld w 17 9) (pfo (fld w 9 8) 0 0) = w := by
  simp only [sd, pfo, fld, beq_iff_eq] at *
  omega

theorem word_header (hw : w < 2 ^ 32) (hm : fld w 26 6 = 63) :
    headerEnc (fld w 14 12) (fld w 10 4) (fld w 6 4) (fld w 3 3) (fld w 0 3) = w := by
  simp only [headerEnc, fld] at *
  omega

theorem word_loop (hw : w < 2 ^ 32) (hm : fld w 26 6 = 45) (hz : (fld w 8 2 == 0) = true) :
    loopEnc (fld w 24 2) (fld w 15 9) (fld w 12 3) (fld w 11 1) (fld w 10 1) (fld w 0 8) = w := by
  simp only [loopEnc, fld, beq_iff_eq] at *
  omega

theorem word_waitp (hw : w < 2 ^ 32) (hm : fld w 26 6 = 47) (hz : (fld w 10 12 == 0) = true) :
    waitpEnc (fld w 23 3) (fld w 22 1) (fld w 0 10) = w := by
  simp only [waitpEnc, fld, beq_iff_eq] at *
  omega

theorem word_fence (hw : w < 2 ^ 32) (hm : fld w 26 6 = 48) (hz : (fld w 0 21 == 0) = true) :
    48 * 2 ^ 26 + fld w 24 2 * 2 ^ 24 + fld w 21 3 * 2 ^ 21 = w := by
  simp only [fld, beq_iff_eq] at *
  omega

theorem hl_fields (hw : w < 2 ^ 32) : hl (fld w 16 16) (fld w 0 16) = w := by
  simp only [hl, fld]
  omega

/-! The words of the sub-ops, by the fields that they use: any other is zero. -/

variable (hw : w < 2 ^ 32) (hm : fld w 26 6 = m) (hs : fld w 20 6 = s)
include hw hm hs

theorem word_sxi {x r : Nat} (hx : fld w 11 9 = x) (hr : fld w 0 11 = r) : sxi m s x r = w := by
  simp only [sxi, fld] at *
  omega

theorem word_sxr {x y z : Nat} (hx : fld w 11 9 = x) (hy : fld w 2 9 = y) (hz : fld w 0 2 = z) : sxr m s x y z = w := by
  simp only [sxr, fld] at *
  omega

theorem word_xy (hz : (fld w 0 2 == 0) = true) : sxr m s (fld w 11 9) (fld w 2 9) 0 = w := word_sxr hw hm hs rfl rfl (eq_of_beq hz)

theorem word_flag (hz : (fld w 1 1 == 0) = true) : sxr m s (fld w 11 9) (fld w 2 9) (fld w 0 1) = w :=
  word_sxr hw hm hs rfl rfl (by simp only [fld, beq_iff_eq] at hz ⊢; omega)

theorem word_xz (hz : (fld w 2 9 == 0) = true) : sxr m s (fld w 11 9) 0 (fld w 0 2) = w := word_sxr hw hm hs rfl (eq_of_beq hz) rfl

theorem word_yz (hz : (fld w 11 9 == 0) = true) : sxr m s 0 (fld w 2 9) (fld w 0 2) = w := word_sxr hw hm hs (eq_of_beq hz) rfl rfl

theorem word_y (hz : (fld w 11 9 == 0 && fld w 0 2 == 0) = true) : sxr m s 0 (fld w 2 9) 0 = w := by
  simp only [Bool.and_eq_true, beq_iff_eq] at hz
  exact word_sxr hw hm hs hz.1 rfl hz.2

theorem word_x (hz : (fld w 0 11 == 0) = true) : sxr m s (fld w 11 9) 0 0 = w := by
  simp only [fld, beq_iff_eq] at hz
  exact word_sxr hw hm hs rfl (by simp only [fld]; omega) (by simp only [fld]; omega)

theorem word_bare (hz : (fld w 0 20 == 0) = true) : sxr m s 0 0 0 = w := by
  simp only [fld, beq_iff_eq] at hz
  exact word_sxr hw hm hs (by simp only [fld]; omega) (by simp only [fld]; omega) (by simp only [fld]; omega)

theorem word_r (hz : (fld w 11 9 == 0) = true) : sxi m s 0 (fld w 0 11) = w := word_sxi hw hm hs (eq_of_beq hz) rfl

theorem word_byte (hz : (fld w 11 9 == 0 && fld w 8 3 == 0) = true) : sxi m s 0 (fld w 0 8) = w := by
  simp only [Bool.and_eq_true, beq_iff_eq] at hz
  exact word_sxi hw hm hs hz.1 (by simp only [fld] at hz ⊢; omega)

theorem word_handle (hz : (fld w 11 9 == 0 && fld w 4 7 == 0) = true) : sxi m s 0 (fld w 0 4) = w := by
  simp only [Bool.and_eq_true, beq_iff_eq] at hz
  exact word_sxi hw hm hs hz.1 (by simp only [fld] at hz ⊢; omega)

theorem word_xHandle (hz : (fld w 4 7 == 0) = true) : sxi m s (fld w 11 9) (fld w 0 4) = w :=
  word_sxi hw hm hs rfl (by simp only [fld, beq_iff_eq] at hz ⊢; omega)

theorem word_rotset (hz : (fld w 8 3 == 0) = true) : sxi m s (fld w 11 9) (fld w 0 8) = w :=
  word_sxi hw hm hs rfl (by simp only [fld, beq_iff_eq] at hz ⊢; omega)

theorem word_claspReg (hz : (fld w 5 6 == 0) = true) : sxi m s (fld w 11 9) (fld w 0 4 + fld w 4 1 * 2 ^ 4) = w :=
  word_sxi hw hm hs rfl (by simp only [fld, beq_iff_eq] at hz ⊢; omega)

theorem word_attach : sxi m s (fld w 11 9) (fld w 0 9 + fld w 9 2 * 2 ^ 9) = w :=
  word_sxi hw hm hs rfl (by simp only [fld]; omega)

end

/-! #### Bits that decode are spelled as the encoder spells them -/

section
variable {w w2 v v2 : Nat} {i j : Instr} {z : Bool}

/-- The word w, and w2 where w announces it, are the encoding of the well-formed instruction i. -/
def Spells (w w2 : Nat) (i : Instr) : Prop :=
  i.wf = true ∧ encode i = some (if scalarWords w = 2 then .two w w2 else .one w)

theorem spells_one (h : accept j z = .ok i) (h1 : scalarWords w = 1) (hj : encode j = some (.one v)) (hv : z = true → v = w) :
    Spells w w2 i := by
  obtain ⟨rfl, hwf, hz⟩ := accept_ok h
  exact ⟨hwf, by rw [hj, hv hz, h1, if_neg (by decide)]⟩

theorem spells_two (h : accept j z = .ok i) (h2 : scalarWords w = 2) (hj : encode j = some (.two v v2)) (hv : z = true → v = w)
    (hv2 : v2 = w2) : Spells w w2 i := by
  obtain ⟨rfl, hwf, hz⟩ := accept_ok h
  exact ⟨hwf, by rw [hj, hv hz, hv2, if_pos h2]⟩

variable (hw : w < 2 ^ 32)
include hw

theorem spells_decodeBit (hm : fld w 26 6 = 31) (h : decodeBit w = .ok i) : Spells w w2 i := by
  have h1 : scalarWords w = 1 := by simp only [scalarWords, hm]
  unfold decodeBit at h
  split at h
  case h_5 hs => exact spells_one h h1 rfl fun _ => word_sxi hw hm hs rfl rfl
  case h_11 => cases h
  all_goals
    rename_i hs
    exact spells_one h h1 rfl (word_xy hw hm hs)

theorem spells_decodeJx (hm : fld w 26 6 = 43) (h : decodeJx w = .ok i) : Spells w w2 i := by
  have h1 : scalarWords w = 1 := by simp only [scalarWords, hm]
  unfold decodeJx at h
  split at h
  case h_1 hs => exact spells_one h h1 rfl (word_bare hw hm hs)
  case h_2 hs | h_3 hs | h_4 hs | h_5 hs => exact spells_one h h1 rfl (word_xy hw hm hs)
  case h_6 => cases h

theorem spells_decodeMsk (hw2 : w2 < 2 ^ 32) (hm : fld w 26 6 = 44) (h : decodeMsk w w2 = .ok i) : Spells w w2 i := by
  unfold decodeMsk at h
  split at h
  case h_1 hs => exact spells_two h (by simp only [scalarWords, hm, hs, if_true]) rfl (word_xy hw hm hs) (hl_fields hw2)
  case h_2 hs => exact spells_one h (by simp [scalarWords, hm, hs]) rfl (word_y hw hm hs)
  case h_3 hs => exact spells_one h (by simp [scalarWords, hm, hs]) rfl (word_yz hw hm hs)
  case h_9 => cases h
  all_goals
    rename_i hs
    exact spells_one h (by simp [scalarWords, hm, hs]) rfl fun _ => word_sxr hw hm hs rfl rfl rfl

theorem spells_decodeLctl (hm : fld w 26 6 = 46) (h : decodeLctl w = .ok i) : Spells w w2 i := by
  have h1 : scalarWords w = 1 := by simp only [scalarWords, hm]
  unfold decodeLctl at h
  split at h
  case h_1 hs | h_5 hs => exact spells_one h h1 rfl (word_x hw hm hs)
  case h_2 hs => exact spells_one h h1 rfl (word_bare hw hm hs)
  case h_3 hs => exact spells_one h h1 rfl (word_rotset hw hm hs)
  case h_4 hs => exact spells_one h h1 rfl fun _ => word_sxr hw hm hs rfl rfl rfl
  case h_6 => cases h

theorem spells_decodeClasp (hm : fld w 26 6 = 49) (h : decodeClasp w = .ok i) : Spells w w2 i := by
  have h1 : scalarWords w = 1 := by simp only [scalarWords, hm]
  unfold decodeClasp at h
  split at h
  case h_1 hs | h_2 hs | h_3 hs | h_4 hs | h_5 hs => exact spells_one h h1 rfl (word_xHandle hw hm hs)
  case h_6 hs | h_8 hs => exact spells_one h h1 rfl (word_handle hw hm hs)
  case h_7 hs => exact spells_one h h1 rfl (word_claspReg hw hm hs)
  case h_9 => cases h

theorem spells_decodeWeave (hm : fld w 26 6 = 50) (h : decodeWeave w = .ok i) : Spells w w2 i := by
  have h1 : scalarWords w = 1 := by simp only [scalarWords, hm]
  unfold decodeWeave at h
  split at h
  case h_1 hs => exact spells_one h h1 rfl fun _ => word_attach hw hm hs
  case h_2 hs | h_3 hs | h_4 hs => exact spells_one h h1 rfl (word_x hw hm hs)
  case h_5 hs | h_6 hs => exact spells_one h h1 rfl (word_xz hw hm hs)
  case h_7 hs => exact spells_one h h1 rfl fun _ => word_sxr hw hm hs rfl rfl rfl
  case h_8 => cases h

theorem spells_decodeSpr (hm : fld w 26 6 = 52) (h : decodeSpr w = .ok i) : Spells w w2 i := by
  have h1 : scalarWords w = 1 := by simp only [scalarWords, hm]
  unfold decodeSpr at h
  split at h
  case h_1 hs | h_2 hs => exact spells_one h h1 rfl (word_xy hw hm hs)
  case h_3 => cases h

theorem spells_decodeSys (hm : fld w 26 6 = 53) (h : decodeSys w = .ok i) : Spells w w2 i := by
  have h1 : scalarWords w = 1 := by simp only [scalarWords, hm]
  unfold decodeSys at h
  split at h
  case h_1 hs | h_4 hs => exact spells_one h h1 rfl (word_r hw hm hs)
  case h_2 hs | h_3 hs => exact spells_one h h1 rfl (word_bare hw hm hs)
  case h_5 hs => exact spells_one h h1 rfl (word_byte hw hm hs)
  case h_6 hs | h_7 hs => exact spells_one h h1 rfl (word_xy hw hm hs)
  case h_8 hs | h_9 hs | h_10 hs => exact spells_one h h1 rfl (word_x hw hm hs)
  case h_11 => cases h

theorem spells_decodeSht (hm : fld w 26 6 = 54) (h : decodeSht w = .ok i) : Spells w w2 i := by
  have h1 : scalarWords w = 1 := by simp only [scalarWords, hm]
  unfold decodeSht at h
  split at h
  case h_7 => cases h
  all_goals
    rename_i hs
    exact spells_one h h1 rfl (word_flag hw hm hs)

theorem spells_decodeTx (hw2 : w2 < 2 ^ 32) (hm : fld w 26 6 = 55) (h : decodeTx w w2 = .ok i) : Spells w w2 i := by
  unfold decodeTx at h
  split at h
  case h_1 hs | h_4 hs => exact spells_two h (by simp [scalarWords, hm, hs]) rfl (word_bare hw hm hs) (hl_fields hw2)
  case h_2 hs => exact spells_one h (by simp [scalarWords, hm, hs]) rfl (word_x hw hm hs)
  case h_3 hs => exact spells_one h (by simp [scalarWords, hm, hs]) rfl (word_byte hw hm hs)
  case h_5 => cases h

theorem spells_decodeScalar (hw2 : w2 < 2 ^ 32) (h : decodeScalar w w2 = .ok i) : Spells w w2 i := by
  unfold decodeScalar at h
  split at h
  case h_25 hm | h_26 hm | h_27 hm => exact spells_one h (by simp only [scalarWords, hm]) rfl (word_shift hw hm)
  case h_29 hm | h_30 hm => exact spells_one h (by simp only [scalarWords, hm]) rfl fun _ => word_sd hw hm
  case h_31 hm => exact spells_decodeBit hw hm h
  case h_32 hm | h_33 hm | h_34 hm | h_35 hm | h_36 hm => exact spells_one h (by simp only [scalarWords, hm]) rfl fun _ => word_pfo hw hm
  case h_37 hm => exact spells_one h (by simp only [scalarWords, hm]) rfl fun _ => word_atoms hw hm
  case h_38 hm | h_41 hm | h_42 hm =>
    exact spells_two h (by simp only [scalarWords, hm]) rfl (word_branch hw hm) (fld_zero_of_lt hw2)
  case h_39 hm | h_40 hm =>
    exact spells_two h (by simp only [scalarWords, hm]) rfl (fun _ => word_sd hw hm) (fld_zero_of_lt hw2)
  case h_43 hm => exact spells_decodeJx hw hm h
  case h_44 hm => exact spells_decodeMsk hw hw2 hm h
  case h_45 hm => exact spells_two h (by simp only [scalarWords, hm]) rfl (word_loop hw hm) (hl_fields hw2)
  case h_46 hm => exact spells_decodeLctl hw hm h
  case h_47 hm => exact spells_one h (by simp only [scalarWords, hm]) rfl (word_waitp hw hm)
  case h_48 hm => exact spells_one h (by simp only [scalarWords, hm]) rfl (word_fence hw hm)
  case h_49 hm => exact spells_decodeClasp hw hm h
  case h_50 hm => exact spells_decodeWeave hw hm h
  case h_51 hm => exact spells_one h (by simp only [scalarWords, hm]) rfl (word_launch hw hm)
  case h_52 hm => exact spells_decodeSpr hw hm h
  case h_53 hm => exact spells_decodeSys hw hm h
  case h_54 hm => exact spells_decodeSht hw hm h
  case h_55 hm => exact spells_decodeTx hw hw2 hm h
  case h_56 hm => exact spells_one h (by simp only [scalarWords, hm]) rfl fun _ => word_header hw hm
  case h_57 => cases h
  all_goals
    rename_i hm
    exact spells_one h (by simp only [scalarWords, hm]) rfl fun _ => word_s3 hw hm

end

/-- An OP's instruction is encoded under that OP. -/
theorem encode_of_laneOp {op : Nat} {f : LaneF} {i : Instr} (h : laneOp op f = some i) : encode i = laneEnc op f := by
  unfold laneOp at h
  split at h
  case h_79 => cases h
  all_goals
    cases h
    rfl

/-- The low bits of a word are a field and the bits below it. -/
theorem fld_join (w lo n : Nat) : fld w 0 (lo + n) = fld w lo n * 2 ^ lo + fld w 0 lo := by
  simp only [fld, Nat.pow_zero, Nat.div_one]
  rw [pow_add, Nat.mod_mul, Nat.add_comm, Nat.mul_comm]

/-- A lane instruction's 96 bits are its OP and its fields (R141). -/
theorem lane_fields {w : Nat} (hw : w < 2 ^ 96) : fld w 88 8 * 2 ^ 88 + (laneFields w).enc = w :=
  calc fld w 88 8 * 2 ^ 88 + (laneFields w).enc
    _ = fld w 0 96 := by
      rw [fld_join w 88 8, fld_join w 80 8, fld_join w 72 8, fld_join w 64 8, fld_join w 56 8, fld_join w 53 3, fld_join w 52 1,
        fld_join w 50 2, fld_join w 48 2, fld_join w 40 8, fld_join w 32 8]
      simp only [laneFields, LaneF.enc, Nat.add_assoc]
    _ = w := fld_zero_of_lt hw

theorem encode_of_decodeLane {w : Nat} {i : Instr} (hw : w < 2 ^ 96) (h : decodeLane w = .ok i) :
    i.wf = true ∧ encode i = some (.lane w) := by
  unfold decodeLane at h
  split at h
  case h_1 => cases h
  case h_2 j hop =>
    obtain ⟨rfl, hwf, -⟩ := accept_ok h
    exact ⟨hwf, by rw [encode_of_laneOp hop, laneEnc, lane_fields hw]⟩

/-- Settles O41: each arm of the decoder reads every bit of its word, as a field or as a zero. -/
theorem decodableWordsAreTheirInstructionsEncoding : Obligations.DecodableWordsAreTheirInstructionsEncoding := by
  unfold Obligations.DecodableWordsAreTheirInstructionsEncoding
  exact ⟨fun _ _ _ hw hw2 h => spells_decodeScalar hw hw2 h, fun _ _ hw h => encode_of_decodeLane hw h⟩

/-! #### Unassigned majors and OPs (R147, R151) -/

theorem decodeScalar_unassigned {w w2 : Nat} (h : 56 ≤ fld w 26 6 ∧ fld w 26 6 ≤ 62 ∨ fld w 26 6 = 0) :
    decodeScalar w w2 = .error .unassigned := by
  unfold decodeScalar
  split
  case h_57 => rfl
  all_goals omega

theorem laneOp_unassigned {op : Nat} (f : LaneF) (h : op = 0 ∨ ∃ g ∈ opGaps, g.1 ≤ op ∧ op ≤ g.2) : laneOp op f = none := by
  simp only [opGaps, List.mem_cons, List.not_mem_nil, or_false, exists_eq_or_imp, exists_eq_left] at h
  unfold laneOp
  split
  case h_79 => rfl
  all_goals omega

/-- Settles O39: the words written out are closed; an unassigned major or OP is no arm of the decoder. -/
theorem wordsOfTheTablesDecodeToTheirInstructions : Obligations.WordsOfTheTablesDecodeToTheirInstructions := by
  unfold Obligations.WordsOfTheTablesDecodeToTheirInstructions
  refine ⟨rfl, rfl, rfl, rfl, rfl, rfl, rfl, rfl, rfl, rfl, rfl, rfl, rfl, rfl, rfl, fun _ _ => decodeScalar_unassigned, fun w h => ?_⟩
  rw [decodeLane, laneOp_unassigned _ h]

end Sys2Proof.Proofs
end

/-! ### SGET and SSET (spec/05 R144, spec/06 R183) -/
section
namespace Sys2Proof.Proofs
open Sys2Proof Sys2Proof.Machine Sys2Proof.Rules

/-- The value that SGET's read answers is the special register's (R144). -/
theorem sprRead_fst (s : State) (t : Strand) (y : Nat) : (sprRead s t y).1 = specialRegister s t y := by
  unfold sprRead specialRegister
  split
  · rfl
  split
  · rfl
  split
  · rename_i h
    rw [show (y - 32) % 16 = y % 16 by omega]
  split
  case h_3 => exact BitVec.eq_of_toNat_eq (by simp)
  case h_8 => exact BitVec.eq_of_toNat_eq (by simp [hiW, Nat.shiftRight_eq_div_pow])
  case h_10 => cases s.weave? t.weave <;> rfl
  all_goals rfl

/-- SGET's read changes the latched time alone, and only at clk.lo. -/
theorem sprRead_snd (s : State) (t : Strand) (y : Nat) :
    (sprRead s t y).2 = { t with clk := if y = 0x10 then BitVec.ofNat 64 s.time else t.clk } := by
  by_cases h : y = 0x10
  · subst h
    rfl
  · rw [if_neg h]
    unfold sprRead
    split
    · rfl
    split
    · rfl
    split
    · rfl
    split
    case h_7 => contradiction
    all_goals rfl

theorem clk_advance (t : Strand) (n : Nat) : (t.advance n).clk = t.clk :=
  (congrArg Strand.clk (t.besidesPlace_advance n) : (t.advance n).besidesPlace.clk = t.besidesPlace.clk)

theorem sgetReturnsTheSpecialRegister : SgetReturnsTheSpecialRegister := by
  intro s t x y hr _
  refine ⟨_, State.run_of_runs hr _, ?_, ?_, ?_, ?_, State.sameMemory_setCur _ _⟩
  · rw [Strand.getS_advance, Strand.getS_setS, sprRead_fst]
  · intro r hne
    rw [Strand.getS_advance, Strand.setS_sameScalars _ _ _ r hne, sprRead_snd]
    rfl
  · rw [Strand.besidesScalars_advance, Strand.besidesScalars_setS, sprRead_snd]
    rfl
  · rw [clk_advance, Strand.setS_clk, sprRead_snd]

theorem sprWritable_eq (y : Nat) : sprWritable y = isSprW y := by
  simp [sprWritable, isSprW, Nat.lt_succ_iff]

theorem besidesNotes_noteSpr (t : Strand) (y : Nat) (v : Word) : (t.noteSpr y v).besidesNotes = t.besidesNotes := rfl

/-- A new region pointer restarts the crossing count, a note of the detector (R54). -/
theorem besidesNotes_setRegion (t : Strand) (w : Word) : (t.setRegion w).besidesNotes = { t with region := w }.besidesNotes := by
  unfold Strand.setRegion
  split
  · rename_i h
    rw [← h]
  · rfl

/-- A mask of the low n bits keeps the value modulo 2 ^ n. -/
theorem and_lowBits (v : Word) (n : Nat) : v &&& BitVec.ofNat 32 (2 ^ n - 1) = BitVec.ofNat 32 (v.toNat % 2 ^ n) := by
  rw [← Nat.and_two_pow_sub_one_eq_mod, BitVec.ofNat_and, BitVec.ofNat_toNat, BitVec.setWidth_eq]

/-- Bit 0 of status is cleared by a 1, and kept by a 0 (R183). -/
theorem status_cleared (st v : Word) : st &&& ~~~ (v &&& 1#32) = if v.getLsbD 0 then st &&& 0xFFFFFFFE#32 else st := by
  rw [BitVec.and_one_eq_setWidth_ofBool_getLsbD]
  cases v.getLsbD 0
  · exact BitVec.and_allOnes
  · rfl

/-- SSET's write is the rule of its register (R183, R3, R126). -/
theorem besidesNotes_sprWrite (t : Strand) (y : Nat) (v : Word) : (sprWrite t y v).besidesNotes = (afterSset t y v).besidesNotes := by
  unfold sprWrite
  split
  · obtain rfl | rfl | rfl | rfl : y = 0 ∨ y = 1 ∨ y = 2 ∨ y = 3 := by omega
    all_goals rfl
  · split
    case h_2 => exact congrArg (fun r => Strand.besidesNotes { t with rot := r }) (and_lowBits v 23)
    case h_3 => rfl
    case h_4 => rw [besidesNotes_setRegion]; exact congrArg (fun r => Strand.besidesNotes { t with region := r }) (and_lowBits v 10)
    case h_5 => exact congrArg (fun r => Strand.besidesNotes { t with status := r }) (status_cleared t.status v)
    case h_7 =>
      unfold afterSset
      split
      case h_1 | h_2 | h_3 | h_4 => omega
      case h_11 => rfl
      all_goals contradiction
    all_goals rfl

theorem ssetWritesTheSpecialRegisterUnderItsRule : SsetWritesTheSpecialRegisterUnderItsRule := by
  intro s t x y hr _
  have hexec : exec (.sset x y) s = _ := State.run_of_runs hr _
  constructor
  · intro hy
    rw [hexec, if_pos ((sprWritable_eq y).trans hy)]
    exact ⟨_, rfl, by rw [Strand.besidesNotes_advance, besidesNotes_noteSpr, besidesNotes_sprWrite], State.sameMemory_setCur _ _⟩
  · intro hy
    rw [hexec, if_neg (by simp [sprWritable_eq, hy])]

/-- Settles O8: SGET's read and SSET's write, each against its rule register by register. -/
theorem specialRegistersAreReadAndWrittenUnderTheirRules : Obligations.SpecialRegistersAreReadAndWrittenUnderTheirRules :=
  ⟨sgetReturnsTheSpecialRegister, ssetWritesTheSpecialRegisterUnderItsRule⟩

end Sys2Proof.Proofs
end

/-! ### Scalar arithmetic, immediates and bit operations (spec/06 R157 to R160) -/
section
namespace Sys2Proof.Proofs
open Sys2Proof Sys2Proof.Machine Sys2Proof.Rules

/-! #### The values of R157 to R160 -/

section
variable (a b : Word)

theorem addW_value : addW a b = BitVec.ofNat 32 (a.toNat + b.toNat) := by
  rw [addW, BitVec.ofNat_add, BitVec.ofNat_toNat, BitVec.ofNat_toNat, BitVec.setWidth_eq, BitVec.setWidth_eq]

theorem subW_value : subW a b = BitVec.ofInt 32 (a.toNat - b.toNat : Int) := by
  refine BitVec.eq_of_toNat_eq ?_
  simp only [subW, BitVec.toNat_sub, BitVec.toNat_ofInt]
  omega

theorem mulW_value : mulW a b = BitVec.ofNat 32 (a.toNat * b.toNat) := by
  rw [mulW, BitVec.ofNat_mul, BitVec.ofNat_toNat, BitVec.ofNat_toNat, BitVec.setWidth_eq, BitVec.setWidth_eq]

theorem mulhuW_value : mulhuW a b = BitVec.ofNat 32 (a.toNat * b.toNat / 2 ^ 32) := by
  rw [mulhuW, mulHi, intOf, intOf, if_pos rfl, if_pos rfl, ← BitVec.ofInt_natCast]
  norm_cast

theorem shiftLeft_value (n : Nat) : a <<< n = BitVec.ofNat 32 (a.toNat * 2 ^ n) := by
  refine BitVec.eq_of_toNat_eq ?_
  rw [BitVec.toNat_shiftLeft, Nat.shiftLeft_eq, BitVec.toNat_ofNat]

theorem shiftRight_value (n : Nat) : a >>> n = BitVec.ofNat 32 (a.toNat / 2 ^ n) := by
  refine BitVec.eq_of_toNat_eq ?_
  rw [BitVec.toNat_ushiftRight, Nat.shiftRight_eq_div_pow, BitVec.toNat_ofNat, Nat.mod_eq_of_lt]
  exact (Nat.div_le_self _ _).trans_lt a.isLt

theorem sshiftRight_value (n : Nat) : a.sshiftRight n = BitVec.ofInt 32 (a.toInt / 2 ^ n) := by
  rw [BitVec.sshiftRight, Int.shiftRight_eq_div_pow]
  norm_cast

/-- A shift immediate below 2^32 names its low five bits, as a register's value does. -/
theorem shiftImm_mod (imm : Nat) : (BitVec.ofNat 32 imm).toNat % 32 = imm % 32 := by
  rw [BitVec.toNat_ofNat]
  omega

theorem minW_value : minW a b = if below a b then a else b := by
  simp only [minW, ltS, below, decide_eq_true_eq]
  split <;> split
  · omega
  · rfl
  · rfl
  · exact BitVec.eq_of_toInt_eq (by omega)

theorem minuW_value : minuW a b = BitVec.ofNat 32 (Nat.min a.toNat b.toNat) := by
  refine BitVec.eq_of_toNat_eq ?_
  have hmin : Nat.min a.toNat b.toNat = min a.toNat b.toNat := rfl
  have := a.isLt
  simp only [minuW, ltU, decide_eq_true_eq, hmin, BitVec.toNat_ofNat]
  split <;> omega

theorem maxuW_value : maxuW a b = BitVec.ofNat 32 (Nat.max a.toNat b.toNat) := by
  refine BitVec.eq_of_toNat_eq ?_
  have hmax : Nat.max a.toNat b.toNat = max a.toNat b.toNat := rfl
  have := a.isLt
  have := b.isLt
  simp only [maxuW, ltU, decide_eq_true_eq, hmax, BitVec.toNat_ofNat]
  split <;> omega

theorem flag_eq_boolW (c : Bool) : flag c = boolW c := (boolW_eq c).symm

theorem sltiW_value (imm : Nat) : sltW a (sextW imm 8) = flag (decide (a.toInt < sextI imm 8)) := by
  have hs : (sextW imm 8).toInt = sextI imm 8 := by
    rw [sextW, BitVec.toInt_ofInt, sextI]
    split <;> rw [Int.bmod_def] <;> omega
  rw [flag_eq_boolW, sltW, ltS, hs]

theorem addiW_value (imm : Nat) : addW a (sextW imm 8) = BitVec.ofInt 32 (a.toInt + sextI imm 8) := by
  rw [addW, sextW, BitVec.ofInt_add, BitVec.ofInt_toInt]

theorem not_value : ~~~a = BitVec.ofNat 32 (2 ^ 32 - 1 - a.toNat) := by
  refine BitVec.eq_of_toNat_eq ?_
  rw [BitVec.toNat_not, BitVec.toNat_ofNat]
  omega

theorem sextW_value (n : Nat) : sextW a.toNat n = BitVec.ofInt 32 (sextI (a.toNat % 2 ^ n) n) := by
  rw [sextW, sextI, sextI, Nat.mod_mod]

/-! ##### Bits counted and reversed (R160) -/

theorem popN_eq_countP (x n : Nat) : popN x n = (List.range n).countP (fun i => x.testBit i) := by
  induction n with
  | zero => rfl
  | succ n ih => rw [popN, ih, List.range_succ, List.countP_append, List.countP_singleton]

theorem pop32_value : pop32 a = BitVec.ofNat 32 ((List.range 32).countP (fun i => a.getLsbD i)) := by
  rw [pop32, popN_eq_countP]
  rfl

/-- Leading zeros of the low n bits are counted down from the highest set one. -/
theorem clzN_eq (x n : Nat) : clzN x n = if x % 2 ^ n = 0 then n else n - 1 - Nat.log2 (x % 2 ^ n) := by
  induction n with
  | zero => simp [clzN, Nat.mod_one]
  | succ n ih =>
    have hsplit : x % 2 ^ (n + 1) = x % 2 ^ n + 2 ^ n * (x.testBit n).toNat := by
      rw [Nat.mod_pow_succ, Nat.toNat_testBit]
    have hlow : x % 2 ^ n < 2 ^ n := Nat.mod_lt _ (by positivity)
    have hpos : 0 < 2 ^ n := by positivity
    rw [clzN, hsplit]
    cases hb : x.testBit n
    · rw [if_neg (by simp), ih]
      simp only [Bool.toNat_false, Nat.mul_zero, Nat.add_zero]
      by_cases h0 : x % 2 ^ n = 0
      · rw [if_pos h0, if_pos h0]
      · have hlog : Nat.log2 (x % 2 ^ n) < n := (Nat.log2_lt h0).2 hlow
        rw [if_neg h0, if_neg h0]
        omega
    · have hlog : Nat.log2 (x % 2 ^ n + 2 ^ n) = n :=
        (Nat.log2_eq_iff (by omega)).2 ⟨by omega, by rw [pow_succ]; omega⟩
      rw [if_pos rfl, Bool.toNat_true, Nat.mul_one, if_neg (by omega), hlog]
      omega

theorem clz32_value : clz32 a = BitVec.ofNat 32 (if a.toNat = 0 then 32 else 31 - Nat.log2 a.toNat) := by
  rw [clz32, clzN_eq, Nat.mod_eq_of_lt a.isLt]

theorem ctzN_eq (x i n : Nat) : i + ctzN x i n = ((List.range' i n).find? (fun j => x.testBit j)).getD (i + n) := by
  induction n generalizing i with
  | zero => rfl
  | succ n ih =>
    rw [ctzN, List.range'_succ, List.find?_cons]
    cases hb : x.testBit i
    · rw [if_neg (by simp), ← Nat.add_assoc, Nat.add_right_comm, ih (i + 1), Nat.add_right_comm, Nat.add_assoc]
    · rfl

theorem ctz32_value : ctz32 a = BitVec.ofNat 32 (((List.range 32).find? (fun i => a.getLsbD i)).getD 32) := by
  have h := ctzN_eq a.toNat 0 32
  rw [Nat.zero_add, Nat.zero_add, ← List.range_eq_range'] at h
  rw [ctz32, h]
  rfl

/-- Bits set one by one at the places of a list. -/
theorem getLsbD_foldl_setBits (c : Nat → Bool) (ls : List Nat) (x : Word) (j : Nat) (hj : j < 32) :
    (ls.foldl (fun x i => x ||| (if c i then 1#32 <<< i else 0#32)) x).getLsbD j = (x.getLsbD j || (decide (j ∈ ls) && c j)) := by
  induction ls generalizing x with
  | nil => simp
  | cons i ls ih =>
    have hbit : (if c i then 1#32 <<< i else 0#32).getLsbD j = (decide (j = i) && c j) := by
      by_cases hij : j = i
      · subst hij
        cases c j <;> simp [hj]
      · cases c i <;> simp [hij, hj]; omega
    rw [List.foldl_cons, ih, BitVec.getLsbD_or, hbit, Bool.or_assoc]
    congr 1
    by_cases hij : j = i <;> simp [hij]

theorem brev32_value :
    brev32 a = (List.range 32).foldl (fun x i => x ||| (if a.getLsbD (31 - i) then 1#32 <<< i else 0#32)) 0#32 := by
  refine BitVec.eq_of_getLsbD_eq fun j hj => ?_
  rw [getLsbD_foldl_setBits (fun i => a.getLsbD (31 - i)) _ _ _ hj, brev32, BitVec.getLsbD_reverse, BitVec.getMsbD]
  simp [hj]

/-! ##### Fields (R160) -/

theorem bfeW_value (p w : Nat) (signed : Bool) : bfeW a p w signed =
    if signed then BitVec.ofInt 32 (sextI (field a p w) (Nat.min w (32 - p))) else BitVec.ofNat 32 (field a p w) := rfl

theorem bfiW_value (d : Word) (p w : Nat) : bfiW d a p w =
    (d &&& ~~~ BitVec.ofNat 32 ((2 ^ w - 1) * 2 ^ p)) ||| (BitVec.ofNat 32 (a.toNat * 2 ^ p) &&& BitVec.ofNat 32 ((2 ^ w - 1) * 2 ^ p)) := by
  rw [bfiW, shiftLeft_value]

end

theorem fld_zero (w n : Nat) : fld w 0 n = w % 2 ^ n := by rw [fld, Nat.pow_zero, Nat.div_one]

/-! #### One scalar written -/

/-- A word that R157 to R160 give a result is a write of one register, whose value is the rule's. -/
theorem exec_of_scalarResult {t : Strand} {i : Instr} {d : Nat} {v : Word} (h : scalarResult t.getS i = some (d, v)) :
    ∃ f : Strand → Word, (∀ s, exec i s = setReg d f s) ∧ f t = v := by
  unfold scalarResult at h
  split at h
  case h_41 => cases h
  all_goals
    simp only [Option.some.injEq, Prod.mk.injEq] at h
    obtain ⟨rfl, rfl⟩ := h
    refine ⟨_, fun _ => rfl, ?_⟩
  case h_1 => exact addW_value _ _
  case h_2 => exact subW_value _ _
  case h_3 => exact mulW_value _ _
  case h_5 => exact mulhuW_value _ _
  case h_10 => exact shiftLeft_value _ _
  case h_11 => exact shiftRight_value _ _
  case h_12 => exact sshiftRight_value _ _
  case h_13 => exact minW_value _ _
  case h_15 => exact minuW_value _ _
  case h_16 => exact maxuW_value _ _
  case h_17 => rw [seqW, flag_eq_boolW, beq_eq_decide]
  case h_18 => rw [sneW, flag_eq_boolW, bne, beq_eq_decide, decide_not]
  case h_19 => exact (flag_eq_boolW _).symm
  case h_20 => exact (flag_eq_boolW _).symm
  case h_21 => exact addiW_value _ _
  case h_25 => rw [shlW, shiftImm_mod, shiftLeft_value]
  case h_26 => rw [shrW, shiftImm_mod, shiftRight_value]
  case h_27 => rw [sarW, shiftImm_mod, sshiftRight_value]
  case h_28 => exact sltiW_value _ _
  case h_31 => exact pop32_value _
  case h_32 => exact clz32_value _
  case h_33 => exact ctz32_value _
  case h_34 => exact brev32_value _
  case h_35 => rw [bfeW_value, fld_zero]; rfl
  case h_36 => rw [bfiW_value, fld_zero]; rfl
  case h_38 => exact not_value _
  case h_39 => exact sextW_value _ _
  case h_40 => exact sextW_value _ _
  all_goals rfl

/-- A word that writes one scalar and moves on. -/
theorem writesScalar_of_setReg {s : State} {t : Strand} {i : Instr} (hr : s.runs t) (d : Nat) (f : Strand → Word)
    (he : exec i s = setReg d f s) : writesScalar s t i d (f t) := by
  refine ⟨_, he.trans (setReg_completes hr d f), by simp, ?_, by simp, State.sameMemory_setCur _ _⟩
  intro r hne
  rw [Strand.getS_advance, t.setS_sameScalars d _ r hne]

theorem scalarWordsWriteTheirResultAndNothingElse : ScalarWordsWriteTheirResultAndNothingElse := by
  intro s t i d v hr _ h
  obtain ⟨f, he, rfl⟩ := exec_of_scalarResult h
  exact writesScalar_of_setReg hr d f (he s)

/-! #### Decoding (R137, R148) -/

theorem accept_of_not_wf {i : Instr} {z : Bool} (h : i.wf = false) : ∃ e, accept i z = .error e := by
  cases z
  · exact ⟨_, rfl⟩
  · exact ⟨_, by rw [accept, if_neg (by simp), h]; rfl⟩

theorem accept_reserved (i : Instr) {z : Bool} (h : z = false) : ∃ e, accept i z = .error e := ⟨_, by rw [accept, if_pos h]⟩

theorem beq_false_of_ne {n m : Nat} (h : n ≠ m) : (n == m) = false := by simpa using h

/-- A shift's immediate is its word's low byte, of which R158 lets five bits be set. -/
theorem shiftImm_field {w : Nat} (h : fld w 0 8 < 32) : fld w 0 5 = fld w 0 8 ∧ (fld w 5 3 == 0) = true := by
  simp only [fld, beq_iff_eq] at *
  omega

theorem shiftImm_reserved {w : Nat} (h : ¬ fld w 0 8 < 32) : (fld w 5 3 == 0) = false := by
  refine beq_false_of_ne ?_
  simp only [fld] at *
  omega

theorem decodeBit_of_scalarWordOf {w : Nat} {i : Instr} (hm : fld w 26 6 = 31) (h : scalarWordOf w = some i) : decodeBit w = accept i true := by
  simp only [scalarWordOf, hm] at h
  split at h
  · rename_i hs
    cases h
    simp only [decodeBit, hs]
  · split at h
    · cases h
    · rename_i hz
      have hz : (fld w 0 2 == 0) = true := by simpa using hz
      split at h
      case h_10 => cases h
      all_goals
        rename_i hs
        cases h
        simp only [decodeBit, hs, hz]

theorem decodeBit_of_scalarWordOf_none {w : Nat} (hm : fld w 26 6 = 31) (h : scalarWordOf w = none) : ∃ e, decodeBit w = .error e := by
  simp only [scalarWordOf, hm] at h
  split at h
  · cases h
  · rename_i h4
    split at h
    · rename_i hz
      unfold decodeBit
      split
      case h_5 hs => exact absurd hs h4
      case h_11 => exact ⟨_, rfl⟩
      all_goals exact accept_reserved _ (beq_false_of_ne hz)
    · split at h
      case h_10 =>
        unfold decodeBit
        split
        case h_5 hs => exact absurd hs h4
        case h_11 => exact ⟨_, rfl⟩
        all_goals contradiction
      all_goals cases h

/-- The decoder offers the instruction of R157 to R160's fields to its operand check. -/
theorem decodeScalar_of_scalarWordOf {w : Nat} {i : Instr} (h : scalarWordOf w = some i) : decodeScalar w 0 = accept i true := by
  have hw := h
  unfold scalarWordOf at h
  dsimp only at h
  split at h
  case h_25 hm | h_26 hm | h_27 hm =>
    split at h
    · rename_i hlt
      obtain ⟨himm, hz⟩ := shiftImm_field hlt
      cases h
      simp only [decodeScalar, hm, himm, hz]
    · cases h
  case h_31 hm => rw [show decodeScalar w 0 = decodeBit w by simp only [decodeScalar, hm]]; exact decodeBit_of_scalarWordOf hm hw
  case h_32 => cases h
  all_goals
    rename_i hm
    cases h
    simp only [decodeScalar, hm]

theorem decodeScalar_of_scalarWordOf_none {w : Nat} (h1 : 1 ≤ fld w 26 6) (h31 : fld w 26 6 ≤ 0x1F) (h : scalarWordOf w = none) :
    ∃ e, decodeScalar w 0 = .error e := by
  have hw := h
  unfold scalarWordOf at h
  dsimp only at h
  split at h
  case h_25 hm | h_26 hm | h_27 hm =>
    split at h
    · cases h
    · rename_i hge
      rw [decodeScalar, hm]
      exact accept_reserved _ (shiftImm_reserved hge)
  case h_31 hm => rw [show decodeScalar w 0 = decodeBit w by simp only [decodeScalar, hm]]; exact decodeBit_of_scalarWordOf_none hm hw
  case h_32 =>
    simp only [imp_false] at *
    omega
  all_goals cases h

/-- MOVI sets the low 15 bits of a constant, MOVHI the other 17 (R159). -/
theorem movhi_over_movi (v : Word) :
    BitVec.ofNat 32 (v.toNat / 2 ^ 15 * 2 ^ 15) ||| (sextW (v.toNat % 2 ^ 15) 17 &&& 0x7FFF#32) = v := by
  have hlow : sextW (v.toNat % 2 ^ 15) 17 = BitVec.ofNat 32 (v.toNat % 2 ^ 15) := by
    rw [sextW, sextI, if_pos (by omega), Nat.mod_eq_of_lt (by omega), BitVec.ofInt_natCast]
  rw [hlow, show (0x7FFF#32 : Word) = BitVec.ofNat 32 (2 ^ 15 - 1) from rfl, and_lowBits, BitVec.toNat_ofNat]
  refine BitVec.eq_of_toNat_eq ?_
  have := v.isLt
  rw [BitVec.toNat_or, BitVec.toNat_ofNat, BitVec.toNat_ofNat, Nat.mod_eq_of_lt (by omega), Nat.mod_eq_of_lt (by omega),
    Nat.mod_eq_of_lt (a := v.toNat % 2 ^ 15) (by omega), Nat.mod_mod, Nat.mul_comm, ← Nat.two_pow_add_eq_or_of_lt (show v.toNat % 2 ^ 15 < 2 ^ 15 by omega)]
  omega

theorem scalarWordsDecodeFieldByField : ScalarWordsDecodeFieldByField := by
  refine ⟨fun w i h => ?_, fun w h1 h31 h => decodeScalar_of_scalarWordOf_none h1 h31 h, rfl, rfl, rfl, rfl, rfl, ?_⟩
  · rw [decodeScalar_of_scalarWordOf h]
    exact ⟨accept_of_wf, accept_of_not_wf⟩
  · intro s t d v hr _
    refine ⟨_, _, setReg_completes hr d _, setReg_completes (State.strand_setCur _ _) d _, ?_⟩
    simp only [Strand.getS_advance, Strand.getS_setS]
    exact movhi_over_movi v

/-- Settles O1: each word is a write of one register whose value is its rule's; the decoder's arms are the rules' fields. -/
theorem scalarArithmeticFollowsItsRules : Obligations.ScalarArithmeticFollowsItsRules :=
  ⟨scalarWordsWriteTheirResultAndNothingElse, scalarWordsDecodeFieldByField⟩

end Sys2Proof.Proofs
end

/-! ### Mask words, branches and calls (spec/06 R163 to R166, R169, spec/02 R54, R64) -/
section
namespace Sys2Proof.Proofs
open Sys2Proof Sys2Proof.Machine Sys2Proof.Rules

/-! #### MSK's sub-ops (R169) -/

theorem maskOp_eq (t : Strand) (y z : Nat) : maskOp t y z = maskOperand t y z := by
  match z with
  | 0 => rfl
  | 1 => rfl
  | _ + 2 => rfl

/-- A word that writes one quad and moves on. -/
theorem writesQuad_of_setQ {s : State} {t : Strand} {i : Instr} (hr : s.runs t) (q : Nat) (f : Strand → Mask)
    (he : exec i s = s.run (fun t => s.finish (t.setQ q (f t)) 1)) : writesQuad s t i q (f t) := by
  refine ⟨(t.setQ q (f t)).advance 1, ?_, ?_, ?_, by simp, State.sameMemory_setCur _ _⟩
  · rw [he, State.run_of_runs hr, State.finish_eq]
  · intro w hw
    rw [Strand.getS_advance, t.setQ_holds q _ w hw]
  · intro r hne
    rw [Strand.getS_advance, t.setQ_sameScalars q _ r hne]

theorem exec_of_maskResult {t : Strand} {i : Instr} {q : Nat} {m : Mask} (h : maskResult t i = some (q, m)) :
    ∃ f : Strand → Mask, (∀ s, exec i s = s.run (fun t => s.finish (t.setQ q (f t)) 1)) ∧ f t = m := by
  unfold maskResult at h
  split at h
  case h_5 => cases h
  all_goals
    cases h
    refine ⟨_, fun _ => rfl, ?_⟩
  case h_4 => rw [maskOp_eq, BitVec.allOnes_xor]
  all_goals rw [maskOp_eq]

theorem maskWordsWriteExecOrTheirQuad : MaskWordsWriteExecOrTheirQuad := by
  intro s t hr
  refine ⟨?_, ?_, ?_⟩
  · intro y z _
    have he : exec (.mset y z) s = _ := State.run_of_runs hr _
    refine ⟨Strand.advance { t with exec := maskOp t y z &&& t.live } 1, he.trans (State.finish_eq _ _ _), ?_, ?_, State.sameMemory_setCur _ _⟩
    · rw [Strand.advance_exec, maskOp_eq]
    · rw [Strand.besidesPlace_advance]
      rfl
  · intro i q m _ h
    obtain ⟨f, he, rfl⟩ := exec_of_maskResult h
    exact writesQuad_of_setQ hr q f (he s)
  · intro x y z _
    have hcount : (List.range 128).countP (fun l => (maskOperand t y z).getLsbD l) = popN (maskOp t y z).toNat 128 := by
      rw [popN_eq_countP, maskOp_eq]
      rfl
    rw [hcount]
    exact writesScalar_of_setReg hr x (fun t => BitVec.ofNat 32 (popN (maskOp t y z).toNat 128)) rfl

/-- An operand of R169 names a quad with z = 0 alone. -/
theorem isMaskOp_false {y z : Nat} (h : z = 3 ∨ z ≠ 0 ∧ y ≠ 0) : isMaskOp y z = false := by
  rcases h with rfl | ⟨hz, hy⟩
  · simp [isMaskOp]
  · simp [isMaskOp, hz, hy]

theorem wf_false_of_operand {x y z : Nat} (h : z = 3 ∨ z ≠ 0 ∧ y ≠ 0) :
    (Instr.mset y z).wf = false ∧ (Instr.mget x y z).wf = false ∧ (Instr.mand x y z).wf = false ∧ (Instr.mor x y z).wf = false ∧
      (Instr.mnot x y z).wf = false ∧ (Instr.mpopc x y z).wf = false := by
  simp [Instr.wf, isMaskOp_false h]

theorem maskWordsDecodeFieldByField : MaskWordsDecodeFieldByField := by
  refine ⟨fun w hm h2 h7 => ?_, rfl⟩
  dsimp only
  have harm : decodeScalar w 0 = decodeMsk w 0 := by simp only [decodeScalar, hm]
  have hbad := @wf_false_of_operand (fld w 11 9) (fld w 2 9) (fld w 0 2)
  rw [harm]
  obtain hs | hs | hs | hs | hs | hs : fld w 20 6 = 2 ∨ fld w 20 6 = 3 ∨ fld w 20 6 = 4 ∨ fld w 20 6 = 5 ∨ fld w 20 6 = 6 ∨ fld w 20 6 = 7 := by omega
  case inl =>
    simp only [decodeMsk, hs]
    constructor
    · intro hwf hx
      rw [hx trivial]
      exact accept_of_wf hwf
    · rintro (hwf | hz | hzy | ⟨-, hx⟩)
      · exact accept_of_not_wf hwf
      · exact accept_of_not_wf (hbad (.inl hz)).1
      · exact accept_of_not_wf (hbad (.inr hzy)).1
      · exact accept_reserved _ (beq_false_of_ne hx)
  all_goals
    simp only [decodeMsk, hs]
    refine ⟨fun hwf _ => accept_of_wf hwf, ?_⟩
    rintro (hwf | hz | hzy | ⟨h, -⟩)
    · exact accept_of_not_wf hwf
    · obtain ⟨-, h3, h4, h5, h6, h7⟩ := hbad (.inl hz)
      exact accept_of_not_wf (by assumption)
    · obtain ⟨-, h3, h4, h5, h6, h7⟩ := hbad (.inr hzy)
      exact accept_of_not_wf (by assumption)
    · omega

/-- Settles O13: each sub-op writes EXEC, one quad or one scalar, and its fields are the decoder's. -/
theorem maskWordsFollowTheirRule : Obligations.MaskWordsFollowTheirRule :=
  ⟨maskWordsWriteExecOrTheirQuad, maskWordsDecodeFieldByField⟩

/-! #### Targets (R163, R166) -/

theorem badTarget_of_legal {a : DWord} (h : legalTarget a) : badTarget a = false := by
  obtain ⟨h4, hc⟩ := h
  have hcanon : sextI (a.toNat / 2 ^ 47) 17 = 0 ∨ sextI (a.toNat / 2 ^ 47) 17 = -1 := by
    have := a.isLt
    simp only [sextI]
    split <;> omega
  rcases hcanon with h | h <;> simp only [badTarget, h4, h] <;> rfl

theorem brTarget_eq (t : Strand) (soff : Nat) : brTarget t soff = targetOf t soff := by
  have h4 : sextD soff 17 * 4#64 = BitVec.ofInt 64 (4 * sextI soff 17) := by
    rw [sextD, Int.mul_comm, BitVec.ofInt_mul]
    rfl
  rw [brTarget, targetOf, h4, BitVec.ofInt_add, BitVec.ofInt_natCast, BitVec.ofNat_toNat, BitVec.setWidth_eq]

theorem brLpc_eq (t : Strand) (loff : Nat) : brLpc t loff = laneTarget t loff := by
  rw [brLpc, laneTarget, BitVec.ofNat_add, BitVec.ofNat_add, BitVec.ofNat_toNat, BitVec.setWidth_eq]

/-! #### Transfers (R54, R163, R165) -/

/-- No path of the region is watched: a crossing changes the detector's notes alone (R54). -/
theorem cross_unwatched {t : Strand} (h : unwatched t) : ∃ n, t.cross = { t with spin := n } := by
  have hw : (t.regionOpen && (t.getS (t.regionBase + 7)).getLsbD 10) = false := by
    rcases h with h | h
    · rw [h, Bool.false_and]
    · rw [h, Bool.and_false]
  refine ⟨{ log := [], hash := some (Config.spinHash t.spin.log), count := 0, wrote := false }, ?_⟩
  simp only [Strand.cross, hw, Bool.false_eq_true, false_and, if_false]

theorem crossIf_unwatched {t : Strand} (h : unwatched t) (addr target : DWord) : ∃ n, t.crossIf addr target = { t with spin := n } := by
  unfold Strand.crossIf
  split
  · exact cross_unwatched h
  · exact ⟨t.spin, rfl⟩

/-- A transfer that closes no loop. -/
theorem transfer_keeping {t : Strand} (h : unwatched t) (spc : DWord) (lpc : Word) :
    ∃ n, t.transfer spc lpc false = { t.jump spc lpc with spin := n } := by
  simp only [Strand.transfer, Bool.false_eq_true, if_false]
  exact crossIf_unwatched (t := t.jump spc lpc) h _ _

theorem dropWhile_of_head {α : Type} {p : α → Bool} {xs : List α} (h : xs.head?.any p = false) : xs.dropWhile p = xs := by
  cases xs with
  | nil => rfl
  | cons x xs => exact List.dropWhile_cons_of_neg (by simpa using h)

/-- A branch that leaves no loop ends none. -/
theorem leaveLoops_of_inside {spc : DWord} {n : Nat} {t : Strand} (h : t.loops.head?.any (leaves t spc) = false) :
    Strand.leaveLoops spc n t = t := by
  cases n with
  | zero => rfl
  | succ n =>
    unfold Strand.leaveLoops
    split
    · rename_i l ls hl
      rw [hl] at h
      rw [if_neg (by simpa [leaves] using h)]
    · rfl

/-- One that leaves the innermost loop ends it, and goes on with the enclosing one. -/
theorem leaveLoops_of_outside {spc : DWord} {n : Nat} {t : Strand} {l : LoopFrame} {ls : List LoopFrame} (hl : t.loops = l :: ls)
    (h : leaves t spc l = true) :
    Strand.leaveLoops spc (n + 1) t = Strand.leaveLoops spc n { t with loops := ls, exec := l.entry &&& t.live, stage := l.stage } := by
  have hpop : t.popLoop = { t with loops := ls, exec := l.entry &&& t.live, stage := l.stage } := by simp only [Strand.popLoop, hl]
  rw [Strand.leaveLoops, hl]
  simp only
  rw [if_pos (by simpa [leaves] using h), hpop]

/-- A taken branch ends the loops that it leaves, innermost first, and no other (R165). -/
theorem leaveLoops_dropWhile (spc : DWord) (n : Nat) (t : Strand) (hn : t.loops.length ≤ n) :
    ∃ e g, Strand.leaveLoops spc n t = { t with loops := t.loops.dropWhile (leaves t spc), exec := e, stage := g } := by
  induction n generalizing t with
  | zero =>
    have hin : t.loops.head?.any (leaves t spc) = false := by rw [List.length_eq_zero_iff.1 (Nat.le_zero.1 hn)]; rfl
    exact ⟨t.exec, t.stage, by rw [leaveLoops_of_inside hin, dropWhile_of_head hin]⟩
  | succ n ih =>
    cases hin : t.loops.head?.any (leaves t spc)
    · exact ⟨t.exec, t.stage, by rw [leaveLoops_of_inside hin, dropWhile_of_head hin]⟩
    · cases hl : t.loops with
      | nil => rw [hl] at hin; cases hin
      | cons l ls =>
        rw [hl] at hn
        have hleave : leaves t spc l = true := by simpa [hl] using hin
        obtain ⟨e, g, hrest⟩ := ih { t with loops := ls, exec := l.entry &&& t.live, stage := l.stage } (Nat.le_of_succ_le_succ hn)
        refine ⟨e, g, (leaveLoops_of_outside hl hleave).trans (hrest.trans ?_)⟩
        rw [List.dropWhile_cons_of_pos hleave]
        rfl

/-- A taken branch stands at its target, in the loops that it is still in (R163, R165). -/
theorem branched_of_transfer {s : State} {t : Strand} {i : Instr} {spc : DWord} {lpc : Word} (hu : unwatched t) (hl : t.loops.length ≤ 4)
    (he : exec i s = .next (s.setCur (t.transfer spc lpc true))) : branched s t i spc lpc := by
  obtain ⟨e, g, hleft⟩ := leaveLoops_dropWhile spc 4 t hl
  obtain ⟨n, hcross⟩ := crossIf_unwatched (t := (Strand.leaveLoops spc 4 t).jump spc lpc) (by rw [hleft]; exact hu) t.itemAddr spc
  have ht : t.transfer spc lpc true = { (Strand.leaveLoops spc 4 t).jump spc lpc with spin := n } := hcross
  refine ⟨_, he, ?_⟩
  refine ⟨?_, ?_, ?_, ?_, ?_, ?_, State.sameMemory_setCur _ _⟩
  · rw [ht]; exact ⟨rfl, rfl, rfl⟩
  · rw [ht, hleft]; rfl
  · rw [ht, hleft]; rfl
  · rw [ht, hleft]; rfl
  · rw [ht, hleft]; rfl
  · intro hin
    rw [ht, leaveLoops_of_inside hin]
    rfl

/-! #### Direct and indirect branches -/

/-- BRA, BZ, BNZ and BEXZ are one operation, on their condition. -/
theorem exec_of_branchOf {t : Strand} {i : Instr} {c : Bool} {soff loff : Nat} (h : branchOf t i = some (c, soff, loff)) :
    ∃ f : Strand → Bool, (∀ s, exec i s = branch f soff loff s) ∧ f t = c := by
  unfold branchOf at h
  split at h
  case h_5 => cases h
  all_goals
    cases h
    refine ⟨_, fun _ => rfl, ?_⟩
  case h_1 => rfl
  case h_3 => rw [bne, beq_eq_decide, decide_not]
  all_goals exact beq_eq_decide _ _

theorem branch_untaken {s : State} {t : Strand} {f : Strand → Bool} {soff loff : Nat} (hr : s.runs t) (hk : s.cur < ccBase)
    (hf : f t = false) : branch f soff loff s = .next (s.setCur (t.advance 2)) := by
  refine (State.run_of_runs hr _).trans ?_
  simp [hf, Nat.not_le.2 hk, State.finish_eq]

theorem branch_taken {s : State} {t : Strand} {f : Strand → Bool} {soff loff : Nat} (hr : s.runs t) (hk : s.cur < ccBase)
    (hf : f t = true) (hl : legalTarget (targetOf t soff)) :
    branch f soff loff s = .next (s.setCur (t.transfer (targetOf t soff) (laneTarget t loff) true)) := by
  refine (State.run_of_runs hr _).trans ?_
  simp [hf, Nat.not_le.2 hk, brTarget_eq, brLpc_eq, badTarget_of_legal hl]

theorem branchesGoToTheirTargetOrFallThrough : BranchesGoToTheirTargetOrFallThrough := by
  intro s t i c soff loff hr hk _ h
  obtain ⟨f, he, rfl⟩ := exec_of_branchOf h
  refine ⟨fun hf => (he s).trans (branch_untaken hr hk hf), fun hf hl hu hn => ?_⟩
  exact branched_of_transfer hu hn ((he s).trans (branch_taken hr hk hf hl))

theorem lowest_eq_none {m : Mask} (h : m = 0#128) : lowest m = none := by
  subst h
  exact List.find?_eq_none.2 fun l _ => by simp

/-- With no active lane CALLV and JMPV fall through (R166). -/
theorem vecJump_without_lanes {s : State} {t : Strand} {x y : Nat} (go : Strand → DWord → Word → Host.Outcome State Fault Refusal)
    (hr : s.runs t) (hx : x < t.budget) (hy : y < t.budget) (he : t.exec = 0#128) : vecJump x y go s = .next (s.setCur (t.advance 1)) := by
  refine (State.run_of_runs hr _).trans ?_
  rw [State.overBudget_none (by simp [hx, hy])]
  simp [vecTarget, lowest_eq_none he, State.finish_eq]

/-- Where every active lane holds one pair, it is the pair of the lowest, and no lane differs (R166). -/
theorem vecTarget_uniform {t : Strand} {x y : Nat} {a b : Word} (h : uniformPair t x y a b) : ∃ l0, vecTarget t x y = some (l0, a, b, 0#128) := by
  obtain ⟨hne, hall⟩ := h
  cases hlow : lowest t.exec with
  | none =>
    refine absurd (BitVec.eq_of_getLsbD_eq fun l hl => ?_) hne
    simpa using List.find?_eq_none.1 hlow l (List.mem_range.2 hl)
  | some l0 =>
    have hl0 : t.exec.getLsbD l0 = true := List.find?_some hlow
    obtain ⟨ha, hb⟩ := hall l0 (List.mem_range.1 (List.mem_of_find?_eq_some hlow)) hl0
    refine ⟨l0, ?_⟩
    have hdiff : maskOf (fun l => t.exec.getLsbD l && (Vec.lane (t.getV (t.rotN x)) l != a || Vec.lane (t.getV (t.rotN y)) l != b)) = 0#128 := by
      have hnone : (List.range 128).filter
          (fun l => t.exec.getLsbD l && (Vec.lane (t.getV (t.rotN x)) l != a || Vec.lane (t.getV (t.rotN y)) l != b)) = [] := by
        refine List.filter_eq_nil_iff.2 fun l hl => ?_
        rw [Bool.and_eq_true, Bool.or_eq_true, bne_iff_ne, bne_iff_ne]
        rintro ⟨hact, hd⟩
        obtain ⟨ha, hb⟩ := hall l (List.mem_range.1 hl) hact
        exact hd.elim (· ha) (· hb)
      rw [maskOf, hnone]
      rfl
    simp only [vecTarget, hlow, ha, hb, hdiff]

theorem vecJump_uniform {s : State} {t : Strand} {x y : Nat} {a b : Word} (go : Strand → DWord → Word → Host.Outcome State Fault Refusal)
    (hr : s.runs t) (hx : x < t.budget) (hy : y < t.budget) (h : uniformPair t x y a b) :
    vecJump x y go s = go t (t.secBase + a.setWidth 64) b := by
  obtain ⟨l0, hv⟩ := vecTarget_uniform h
  refine (State.run_of_runs hr _).trans ?_
  rw [State.overBudget_none (by simp [hx, hy])]
  simp [hv]

/-! #### Calls and returns -/

/-- A call pushes its return entry and stands at its target (R64, R164). -/
theorem called_of_callGo {s : State} {t : Strand} {i : Instr} {n : Nat} {spc : DWord} {lpc : Word} (hu : unwatched t) (hn : t.rets.length < 16)
    (hl : legalTarget spc) (he : exec i s = callGo t n spc lpc s) : called s t i n spc lpc := by
  let e : RetEntry := { spc := t.itemAddr + BitVec.ofNat 64 (4 * n), lpc := t.first + BitVec.ofNat 32 t.nl, loops := t.loops.length }
  obtain ⟨m, hm⟩ := transfer_keeping (t := { t with rets := e :: t.rets }) hu spc lpc
  refine ⟨{ ({ t with rets := e :: t.rets } : Strand).jump spc lpc with spin := m }, ?_, ⟨rfl, rfl, rfl⟩, rfl, rfl, State.sameMemory_setCur _ _⟩
  rw [he, callGo, badTarget_of_legal hl, if_neg (by simp), if_neg (by omega), ← hm]

theorem indirectJumpsTakeTheirOperands : IndirectJumpsTakeTheirOperands := by
  intro s t x y hr
  have hjmpi : exec (.jmpi x y) s = _ := State.run_of_runs hr _
  have hjmpv : exec (.jmpv x y) s = vecJump x y (fun t a b =>
    if badTarget a then s.raise t { code := 3, sub := 1, arg := a.toNat } else .next (s.setCur (t.transfer a b true))) s := rfl
  have hcallv : exec (.callv x y) s = vecJump x y (fun t a b => callGo t 1 a b s) s := rfl
  refine ⟨fun hl hu hn => ?_, fun hx hy => ⟨fun he => ?_, fun a b huni hl hu => ?_⟩⟩
  · refine branched_of_transfer hu hn ?_
    rw [hjmpi, badTarget_of_legal hl, if_neg (by simp)]
  · rw [hjmpv, hcallv]
    exact ⟨vecJump_without_lanes _ hr hx hy he, vecJump_without_lanes _ hr hx hy he⟩
  · refine ⟨fun hn => branched_of_transfer hu hn ?_, fun hn => called_of_callGo hu hn hl ?_⟩
    · rw [hjmpv, vecJump_uniform _ hr hx hy huni, badTarget_of_legal hl, if_neg (by simp)]
    · rw [hcallv, vecJump_uniform _ hr hx hy huni]

/-- Settles O9: the transfers, taken and untaken, direct and through registers. -/
theorem branchesAndIndirectJumpsGoToTheirTarget : Obligations.BranchesAndIndirectJumpsGoToTheirTarget :=
  ⟨branchesGoToTheirTargetOrFallThrough, indirectJumpsTakeTheirOperands⟩

theorem callsPushTheReturnEntry : CallsPushTheReturnEntry := by
  intro s t hr hu hn
  refine ⟨fun soff loff hk _ hl => called_of_callGo hu hn hl ?_, fun x y hl => called_of_callGo hu hn hl (State.run_of_runs hr _)⟩
  refine (State.run_of_runs hr _).trans ?_
  rw [if_neg (by omega), brTarget_eq, brLpc_eq]

theorem retPopsTheReturnStack : RetPopsTheReturnStack := by
  intro s t hr
  have hexec : exec .ret s = _ := State.run_of_runs hr _
  refine ⟨fun h => by rw [hexec, h], fun e es h hl => ?_⟩
  have hpop : exec .ret s = if e.loops < t.loops.length then s.raise t { code := 0x09, sub := 3, arg := t.loops.length }
      else .next (s.setCur (({ t with rets := es } : Strand).transfer e.spc e.lpc false)) := by
    rw [hexec, h]
    simp only [badTarget_of_legal hl, Bool.false_eq_true, if_false]
  refine ⟨fun hlt => hpop.trans (if_pos hlt), fun hle hu => ?_⟩
  obtain ⟨n, hn⟩ := transfer_keeping (t := { t with rets := es }) hu e.spc e.lpc
  rw [if_neg (Nat.not_lt.2 hle), hn] at hpop
  exact ⟨_, hpop, ⟨rfl, rfl, rfl⟩, rfl, rfl, State.sameMemory_setCur _ _⟩

/-- Settles O10: CALL and CALLI push their entry, RET pops it. -/
theorem callsPushAndRetPopsTheReturnEntry : Obligations.CallsPushAndRetPopsTheReturnEntry :=
  ⟨callsPushTheReturnEntry, retPopsTheReturnStack⟩

end Sys2Proof.Proofs
end

/-! ### Control words (spec/06 R184, R185) -/
section
namespace Sys2Proof.Proofs
open Sys2Proof Sys2Proof.Machine Sys2Proof.Rules

/-- A partition that owns cluster 0 of die 0. -/
def clusterPart (p : Nat) : Part :=
  { lpPart with cfg := { p := p, dies := 1, x0 := 0, x1 := 0, y0 := 0, y1 := 0, ioshare := 0, lpmask := 0, pb := 0 }, csr := [] }

/-- A privileged strand of partition 0 on core 0. -/
def countingStrand : Strand := newStrand 0 1 0 0 0 0 128 0 0 true 0#64 0#64 0#64 0#32 0 0

/-- A table of partitions that is out of order, so that a write at its second entry lists partition 0 anew, before the first; both
entries own cluster 0, and the home slices of partition 1 hold the peer's sector 0, with the word 1. -/
def disorderedState : State :=
  { State.reset with
    parts := [(1, clusterPart 1), (0, clusterPart 0)],
    slice := [(State.sliceKey 1 0, { data := [1#32], dirty := 1#16, poison := 0#16, coh := 4, ctx := 0 })],
    strands := [(0, countingStrand)] }

theorem disorderedState_runs : disorderedState.runs countingStrand := rfl

/-- Core 0 reads a peer's byte 0 in the home slices of the first partition that owns its cluster: of partition 1. -/
theorem coreRead_disordered : disorderedState.coreRead 0 0 1 4 = 1 := by decide

theorem exec_prog_disordered : ∃ s', exec (.prog 0) disorderedState = .next s' ∧ s'.coreRead 0 0 1 4 = 0 := ⟨_, rfl, by decide⟩

theorem exec_registerWrite_disordered : ∃ s', exec (.registerWrite 0 0xE1C 1) disorderedState = .next s' ∧ s'.coreRead 0 0 1 4 = 0 :=
  ⟨_, rfl, by decide⟩

/-- What leaves memory as it is leaves core 0's view of a peer's byte 0 alone. -/
theorem not_sameMemory_of_disordered {i : Instr} {s' : State} (he : exec i disorderedState = .next s')
    (h : ∃ u, exec i disorderedState = .next u ∧ u.coreRead 0 0 1 4 = 0) : ¬ disorderedState.sameMemory s' := by
  rintro ⟨-, hview⟩
  obtain ⟨u, hu, hread⟩ := h
  have hkept := hview 0 0 4
  rw [Host.Outcome.next.inj (he.symm.trans hu), hread, coreRead_disordered] at hkept
  exact absurd hkept (by decide)

/-- Refutes O47: the statement ranges over states whose table of partitions is out of order. There PROG's count moves its partition
before another one that owns the same cluster, and a core of that cluster reads a peer's page in other home slices than before. -/
theorem not_progCountsAndControlWordsAreChecked : ¬ Obligations.ProgCountsAndControlWordsAreChecked := by
  rintro ⟨h, -⟩
  obtain ⟨s', t', he, -, -, -, -, -, -, hmem⟩ := h disorderedState countingStrand 0 (clusterPart 0) disorderedState_runs rfl rfl
  exact not_sameMemory_of_disordered he exec_prog_disordered hmem

/-- Refutes O48: as for O47, a host's write of a plain register in a table of partitions that is out of order. -/
theorem not_controlWordsAreReadAndWritten : ¬ Obligations.ControlWordsAreReadAndWritten := by
  rintro ⟨-, -, h⟩
  obtain ⟨hplain, -⟩ := h disorderedState 0 0xE1C 1 (clusterPart 0) (by decide) rfl
  obtain ⟨s', he, -, -, -, -, hmem⟩ := hplain (2 ^ 32 - 1) rfl (by decide)
  exact not_sameMemory_of_disordered he exec_registerWrite_disordered hmem

end Sys2Proof.Proofs
end

/-! ### ITEM loops (spec/06 R171, spec/02 R62) -/
section
namespace Sys2Proof.Proofs
open Sys2Proof Sys2Proof.Machine Sys2Proof.Rules

/-! #### The skein -/

theorem sameMemory_refl (s : State) : s.sameMemory s := ⟨rfl, fun _ _ _ => rfl⟩

theorem sameMemory_trans {s s1 s' : State} (h : s.sameMemory s1) (h' : s1.sameMemory s') : s.sameMemory s' :=
  ⟨h'.1.trans h.1, fun core pa coh => (h'.2 core pa coh).trans (h.2 core pa coh)⟩

/-- A core that keeps its L1 is seen by no read of memory. -/
theorem sameMemory_setCore {s : State} {k : Nat} {c : Cor} (h : c.l1 = (s.core k).l1) : s.sameMemory (s.setCore k c) := by
  refine ⟨rfl, fun core pa coh => ?_⟩
  have hl1 : ((s.setCore k c).core core).l1 = (s.core core).l1 := by
    by_cases hk : core = k
    · rw [hk, State.core_setCore, h]
    · rw [State.core_setCore_ne s c hk]
  rw [State.coreRead, State.coreRead, hl1]
  rfl

theorem skein_congr (s : State) {t t' : Strand} (h : t'.core = t.core) (k : Nat) : skein s t' k = skein s t k := by
  rw [skein, skein, h]

theorem popSkein_of_empty {s : State} {t : Strand} {k : Nat} (h : skein s t k = []) : s.popSkein t.core k = (none, s) := by
  unfold skein at h
  simp only [State.popSkein, h]

theorem popSkein_of_cons {s : State} {t : Strand} {k : Nat} {x : Word} {xs : List Word} (h : skein s t k = x :: xs) :
    ∃ s', s.popSkein t.core k = (some x, s') ∧ skein s' t k = xs ∧ s'.cur = s.cur ∧ s.sameMemory s' := by
  refine ⟨s.setCore t.core (if k = 0 then { s.core t.core with sk0 := xs } else { s.core t.core with sk1 := xs }), ?_, ?_, rfl, ?_⟩
  · unfold skein at h
    simp only [State.popSkein, h]
  · rw [skein, State.core_setCore]
    split <;> rfl
  · refine sameMemory_setCore ?_
    split <;> rfl

/-! #### Refilling lanes -/

/-- What offering skein k to the lanes ls leaves: those it served hold its first indices in register r, and the skein the others. -/
structure Served (k r : Nat) (ls : List Nat) (s s' : State) (t t' : Strand) (got : List Nat) : Prop where
  lanes : got = ls.take (skein s t k).length
  strand : ∃ v bad spin, t' = { t with v := v, bad := bad, spin := spin }
  indices : refilled t t' r got (skein s t k)
  left : skein s' t k = (skein s t k).drop got.length
  cur : s'.cur = s.cur
  memory : s.sameMemory s'
  nobody : got = [] → s' = s ∧ t' = t

theorem setV1_strand (t : Strand) (r l : Nat) (x : Word) : ∃ v bad spin, t.setV1 r l x = { t with v := v, bad := bad, spin := spin } := by
  unfold Strand.setV1 Strand.setV
  split
  · exact ⟨t.v, t.bad, t.spin, rfl⟩
  · exact ⟨_, _, _, rfl⟩

theorem setV1_core (t : Strand) (r l : Nat) (x : Word) : (t.setV1 r l x).core = t.core := by
  obtain ⟨_, _, _, h⟩ := setV1_strand t r l x
  rw [h]

theorem served_nobody {k r : Nat} {ls : List Nat} {s : State} {t : Strand} (h : ls.take (skein s t k).length = []) :
    Served k r ls s s t t [] where
  lanes := h.symm
  strand := ⟨t.v, t.bad, t.spin, rfl⟩
  indices := ⟨by simp, fun _ _ _ => rfl, fun _ _ => rfl⟩
  left := rfl
  cur := rfl
  memory := sameMemory_refl s
  nobody := fun _ => ⟨rfl, rfl⟩

/-- One lane served before the others: it holds the first index, they the following ones. -/
theorem refilled_cons {t t' : Strand} {r l : Nat} {ls : List Nat} {x : Word} {xs : List Word} (hlt : l < 128) (hl : l ∉ ls)
    (h : refilled (t.setV1 r l x) t' r ls xs) : refilled t t' r (l :: ls) (x :: xs) := by
  obtain ⟨hin, hout, hother⟩ := h
  refine ⟨fun i j hj => ?_, fun j hlt' hj => ?_, fun q hq => ?_⟩
  · cases i with
    | zero =>
      obtain rfl : l = j := by simpa using hj
      rw [hout l hlt hl, lane_setV1 t x hlt, if_pos ⟨rfl, rfl⟩]
      rfl
    | succ i => exact hin i j hj
  · obtain ⟨hne, hj⟩ : j ≠ l ∧ j ∉ ls := by simpa using hj
    rw [hout j hlt' hj, lane_setV1 t x hlt', if_neg (fun e => hne e.2)]
  · rw [hother q hq, Strand.setV1, Strand.getV_setV_ne _ _ _ (by simpa using hq)]

theorem refill_serves (k r : Nat) (ls : List Nat) (hlt : ∀ l ∈ ls, l < 128) (hnd : ls.Nodup) (s : State) (t : Strand) :
    ∃ s' t' got, State.refill k r ls s t = (s', t', got) ∧ Served k r ls s s' t t' got := by
  induction ls generalizing s t with
  | nil => exact ⟨s, t, [], rfl, served_nobody List.take_nil⟩
  | cons l ls ih =>
    cases hq : skein s t k with
    | nil =>
      refine ⟨s, t, [], ?_, served_nobody (by rw [hq]; rfl)⟩
      rw [State.refill, popSkein_of_empty hq]
    | cons x xs =>
      obtain ⟨s1, hpop, hxs, hcur, hmem⟩ := popSkein_of_cons hq
      obtain ⟨hl, hnd⟩ := List.nodup_cons.1 hnd
      obtain ⟨s', t', got, hrest, hserved⟩ := ih (fun j hj => hlt j (List.mem_cons_of_mem l hj)) hnd s1 (t.setV1 r l x)
      have hcore := skein_congr s1 (setV1_core t r l x) k
      have hcore' := skein_congr s' (setV1_core t r l x) k
      obtain ⟨hlanes, hstrand, hindices, hleft, hcur', hmem', -⟩ := hserved
      rw [hcore, hxs] at hlanes hindices hleft
      have hgot : l ∉ got := fun h => hl (List.mem_of_mem_take (hlanes ▸ h))
      refine ⟨s', t', l :: got, ?_, ?_, ?_, ?_, ?_, hcur'.trans hcur, sameMemory_trans hmem hmem', by simp⟩
      · rw [State.refill, hpop]
        simp only [hrest]
      · rw [hq, hlanes, List.length_cons, List.take_succ_cons]
      · obtain ⟨_, _, _, h1⟩ := setV1_strand t r l x
        obtain ⟨v, b, n, h2⟩ := hstrand
        exact ⟨v, b, n, by rw [h2, h1]⟩
      · rw [hq]
        exact refilled_cons (hlt l List.mem_cons_self) hgot hindices
      · rw [← hcore', hleft, hq, List.length_cons, List.drop_succ_cons]

theorem refill_lanesOf (k r : Nat) (m : Mask) (s : State) (t : Strand) :
    ∃ s' t' got, State.refill k r (lanesOf m) s t = (s', t', got) ∧ Served k r (lanesOf m) s s' t t' got :=
  refill_serves k r (lanesOf m) (fun _ hl => (mem_lanesOf.1 hl).1) (List.nodup_range.filter _) s t

theorem maskOfLanes_eq_zero {ls : List Nat} (hlt : ∀ l ∈ ls, l < 128) (h : maskOfLanes ls = 0#128) : ls = [] := by
  cases ls with
  | nil => rfl
  | cons l ls =>
    have hbit := getLsbD_maskOfLanes (l :: ls) l
    simp [h, hlt l List.mem_cons_self] at hbit

theorem lt_of_mem_served {m : Mask} {n l : Nat} (h : l ∈ (lanesOf m).take n) : l < 128 := (mem_lanesOf.1 (List.mem_of_mem_take h)).1

/-! #### LOOP ITEM -/

theorem trips_eq {n : Word} {stages : Nat} (h : stages < 8) : trips n stages = tripCount n stages := by
  rw [trips, tripCount]
  congr 1
  split <;> omega

/-- The number of stages of a well-formed LOOP. -/
theorem stages_of_wf {lvl cnt nstg rot item ireg send llen : Nat} (h : (Instr.loop lvl cnt nstg rot item ireg send llen).wf = true) : nstg < 8 := by
  simp only [Instr.wf, Bool.and_eq_true, decide_eq_true_eq] at h
  omega

section
variable {s : State} {t : Strand} {cnt nstg rot ireg send llen k : Nat}

/-- LOOP ITEM at its level: it asks the skein for an index for each active lane, but for a count of 0. -/
theorem exec_loopItem (hr : s.runs t) (hk : s.skeinOf t = some k) (hn : t.loops.length < 4) (hi : ireg < t.budget) {s1 : State} {t1 : Strand}
    {got : List Nat} (hrefill : State.refill k (t.rotN ireg) (lanesOf t.exec) s t = (s1, t1, got)) :
    exec (.loop t.loops.length cnt nstg rot 1 ireg send llen) s =
      if t.getS cnt = 0#32 then s.skipLoop t (loopFrame t cnt nstg rot 1 ireg send llen)
      else if maskOfLanes got = 0#128 then s1.skipLoop t1 (loopFrame t cnt nstg rot 1 ireg send llen)
      else s1.openLoop t1 { loopFrame t cnt nstg rot 1 ireg send llen with lexit := t.exec &&& ~~~ maskOfLanes got } (maskOfLanes got) := by
  have hrun : exec (.loop t.loops.length cnt nstg rot 1 ireg send llen) s = _ := State.run_of_runs hr _
  rw [hrun, if_neg (by omega), if_neg (by omega), if_neg (by simp), if_neg (by omega), hk]
  simp only [hrefill]

/-- The end of a skipped loop, where the strand goes on. -/
theorem skipLoop_eq (s : State) (t : Strand) (cnt nstg rot ireg send llen : Nat) :
    s.skipLoop t (loopFrame t cnt nstg rot 1 ireg send llen) =
      .next (s.setCur (t.jump (headerAfter s t (t.itemAddr + BitVec.ofNat 64 (4 * send))) (t.first + BitVec.ofNat 32 (t.nl + llen)))) := by
  rw [State.skipLoop, BitVec.ofNat_add, ← BitVec.add_assoc]
  rfl

/-- LOOP ITEM is skipped on a count of 0, and where the skein serves no lane. -/
theorem loopItem_skips (hr : s.runs t) (hk : s.skeinOf t = some k) (hn : t.loops.length < 4) (hi : ireg < t.budget)
    (h : t.getS cnt = 0#32 ∨ (lanesOf t.exec).take (skein s t k).length = []) :
    exec (.loop t.loops.length cnt nstg rot 1 ireg send llen) s =
      .next (s.setCur (t.jump (headerAfter s t (t.itemAddr + BitVec.ofNat 64 (4 * send))) (t.first + BitVec.ofNat 32 (t.nl + llen)))) := by
  obtain ⟨s1, t1, got, hrefill, hserved⟩ := refill_lanesOf k (t.rotN ireg) t.exec s t
  rw [exec_loopItem hr hk hn hi hrefill, ← skipLoop_eq s t cnt nstg rot ireg send llen]
  split
  · rfl
  · rename_i hc
    obtain rfl : got = [] := hserved.lanes.trans (h.resolve_left hc)
    obtain ⟨rfl, rfl⟩ := hserved.nobody rfl
    rw [if_pos (show maskOfLanes [] = 0#128 from rfl)]

/-- Otherwise it opens with the lanes that the skein serves. -/
theorem loopItem_opens (hr : s.runs t) (hk : s.skeinOf t = some k) (hn : t.loops.length < 4) (hi : ireg < t.budget) (hc : t.getS cnt ≠ 0#32)
    (hls : (lanesOf t.exec).take (skein s t k).length ≠ []) :
    ∃ s1 t1 got, exec (.loop t.loops.length cnt nstg rot 1 ireg send llen) s =
        s1.openLoop t1 { loopFrame t cnt nstg rot 1 ireg send llen with lexit := t.exec &&& ~~~ maskOfLanes got } (maskOfLanes got) ∧
      Served k (t.rotN ireg) (lanesOf t.exec) s s1 t t1 got := by
  obtain ⟨s1, t1, got, hrefill, hserved⟩ := refill_lanesOf k (t.rotN ireg) t.exec s t
  have hm : maskOfLanes got ≠ 0#128 := fun h0 =>
    hls (hserved.lanes.symm.trans (maskOfLanes_eq_zero (fun l hl => lt_of_mem_served (hserved.lanes ▸ hl)) h0))
  exact ⟨s1, t1, got, by rw [exec_loopItem hr hk hn hi hrefill, if_neg hc, if_neg hm], hserved⟩

end

/-- The register file alone says which lanes were refilled. -/
theorem refilled_of_vectors {t t1 t' : Strand} {r : Nat} {ls : List Nat} {q : List Word} (hv : t'.v = t1.v) (h : refilled t t1 r ls q) :
    refilled t t' r ls q := by
  have hget : ∀ r, t'.getV r = t1.getV r := fun r => by rw [Strand.getV, Strand.getV, hv]
  obtain ⟨hin, hout, hother⟩ := h
  refine ⟨fun i l hi => ?_, fun l hlt hl => ?_, fun q hq => ?_⟩
  · rw [hget]; exact hin i l hi
  · rw [hget]; exact hout l hlt hl
  · rw [hget]; exact hother q hq

/-- The strand that LOOP leaves in an open loop. -/
theorem openLoop_eq (s : State) (t : Strand) (l : LoopFrame) (m : Mask) :
    s.openLoop t l m = .next (s.setCur (Strand.advance
      { t with loops := l :: t.loops, stage := 1#8, exec := m, seqNo := t.seqNo + 1, lfTop := t.lfTop ||| 2 ^ t.loops.length } 2)) := rfl

/-! #### The back edge of an ITEM loop -/

/-- The trips left of an ITEM loop after a back edge: an unbounded one keeps its count (R62). -/
def nextTrips (l : LoopFrame) : Word := if l.trips = 0xFFFFFFFF#32 then l.trips else l.trips - 1#32

/-- The strand at a back edge of its ITEM loop l, within the loops fs, when the lanes m have been refilled. -/
def rejoined (t : Strand) (l : LoopFrame) (fs : List LoopFrame) (m : Mask) : Strand :=
  { t with
    exec := t.exec ||| m, stage := (t.stage <<< 1) ||| (if l.stages - 1 < (nextTrips l).toNat then 1#8 else 0#8),
    loops := { l with trips := nextTrips l, lexit := l.lexit &&& ~~~ m } :: fs }

/-- The strand past loop l. -/
def pastLoop (s : State) (t : Strand) (l : LoopFrame) : Strand := { (t.popLoop).jump (s.afterEnd t l.endSpc) l.endLpc with edge := false }

section
variable {s s1 : State} {t t1 : Strand} {l : LoopFrame} {fs : List LoopFrame} {k : Nat} {got : List Nat}

/-- One round of the back edge of an ITEM loop that goes on, or that no lane is left in. -/
theorem backEdgeGo_item (hl : t.loops = l :: fs) (hitem : l.item = true) (hrot : l.rot = false) (hk : s.skeinOf t = some k)
    (htrips : l.trips = 0xFFFFFFFF#32 ∨ 1 < l.trips.toNat) (hstage : t1.stage = t.stage)
    (hrefill : State.refill k (t.rotN l.ireg) (lanesOf (l.lexit &&& t.live)) s t = (s1, t1, got)) (n : Nat) :
    State.backEdgeGo l.endSpc (n + 1) s t =
      let u := rejoined t1 l fs (maskOfLanes got)
      if u.exec = 0#128 then
        if (pastLoop s1 u l).edgeAt l.endSpc then State.backEdgeGo l.endSpc n s1 (pastLoop s1 u l) else (s1, pastLoop s1 u l)
      else (s1, Strand.cross { u.jump l.startSpc l.startLpc with edge := false }) := by
  obtain ⟨startSpc, endSpc, startLpc, endLpc, trips, rot, item, stages, depth, ireg, stage, entry, lexit, seq⟩ := l
  dsimp only at hitem hrot htrips hrefill
  subst hitem hrot
  rw [State.backEdgeGo, hl]
  simp only [Bool.true_and, beq_iff_eq, if_pos htrips, Bool.false_eq_true, if_false, if_true, hk, hrefill, ← hstage]
  rfl

/-- A back edge is not due where the enclosing loop does not end. -/
theorem edgeAt_false_of_endsAlone {t u : Strand} {fw : DWord} (hl : u.loops = fs) (hret : u.rets = t.rets) (h : endsAlone t fw fs) :
    ¬ u.edgeAt fw = true := by
  rw [Strand.edgeAt, hl, hret]
  cases fs with
  | nil => simp
  | cons m ms => simpa using h m rfl

theorem exec_backEdge (hr : s.runs t) (hedge : t.edge = true) (hl : t.loops = l :: fs) :
    exec .backEdge s = .next ((State.backEdgeGo l.endSpc 5 s t).1.setCur (State.backEdgeGo l.endSpc 5 s t).2) := by
  have hrun : exec .backEdge s = .next ((s.backEdge t).1.setCur (s.backEdge t).2) := State.run_of_runs hr _
  rw [hrun, State.backEdge, hl]
  simp only [hedge, if_true]

end

/-- Settles O19: both clauses go through `refill`, whose run over the lanes `Served` describes. -/
theorem itemLoopsTakeIndicesFromTheSkein : Obligations.ItemLoopsTakeIndicesFromTheSkein := by
  refine ⟨fun s t cnt nstg rot ireg send llen k hr _ hk hwf hn hi => ⟨fun h => ?_, fun hc hls => ?_⟩, ?_⟩
  · exact ⟨_, loopItem_skips hr hk hn hi h, State.strand_setCur _ _, rfl, State.sameMemory_setCur _ _⟩
  · obtain ⟨s1, t1, got, he, hserved⟩ := loopItem_opens (nstg := nstg) (rot := rot) (send := send) (llen := llen) hr hk hn hi hc hls
    obtain ⟨rfl, ⟨v, bad, spin, rfl⟩, hindices, hleft, hcur, hmem, -⟩ := hserved
    refine ⟨_, _, { loopFrame t cnt nstg rot 1 ireg send llen with lexit := t.exec &&& ~~~ maskOfLanes ((lanesOf t.exec).take (skein s t k).length) },
      he.trans (openLoop_eq _ _ _ _), State.strand_setCur _ _, ?_⟩
    refine ⟨?_, rfl, (trips_eq (stages_of_wf hwf)).symm, rfl, rfl, ?_, rfl, ?_, ?_, hleft, ?_, ?_⟩
    · rw [Strand.advance_loops]
    · rw [Strand.advance_exec]
    · rw [Strand.advance_stage]
    · exact refilled_of_vectors (by rw [Strand.advance_v]) hindices
    · rw [Strand.advance_s]
    · exact sameMemory_trans hmem (State.sameMemory_setCur _ _)
  · intro s t l fs k hr hedge hl hitem hrot _ hk htrips
    obtain ⟨s1, t1, got, hrefill, hserved⟩ := refill_lanesOf k (t.rotN l.ireg) (l.lexit &&& t.live) s t
    have hstage : t1.stage = t.stage := by
      obtain ⟨_, _, _, h1⟩ := hserved.strand
      rw [h1]
    have he := exec_backEdge hr hedge hl
    rw [backEdgeGo_item hl hitem hrot hk htrips hstage hrefill] at he
    refine ⟨fun hne hu => ?_, fun h0 halone => ?_⟩
    · obtain ⟨rfl, ⟨v, bad, spin, rfl⟩, hindices, hleft, hcur, hmem, -⟩ := hserved
      simp only [if_neg (show ¬ (rejoined { t with v := v, bad := bad, spin := spin } l fs _).exec = 0#128 from hne)] at he
      obtain ⟨n, hcross⟩ := cross_unwatched (t := { (rejoined { t with v := v, bad := bad, spin := spin } l fs
        (maskOfLanes ((lanesOf (l.lexit &&& t.live)).take (skein s t k).length))).jump l.startSpc l.startLpc with edge := false }) hu
      rw [hcross] at he
      exact ⟨_, _, he, State.strand_setCur _ _, ⟨rfl, rfl, rfl⟩, rfl, refilled_of_vectors rfl hindices, ⟨_, rfl, rfl, rfl⟩, hleft, rfl,
        sameMemory_trans hmem (State.sameMemory_setCur _ _)⟩
    · rw [← hserved.lanes] at h0
      obtain ⟨hexec, hm⟩ := BitVec.or_eq_zero_iff.1 h0
      have hgot : got = [] := maskOfLanes_eq_zero (fun j hj => lt_of_mem_served (hserved.lanes ▸ hj)) hm
      obtain ⟨rfl, rfl⟩ := hserved.nobody hgot
      have hpast : pastLoop s1 (rejoined t1 l fs (maskOfLanes got)) l =
          { t1.jump (headerAfter s1 t1 l.endSpc) l.endLpc with
            exec := l.entry &&& t1.live, stage := l.stage, loops := fs, edge := false } := rfl
      simp only [if_pos (show (rejoined t1 l fs (maskOfLanes got)).exec = 0#128 from h0), hpast] at he
      rw [if_neg (edgeAt_false_of_endsAlone rfl rfl halone)] at he
      exact ⟨_, _, he, State.strand_setCur _ _, ⟨⟨rfl, rfl, rfl⟩, rfl, rfl, rfl, rfl⟩, rfl, State.sameMemory_setCur _ _⟩

end Sys2Proof.Proofs
end

/-! ### Scalar loads and atomics at the end of a sector (spec/06 R161, R162) -/
section
namespace Sys2Proof.Proofs
open Sys2Proof Sys2Proof.Machine Sys2Proof.Rules

/-- The words that the running strand's operations are to land, an operation at a time. -/
def landing (s : State) : Option (List (List Word)) := (s.strand? s.cur).map (fun t => t.ops.map (fun o => o.lands.map (·.val)))

/-- Of one operation that lands one word, the word that the step gives it is the word that the statement names. -/
theorem landing_of_issuedOp {s s' : State} {t t' : Strand} {i : Instr} {p : Path} {fs : Nat} {dst : Dst} {v w : Word}
    (he : exec i s = .next s') (hruns : s'.runs t') (hops : t.ops = []) (hissued : issuedOp t t' p fs [(dst, w)])
    (h : ∃ u, exec i s = .next u ∧ landing u = some [[v]]) : v = w := by
  obtain ⟨u, hu, hval⟩ := h
  obtain ⟨o, hnew, -, -, -, hlands⟩ := hissued
  have hnow : s'.strand? s'.cur = some t' := hruns
  rw [← Host.Outcome.next.inj (he.symm.trans hu), landing, hnow, Option.map_some, hnew, hops] at hval
  have hmodel : o.lands.map (·.val) = [v] := by simpa using hval
  have hrule := congrArg (List.map Prod.snd) hlands
  rw [List.map_map] at hrule
  simpa using hmodel.symm.trans hrule

/-- An SC page whose base lies 2 bytes before the end of a sector. -/
def splitScPage : Tlb :=
  { base := 2 ^ 51 + 62, w := true, x := false, u := true, coh := 1, owner := 0, rof := false, pinok := false, dirty := true, peer := false }

/-- A strand of core 0, whose TLB holds that translation of virtual address 0; byte 2 of the word there holds 1. -/
def splitLoadState : State :=
  { State.reset with
    parts := [(0, lpPart)],
    mem := [(2 ^ 51 + 64, 1#8)],
    cores := [(0, { State.coreDefault with tlb := [(0, splitScPage)] })],
    strands := [(0, countingStrand)] }

theorem splitLoadState_runs : splitLoadState.runs countingStrand := rfl

theorem passes_splitLoad : passes splitLoadState countingStrand (scalarAcc countingStrand 0 0 4 false) splitScPage := ⟨rfl, rfl⟩

theorem issues_splitLoad : issues splitLoadState countingStrand .ld [(scalarAcc countingStrand 0 0 4 false, splitScPage)] 0 0 := rfl

theorem roomy_splitLoad : roomy splitLoadState 0 1 := by
  unfold roomy
  decide

theorem quiet_splitLoad : quiet splitLoadState countingStrand 0 false :=
  ⟨fun _ => rfl, roomy_splitLoad, splitScPage, by decide, by simp, by decide⟩

theorem clean_splitLoad : clean splitLoadState countingStrand (2 ^ 51 + 62) 4 1 := by
  unfold clean
  decide

theorem exec_lds_split : ∃ s', exec (.lds 2 0 0 0) splitLoadState = .next s' ∧ landing s' = some [[0#32]] := ⟨_, rfl, by decide⟩

/-- The word at that address in memory. -/
theorem scalarWord_split : scalarWord splitLoadState countingStrand (2 ^ 51 + 62) 0 1 = 0x10000#32 := by decide

/-- Refutes O15: a translation's base need not be a multiple of a sector. A scalar load fills the L1 with its first byte's sector and reads
all its bytes there, so that a word that crosses the end of it takes its upper half from the sector's start, not from memory. -/
theorem not_scalarLoadsAndStoresMoveTheirWords : ¬ Obligations.ScalarLoadsAndStoresMoveTheirWords := by
  rintro ⟨h, -⟩
  obtain ⟨s', t', he, hruns, hissued, -⟩ := h splitLoadState countingStrand (.lds 2 0 0 0) 2 0 0 0 1 splitScPage
    splitLoadState_runs rfl rfl passes_splitLoad issues_splitLoad quiet_splitLoad clean_splitLoad
  have hword := (landing_of_issuedOp he hruns rfl hissued exec_lds_split).trans scalarWord_split
  revert hword
  decide

/-! #### ATOMS -/

/-- The same page as one of command pages that core 0 owns. -/
def splitCpPage : Tlb := { splitScPage with coh := 2 }

/-- The state with that translation instead. -/
def splitAtomState : State := { splitLoadState with cores := [(0, { State.coreDefault with tlb := [(0, splitCpPage)] })] }

theorem splitAtomState_runs : splitAtomState.runs countingStrand := rfl

theorem passes_splitAtom : passes splitAtomState countingStrand { scalarAcc countingStrand 0 0 4 true with rd := true } splitCpPage := ⟨rfl, rfl⟩

theorem issues_splitAtom :
    issues splitAtomState countingStrand .atm [({ scalarAcc countingStrand 0 0 4 true with rd := true }, splitCpPage)] 0 0 := rfl

theorem roomy_splitAtom : roomy splitAtomState 0 1 := by
  unfold roomy
  decide

theorem quiet_splitAtom : quiet splitAtomState countingStrand 0 true :=
  ⟨fun _ => rfl, roomy_splitAtom, splitCpPage, by decide, by simp [splitCpPage, splitScPage], by decide⟩

theorem clean_splitAtom : clean splitAtomState countingStrand (2 ^ 51 + 62) 4 2 := by
  unfold clean
  decide

theorem exec_atoms_split : ∃ s', exec (.atoms 2 0 0 0 0 0) splitAtomState = .next s' ∧ landing s' = some [[0#32]] := ⟨_, rfl, by decide⟩

theorem coreRead_split : splitAtomState.coreRead 0 (2 ^ 51 + 62) 4 2 = 0x10000 := by decide

/-- Refutes O16: as for O15, an ATOMS on a command page of its core takes the old value from the L1, the upper half from the sector's start. -/
theorem not_atomicsReturnTheOldValueAndWriteTheNew : ¬ Obligations.AtomicsReturnTheOldValueAndWriteTheNew := by
  rintro ⟨h, -⟩
  obtain ⟨-, hold⟩ := h splitAtomState countingStrand 2 0 0 0 0 0 splitCpPage splitAtomState_runs rfl passes_splitAtom issues_splitAtom
  obtain ⟨s', t', he, hruns, hissued, -⟩ :=
    hold rfl (fun h => absurd h (by decide)) rfl quiet_splitAtom (.inr rfl) clean_splitAtom
  have hword : 0#32 = BitVec.ofNat 32 (splitAtomState.coreRead 0 (2 ^ 51 + 62) 4 2) := landing_of_issuedOp he hruns rfl hissued exec_atoms_split
  rw [coreRead_split] at hword
  revert hword
  decide

end Sys2Proof.Proofs
end

/-! ### A shuttle's chunk at the end of a sector (spec/06 R187, spec/16 R300) -/
section
namespace Sys2Proof.Proofs
open Sys2Proof Sys2Proof.Machine Sys2Proof.Rules

/-- A COPYIN of one chunk, from virtual address 0 to scratch offset 0. -/
def oneChunk : Sht := { kind := 0, x := [0#32, 0#32, 0#32, 0x010101#32], y := [0#32, 0#32, 0#32, 0#32], done := [] }

/-- The command in flight. -/
def copyOp : Op := { id := 0, path := .sh, flag := none, sht := some oneChunk }

/-- Its strand. -/
def copyingStrand : Strand := { countingStrand with ops := [copyOp], nextOp := 1 }

/-- The strand's weave, its scratch intact. -/
def soundWeave : Weave := { tiledWeave with scrPoison := [] }

/-- A peer's page (COH 5) whose base lies 4 bytes before the end of a sector. -/
def splitPeerPage : Tlb := { splitPage with base := 2 ^ 51 + 60 }

/-- The strand with its command in flight, the translation held by its core's TLB, and byte 4 of the chunk holding 1; the partition's
memory channels have bytes left. -/
def splitCopyState : State :=
  { State.reset with
    parts := [(0, { lpPart with pwr := (1#32, 0#32) })],
    mem := [(2 ^ 51 + 64, 1#8)],
    cores := [(0, { State.coreDefault with tlb := [(0, splitPeerPage)] })],
    weaves := [(1, soundWeave)],
    strands := [(0, copyingStrand)] }

theorem calm_splitCopy : calm splitCopyState copyingStrand soundWeave := by
  have hl1 : ∀ k, (splitCopyState.core k).l1 = [] := by
    intro k
    simp only [State.core, splitCopyState, AMap.get, AMap.look]
    split <;> rfl
  refine ⟨rfl, rfl, fun k x hx => ?_, fun _ => rfl, rfl⟩
  rw [hl1 k] at hx
  cases hx

theorem roomy_splitCopy : roomy splitCopyState 0 1 := by
  unfold roomy
  decide

theorem quiet_splitCopy : quiet splitCopyState copyingStrand 0 false :=
  ⟨fun _ => rfl, roomy_splitCopy, splitPeerPage, by decide, by simp, by decide⟩

theorem xlate_splitCopy : splitCopyState.xlate 0 0 0 0 true .read = .ok splitPeerPage := by decide

theorem clean_splitCopy : clean splitCopyState copyingStrand (2 ^ 51 + 60) 16 0 := by
  unfold clean
  decide

theorem chanSpent_splitCopy : splitCopyState.chanSpent 0 0 = false := by decide

theorem exec_copy_split : ∃ s', exec (.shuttleComplete 0) splitCopyState = .next s' ∧ s'.scrRead 1 0 16 = 0 := ⟨_, rfl, by decide⟩

theorem homeRead_splitCopy : splitCopyState.homeRead (2 ^ 51 + 60) 16 = 2 ^ 32 := by decide

/-- The one chunk passes its checks. -/
theorem chunk_splitCopy {c : Nat} (hc : c < (boxOf oneChunk.x oneChunk.y).chunks) :
    splitCopyState.xlate 0 0 0 (chunkAddr splitCopyState copyingStrand oneChunk c) true .read = .ok splitPeerPage ∧
      quiet splitCopyState copyingStrand (chunkAddr splitCopyState copyingStrand oneChunk c) false ∧
      splitCopyState.serialHolds 0 (State.physOf splitPeerPage (chunkAddr splitCopyState copyingStrand oneChunk c)) false = false ∧
      clean splitCopyState copyingStrand (State.physOf splitPeerPage (chunkAddr splitCopyState copyingStrand oneChunk c)) 16 0 := by
  obtain rfl : c = 0 := Nat.lt_one_iff.1 hc
  exact ⟨xlate_splitCopy, quiet_splitCopy, by decide, clean_splitCopy⟩

/-- Refutes O32: a translation's base need not be a multiple of a sector. Of a chunk of a peer's page that crosses the end of one, COPYIN
takes the rest from that sector's start in the home slice, not from the memory behind it. -/
theorem not_shuttleCommandsIssueAndMoveTheirChunks : ¬ Obligations.ShuttleCommandsIssueAndMoveTheirChunks := by
  rintro ⟨-, h⟩
  obtain ⟨hboxes, -⟩ := h splitCopyState 0 copyingStrand soundWeave copyOp oneChunk rfl rfl rfl rfl rfl rfl rfl (by decide) calm_splitCopy rfl rfl
    chanSpent_splitCopy (by decide)
  obtain ⟨hread, -⟩ := hboxes (by decide)
  obtain ⟨s', t', he, -, -, -, hmoved⟩ := hread (fun _ => splitPeerPage) (.inl rfl) (fun c hc => chunk_splitCopy hc) (fun h => absurd h (by decide))
  obtain ⟨u, hu, hval⟩ := exec_copy_split
  have hrule := hmoved 0 (by decide) (fun c' h0 h1 => absurd h1 (Nat.not_lt.2 h0))
  rw [Host.Outcome.next.inj (he.symm.trans hu)] at hrule
  have hmodel := hval.symm.trans (hrule.trans homeRead_splitCopy)
  revert hmodel
  decide

end Sys2Proof.Proofs
end

/-! ### CANCEL's signal at the end of a sector (spec/06 R149, spec/11 R251, spec/16 R300) -/
section
namespace Sys2Proof.Proofs
open Sys2Proof Sys2Proof.Machine Sys2Proof.Rules

/-- The page, performed at the home, of CANCEL's ARG quad. -/
def argPage : Tlb :=
  { base := 2 ^ 40 + 4096, w := true, x := false, u := true, coh := 0, owner := 0, rof := false, pinok := false, dirty := true, peer := false }

/-- Partition 0 with queue 0's ARG at virtual address 4096. -/
def cancelPart : Part := { lpPart with queues := [(0, { State.queueDefault with arg := 4096 })] }

/-- Lane 0's command core at a CANCEL: the ARG quad names itself as the descriptor, all of whose words but the first are 0, so that the
signal's address is 0, in a peer's page whose base lies 4 bytes before the end of a sector. -/
def cancelState : State :=
  { State.reset with
    cur := ccBase,
    parts := [(0, cancelPart)],
    mem := [(2 ^ 40 + 4097, 16#8)],
    cores := [(257, { State.coreDefault with tlb := [(0, splitPage), (1, argPage)] })],
    strands := [(ccBase, countingStrand)] }

theorem cancelState_runs : cancelState.runs countingStrand := rfl

/-- The quad and the descriptor are read, and the signal passes its checks. -/
theorem reads_cancel : ∃ s1 s2, cancelState.argDesc 0 4096 = .ok (4096, 0#32, s1) ∧
    State.readWords 1000000 (cancelState.laneAgent 0) (State.wordAddrs 4096 32) s1 = .ok (4096#32 :: List.replicate 31 0#32, s2) ∧
    s2.publishWaits 0 = false ∧ (s2.publish 0).checkAcc 1000000 (cancelState.laneAgent 0) (signalAcc 0 true) true = .ok splitPage ∧
    noPeers (s2.publish 0) 0 := by
  refine ⟨_, _, rfl, rfl, by decide, rfl, ?_⟩
  unfold noPeers
  decide

theorem exec_cancel_split : ∃ s', exec (.cancel 0) cancelState = .next s' ∧ s'.homeRead (2 ^ 40 + 60) 8 = 0 := ⟨_, rfl, by decide⟩

/-- Refutes O34: as for O37, of a CANCEL's signal in a peer's page that crosses the end of a sector, the status lands at that sector's
start, and its own place keeps what it held. -/
theorem not_launchAndCommandCoreWordsSubmitBolts : ¬ Obligations.LaunchAndCommandCoreWordsSubmitBolts := by
  rintro ⟨-, h⟩
  obtain ⟨-, hcc⟩ := h cancelState countingStrand 0 0 cancelState_runs (by decide) (by decide)
  obtain ⟨-, -, -, hcancel⟩ := hcc rfl rfl
  obtain ⟨s1, s2, harg, hread, hwaits, hcheck, hpeers⟩ := reads_cancel
  obtain ⟨-, -, hsignal⟩ := hcancel 4096 0#32 s1 rfl harg
  obtain ⟨s', he, -, hwritten⟩ := hsignal _ s2 splitPage (by decide) rfl hread hwaits hcheck hpeers (.inl rfl)
  obtain ⟨u, hu, hval⟩ := exec_cancel_split
  rw [Host.Outcome.next.inj (he.symm.trans hu)] at hwritten
  have hmodel := hval.symm.trans hwritten
  revert hmodel
  decide

end Sys2Proof.Proofs
end

/-! ### A clasp's object in a part that stands still (spec/06 R175 to R177, spec/03 R80, R88, R100) -/
section
namespace Sys2Proof.Proofs
open Sys2Proof Sys2Proof.Machine Sys2Proof.Rules

/-! #### The words of an object -/

/-- The clasp whose six words stand at o. -/
def claspOf (m : AMap Byte) (o : Nat) : Clasp :=
  { w0 := scrWord m o, e := scrWord m (o + 4), a := scrWord m (o + 8), j := scrWord m (o + 12), early := scrWord m (o + 16), held := scrWord m (o + 20) }

/-- The bytes that hold an object: its weave's scratch, or memory. -/
def objectBytes (a : State) (p : CPlace) : AMap Byte :=
  match p with
  | .scr wk _ => ((a.weave? wk).map (·.scr)).getD []
  | .mem _ => a.mem

/-- Where in them it stands. -/
def objectAt (p : CPlace) : Nat :=
  match p with
  | .scr _ off => off
  | .mem pa => pa

/-- Strand t has nothing to write back, and nothing waits to be combined. -/
structure CacheRest (t : Strand) (a : State) : Prop where
  stash : (a.core t.core).stash = []
  clean : ∀ e ∈ (a.core t.core).l1, e.2.dirty = 0#16
  comb : ∀ c, (a.clu c).comb = []

/-- Nothing moves around strand t and the object at p: what `still` says, but for the translation and for poison. -/
structure ClaspRest (t : Strand) (p : CPlace) (a : State) : Prop extends CacheRest t a where
  object : match p with
    | .scr wk _ => ∃ w, a.weave? wk = some w ∧ (a.core w.home).stash = []
    | .mem pa => reachable a pa

theorem ClaspRest.scr {t : Strand} {wk off : Nat} {a : State} (h : ClaspRest t (.scr wk off) a) : ∃ w, a.weave? wk = some w ∧ (a.core w.home).stash = [] :=
  h.object

theorem ClaspRest.reach {t : Strand} {pa : Nat} {a : State} (h : ClaspRest t (.mem pa) a) : reachable a pa := h.object

theorem claspRead_eq {t : Strand} {p : CPlace} {a : State} (h : ClaspRest t p a) : a.claspRead p = claspOf (objectBytes a p) (objectAt p) := by
  cases p with
  | scr wk off =>
    obtain ⟨w, hw, hst⟩ := h.scr
    simp only [State.claspRead, stashFill_eq_self hw hst, State.scrRead, objectBytes]
    rw [hw]
    rfl
  | mem pa =>
    simp only [State.claspRead, combine_eq_self h.comb, State.homeRead, State.homeBytes, State.homeByte]
    rfl

/-- The bytes of an object, as a write lays them down. -/
def claspBytes (c : Clasp) : List Byte := State.bytesOfWords [c.w0, c.e, c.a, c.j, c.early, c.held]

theorem length_claspBytes (c : Clasp) : (claspBytes c).length = 24 := rfl

theorem scrWord_of_claspBytes {m : AMap Byte} {o : Nat} {c : Clasp} (h : ∀ i, i < 24 → AMap.get m (o + i) 0#8 = (claspBytes c).getD i 0#8)
    {k : Nat} {v : Word} (hk : k < 6) (hv : ∀ i, i = 0 ∨ i = 1 ∨ i = 2 ∨ i = 3 → (claspBytes c).getD (4 * k + i) 0#8 = byteAt v.toNat i) :
    scrWord m (o + 4 * k) = v := by
  refine scrWord_of_bytes fun i hi => ?_
  rw [Nat.add_assoc, h _ (by omega), hv i (by omega)]

theorem claspOf_of_bytes {m : AMap Byte} {o : Nat} {c : Clasp} (h : ∀ i, i < 24 → AMap.get m (o + i) 0#8 = (claspBytes c).getD i 0#8) :
    claspOf m o = c := by
  have h0 := scrWord_of_claspBytes h (k := 0) (v := c.w0) (by omega) (by rintro i (rfl | rfl | rfl | rfl) <;> rfl)
  have h1 := scrWord_of_claspBytes h (k := 1) (v := c.e) (by omega) (by rintro i (rfl | rfl | rfl | rfl) <;> rfl)
  have h2 := scrWord_of_claspBytes h (k := 2) (v := c.a) (by omega) (by rintro i (rfl | rfl | rfl | rfl) <;> rfl)
  have h3 := scrWord_of_claspBytes h (k := 3) (v := c.j) (by omega) (by rintro i (rfl | rfl | rfl | rfl) <;> rfl)
  have h4 := scrWord_of_claspBytes h (k := 4) (v := c.early) (by omega) (by rintro i (rfl | rfl | rfl | rfl) <;> rfl)
  have h5 := scrWord_of_claspBytes h (k := 5) (v := c.held) (by omega) (by rintro i (rfl | rfl | rfl | rfl) <;> rfl)
  unfold claspOf
  rw [show scrWord m o = c.w0 from h0, h1, h2, h3, h4, h5]

/-! #### Work that leaves the object alone -/

/-- From a to a' nothing that a clasp's object, a release or an acquire looks at has moved. -/
structure Neutral (a a' : State) : Prop where
  mem : a'.mem = a.mem
  link : a'.linkUp = a.linkUp
  clus : a'.clus = a.clus
  cur : a'.cur = a.cur
  stash : ∀ k, (a.core k).stash = [] → (a'.core k).stash = []
  clean : ∀ k, (∀ e ∈ (a.core k).l1, e.2.dirty = 0#16) → ∀ e ∈ (a'.core k).l1, e.2.dirty = 0#16
  scratch : ∀ k, (a'.weave? k).map (fun w => (w.home, w.scr)) = (a.weave? k).map (fun w => (w.home, w.scr))
  waits : nobodyWaits a → nobodyWaits a'

theorem Neutral.refl (a : State) : Neutral a a := ⟨rfl, rfl, rfl, rfl, fun _ => id, fun _ => id, fun _ => rfl, id⟩

theorem Neutral.trans {a b c : State} (h : Neutral a b) (h' : Neutral b c) : Neutral a c where
  mem := h'.mem.trans h.mem
  link := h'.link.trans h.link
  clus := h'.clus.trans h.clus
  cur := h'.cur.trans h.cur
  stash := fun k hk => h'.stash k (h.stash k hk)
  clean := fun k hk => h'.clean k (h.clean k hk)
  scratch := fun k => (h'.scratch k).trans (h.scratch k)
  waits := fun hw => h'.waits (h.waits hw)

section
variable {t : Strand} {p : CPlace} {a a' : State}

theorem Neutral.rest (h : Neutral a a') (ha : ClaspRest t p a) : ClaspRest t p a' where
  stash := h.stash _ ha.stash
  clean := h.clean _ ha.clean
  comb := fun c => by rw [State.clu, h.clus]; exact ha.comb c
  object := by
    cases p with
    | scr wk off =>
      obtain ⟨w, hw, hst⟩ := ha.scr
      have hs := h.scratch wk
      rw [hw, Option.map_some, Option.map_eq_some_iff] at hs
      obtain ⟨w', hw', he⟩ := hs
      refine ⟨w', hw', ?_⟩
      rw [show w'.home = w.home from (Prod.mk.inj he).1]
      exact h.stash _ hst
    | mem pa => exact ha.reach.imp id (fun hl => h.link.trans hl)

theorem Neutral.objectBytes (h : Neutral a a') (p : CPlace) : objectBytes a' p = objectBytes a p := by
  cases p with
  | scr wk off =>
    have hs := congrArg (Option.map Prod.snd) (h.scratch wk)
    rw [Option.map_map, Option.map_map] at hs
    exact congrArg (fun o : Option (AMap Byte) => o.getD []) hs
  | mem pa => exact h.mem

theorem Neutral.claspRead (h : Neutral a a') (ha : ClaspRest t p a) : a'.claspRead p = a.claspRead p := by
  rw [claspRead_eq ha, claspRead_eq (h.rest ha), h.objectBytes]

theorem Neutral.only (h : Neutral a a') (p : CPlace) : onlyObject a a' p := by
  cases p with
  | scr wk off => exact h.mem
  | mem pa => exact fun b _ => by rw [State.homeByte, State.homeByte, h.mem]

end

/-! #### Maintenance that finds nothing to do -/

theorem neutral_setCore {a : State} {k : Nat} {c : Cor} (hst : (a.core k).stash = [] → c.stash = [])
    (hl1 : (∀ e ∈ (a.core k).l1, e.2.dirty = 0#16) → ∀ e ∈ c.l1, e.2.dirty = 0#16) : Neutral a (a.setCore k c) where
  mem := rfl
  link := rfl
  clus := rfl
  cur := rfl
  stash := fun j hj => by
    by_cases hk : j = k
    · subst hk
      rw [State.core_setCore]
      exact hst hj
    · rw [State.core_setCore_ne _ _ hk]
      exact hj
  clean := fun j hj => by
    by_cases hk : j = k
    · subst hk
      rw [State.core_setCore]
      exact hl1 hj
    · rw [State.core_setCore_ne _ _ hk]
      exact hj
  scratch := fun _ => rfl
  waits := id

theorem neutral_doom (a : State) (me pa : Nat) (wr : Bool) : Neutral a (a.doom me pa wr) where
  mem := rfl
  link := rfl
  clus := rfl
  cur := rfl
  stash := fun _ => id
  clean := fun _ => id
  scratch := fun _ => rfl
  waits := fun hw e he h x => by
    obtain ⟨e0, he0, rfl⟩ := List.mem_map.1 he
    have hkeep := hw e0 he0 h x
    split
    · exact hkeep
    · split
      · split <;> exact hkeep
      · exact hkeep

section
variable {t : Strand} {p : CPlace} {a : State}

theorem stashClean_eq_setCore {core : Nat} (h : (a.core core).stash = []) (me : Nat) (unfill : Bool) (q : Stash → Bool) :
    a.stashClean me core unfill q = a.setCore core { a.core core with stash := [] } := by
  unfold State.stashClean
  rw [h]
  rfl

theorem neutral_stashClean {core : Nat} (h : (a.core core).stash = []) (me : Nat) (unfill : Bool) (q : Stash → Bool) :
    Neutral a (a.stashClean me core unfill q) := by
  rw [stashClean_eq_setCore h]
  exact neutral_setCore (fun _ => rfl) id

theorem neutral_l1Clean {core : Nat} (h : ∀ e ∈ (a.core core).l1, e.2.dirty = 0#16) (sec : Nat) : Neutral a (a.l1Clean core sec false) := by
  unfold State.l1Clean
  split
  · exact Neutral.refl a
  · rename_i y hy
    split
    · exact Neutral.refl a
    · rw [sectorHome_clean (h _ (mem_of_look hy))]
      refine neutral_setCore id fun _ z hz => ?_
      rcases AMap.mem_put hz with rfl | hz
      · rfl
      · exact h z hz

theorem neutral_l1CleanAll {core : Nat} (h : ∀ e ∈ (a.core core).l1, e.2.dirty = 0#16) (q : Sector → Bool) :
    Neutral a (a.l1CleanAll core q false) :=
  foldl_keeps (P := Neutral a) (fun _ e hb => hb.trans (neutral_l1Clean (hb.clean core h) e.1)) _ a (Neutral.refl a)

/-- Clean sectors dropped: none is left partly dirty. -/
theorem l1DropClean_eq_setCore {core : Nat} (h : ∀ e ∈ (a.core core).l1, e.2.dirty = 0#16) (q : Sector → Bool) :
    a.l1DropClean core q = a.setCore core { a.core core with l1 := (a.core core).l1.filter (fun e => !(q e.2 && e.2.dirty == 0#16)) } := by
  have hnone : ((a.core core).l1.filter (fun e => !(q e.2 && e.2.dirty == 0#16))).filter (fun e => q e.2 && e.2.dirty != 0xFFFF#16) = [] := by
    refine List.filter_eq_nil_iff.2 fun e he hq => ?_
    obtain ⟨hin, hkept⟩ := List.mem_filter.1 he
    obtain ⟨hqe, -⟩ := Bool.and_eq_true_iff.1 hq
    simp [hqe, h e hin] at hkept
  unfold State.l1DropClean
  simp only [State.core_setCore, hnone, List.foldl_nil]

theorem neutral_l1DropClean {core : Nat} (h : ∀ e ∈ (a.core core).l1, e.2.dirty = 0#16) (q : Sector → Bool) : Neutral a (a.l1DropClean core q) := by
  rw [l1DropClean_eq_setCore h]
  exact neutral_setCore id fun hc e he => hc e (List.mem_of_mem_filter he)

theorem scopeOf_le {scope : Nat} (a : State) (t : Strand) (h : scope ≤ 4) : a.scopeOf t scope ≤ 4 := by
  unfold State.scopeOf
  split <;> omega

theorem neutral_releaseAt {scope : Nat} (h : CacheRest t a) (hs : scope ≤ 4) (me : Nat) : Neutral a (a.releaseAt me t scope) := by
  have hsc := scopeOf_le a t hs
  unfold State.releaseAt
  have h1 := State.ite_keeps (P := Neutral a) (c := 1 ≤ a.scopeOf t scope) (neutral_stashClean h.stash me false (fun _ => true)) (Neutral.refl a)
  have h2 := State.ite_keeps (P := Neutral a) (c := 2 ≤ a.scopeOf t scope)
    (h1.trans (neutral_l1CleanAll (h1.clean _ h.clean) State.isSc)) h1
  have hcomb : ∀ b : State, Neutral a b → b.combineClu (t.core / 2) = b := by
    intro _ hb
    rw [State.combineClu, State.clu, hb.clus, show (AMap.get a.clus (t.core / 2) State.cluDefault).comb = [] from h.comb _]
    rfl
  have h3 := State.ite_keeps (P := Neutral a) (c := 3 ≤ a.scopeOf t scope) ((hcomb _ h2).symm ▸ h2) h2
  simp only [if_neg (show ¬ 5 ≤ a.scopeOf t scope by omega)]
  exact h3

theorem neutral_acquireAt {scope : Nat} (h : CacheRest t a) (hs : scope ≤ 4) (me : Nat) : Neutral a (a.acquireAt me t scope) := by
  have hsc := scopeOf_le a t hs
  unfold State.acquireAt
  have hc := neutral_stashClean h.stash me true (fun _ => true)
  have h1 := State.ite_keeps (P := Neutral a) (c := 1 ≤ a.scopeOf t scope)
    (hc.trans (neutral_setCore (k := t.core) (c := { (a.stashClean me t.core true (fun _ => true)).core t.core with cc := [] }) id id)) (Neutral.refl a)
  simp only [if_neg (show ¬ 5 ≤ a.scopeOf t scope by omega)]
  exact State.ite_keeps (P := Neutral a) (c := 2 ≤ a.scopeOf t scope) (h1.trans (neutral_l1DropClean (h1.clean _ h.clean) State.isSc)) h1

/-- Nothing that a release writes back is held by another's transaction. -/
theorem releaseWaits_false (h : CacheRest t a) (me scope : Nat) : a.releaseWaits me t scope = false := by
  have hl1 : ∀ q : Nat × Sector → Bool, (a.core t.core).l1.any (fun e => State.isSc e.2 && e.2.dirty != 0#16 && q e) = false := fun q => by
    rw [List.any_eq_false]
    intro e he
    simp [h.clean e he]
  simp [State.releaseWaits, State.stashHeld, h.stash, h.comb, hl1]

theorem acquireWaits_false (h : CacheRest t a) (me scope : Nat) : a.acquireWaits me t scope = false := by
  have hl1 : ∀ q : Nat × Sector → Bool, (a.core t.core).l1.any (fun e => State.isSc e.2 && e.2.dirty != 0#16 && q e) = false := fun q => by
    rw [List.any_eq_false]
    intro e he
    simp [h.clean e he]
  simp [State.acquireWaits, State.stashHeld, h.stash, hl1]

end

/-! #### Reaching the object, and writing it -/

/-- An update of the values of a table, key by key. -/
theorem look_map {β : Type} {f : Nat × β → Nat × β} {g : Nat → β → β} (hf : ∀ e, f e = (e.1, g e.1 e.2)) (m : AMap β) (k : Nat) :
    AMap.look (m.map f) k = (AMap.look m k).map (g k) := by
  induction m with
  | nil => rfl
  | cons e m ih =>
    rw [List.map_cons, hf e]
    simp only [AMap.look]
    split
    · rename_i hk
      rw [hk]
      rfl
    · exact ih

/-- The strand of another agent's access, its open transaction's lanes doomed. -/
def doomed (me pa : Nat) (wr : Bool) (k : Nat) (t : Strand) : Strand :=
  if k == me then t else
  match t.tx with
  | some x => if x.serial then t else { t with tx := some { x with doom := x.doom ||| State.txHits x pa wr } }
  | none => t

theorem strand_doom (a : State) (me pa : Nat) (wr : Bool) (k : Nat) : (a.doom me pa wr).strand? k = (a.strand? k).map (doomed me pa wr k) := by
  refine look_map (fun e => ?_) a.strands k
  unfold doomed
  split
  · rfl
  · cases e.2.tx with
    | none => rfl
    | some x =>
      dsimp only
      split <;> rfl

theorem strand_doom_self (a : State) (me pa : Nat) (wr : Bool) : (a.doom me pa wr).strand? me = a.strand? me := by
  rw [strand_doom]
  cases a.strand? me with
  | none => rfl
  | some t => simp [doomed]

/-- The bindings and the held arrivals of every weave stand as they stood. -/
def bindsKept (a a' : State) : Prop :=
  ∀ k w', a'.weave? k = some w' → ∃ w, a.weave? k = some w ∧ w'.binds = w.binds ∧ w'.helds = w.helds

theorem bindsKept_of_weaves {a a' : State} (h : a'.weaves = a.weaves) : bindsKept a a' := by
  intro k w' hw
  rw [State.weave?, h] at hw
  exact ⟨w', hw, rfl, rfl⟩

theorem bindsKept.trans {a b c : State} (h : bindsKept a b) (h' : bindsKept b c) : bindsKept a c := by
  intro k w' hw
  obtain ⟨w1, hw1, hb1, hh1⟩ := h' k w' hw
  obtain ⟨w0, hw0, hb0, hh0⟩ := h k w1 hw1
  exact ⟨w0, hw0, hb1.trans hb0, hh1.trans hh0⟩

theorem onlyObject_trans {a b c : State} {p : CPlace} (h : onlyObject a b p) (h' : onlyObject b c p) : onlyObject a c p := by
  cases p with
  | scr wk off => exact Eq.trans h' h
  | mem pa => exact fun i hi => (h' i hi).trans (h i hi)

/-- From a to a' work has been done on the object at p alone. -/
structure Serves (t : Strand) (p : CPlace) (a a' : State) : Prop where
  rest : ClaspRest t p a'
  only : onlyObject a a' p
  cur : a'.cur = a.cur
  waits : nobodyWaits a → nobodyWaits a'
  binds : bindsKept a a'

section
variable {t : Strand} {p : CPlace} {a b c : State}

theorem Serves.trans (h : Serves t p a b) (h' : Serves t p b c) : Serves t p a c where
  rest := h'.rest
  only := onlyObject_trans h.only h'.only
  cur := h'.cur.trans h.cur
  waits := fun hw => h'.waits (h.waits hw)
  binds := h.binds.trans h'.binds

theorem Neutral.serves (h : Neutral a b) (ha : ClaspRest t p a) (hb : bindsKept a b) : Serves t p a b where
  rest := h.rest ha
  only := h.only p
  cur := h.cur
  waits := h.waits
  binds := hb

/-- To reach the object is to read it. -/
theorem claspPrep_eq (h : ClaspRest t p a) (me : Nat) : a.claspPrep me p = a ∨ ∃ pa, a.claspPrep me p = a.doom me pa false := by
  cases p with
  | scr wk off =>
    obtain ⟨w, hw, hst⟩ := h.scr
    exact .inl (stashFill_eq_self hw hst me off)
  | mem pa => exact .inr ⟨pa, by rw [State.claspPrep, combine_eq_self h.comb]⟩

theorem neutral_claspPrep (h : ClaspRest t p a) (me : Nat) : Neutral a (a.claspPrep me p) := by
  rcases claspPrep_eq h me with he | ⟨pa, he⟩ <;> rw [he]
  · exact Neutral.refl a
  · exact neutral_doom a me pa false

theorem weaves_claspPrep (h : ClaspRest t p a) (me : Nat) : (a.claspPrep me p).weaves = a.weaves := by
  rcases claspPrep_eq h me with he | ⟨pa, he⟩ <;> rw [he]
  rfl

theorem cores_claspPrep (h : ClaspRest t p a) (me : Nat) : (a.claspPrep me p).cores = a.cores := by
  rcases claspPrep_eq h me with he | ⟨pa, he⟩ <;> rw [he]
  rfl

theorem strand_claspPrep (h : ClaspRest t p a) (me : Nat) : (a.claspPrep me p).strand? me = a.strand? me := by
  rcases claspPrep_eq h me with he | ⟨pa, he⟩ <;> rw [he]
  exact strand_doom_self a me pa false

theorem weaves_releaseAt (a : State) (me : Nat) (t : Strand) (scope : Nat) : (a.releaseAt me t scope).weaves = a.weaves :=
  ((SameRest.refl a 0).releaseAt me t scope).weaves

/-- The object written whole: it reads so, and nothing else has moved. -/
theorem claspWrite_scr {wk off : Nat} (h : ClaspRest t (.scr wk off) a) (me : Nat) (c : Clasp) :
    ∃ w, a.weave? wk = some w ∧ (a.core w.home).stash = [] ∧ a.claspWrite me (.scr wk off) c = a.updWeave wk (scrPut off (claspBytes c)) := by
  obtain ⟨w, hw, hst⟩ := h.scr
  exact ⟨w, hw, hst, scrWrite_eq hw hst me off _⟩

theorem claspWrite_mem {pa : Nat} (h : ClaspRest t (.mem pa) a) (me : Nat) (c : Clasp) :
    a.claspWrite me (.mem pa) c = (a.doom me pa true).homeStore pa (claspBytes c) := by
  rw [State.claspWrite, combine_eq_self h.comb]
  rfl

theorem weave_updWeave_ne (a : State) {k j : Nat} (f : Weave → Weave) (h : j ≠ k) : (a.updWeave k f).weave? j = a.weave? j :=
  AMap.look_upd_ne _ f h

/-- What a write of the object leaves of the weaves. -/
theorem weave_claspWrite (h : ClaspRest t p a) (me : Nat) (c : Clasp) {k : Nat} {w' : Weave} (hw' : (a.claspWrite me p c).weave? k = some w') :
    ∃ w, a.weave? k = some w ∧ w'.binds = w.binds ∧ w'.helds = w.helds ∧ w'.recs = w.recs := by
  cases p with
  | scr wk off =>
    obtain ⟨w, hw, hst, he⟩ := claspWrite_scr h me c
    rw [he] at hw'
    by_cases hk : k = wk
    · subst hk
      rw [State.weave_updWeave a _ hw] at hw'
      obtain rfl := Option.some.inj hw'
      exact ⟨w, hw, rfl, rfl, rfl⟩
    · rw [weave_updWeave_ne a _ hk] at hw'
      exact ⟨w', hw', rfl, rfl, rfl⟩
  | mem pa =>
    rw [claspWrite_mem h, State.weave?, State.homeStore_weaves] at hw'
    exact ⟨w', hw', rfl, rfl, rfl⟩

theorem rest_claspWrite (h : ClaspRest t p a) (me : Nat) (c : Clasp) : ClaspRest t p (a.claspWrite me p c) := by
  cases p with
  | scr wk off =>
    obtain ⟨w, hw, hst, he⟩ := claspWrite_scr h me c
    rw [he]
    exact ⟨⟨h.stash, h.clean, h.comb⟩, scrPut off (claspBytes c) w, State.weave_updWeave a _ hw, hst⟩
  | mem pa =>
    rw [claspWrite_mem h]
    refine ⟨⟨?_, ?_, ?_⟩, ?_⟩
    · simp only [State.core, State.homeStore_cores]; exact h.stash
    · simp only [State.core, State.homeStore_cores]; exact h.clean
    · simp only [State.clu, State.homeStore_clus]; exact h.comb
    · exact h.reach.imp id fun hl => (State.homeStore_linkUp _ _ _).trans hl

theorem claspRead_claspWrite (h : ClaspRest t p a) (me : Nat) (c : Clasp) : (a.claspWrite me p c).claspRead p = c := by
  rw [claspRead_eq (rest_claspWrite h me c)]
  refine claspOf_of_bytes fun i hi => ?_
  cases p with
  | scr wk off =>
    obtain ⟨w, hw, -, he⟩ := claspWrite_scr h me c
    rw [he, objectBytes, State.weave_updWeave a _ hw, objectAt]
    simp only [Option.map_some, Option.getD_some, scrPut]
    rw [get_writeScr (fun i => (claspBytes c).getD i 0#8), length_claspBytes, if_pos (by omega), Nat.add_sub_cancel_left]
  | mem pa =>
    rw [claspWrite_mem h]
    have hget : (claspBytes c)[i]? = some ((claspBytes c).getD i 0#8) := by
      rw [List.getD_eq_getElem?_getD, List.getElem?_eq_getElem (by rw [length_claspBytes]; exact hi)]
      rfl
    exact State.homeByte_homeStore_in (s := a.doom me pa true) h.reach hget

theorem serves_claspWrite (h : ClaspRest t p a) (me : Nat) (c : Clasp) : Serves t p a (a.claspWrite me p c) where
  rest := rest_claspWrite h me c
  cur := claspWrite_cur a me p c
  binds := fun k w' hw' => by
    obtain ⟨w, hw, hb, hh, -⟩ := weave_claspWrite h me c hw'
    exact ⟨w, hw, hb, hh⟩
  only := by
    cases p with
    | scr wk off =>
      obtain ⟨w, -, -, he⟩ := claspWrite_scr h me c
      rw [he]
      rfl
    | mem pa =>
      intro b hb
      rw [claspWrite_mem h]
      exact State.homeByte_homeStore_out (a.doom me pa true) hb
  waits := by
    cases p with
    | scr wk off =>
      obtain ⟨w, -, -, he⟩ := claspWrite_scr h me c
      rw [he]
      exact id
    | mem pa =>
      rw [claspWrite_mem h]
      simp only [nobodyWaits, State.homeStore_strands]
      exact (neutral_doom a me pa true).waits

end

end Sys2Proof.Proofs
end

/-! ### Phases and waiters of a clasp (spec/06 R175, R176) -/
section
namespace Sys2Proof.Proofs
open Sys2Proof Sys2Proof.Machine Sys2Proof.Rules

/-! #### The fields of word 0 -/

theorem seq_eq (c : Clasp) : c.seq = (c.w0.setWidth 16).toNat := by
  simp [Clasp.seq, fld]

theorem seq_lt (c : Clasp) : c.seq < 65536 := by
  rw [seq_eq]
  exact (c.w0.setWidth 16).isLt

/-- A flag written above SEQ. -/
theorem seq_setBit (c : Clasp) {i : Nat} (hi : i = 16 ∨ i = 17) (b : Bool) : (c.setBit i b).seq = c.seq := by
  rw [seq_eq, seq_eq]
  congr 1
  cases b
  · have hones : BitVec.setWidth 16 c.w0 &&& BitVec.allOnes 16 = BitVec.setWidth 16 c.w0 := BitVec.and_allOnes
    rcases hi with rfl | rfl <;> simpa [Clasp.setBit, BitVec.setWidth_and] using hones
  · rcases hi with rfl | rfl <;> simp [Clasp.setBit, BitVec.setWidth_or]

theorem inv_setBit_waiters (c : Clasp) (b : Bool) : (c.setBit 17 b).inv = c.inv := by
  cases b <;> simp [Clasp.setBit, Clasp.inv]

theorem waiters_setBit_waiters (c : Clasp) (b : Bool) : (c.setBit 17 b).waiters = b := by
  cases b <;> simp [Clasp.setBit, Clasp.waiters]

theorem inv_setBit_inv (c : Clasp) : (c.setBit 16 true).inv = true := by
  simp [Clasp.setBit, Clasp.inv]

theorem seq_setSeq (c : Clasp) (v : Nat) : (c.setSeq v).seq = v % 65536 := by
  rw [seq_eq]
  simp [Clasp.setSeq, BitVec.setWidth_or, BitVec.setWidth_and]

theorem inv_setSeq (c : Clasp) (v : Nat) : (c.setSeq v).inv = c.inv := by
  have hv : (BitVec.ofNat 32 (v % 65536)).getLsbD 16 = false := by
    rw [BitVec.getLsbD_ofNat, Nat.testBit_lt_two_pow (by omega)]
    rfl
  unfold Clasp.setSeq Clasp.inv
  rw [BitVec.getLsbD_or, hv, Bool.or_false, BitVec.getLsbD_and, show (0xFFFF0000#32).getLsbD 16 = true from rfl, Bool.and_true]

/-- A token's phase has completed, as the rule counts (R176). -/
theorem done_eq_tokenDone (c : Clasp) (tok : Word) : c.done (fld tok.toNat 0 16) = tokenDone c tok := by
  have hseq := seq_lt c
  have hd : ((c.seq + 65536 - fld tok.toNat 0 16 % 65536) % 65536 : Nat) = (((c.seq : Int) - tok.toNat % 65536) % 65536).toNat := by
    simp only [fld]
    omega
  simp only [Clasp.done, tokenDone, hd]
  congr 1 <;> rw [decide_eq_decide] <;> omega

/-! #### Waiters released -/

/-- c' is c, WAITERS apart. -/
def butWaiters (c c' : Clasp) : Prop :=
  c'.seq = c.seq ∧ c'.inv = c.inv ∧ c'.e = c.e ∧ c'.a = c.a ∧ c'.j = c.j ∧ c'.early = c.early ∧ c'.held = c.held

theorem butWaiters_refl (c : Clasp) : butWaiters c c := ⟨rfl, rfl, rfl, rfl, rfl, rfl, rfl⟩

theorem butWaiters_setBit (c : Clasp) (b : Bool) : butWaiters c (c.setBit 17 b) :=
  ⟨seq_setBit c (.inr rfl) b, inv_setBit_waiters c b, rfl, rfl, rfl, rfl, rfl⟩

/-- A strand that waits at the object p reading c, released where its wait is over (R175, R176). -/
def released (a : State) (p : CPlace) (c : Clasp) (e : Nat × Strand) : Nat × Strand :=
  match a.waitsOn e.2 p with
  | none => e
  | some x => if c.done (fld (e.2.getS x.1).toNat 0 16) then (e.1, { e.2 with wait := .woke 0 x.2 })
              else if c.inv then (e.1, { e.2 with wait := .woke 1 x.2 }) else e

/-- The state once every strand whose wait at p is over has been released. -/
def releasedState (a : State) (p : CPlace) : State := { a with strands := a.strands.map (released a p (a.claspRead p)) }

/-- A strand still waits there. -/
def stillWaits (a : State) (p : CPlace) : Bool :=
  (releasedState a p).strands.any (fun e => ((releasedState a p).waitsOn e.2 p).isSome)

theorem wakeClasp_eq (a : State) (me : Nat) (p : CPlace) :
    a.wakeClasp me p = if (a.claspRead p).waiters = stillWaits a p then releasedState a p
      else (releasedState a p).claspWrite me p ((a.claspRead p).setBit 17 (stillWaits a p)) := rfl

theorem released_wait (a : State) (p : CPlace) (c : Clasp) (e : Nat × Strand) :
    released a p c e = e ∨ ∃ v x, a.waitsOn e.2 p = some x ∧ released a p c e = (e.1, { e.2 with wait := .woke v x.2 }) := by
  unfold released
  split
  · exact .inl rfl
  · rename_i x hx
    split
    · exact .inr ⟨0, x, hx, rfl⟩
    · split
      · exact .inr ⟨1, x, hx, rfl⟩
      · exact .inl rfl

section
variable {t : Strand} {p : CPlace} {a : State}

theorem neutral_released (a : State) (p : CPlace) : Neutral a (releasedState a p) where
  mem := rfl
  link := rfl
  clus := rfl
  cur := rfl
  stash := fun _ => id
  clean := fun _ => id
  scratch := fun _ => rfl
  waits := fun hw e he h x => by
    obtain ⟨e0, he0, rfl⟩ := List.mem_map.1 he
    rcases released_wait a p (a.claspRead p) e0 with he | ⟨v, y, -, he⟩ <;> rw [he]
    · exact hw e0 he0 h x
    · exact fun h => nomatch h

theorem waitsOn_of_wait {u : Strand} (h : ∀ g x, u.wait ≠ .clasp g x) : a.waitsOn u p = none := by
  unfold State.waitsOn
  split
  · rename_i g x w hx _
    exact absurd hx (h g x)
  · rfl

theorem stillWaits_of_nobody (h : nobodyWaits a) : stillWaits a p = false := by
  refine List.any_eq_false.2 fun e he => ?_
  rw [waitsOn_of_wait ((neutral_released a p).waits h e he)]
  exact Bool.false_ne_true

theorem serves_wakeClasp (h : ClaspRest t p a) (me : Nat) : Serves t p a (a.wakeClasp me p) := by
  have hrel := (neutral_released a p).serves h (bindsKept_of_weaves rfl)
  rw [wakeClasp_eq]
  exact State.ite_keeps (P := Serves t p a) hrel (hrel.trans (serves_claspWrite hrel.rest me _))

/-- The object once its waiters have been released: WAITERS says whether one still waits. -/
theorem claspRead_wakeClasp (h : ClaspRest t p a) (me : Nat) :
    butWaiters (a.claspRead p) ((a.wakeClasp me p).claspRead p) ∧ ((a.wakeClasp me p).claspRead p).waiters = stillWaits a p := by
  have hrel := neutral_released a p
  rw [wakeClasp_eq]
  split
  · rename_i heq
    rw [hrel.claspRead h]
    exact ⟨butWaiters_refl _, heq⟩
  · rw [claspRead_claspWrite (hrel.rest h)]
    exact ⟨butWaiters_setBit _ _, waiters_setBit_waiters _ _⟩

/-! #### A phase that ends (R175) -/

theorem weave_shiftRecs (a : State) (p : CPlace) {k : Nat} {w' : Weave} (h : (a.shiftRecs p).weave? k = some w') :
    ∃ w r, a.weave? k = some w ∧ w' = { w with recs := r } := by
  have hl := look_map (g := fun k w => { w with recs := w.recs.map (fun r =>
    if ((w.binds.filter (a.sameObj p k w)).map (·.1)).contains (r.1 / 64) then (r.1, { arrived := r.2.early, early := false, joins := false }) else r) })
    (fun _ => rfl) a.weaves k
  obtain ⟨w, hw, he⟩ := Option.map_eq_some_iff.1 (hl.symm.trans h)
  exact ⟨w, _, hw, he.symm⟩

theorem neutral_shiftRecs (a : State) (p : CPlace) : Neutral a (a.shiftRecs p) where
  mem := rfl
  link := rfl
  clus := rfl
  cur := rfl
  stash := fun _ => id
  clean := fun _ => id
  waits := id
  scratch := fun k => by
    have hl := look_map (g := fun k w => { w with recs := w.recs.map (fun r =>
      if ((w.binds.filter (a.sameObj p k w)).map (·.1)).contains (r.1 / 64) then (r.1, { arrived := r.2.early, early := false, joins := false }) else r) })
      (fun _ => rfl) a.weaves k
    rw [State.weave?, State.shiftRecs, hl, Option.map_map]
    rfl

theorem serves_shiftRecs (h : ClaspRest t p a) : Serves t p a (a.shiftRecs p) :=
  (neutral_shiftRecs a p).serves h fun _ _ hw => by
    obtain ⟨w, r, hw0, rfl⟩ := weave_shiftRecs a p hw
    exact ⟨w, hw0, rfl, rfl⟩

/-- The next phase of an object, as the model writes it. -/
def phaseAfter (c : Clasp) : Clasp := { (c.setSeq (c.seq + 1)) with e := c.e + c.j, j := 0#32, a := c.early, early := 0#32 }

theorem nextPhase_phaseAfter (c : Clasp) : nextPhase c (phaseAfter c) :=
  ⟨seq_setSeq c (c.seq + 1), inv_setSeq c (c.seq + 1), rfl, rfl, rfl, rfl, rfl⟩

theorem nextPhase_butWaiters {c d d' : Clasp} (h : nextPhase c d) (hd : butWaiters d d') : nextPhase c d' := by
  obtain ⟨hseq, hinv, he, ha, hj, hearly, hheld⟩ := h
  obtain ⟨gseq, ginv, ge, ga, gj, gearly, gheld⟩ := hd
  exact ⟨gseq.trans hseq, ginv.trans hinv, ge.trans he, ga.trans ha, gj.trans hj, gearly.trans hearly, gheld.trans hheld⟩

/-- The phase d begins. -/
def beginPhase (me : Nat) (p : CPlace) (a : State) (d : Clasp) : State := ((a.shiftRecs p).claspWrite me p d).wakeClasp me p

theorem completePhase_succ (me : Nat) (p : CPlace) (n : Nat) (c : Clasp) (a : State) :
    State.completePhase me p (n + 1) c a = if (phaseAfter c).a = (phaseAfter c).e ∧ (phaseAfter c).e ≠ 0#32
      then State.completePhase me p n (phaseAfter c) (a.shiftRecs p) else beginPhase me p a (phaseAfter c) := rfl

theorem serves_beginPhase (h : ClaspRest t p a) (me : Nat) (d : Clasp) : Serves t p a (beginPhase me p a d) := by
  have hs := serves_shiftRecs h
  have hw := serves_claspWrite hs.rest me d
  exact (hs.trans hw).trans (serves_wakeClasp hw.rest me)

theorem claspRead_beginPhase (h : ClaspRest t p a) (me : Nat) (d : Clasp) :
    butWaiters d ((beginPhase me p a d).claspRead p) ∧ (nobodyWaits a → ((beginPhase me p a d).claspRead p).waiters = false) := by
  have hs := serves_shiftRecs h
  have hw := serves_claspWrite hs.rest me d
  obtain ⟨hbut, hwait⟩ := claspRead_wakeClasp hw.rest me
  rw [claspRead_claspWrite hs.rest] at hbut
  exact ⟨hbut, fun hn => hwait.trans (stillWaits_of_nobody ((hs.trans hw).waits hn))⟩

/-- A phase that follows another has no early arrival: it does not end at once. -/
theorem phaseAfter_twice (c : Clasp) :
    ¬ ((phaseAfter (phaseAfter c)).a = (phaseAfter (phaseAfter c)).e ∧ (phaseAfter (phaseAfter c)).e ≠ 0#32) := by
  rintro ⟨h0, hne⟩
  exact hne h0.symm

/-- Phases complete one after another, two at most. -/
theorem completePhase_cases (me : Nat) (p : CPlace) (c : Clasp) (a : State) :
    (¬ ((phaseAfter c).a = (phaseAfter c).e ∧ (phaseAfter c).e ≠ 0#32) ∧ State.completePhase me p 4 c a = beginPhase me p a (phaseAfter c)) ∨
    (((phaseAfter c).a = (phaseAfter c).e ∧ (phaseAfter c).e ≠ 0#32) ∧
      State.completePhase me p 4 c a = beginPhase me p (a.shiftRecs p) (phaseAfter (phaseAfter c))) := by
  by_cases h : (phaseAfter c).a = (phaseAfter c).e ∧ (phaseAfter c).e ≠ 0#32
  · exact .inr ⟨h, by rw [completePhase_succ, if_pos h, completePhase_succ, if_neg (phaseAfter_twice c)]⟩
  · exact .inl ⟨h, by rw [completePhase_succ, if_neg h]⟩

theorem serves_completePhase (h : ClaspRest t p a) (me : Nat) (c : Clasp) : Serves t p a (State.completePhase me p 4 c a) := by
  rcases completePhase_cases me p c a with ⟨-, he⟩ | ⟨-, he⟩ <;> rw [he]
  · exact serves_beginPhase h me _
  · have hs := serves_shiftRecs h
    exact hs.trans (serves_beginPhase hs.rest me _)

/-- What the object reads once its phase has completed. -/
theorem claspRead_completePhase (h : ClaspRest t p a) (me : Nat) (c : Clasp) :
    let c' := (State.completePhase me p 4 c a).claspRead p
    (∃ d, nextPhase c d ∧ (d.a = d.e ∧ d.e ≠ 0#32 → nextPhase d c') ∧ (¬ (d.a = d.e ∧ d.e ≠ 0#32) → nextPhase c c')) ∧
      (nobodyWaits a → c'.waiters = false) := by
  dsimp only
  rcases completePhase_cases me p c a with ⟨hstop, he⟩ | ⟨hgo, he⟩ <;> rw [he]
  · obtain ⟨hbut, hwait⟩ := claspRead_beginPhase h me (phaseAfter c)
    exact ⟨⟨phaseAfter c, nextPhase_phaseAfter c, fun hd => absurd hd hstop, fun _ => nextPhase_butWaiters (nextPhase_phaseAfter c) hbut⟩, hwait⟩
  · have hs := serves_shiftRecs h
    obtain ⟨hbut, hwait⟩ := claspRead_beginPhase hs.rest me (phaseAfter (phaseAfter c))
    exact ⟨⟨phaseAfter c, nextPhase_phaseAfter c, fun _ => nextPhase_butWaiters (nextPhase_phaseAfter _) hbut, fun hd => absurd hgo hd⟩,
      fun hn => hwait (hs.waits hn)⟩

/-! #### An arrival counted (R176) -/

/-- An arrival at an object that reads c, in its current phase. -/
theorem countArrival_now (me : Nat) (p : CPlace) (a : State) (c : Clasp) :
    a.countArrival me p c.seq c = if (c.a + 1 = c.e) then State.completePhase me p 4 { c with a := c.a + 1 } a
      else a.claspWrite me p { c with a := c.a + 1 } := by
  unfold State.countArrival
  rw [if_pos rfl]

theorem countArrival_early (me : Nat) (p : CPlace) (a : State) {c : Clasp} {tok : Nat} (h : tok ≠ c.seq) :
    a.countArrival me p tok c = a.claspWrite me p { c with early := c.early + 1 } := by
  unfold State.countArrival
  rw [if_neg h]

theorem serves_countArrival (h : ClaspRest t p a) (me tok : Nat) (c : Clasp) : Serves t p a (a.countArrival me p tok c) := by
  by_cases hseq : tok = c.seq
  · rw [hseq, countArrival_now]
    exact State.ite_keeps (P := Serves t p a) (serves_completePhase h me _) (serves_claspWrite h me _)
  · rw [countArrival_early me p a hseq]
    exact serves_claspWrite h me _

theorem tested_countArrival {s : State} (h : ClaspRest t p a) (hn : nobodyWaits s → nobodyWaits a) (me : Nat) (c : Clasp) :
    tested s { c with a := c.a + 1 } ((a.countArrival me p c.seq c).claspRead p) := by
  rw [countArrival_now]
  by_cases he : c.a + 1 = c.e
  · rw [if_pos he]
    obtain ⟨hphase, hwait⟩ := claspRead_completePhase h me { c with a := c.a + 1 }
    exact ⟨fun hne => absurd he hne, fun _ => ⟨hphase, fun hs => hwait (hn hs)⟩⟩
  · rw [if_neg he, claspRead_claspWrite h]
    exact ⟨fun _ => rfl, fun he' => absurd he' he⟩

end

end Sys2Proof.Proofs
end

/-! ### Arrivals (spec/06 R176, spec/03 R101, R102) -/
section
namespace Sys2Proof.Proofs
open Sys2Proof Sys2Proof.Machine Sys2Proof.Rules

section
variable {s a : State} {t : Strand} {h : Nat} {wr : Bool} {w : Weave} {b : Bind} {p : CPlace}

/-! #### A CLASP word at its object -/

/-- The object of a reached handle: scratch of the strand's own weave, or a page at rest. -/
theorem place_of_reaches (hreach : reaches s t h wr w b p) :
    (b.bolt = false ∧ p = .scr t.weave b.addr ∧ b.addr % 32 = 0 ∧ b.addr + 32 ≤ w.scrLen) ∨
    (b.bolt = true ∧ ∃ e, s.checkAcc s.cur t { lane := 0, va := b.addr, size := 32, rd := true, wr := wr } true = .ok e ∧ e.coh = 0 ∧
      p = .mem (State.physOf e b.addr)) := by
  obtain ⟨hw, hb, hobj⟩ := hreach
  unfold State.claspObj at hobj
  simp only [hw, hb] at hobj
  cases hbolt : b.bolt with
  | true =>
    rw [if_pos hbolt] at hobj
    cases hacc : s.checkAcc s.cur t { lane := 0, va := b.addr, size := 32, rd := true, wr := wr } true with
    | error e => rw [hacc] at hobj; cases hobj
    | ok e =>
      rw [hacc] at hobj
      dsimp only at hobj
      split at hobj
      · cases hobj
      · rename_i hcoh
        cases hobj
        exact .inr ⟨rfl, e, rfl, not_not.1 hcoh, rfl⟩
  | false =>
    rw [if_neg (by simp [hbolt])] at hobj
    split at hobj
    · cases hobj
    · split at hobj
      · cases hobj
      · split at hobj
        · cases hobj
        · rename_i halign hlen _
          cases hobj
          exact .inl ⟨rfl, rfl, not_not.1 halign, Nat.le_of_not_lt hlen⟩

theorem rest_of_still (hreach : reaches s t h wr w b p) (hstill : still s t w b p) : ClaspRest t p s := by
  obtain ⟨hst, hhome, hl1, hcomb, -, hplace⟩ := hstill
  refine ⟨⟨hst, hl1, hcomb⟩, ?_⟩
  rcases place_of_reaches hreach with ⟨-, rfl, -⟩ | ⟨-, e, -, -, rfl⟩
  · exact ⟨w, hreach.1, hhome⟩
  · exact hplace.1

theorem claspGo_reaches (hr : s.runs t) (hreach : reaches s t h wr w b p) (hstill : still s t w b p) (ws : List Nat)
    (body : State → Strand → Weave → Bind → CPlace → Host.Outcome State Fault Refusal) :
    claspGo h wr ws body s = body (s.claspPrep s.cur p) t w b p := by
  have hrest := rest_of_still hreach hstill
  obtain ⟨hw, hb, hobj⟩ := hreach
  obtain ⟨-, -, -, -, hpoison, -⟩ := hstill
  have herr : s.claspErr b p ws = none := by
    unfold State.claspErr
    rw [hpoison]
    rfl
  have hrun : (s.claspPrep s.cur p).runs t := by
    rw [State.runs, claspPrep_cur, strand_claspPrep hrest]
    exact hr
  refine (State.run_of_runs hr _).trans ?_
  simp only [hobj, herr]
  exact State.run_of_runs hrun _

/-- The page of a bolt clasp that the TLB holds, its dirty bit set, is walked no more. -/
theorem touch_eq_self {part ctx core va : Nat} {e : Tlb} (hl : AMap.look (a.core core).tlb (State.tlbKey part ctx va) = some e)
    (hd : wr = true → e.dirty = true) : a.touch part ctx core va wr = a := by
  have hhit : a.tlbHit part ctx core va = some e := by rw [State.tlbHit, hl]; rfl
  have hclean : (wr && !e.dirty) = false := by
    cases hw : wr with
    | false => rfl
    | true => rw [hd hw]; rfl
  have hlook : a.lookup part ctx core va = .ok (e, none) ∨ ∃ k, a.lookup part ctx core va = .error k := by
    unfold State.lookup
    rw [hhit]
    split
    · exact .inr ⟨_, rfl⟩
    · split
      · exact .inr ⟨_, rfl⟩
      · dsimp only
        split
        · exact .inl rfl
        · exact .inr ⟨_, rfl⟩
  unfold State.touch
  rcases hlook with hok | ⟨k, herr⟩
  · rw [hok]
    simp only [hclean, hl, Bool.false_eq_true, if_false, Option.isSome_some, if_true]
  · rw [herr]

/-- Reaching a still object walks nothing. -/
theorem claspTouch_eq_self (hreach : reaches s t h wr w b p) (hstill : still s t w b p) (hcores : a.cores = s.cores) (wr' : Bool) :
    a.claspTouch t b wr' = a := by
  obtain ⟨-, -, -, -, -, hplace⟩ := hstill
  unfold State.claspTouch
  rcases place_of_reaches hreach with ⟨hbolt, -⟩ | ⟨hbolt, e, -, -, rfl⟩
  · rw [if_neg (by simp [hbolt])]
  · obtain ⟨-, -, -, e', htlb, hdirty, -⟩ := hplace
    rw [if_pos hbolt]
    refine touch_eq_self (e := e') ?_ fun _ => hdirty rfl
    rw [State.core, hcores]
    exact htlb

/-! #### What a CLASP word leaves -/

theorem ClaspRest.setCur (hrest : ClaspRest t p a) (u : Strand) : ClaspRest t p (a.setCur u) where
  stash := hrest.stash
  clean := hrest.clean
  comb := hrest.comb
  object := by
    cases p with
    | scr wk off => exact hrest.scr
    | mem pa => exact hrest.reach

theorem claspRead_setCur (hrest : ClaspRest t p a) (u : Strand) : (a.setCur u).claspRead p = a.claspRead p := by
  rw [claspRead_eq hrest, claspRead_eq (hrest.setCur u)]
  cases p <;> rfl

/-- A CLASP word that writes scalar x and moves on, by what it leaves of the part before the strand's own turn. -/
theorem claspDone_of {i : Instr} {x : Nat} {v : Word} {u : Strand} {post : State → Prop} (he : exec i s = .next (a.setCur (u.advance 1)))
    (hu : u.getS x = v) (hsame : t.sameScalars u [x]) (hrest : u.besidesScalars = t.besidesScalars)
    (honly : onlyObject s a p) (hpost : post (a.setCur (u.advance 1))) : claspDone s t i x v p post := by
  refine ⟨_, u.advance 1, he, State.strand_setCur a _, ?_, ?_, ?_, ?_, hpost⟩
  · rw [Strand.getS_advance]; exact hu
  · exact fun r hr => by rw [Strand.getS_advance]; exact hsame r hr
  · rw [Strand.besidesScalars_advance]; exact hrest
  · cases p <;> exact honly

/-- The strand of an arrival that returns a token. -/
theorem claspDone_token {i : Instr} {x tok : Nat} {post : State → Prop}
    (he : exec i s = .next (a.setCur (((t.setS x (BitVec.ofNat 32 tok)).noteWrite).advance 1)))
    (honly : onlyObject s a p) (hpost : post (a.setCur (((t.setS x (BitVec.ofNat 32 tok)).noteWrite).advance 1))) :
    claspDone s t i x (BitVec.ofNat 32 tok) p post :=
  claspDone_of he (Strand.getS_setS t x _) (t.setS_sameScalars x _) rfl honly hpost

/-! #### ARRIVE -/

/-- The strand has arrived in the current phase, or will join with the next: its arrival counts for the next (R176). -/
def forNext (w : Weave) (t : Strand) (h : Nat) : Bool := (record w t h).joins || (record w t h).arrived

/-- The records of a weave with the arrival of strand t noted. -/
def arrivedRecs (w : Weave) (t : Strand) (h : Nat) : AMap CRec :=
  AMap.put w.recs (State.recKey w h t.widx)
    (if forNext w t h then { record w t h with early := true } else { record w t h with arrived := true })

/-- The token of an arrival at an object that reads c. -/
def arrivalToken (w : Weave) (t : Strand) (h : Nat) (c : Clasp) : Nat := if forNext w t h then (c.seq + 1) % 65536 else c.seq

theorem claspScope_le (b : Bind) : State.claspScope b ≤ 4 := by
  unfold State.claspScope
  split <;> omega

/-- A weave written anew, but for what stands in scratch. -/
theorem neutral_setWeave {k : Nat} {w w' : Weave} (hw : a.weave? k = some w) (hh : w'.home = w.home) (hs : w'.scr = w.scr) :
    Neutral a (a.setWeave k w') where
  mem := rfl
  link := rfl
  clus := rfl
  cur := rfl
  stash := fun _ => id
  clean := fun _ => id
  waits := id
  scratch := fun j => by
    by_cases hj : j = k
    · rw [hj, State.weave_setWeave, hw, Option.map_some, Option.map_some, hh, hs]
    · rw [State.weave_setWeave_ne a w' hj]

/-- The part when an arrival is about to count: released, the arrival noted in the weave's records. -/
def arriving (s : State) (t : Strand) (h : Nat) (w : Weave) (b : Bind) (p : CPlace) : State :=
  ((s.claspPrep s.cur p).releaseAt s.cur t (State.claspScope b)).setWeave t.weave { w with recs := arrivedRecs w t h }

/-- What ARRIVETX writes into its weave when it holds an arrival. -/
def heldIn (w : Weave) (t : Strand) (h : Nat) (b : Bind) (tok : Nat) (w2 : Weave) : Weave :=
  { w2 with recs := arrivedRecs w t h, helds := w.helds ++ [{ h := h, bind := b, token := tok, widx := t.widx, upto := t.nextOp }] }

/-- The part when an arrival has been held back: HELD counts it, and the weave keeps it. -/
def holding (s : State) (t : Strand) (h : Nat) (w : Weave) (b : Bind) (p : CPlace) : State :=
  ((s.claspPrep s.cur p).claspWrite s.cur p { s.claspRead p with held := (s.claspRead p).held + 1 }).updWeave t.weave
    (heldIn w t h b (arrivalToken w t h (s.claspRead p)))

theorem arriveGo_eq (hr : s.runs t) (hreach : reaches s t h true w b p) (hstill : still s t w b p) (tx : Bool) (x : Nat) :
    arriveGo tx x h s =
      if (s.claspRead p).inv then (s.claspPrep s.cur p).finish ((t.setS x (BitVec.ofNat 32 (s.claspRead p).seq)).noteWrite) 1
      else if forNext w t h && (record w t h).early then (s.claspPrep s.cur p).hold t .other
      else if tx && tagged t h then
        (holding s t h w b p).finish ((t.setS x (BitVec.ofNat 32 (arrivalToken w t h (s.claspRead p)))).noteWrite) 1
      else ((arriving s t h w b p).countArrival s.cur p (arrivalToken w t h (s.claspRead p)) (s.claspRead p)).finish
        ((t.setS x (BitVec.ofNat 32 (arrivalToken w t h (s.claspRead p)))).noteWrite) 1 := by
  have hrest := rest_of_still hreach hstill
  have hprep := neutral_claspPrep hrest s.cur
  have hrel := neutral_releaseAt (hprep.rest hrest).toCacheRest (claspScope_le b) s.cur
  have hw : ((s.claspPrep s.cur p).releaseAt s.cur t (State.claspScope b)).weave? t.weave = some w := by
    rw [State.weave?, weaves_releaseAt, weaves_claspPrep hrest]
    exact hreach.1
  rw [arriveGo, claspGo_reaches hr hreach hstill]
  simp only [hprep.claspRead hrest, releaseWaits_false (hprep.rest hrest).toCacheRest, hprep.cur, claspTouch_eq_self hreach hstill (cores_claspPrep hrest s.cur), hw,
    hrel.claspRead (hprep.rest hrest), Bool.false_eq_true, if_false]
  rfl

theorem weave_released (hreach : reaches s t h wr w b p) (hrest : ClaspRest t p s) (me scope : Nat) :
    ((s.claspPrep me p).releaseAt me t scope).weave? t.weave = some w := by
  rw [State.weave?, weaves_releaseAt, weaves_claspPrep hrest]
  exact hreach.1

theorem neutral_released_prep (hrest : ClaspRest t p s) (b : Bind) (me : Nat) :
    Neutral s ((s.claspPrep me p).releaseAt me t (State.claspScope b)) := by
  have hprep := neutral_claspPrep hrest me
  exact hprep.trans (neutral_releaseAt (hprep.rest hrest).toCacheRest (claspScope_le b) me)

theorem neutral_arriving (hreach : reaches s t h wr w b p) (hrest : ClaspRest t p s) : Neutral s (arriving s t h w b p) :=
  (neutral_released_prep hrest b s.cur).trans (neutral_setWeave (weave_released hreach hrest s.cur _) rfl rfl)

theorem weave_arriving (hreach : reaches s t h wr w b p) (hrest : ClaspRest t p s) {k : Nat} {w' : Weave}
    (hw' : (arriving s t h w b p).weave? k = some w') : ∃ w0, s.weave? k = some w0 ∧ w'.binds = w0.binds ∧ w'.helds = w0.helds := by
  by_cases hk : k = t.weave
  · rw [hk, arriving, State.weave_setWeave] at hw'
    obtain rfl := Option.some.inj hw'
    exact ⟨w, by rw [hk]; exact hreach.1, rfl, rfl⟩
  · rw [arriving, State.weave_setWeave_ne _ _ hk, State.weave?, weaves_releaseAt, weaves_claspPrep hrest] at hw'
    exact ⟨w', hw', rfl, rfl⟩

theorem serves_arriving (hreach : reaches s t h wr w b p) (hrest : ClaspRest t p s) : Serves t p s (arriving s t h w b p) :=
  (neutral_arriving hreach hrest).serves hrest fun _ _ hw' => weave_arriving hreach hrest hw'

/-- The record of a strand after its arrival has been noted. -/
theorem record_arrived {w' : Weave} (hb : w'.binds = w.binds) (hrecs : w'.recs = arrivedRecs w t h) :
    record w' t h = if forNext w t h then { record w t h with early := true } else { record w t h with arrived := true } := by
  have hkey : State.recKey w' h t.widx = State.recKey w h t.widx := by rw [State.recKey, State.recKey, State.canonH, State.canonH, hb]
  rw [record, hkey, hrecs, arrivedRecs, AMap.get, AMap.look_put_self, Option.getD_some]

/-- ARRIVE, and ARRIVETX with no tagged command in flight. -/
theorem exec_arrive {i : Instr} {x : Nat} (hi : i = .claspArrive x h ∨ i = .claspArrivetx x h ∧ tagged t h = false) :
    ∃ tx, exec i s = arriveGo tx x h s ∧ (tx && tagged t h) = false := by
  rcases hi with rfl | ⟨rfl, htag⟩
  · exact ⟨false, rfl, rfl⟩
  · exact ⟨true, rfl, by rw [htag]; rfl⟩

end

theorem arrivalsCountTheirPhaseAndReturnItsToken : ArrivalsCountTheirPhaseAndReturnItsToken := by
  intro s t i x h w b p hr _ hi hreach hstill
  have hrest := rest_of_still hreach hstill
  have hprep := neutral_claspPrep hrest s.cur
  have harr := serves_arriving hreach hrest
  have hread := (neutral_arriving hreach hrest).claspRead hrest
  obtain ⟨tx, he, htx⟩ := exec_arrive (s := s) hi
  rw [arriveGo_eq hr hreach hstill, htx] at he
  refine ⟨fun hinv => ?_, fun hinv hj ha => ?_, fun hinv hnext hearly => ?_, fun hinv hnext hearly => ?_⟩
  · rw [if_pos hinv] at he
    refine claspDone_token he (hprep.only p) ?_
    rw [claspRead_setCur (hprep.rest hrest), hprep.claspRead hrest]
  · have hnext : forNext w t h = false := by rw [forNext, hj, ha]; rfl
    have htok : arrivalToken w t h (s.claspRead p) = (s.claspRead p).seq := by rw [arrivalToken, hnext, if_neg Bool.false_ne_true]
    rw [if_neg (by simp [hinv]), hnext, if_neg (by simp), if_neg (by simp), htok] at he
    have hcount := serves_countArrival harr.rest s.cur (s.claspRead p).seq (s.claspRead p)
    refine claspDone_token he (harr.trans hcount).only ?_
    rw [claspRead_setCur hcount.rest]
    exact tested_countArrival harr.rest harr.waits s.cur (s.claspRead p)
  · have hfor : forNext w t h = true := by rw [forNext, Bool.or_eq_true]; exact hnext
    have htok : arrivalToken w t h (s.claspRead p) = ((s.claspRead p).seq + 1) % 65536 := by rw [arrivalToken, hfor, if_pos rfl]
    have hne : ((s.claspRead p).seq + 1) % 65536 ≠ (s.claspRead p).seq := by have := seq_lt (s.claspRead p); omega
    rw [if_neg (by simp [hinv]), hfor, hearly, if_neg (by simp), if_neg (by simp), htok, countArrival_early s.cur p _ hne] at he
    have hcount := serves_claspWrite harr.rest s.cur { s.claspRead p with early := (s.claspRead p).early + 1 }
    refine claspDone_token he (harr.trans hcount).only ⟨?_, fun w' hw' => ?_⟩
    · rw [claspRead_setCur hcount.rest, claspRead_claspWrite harr.rest]
    · obtain ⟨w1, hw1, hb, -, hrecs⟩ := weave_claspWrite harr.rest s.cur _ hw'
      rw [arriving, State.weave_setWeave] at hw1
      obtain rfl := Option.some.inj hw1
      rw [record_arrived (w := w) hb hrecs, hfor, if_pos rfl]
  · have hfor : forNext w t h = true := by rw [forNext, Bool.or_eq_true]; exact hnext
    rw [if_neg (by simp [hinv]), hfor, hearly, if_pos (by rfl)] at he
    obtain ⟨t', ht', hsame⟩ := (s.claspPrep s.cur p).hold_eq t .other
    exact ⟨t', he.trans ht', hsame⟩

section
variable {s : State} {t : Strand} {h : Nat} {wr : Bool} {w : Weave} {b : Bind} {p : CPlace} {a : HeldArr}

/-! #### Held arrivals -/

theorem weave_updWeave_none {a : State} {k : Nat} (f : Weave → Weave) (hw : a.weave? k = none) : (a.updWeave k f).weave? k = none := by
  rw [State.weave?] at hw
  rw [State.weave?, State.updWeave, AMap.upd, hw]
  exact hw

/-- An update of a weave, but for what stands in scratch. -/
theorem neutral_updWeave {a : State} {k : Nat} {f : Weave → Weave} (hf : ∀ w, (f w).home = w.home ∧ (f w).scr = w.scr) : Neutral a (a.updWeave k f) where
  mem := rfl
  link := rfl
  clus := rfl
  cur := rfl
  stash := fun _ => id
  clean := fun _ => id
  waits := id
  scratch := fun j => by
    by_cases hj : j = k
    · subst hj
      cases hw : a.weave? j with
      | none => rw [show (a.updWeave j f).weave? j = none from weave_updWeave_none f hw]
      | some w =>
        obtain ⟨hh, hs⟩ := hf w
        rw [State.weave_updWeave a f hw, Option.map_some, Option.map_some, hh, hs]
    · rw [weave_updWeave_ne a f hj]

theorem weave_of_updWeave {a : State} {k : Nat} {f : Weave → Weave} {w' : Weave} (hw' : (a.updWeave k f).weave? k = some w') :
    ∃ w, a.weave? k = some w ∧ w' = f w := by
  cases hw : a.weave? k with
  | none => rw [weave_updWeave_none f hw] at hw'; cases hw'
  | some w =>
    rw [State.weave_updWeave a f hw] at hw'
    exact ⟨w, rfl, (Option.some.inj hw').symm⟩

/-- The record of an arrival that is held back, and the arrival itself. -/
theorem weave_holding (hreach : reaches s t h wr w b p) (hrest : ClaspRest t p s) {w' : Weave} (hw' : (holding s t h w b p).weave? t.weave = some w') :
    w'.binds = w.binds ∧ w'.recs = arrivedRecs w t h ∧
      w'.helds = w.helds ++ [{ h := h, bind := b, token := arrivalToken w t h (s.claspRead p), widx := t.widx, upto := t.nextOp }] := by
  have hprep := neutral_claspPrep hrest s.cur
  obtain ⟨w1, hw1, rfl⟩ := weave_of_updWeave hw'
  obtain ⟨w0, hw0, hb, -, -⟩ := weave_claspWrite (hprep.rest hrest) s.cur _ hw1
  rw [State.weave?, weaves_claspPrep hrest] at hw0
  obtain rfl := Option.some.inj (hreach.1.symm.trans hw0)
  exact ⟨hb, rfl, rfl⟩

/-- ARRIVETX with a tagged command in flight. -/
theorem exec_arrivetx_held (hr : s.runs t) (hreach : reaches s t h true w b p) (hstill : still s t w b p) {x : Nat}
    (hinv : (s.claspRead p).inv = false) (htag : tagged t h = true) (hnext : forNext w t h = false) :
    exec (.claspArrivetx x h) s = (holding s t h w b p).finish ((t.setS x (BitVec.ofNat 32 (s.claspRead p).seq)).noteWrite) 1 := by
  have htok : arrivalToken w t h (s.claspRead p) = (s.claspRead p).seq := by rw [arrivalToken, hnext, if_neg Bool.false_ne_true]
  have he := arriveGo_eq hr hreach hstill true x
  rw [if_neg (by simp [hinv]), hnext, if_neg (by simp), if_pos (by rw [htag]; rfl), htok] at he
  exact he

/-- An access that passes its check is aligned and translated. -/
theorem checkAcc_ok {me : Nat} {acc : Acc} {scalar : Bool} {e : Tlb} (hacc : s.checkAcc me t acc scalar = .ok e) :
    acc.va % acc.size = 0 ∧ s.xlate t.part t.ctx t.core acc.va t.priv (if acc.wr then .write else .read) = .ok e := by
  unfold State.checkAcc at hacc
  split at hacc
  · cases hacc
  · rename_i halign
    refine ⟨not_not.1 halign, ?_⟩
    split at hacc
    · cases hacc
    · rename_i e' hx
      split at hacc
      · cases hacc
      · cases hacc
        exact hx

theorem inTransition_of_xlate {part ctx core va : Nat} {priv : Bool} {use : State.Use} {e : Tlb}
    (hx : s.xlate part ctx core va priv use = .ok e) : s.inTransition part ctx va = false := by
  cases htr : s.inTransition part ctx va with
  | false => rfl
  | true =>
    rw [State.xlate, htr, Bool.true_or, if_pos rfl] at hx
    cases hx

/-- The object of a reached handle is one that an engine reaches too. -/
theorem claspPlace_of_reaches (hreach : reaches s t h true w b p) (hclean : s.claspPoison p = []) : s.claspPlace t w b = some p := by
  rcases place_of_reaches hreach with ⟨hbolt, rfl, halign, hlen⟩ | ⟨hbolt, e, hacc, hcoh, rfl⟩
  · rw [claspPlace_scr hbolt, if_neg (by omega), hclean]
    rfl
  · obtain ⟨halign, hx⟩ := checkAcc_ok hacc
    have hplace : ¬ (e.coh ≠ 0 ∨ b.addr % 32 ≠ 0) := fun h => h.elim (· hcoh) (· halign)
    unfold State.claspPlace
    rw [if_pos hbolt, show s.xlate t.part t.ctx t.core b.addr t.priv .write = .ok e from hx]
    simp only [if_neg hplace, Option.filter_some, hclean, List.isEmpty_nil, if_true]

/-- A page that an access has reached is in no transition. -/
theorem inTransition_of_reaches (hreach : reaches s t h wr w b p) : (b.bolt && s.inTransition t.part t.ctx b.addr) = false := by
  rcases place_of_reaches hreach with ⟨hbolt, -⟩ | ⟨-, e, hacc, -⟩
  · rw [hbolt, Bool.false_and]
  · rw [inTransition_of_xlate (checkAcc_ok hacc).2, Bool.and_false]

/-- The part when a held arrival is about to count: off the weave's list, released, its object reached. -/
def due (s : State) (t : Strand) (b : Bind) (p : CPlace) (a : HeldArr) : State :=
  ((s.updWeave t.weave (fun w => { w with helds := w.helds.erase a })).releaseAt s.cur t (State.claspScope b)).claspPrep s.cur p

theorem neutral_due (hrest : ClaspRest t p s) : Neutral s (due s t b p a) := by
  have hdrop := neutral_updWeave (a := s) (k := t.weave) (f := fun w => { w with helds := w.helds.erase a }) fun _ => ⟨rfl, rfl⟩
  have hrel := hdrop.trans (neutral_releaseAt (hdrop.rest hrest).toCacheRest (claspScope_le b) s.cur)
  exact hrel.trans (neutral_claspPrep (hrel.rest hrest) s.cur)

theorem weave_due (hreach : reaches s t h wr w b p) (hrest : ClaspRest t p s) :
    (due s t b p a).weave? t.weave = some { w with helds := w.helds.erase a } := by
  have hdrop := neutral_updWeave (a := s) (k := t.weave) (f := fun w => { w with helds := w.helds.erase a }) fun _ => ⟨rfl, rfl⟩
  have hrel := neutral_releaseAt (hdrop.rest hrest).toCacheRest (claspScope_le b) s.cur
  rw [due, State.weave?, weaves_claspPrep (hrel.rest (hdrop.rest hrest)), weaves_releaseAt]
  exact State.weave_updWeave s _ hreach.1

/-- HELD_ARRIVAL_TAKES_EFFECT of the only arrival held, its tagged commands done. -/
theorem exec_heldArrival (hr : s.runs t) (hreach : reaches s t h true w b p) (hstill : still s t w b p) (hhelds : w.helds = [a])
    (hh : a.h = h) (hb : a.bind = b) (hx : a.widx = t.widx) (htag : tagged t h = false) (hinv : (s.claspRead p).inv = false) :
    exec (.heldArrival s.cur h) s =
      .next ((due s t b p a).countArrival s.cur p a.token { s.claspRead p with held := (s.claspRead p).held - 1 }) := by
  have hrest := rest_of_still hreach hstill
  obtain ⟨-, -, -, -, hclean, -⟩ := hstill
  have hplace := claspPlace_of_reaches hreach hclean
  have hdue : s.arrivalDue s.cur t a = true := by
    have hready : heldReady t a = true := by
      have hops : t.ops.any (fun o => o.tag == some a.h && decide (o.id < a.upto)) = false := by
        rw [hh, List.any_eq_false]
        intro o ho htag'
        exact List.any_eq_false.1 htag o ho (Bool.and_eq_true_iff.1 htag').1
      rw [heldReady, hops, hx]
      simp
    rw [State.arrivalDue, hready, hb, inTransition_of_reaches hreach, releaseWaits_false hrest.toCacheRest]
    rfl
  have hfind : w.helds.find? (fun a => a.h == h && s.arrivalDue s.cur t a) = some a := by
    rw [hhelds, List.find?_cons_of_pos (by rw [hh, hdue]; simp)]
  have hread : (due s t b p a).claspRead p = s.claspRead p := (neutral_due hrest).claspRead hrest
  refine congrArg Host.Outcome.next ?_
  unfold State.heldArrival
  rw [show s.strand? s.cur = some t from hr]
  simp only [hreach.1, hfind, hb, hplace]
  rw [show ((State.updWeave s t.weave fun w => { w with helds := w.helds.erase a }).releaseAt s.cur t (State.claspScope b)).claspPrep s.cur p = due s t b p a from rfl,
    hread, if_neg (by rw [show Clasp.inv { s.claspRead p with held := (s.claspRead p).held - 1 } = (s.claspRead p).inv from rfl, hinv]; exact Bool.false_ne_true)]

end

theorem heldArrivalsWaitForTheirTaggedCommands : HeldArrivalsWaitForTheirTaggedCommands := by
  intro s t x h w b p hr _ _ hreach hstill hinv
  have hrest := rest_of_still hreach hstill
  have hprep := neutral_claspPrep hrest s.cur
  refine ⟨fun htag hj ha => ?_, fun a hhelds hh hb hx htag => ?_⟩
  · have hnext : forNext w t h = false := by rw [forNext, hj, ha]; rfl
    have htok : arrivalToken w t h (s.claspRead p) = (s.claspRead p).seq := by rw [arrivalToken, hnext, if_neg Bool.false_ne_true]
    have hwrite := serves_claspWrite (hprep.rest hrest) s.cur { s.claspRead p with held := (s.claspRead p).held + 1 }
    have hupd := neutral_updWeave (a := (s.claspPrep s.cur p).claspWrite s.cur p { s.claspRead p with held := (s.claspRead p).held + 1 })
      (k := t.weave) (f := heldIn w t h b (arrivalToken w t h (s.claspRead p))) fun _ => ⟨rfl, rfl⟩
    refine claspDone_token (exec_arrivetx_held hr hreach hstill hinv htag hnext)
      (onlyObject_trans (hprep.only p) (onlyObject_trans hwrite.only (hupd.only p))) ⟨?_, fun w' hw' => ?_⟩
    · exact (claspRead_setCur (hupd.rest hwrite.rest) _).trans
        ((hupd.claspRead hwrite.rest).trans (claspRead_claspWrite (hprep.rest hrest) _ _))
    · obtain ⟨hb, hrecs, hhelds⟩ := weave_holding hreach hrest hw'
      rw [htok] at hhelds
      rw [record_arrived hb hrecs, hnext]
      exact ⟨rfl, hhelds⟩
  · have hdue : Neutral s (due s t b p a) := neutral_due hrest
    have hcount := serves_countArrival (hdue.rest hrest) s.cur a.token { s.claspRead p with held := (s.claspRead p).held - 1 }
    refine ⟨_, exec_heldArrival hr hreach hstill hhelds hh hb hx htag hinv, onlyObject_trans (hdue.only p) hcount.only,
      fun w' hw' => ?_, fun htok => ?_, fun htok => ?_⟩
    · obtain ⟨w0, hw0, -, hkept⟩ := hcount.binds _ w' hw'
      rw [weave_due hreach hrest] at hw0
      obtain rfl := Option.some.inj hw0
      rw [hkept, hhelds]
      exact List.erase_cons_head a []
    · rw [htok]
      exact tested_countArrival (hdue.rest hrest) hdue.waits s.cur { s.claspRead p with held := (s.claspRead p).held - 1 }
    · have hne : a.token ≠ Clasp.seq { s.claspRead p with held := (s.claspRead p).held - 1 } := htok
      rw [countArrival_early s.cur p _ hne, claspRead_claspWrite (hdue.rest hrest)]

/-- Settles O22: an arrival's work is a release that finds nothing to write back, a note in the weave's records, and a count at the
object (`serves_countArrival`, `tested_countArrival`); a held one does the same when it takes effect. -/
theorem arrivalsCountAtOnceOrAfterTheirCommands : Obligations.ArrivalsCountAtOnceOrAfterTheirCommands :=
  ⟨arrivalsCountTheirPhaseAndReturnItsToken, heldArrivalsWaitForTheirTaggedCommands⟩

end Sys2Proof.Proofs
end

/-! ### A stash fills alike in states that differ at another core (spec/03 R79, R81, R88) -/
section
namespace Sys2Proof.Proofs
open Sys2Proof Sys2Proof.Machine Sys2Proof.Rules

/-- The two states hold the same memory and the same caches, but for those of core k; nothing waits to be combined, and the serial
transactions are the same. -/
structure Alike (k : Nat) (s s' : State) : Prop where
  mem : s'.mem = s.mem
  poison : s'.poison = s.poison
  window : s'.window = s.window
  linkUp : s'.linkUp = s.linkUp
  parts : s'.parts = s.parts
  clus : s'.clus = s.clus
  slice : s'.slice = s.slice
  weaves : s'.weaves = s.weaves
  time : s'.time = s.time
  comb : ∀ c, (s.clu c).comb = []
  core : ∀ j, j ≠ k → s'.core j = s.core j
  serial : ∀ me pa wr, s'.serialHolds me pa wr = s.serialHolds me pa wr

namespace Alike
section
variable {k : Nat} {s s' : State}

theorem refl (comb : ∀ c, (s.clu c).comb = []) : Alike k s s :=
  ⟨rfl, rfl, rfl, rfl, rfl, rfl, rfl, rfl, rfl, comb, fun _ _ => rfl, fun _ _ _ => rfl⟩

theorem comb' (h : Alike k s s') (c : Nat) : (s'.clu c).comb = [] := by rw [State.clu, h.clus]; exact h.comb c

theorem trans {s'' : State} (h : Alike k s s') (h' : Alike k s' s'') : Alike k s s'' where
  mem := h'.mem.trans h.mem
  poison := h'.poison.trans h.poison
  window := h'.window.trans h.window
  linkUp := h'.linkUp.trans h.linkUp
  parts := h'.parts.trans h.parts
  clus := h'.clus.trans h.clus
  slice := h'.slice.trans h.slice
  weaves := h'.weaves.trans h.weaves
  time := h'.time.trans h.time
  comb := h.comb
  core := fun j hj => (h'.core j hj).trans (h.core j hj)
  serial := fun me pa wr => (h'.serial me pa wr).trans (h.serial me pa wr)

/-! #### What the home reads -/

theorem homeRead (h : Alike k s s') (pa n : Nat) : s'.homeRead pa n = s.homeRead pa n := by
  simp only [State.homeRead, State.homeBytes, State.homeByte, h.mem]

theorem isPoison (h : Alike k s s') (pa : Nat) : s'.isPoison pa = s.isPoison pa := by simp only [State.isPoison, h.poison]

theorem homePart (h : Alike k s s') (c : Nat) : s'.homePart c = s.homePart c := by simp only [State.homePart, State.ownerOf, h.parts]

theorem frozenClu (h : Alike k s s') (c : Nat) : s'.frozenClu c = s.frozenClu c := by
  simp only [State.frozenClu, State.frozenAt, State.ownerOf, State.csr, State.part?, h.parts]

theorem nearRead (h : Alike k s s') (part pa n coh : Nat) : s'.nearRead part pa n coh = s.nearRead part pa n coh := by
  simp only [State.nearRead, h.homeRead, h.slice]

theorem nearPoison (h : Alike k s s') (part pa coh : Nat) : s'.nearPoison part pa coh = s.nearPoison part pa coh := by
  simp only [State.nearPoison, h.isPoison, h.slice]

theorem sectorOfHome (h : Alike k s s') (core pa coh ctx : Nat) : s'.sectorOfHome core pa coh ctx = s.sectorOfHome core pa coh ctx := by
  simp only [State.sectorOfHome, State.homeWords, State.homePoison, h.homeRead, h.isPoison, h.slice, h.homePart]

theorem coreRead (h : Alike k s s') {core : Nat} (hc : core ≠ k) (pa n coh : Nat) : s'.coreRead core pa n coh = s.coreRead core pa n coh := by
  simp only [State.coreRead, h.nearRead, h.homePart, h.core core hc]

theorem readPoison (h : Alike k s s') {core : Nat} (hc : core ≠ k) (pa coh : Nat) : s'.readPoison core pa coh = s.readPoison core pa coh := by
  simp only [State.readPoison, h.linkUp, h.nearPoison, h.homePart, h.core core hc]

/-! #### Steps taken by both -/

theorem foldl {α : Type} {f : State → α → State} (hf : ∀ s s' a, Alike k s s' → Alike k (f s a) (f s' a)) (xs : List α) (h : Alike k s s') :
    Alike k (xs.foldl f s) (xs.foldl f s') := by
  induction xs generalizing s s' with
  | nil => exact h
  | cons x xs ih => exact ih (hf _ _ _ h)

theorem ite {c : Prop} [Decidable c] {a a' b b' : State} (ha : Alike k a a') (hb : Alike k b b') :
    Alike k (if c then a else b) (if c then a' else b') := by
  split
  · exact ha
  · exact hb

theorem combine (h : Alike k s s') (pa : Nat) : Alike k (s.combine pa) (s'.combine pa) := by
  rw [combine_eq_self h.comb, combine_eq_self h.comb']
  exact h

/-- An access dooms no lane of a serial transaction. -/
theorem serialHolds_doomBut (s : State) (own : Nat → Strand → Bool) (pa : Nat) (wr : Bool) (me q : Nat) (wr' : Bool) :
    (s.doomBut own pa wr).serialHolds me q wr' = s.serialHolds me q wr' := by
  unfold State.serialHolds State.doomBut
  rw [List.any_map]
  refine congrArg s.strands.any (funext fun e => ?_)
  rw [Function.comp_apply]
  split
  · rfl
  · cases htx : e.2.tx with
    | none => simp only [htx]
    | some x =>
      dsimp only
      split
      · simp only [htx]
      · rename_i hser
        simp only [Bool.eq_false_iff.2 hser, Bool.false_and]

theorem doomBut (h : Alike k s s') (own : Nat → Strand → Bool) (pa : Nat) (wr : Bool) : Alike k (s.doomBut own pa wr) (s'.doomBut own pa wr) where
  mem := h.mem
  poison := h.poison
  window := h.window
  linkUp := h.linkUp
  parts := h.parts
  clus := h.clus
  slice := h.slice
  weaves := h.weaves
  time := h.time
  comb := h.comb
  core := h.core
  serial := fun me q wr' => by rw [serialHolds_doomBut, serialHolds_doomBut]; exact h.serial me q wr'

theorem setPoison (h : Alike k s s') (pa : Nat) : Alike k (s.setPoison pa) (s'.setPoison pa) := by
  unfold State.setPoison
  rw [h.poison]
  exact ite h { h with poison := rfl }

theorem setSlice (h : Alike k s s') (m : AMap Sector) : Alike k { s with slice := m } { s' with slice := m } := { h with slice := rfl }

theorem setCore (h : Alike k s s') (j : Nat) (c : Cor) : Alike k (s.setCore j c) (s'.setCore j c) where
  mem := h.mem
  poison := h.poison
  window := h.window
  linkUp := h.linkUp
  parts := h.parts
  clus := h.clus
  slice := h.slice
  weaves := h.weaves
  time := h.time
  comb := h.comb
  serial := h.serial
  core := fun i hi => by
    by_cases hij : i = j
    · rw [hij, State.core_setCore, State.core_setCore]
    · rw [State.core_setCore_ne _ c hij, State.core_setCore_ne _ c hij]
      exact h.core i hi

theorem l2Read (h : Alike k s s') (core ctx pa : Nat) : Alike k (s.l2Read core ctx pa) (s'.l2Read core ctx pa) := { h with }

theorem l2Write (h : Alike k s s') (core ctx pa n : Nat) : Alike k (s.l2Write core ctx pa n) (s'.l2Write core ctx pa n) := { h with }

theorem homeStore (h : Alike k s s') (pa : Nat) (bs : List Byte) : Alike k (s.homeStore pa bs) (s'.homeStore pa bs) := by
  unfold State.homeStore
  rw [h.linkUp, State.win, State.win, h.window]
  exact ite { h with window := congrArg (fun m => AMap.set m _ _ _) h.window }
    { h with mem := congrArg (fun m => State.writeBytes m pa bs) h.mem, poison := congrArg (List.filter _) h.poison }

theorem sliceFill (h : Alike k s s') (part pa : Nat) : Alike k (s.sliceFill part pa) (s'.sliceFill part pa) := by
  unfold State.sliceFill
  simp only [h.slice, State.homeWords, State.homePoison, h.homeRead, h.isPoison]
  exact ite h (h.setSlice _)

theorem nearStore (h : Alike k s s') (part pa coh : Nat) (bs : List Byte) : Alike k (s.nearStore part pa coh bs) (s'.nearStore part pa coh bs) := by
  unfold State.nearStore
  dsimp only
  have hf := h.sliceFill part pa
  rw [hf.slice]
  exact ite (h.homeStore pa bs) (hf.setSlice _)

theorem homePrep (h : Alike k s s') (core pa coh ctx : Nat) : Alike k (s.homePrep core pa coh ctx) (s'.homePrep core pa coh ctx) := by
  have hc := h.combine pa
  unfold State.homePrep
  dsimp only
  rw [hc.homePart]
  exact (ite hc (hc.sliceFill _ pa)).l2Read core ctx pa

/-! #### A core other than k fills its L1, and a stash line -/

theorem sectorHome (h : Alike k s s') (core sec : Nat) (x : Sector) : Alike k (s.sectorHome core sec x) (s'.sectorHome core sec x) := by
  refine foldl (fun a a' i h => ?_) _ (ite h (h.l2Write core x.ctx (sec * 64) 0))
  split
  · have hs := ((h.combine (sec * 64)).nearStore (a.homePart core) (sec * 64 + 4 * i) x.coh (bytesOf ((x.data.getD i 0#32).toNat) 4)).doomBut
      (fun _ t => t.core == core) (sec * 64 + 4 * i) true
    dsimp only
    rw [h.homePart, hs.slice, hs.homePart]
    exact ite hs (ite (hs.setPoison _) (hs.setSlice _))
  · exact h

theorem l1Clean (h : Alike k s s') {core : Nat} (hc : core ≠ k) (sec : Nat) (drop : Bool) : Alike k (s.l1Clean core sec drop) (s'.l1Clean core sec drop) := by
  unfold State.l1Clean
  rw [h.core core hc, h.frozenClu]
  split
  · exact h
  · rename_i x _
    have hx := h.sectorHome core sec x
    dsimp only
    rw [hx.core core hc]
    exact ite h (hx.setCore core _)

theorem l1Room (h : Alike k s s') {core : Nat} (hc : core ≠ k) (line : Nat) : Alike k (s.l1Room core line) (s'.l1Room core line) := by
  unfold State.l1Room
  simp only [h.core core hc, h.serial, h.time]
  refine ite h ?_
  split
  · rename_i x _
    exact foldl (f := fun s i => s.l1Clean core (4 * x + i) true) (fun _ _ _ h => h.l1Clean hc _ _) _ h
  · exact h

theorem l1Fill (h : Alike k s s') {core : Nat} (hc : core ≠ k) (pa coh ctx : Nat) : Alike k (s.l1Fill core pa coh ctx) (s'.l1Fill core pa coh ctx) := by
  unfold State.l1Fill
  rw [h.core core hc]
  split
  · exact h
  · have hp := (h.l1Room hc (pa / 256)).homePrep core pa coh ctx
    dsimp only
    rw [hp.core core hc, hp.sectorOfHome]
    exact hp.setCore core _

theorem readPrep (h : Alike k s s') {core : Nat} (hc : core ≠ k) (pa coh ctx : Nat) :
    Alike k (s.readPrep core pa coh ctx) (s'.readPrep core pa coh ctx) :=
  ite (h.homePrep core pa coh ctx) (h.l1Fill hc pa coh ctx)

theorem updWeave (h : Alike k s s') (wk : Nat) (f : Weave → Weave) : Alike k (s.updWeave wk f) (s'.updWeave wk f) :=
  { h with weaves := congrArg (fun m => AMap.upd m wk f) h.weaves }

/-- A stash line of a weave whose home is another core than k fills with the same bytes. -/
theorem stashFill (h : Alike k s s') {wk : Nat} (hhome : ∀ w, s.weave? wk = some w → w.home ≠ k) (me off : Nat) :
    Alike k (s.stashFill me wk off) (s'.stashFill me wk off) := by
  have hw : s'.weave? wk = s.weave? wk := by rw [State.weave?, State.weave?, h.weaves]
  unfold State.stashFill
  rw [hw]
  split
  · exact h
  · rename_i w hw0
    have hne := hhome w hw0
    rw [State.stashOf, State.stashOf, h.core _ hne]
    split
    · exact h
    · rename_i m _
      have hfill := h.foldl (f := fun s i => (s.doom me (m.page + 256 * (off / 256 % 16) + 64 * i) false).readPrep w.home
        (m.page + 256 * (off / 256 % 16) + 64 * i) m.coh w.ctx) (fun _ _ _ h => (h.doomBut _ _ _).readPrep hne _ _ _) (List.range 4)
      refine ite h ?_
      simp only [hfill.coreRead hne, hfill.readPoison hne]
      have hupd := hfill.updWeave wk
      rw [(hupd _).core w.home hne]
      exact (hupd _).setCore w.home _

end
end Alike
end Sys2Proof.Proofs
end

/-! ### CLASP.INIT, INVAL, REG, UNREG, WAIT and TEST (spec/06 R175 to R177) -/
section
namespace Sys2Proof.Proofs
open Sys2Proof Sys2Proof.Machine Sys2Proof.Rules

section
variable {s a : State} {t : Strand} {h x : Nat} {wr : Bool} {w : Weave} {b : Bind} {p : CPlace}

/-! #### A wait that has been released -/

theorem alike_setCore {k : Nat} (hcomb : ∀ c, (a.clu c).comb = []) (c : Cor) : Alike k a (a.setCore k c) :=
  { Alike.refl (k := k) hcomb with core := fun _ hj => State.core_setCore_ne a c hj }

/-- An acquire that finds nothing to write back works on the strand's own core. -/
theorem alike_acquireAt {scope : Nat} (hrest : CacheRest t a) (hs : scope ≤ 4) (me : Nat) :
    Alike t.core a (a.acquireAt me t scope) ∧ (a.acquireAt me t scope).strands = a.strands := by
  have hsc := scopeOf_le a t hs
  have hclean := neutral_stashClean hrest.stash me true (fun _ => true)
  have h0 := Alike.refl (k := t.core) hrest.comb
  have hstash : Alike t.core a (a.stashClean me t.core true (fun _ => true)) ∧ (a.stashClean me t.core true (fun _ => true)).strands = a.strands := by
    rw [stashClean_eq_setCore hrest.stash]
    exact ⟨alike_setCore hrest.comb _, rfl⟩
  obtain ⟨h1, hstr1⟩ := hstash
  have h2 := h1.trans (alike_setCore h1.comb' { (a.stashClean me t.core true (fun _ => true)).core t.core with cc := [] })
  have hkept : Neutral a ((a.stashClean me t.core true (fun _ => true)).setCore t.core
      { (a.stashClean me t.core true (fun _ => true)).core t.core with cc := [] }) := hclean.trans (neutral_setCore id id)
  have hfirst : Alike t.core a _ ∧ State.strands _ = a.strands ∧ Neutral a _ :=
    State.ite_keeps (P := fun d => Alike t.core a d ∧ d.strands = a.strands ∧ Neutral a d) (c := 1 ≤ a.scopeOf t scope)
      ⟨h2, hstr1, hkept⟩ ⟨h0, rfl, Neutral.refl a⟩
  obtain ⟨hal, hstr, hn⟩ := hfirst
  unfold State.acquireAt
  simp only [if_neg (show ¬ 5 ≤ a.scopeOf t scope by omega)]
  refine State.ite_keeps (P := fun d => Alike t.core a d ∧ d.strands = a.strands) ?_ ⟨hal, hstr⟩
  rw [l1DropClean_eq_setCore (hn.clean _ hrest.clean)]
  exact ⟨hal.trans (alike_setCore hal.comb' _), hstr⟩

theorem alike_setCur {k : Nat} (hcomb : ∀ c, (a.clu c).comb = []) {u v : Strand} (hr : a.strand? a.cur = some v) (hu : u.tx = v.tx) :
    Alike k a (a.setCur u) :=
  { Alike.refl (k := k) hcomb with serial := (sameSerial_setStrand hr hu).2 }

/-- An object reads alike where only the caches of a core without a stash may differ. -/
theorem claspRead_of_alike {a' : State} (hal : Alike t.core a a') (hrest : CacheRest t a) (hkept : (a'.core t.core).stash = []) :
    a'.claspRead p = a.claspRead p := by
  cases p with
  | mem pa =>
    simp only [State.claspRead, combine_eq_self hal.comb', combine_eq_self hal.comb, hal.homeRead]
  | scr wk off =>
    have hread : ∀ {d d' : State}, d'.weave? wk = d.weave? wk → ∀ i n, d'.scrRead wk i n = d.scrRead wk i n := fun {d d'} h i n => by
      simp only [State.scrRead, h]
    have hweave : a'.weave? wk = a.weave? wk := by rw [State.weave?, State.weave?, hal.weaves]
    have hfill : (a'.stashFill hwAgent wk off).weave? wk = (a.stashFill hwAgent wk off).weave? wk := by
      by_cases hhome : ∃ w, a.weave? wk = some w ∧ w.home = t.core
      · obtain ⟨w, hw, hh⟩ := hhome
        rw [stashFill_eq_self (hweave.trans hw) (by rw [hh]; exact hkept), stashFill_eq_self hw (by rw [hh]; exact hrest.stash), hweave]
      · rw [State.weave?, State.weave?, (hal.stashFill (fun w hw hh => hhome ⟨w, hw, hh⟩) hwAgent off).weaves]
    simp only [State.claspRead, hread hfill]

theorem cacheRest_of_still (hstill : still s t w b p) : CacheRest t s := by
  obtain ⟨hst, -, hl1, hcomb, -⟩ := hstill
  exact ⟨hst, hl1, hcomb⟩

/-- A strand whose wait has been released ends it, from a state that is as the acquire leaves it. -/
theorem woken (hrest : CacheRest t s) (hal : Alike t.core s a) (hn : Neutral s a) {v : Word}
    (hs : a.strand? a.cur = some t) (he : exec (.claspWait x h) s = a.finish { t.setS x v with wait := .none } 1) :
    ∃ s' t', exec (.claspWait x h) s = .next s' ∧ s'.runs t' ∧ t'.getS x = v ∧ t.sameScalars t' [x] ∧
      t'.besidesScalars = { t with wait := .none }.besidesScalars ∧ onlyObject s s' p ∧ s'.claspRead p = s.claspRead p := by
  have hset : Alike t.core a (a.setCur ({ t.setS x v with wait := .none }.advance 1)) := alike_setCur hal.comb' hs (by simp)
  refine ⟨_, _, he, State.strand_setCur a _, ?_, ?_, ?_, ?_, claspRead_of_alike (hal.trans hset) hrest (hn.stash _ hrest.stash)⟩
  · rw [Strand.getS_advance]
    exact Strand.getS_setS t x v
  · exact fun r hr => by rw [Strand.getS_advance]; exact t.setS_sameScalars x v r hr
  · rw [Strand.besidesScalars_advance]
    rfl
  · exact hn.only p

/-! #### The word reaches its object -/

/-- A CLASP word that finds its token's phase complete acquires, and has nothing to wait for. -/
theorem claspAcquired_eq (hrest : CacheRest t a) (scope : Nat) (v : Word) :
    a.claspAcquired t x scope v = .next ((a.acquireAt a.cur t scope).setCur ((t.setS x v).advance 1)) := by
  rw [State.claspAcquired, acquireWaits_false hrest, if_neg Bool.false_ne_true, State.finish_eq]

/-- The strand of a CLASP word that writes its status. -/
theorem claspDone_status {i : Instr} {v : Word} {post : State → Prop} (he : exec i s = .next (a.setCur ((t.setS x v).advance 1)))
    (honly : onlyObject s a p) (hpost : post (a.setCur ((t.setS x v).advance 1))) : claspDone s t i x v p post :=
  claspDone_of he (Strand.getS_setS t x v) (t.setS_sameScalars x v) rfl honly hpost

/-- The strand of a CLASP word without a result. -/
theorem claspDone_quiet {i : Instr} {post : State → Prop} (he : exec i s = .next (a.setCur (t.advance 1)))
    (honly : onlyObject s a p) (hpost : post (a.setCur (t.advance 1))) : claspDone s t i x (t.getS x) p post :=
  claspDone_of he rfl (fun _ _ => rfl) rfl honly hpost

/-- A status word that leaves its object alone. -/
theorem claspDone_reads {i : Instr} {v : Word} (hrest : ClaspRest t p s) (hn : Neutral s a) (he : exec i s = .next (a.setCur ((t.setS x v).advance 1))) :
    claspDone s t i x v p (fun s' => s'.claspRead p = s.claspRead p) :=
  claspDone_status he (hn.only p) ((claspRead_setCur (hn.rest hrest) _).trans (hn.claspRead hrest))

theorem neutral_acquired_prep (hrest : ClaspRest t p s) (b : Bind) (me : Nat) :
    Neutral s ((s.claspPrep me p).acquireAt me t (State.claspScope b)) := by
  have hprep := neutral_claspPrep hrest me
  exact hprep.trans (neutral_acquireAt (hprep.rest hrest).toCacheRest (claspScope_le b) me)

/-- CLASP.WAIT of a strand that has not been released. -/
theorem exec_claspWait (hr : s.runs t) (hreach : reaches s t h true w b p) (hstill : still s t w b p) (hwait : ∀ v scope, t.wait ≠ .woke v scope) :
    exec (.claspWait x h) s =
      if tokenDone (s.claspRead p) (t.getS x) then
        .next (((s.claspPrep s.cur p).acquireAt s.cur t (State.claspScope b)).setCur ((t.setS x 0#32).advance 1))
      else if (s.claspRead p).inv then .next ((s.claspPrep s.cur p).setCur ((t.setS x 1#32).advance 1))
      else ((s.claspPrep s.cur p).claspWrite s.cur p ((s.claspRead p).setBit 17 true)).hold t (.clasp h x) := by
  have hrest := rest_of_still hreach hstill
  have hprep := neutral_claspPrep hrest s.cur
  have hgo : exec (.claspWait x h) s = claspGo h true [0] (fun s t _ b p =>
      let c := s.claspRead p
      if c.done (fld (t.getS x).toNat 0 16) then (s.claspTouch t b true).claspAcquired t x (State.claspScope b) 0#32
      else if c.inv then (s.claspTouch t b true).finish (t.setS x 1#32) 1
      else ((s.claspTouch t b true).claspWrite s.cur p (c.setBit 17 true)).hold t (.clasp h x)) s := by
    refine (State.run_of_runs hr _).trans ?_
    split
    · rename_i scope hw
      exact absurd hw (hwait 0 scope)
    · rename_i v scope _ hw
      exact absurd hw (hwait v scope)
    · rfl
  rw [hgo, claspGo_reaches hr hreach hstill]
  simp only [hprep.claspRead hrest, claspTouch_eq_self hreach hstill (cores_claspPrep hrest s.cur), done_eq_tokenDone,
    claspAcquired_eq (hprep.rest hrest).toCacheRest, hprep.cur, State.finish_eq]

/-- CLASP.TEST. -/
theorem exec_claspTest (hr : s.runs t) (hreach : reaches s t h false w b p) (hstill : still s t w b p) :
    exec (.claspTest x h) s =
      if tokenDone (s.claspRead p) (t.getS x) then
        .next (((s.claspPrep s.cur p).acquireAt s.cur t (State.claspScope b)).setCur ((t.setS x 1#32).advance 1))
      else .next ((s.claspPrep s.cur p).setCur ((t.setS x (if (s.claspRead p).inv then 2#32 else 0#32)).advance 1)) := by
  have hrest := rest_of_still hreach hstill
  have hprep := neutral_claspPrep hrest s.cur
  rw [show exec (.claspTest x h) s = execClaspTest x h s from rfl, execClaspTest, claspGo_reaches hr hreach hstill]
  simp only [hprep.claspRead hrest, claspTouch_eq_self hreach hstill (cores_claspPrep hrest s.cur), done_eq_tokenDone,
    claspAcquired_eq (hprep.rest hrest).toCacheRest, hprep.cur, State.finish_eq]

end

theorem claspWaitAndTestReportTheirTokensPhase : ClaspWaitAndTestReportTheirTokensPhase := by
  intro s t x h w b p hr _ _ hstill
  have hcache := cacheRest_of_still hstill
  refine ⟨fun v scope hv hscope hwoke => ?_, fun hreach hwait => ?_, fun hreach => ?_⟩
  · obtain rfl | rfl : v = 0 ∨ v = 1 := by omega
    · obtain ⟨hal, hstr⟩ := alike_acquireAt hcache hscope s.cur
      have hn := neutral_acquireAt hcache hscope s.cur
      refine woken hcache hal hn (by rw [hn.cur, State.strand?, hstr]; exact hr) ((State.run_of_runs hr _).trans ?_)
      simp only [hwoke, acquireWaits_false hcache, Bool.false_eq_true, if_false]
    · refine woken hcache (Alike.refl hcache.comb) (Neutral.refl s) hr ((State.run_of_runs hr _).trans ?_)
      simp only [hwoke]
  · have hrest := rest_of_still hreach hstill
    have hprep := neutral_claspPrep hrest s.cur
    have he := exec_claspWait (x := x) hr hreach hstill hwait
    refine ⟨fun hdone => ?_, fun hdone hinv => ?_, fun hdone hinv => ?_⟩
    · rw [if_pos hdone] at he
      exact claspDone_reads hrest (neutral_acquired_prep hrest b s.cur) he
    · rw [if_neg (by simp [hdone]), if_pos hinv] at he
      exact claspDone_reads hrest hprep he
    · rw [if_neg (by simp [hdone]), if_neg (by simp [hinv])] at he
      have hwrite := serves_claspWrite (hprep.rest hrest) s.cur ((s.claspRead p).setBit 17 true)
      obtain ⟨t', ht', hsame⟩ := ((s.claspPrep s.cur p).claspWrite s.cur p ((s.claspRead p).setBit 17 true)).hold_eq t (.clasp h x)
      have hread := (claspRead_setCur hwrite.rest t').trans (claspRead_claspWrite (hprep.rest hrest) s.cur _)
      refine ⟨_, t', he.trans ht', State.strand_setCur _ t', hsame, onlyObject_trans (hprep.only p) hwrite.only, ?_⟩
      rw [hread]
      exact ⟨waiters_setBit_waiters _ _, seq_setBit _ (.inr rfl) _, rfl, rfl⟩
  · have hrest := rest_of_still hreach hstill
    have he := exec_claspTest (x := x) hr hreach hstill
    cases hdone : tokenDone (s.claspRead p) (t.getS x) with
    | true =>
      rw [if_pos hdone] at he
      exact claspDone_reads hrest (neutral_acquired_prep hrest b s.cur) he
    | false =>
      rw [if_neg (by simp [hdone])] at he
      exact claspDone_reads hrest (neutral_claspPrep hrest s.cur) he

end Sys2Proof.Proofs
end

/-! ### CLASP.INIT, INVAL, REG and UNREG (spec/06 R175, R177) -/
section
namespace Sys2Proof.Proofs
open Sys2Proof Sys2Proof.Machine Sys2Proof.Rules

section
variable {s a : State} {t : Strand} {h x : Nat} {w : Weave} {b : Bind} {p : CPlace}

/-! #### INIT -/

/-- The object that INIT writes over one that reads c. -/
def freshClasp (c : Clasp) (e : Word) : Clasp := { w0 := c.w0 &&& 0xFFFE0000#32, e := e, a := 0#32, j := 0#32, early := 0#32, held := c.held }

theorem seq_freshClasp (c : Clasp) (e : Word) : (freshClasp c e).seq = 0 := by
  rw [seq_eq]
  simp [freshClasp, BitVec.setWidth_and]

theorem inv_freshClasp (c : Clasp) (e : Word) : (freshClasp c e).inv = false := by
  simp [freshClasp, Clasp.inv]

theorem waiters_freshClasp (c : Clasp) (e : Word) : (freshClasp c e).waiters = c.waiters := by
  simp [freshClasp, Clasp.waiters]

/-- Records put for a list of strands: each of them has it. -/
theorem look_foldl_member (f : Nat × Strand → Nat) (es : List (Nat × Strand)) (m : AMap CRec) {e : Nat × Strand}
    (he : e ∈ es ∨ AMap.look m (f e) = some State.member) :
    AMap.look (es.foldl (fun r e => AMap.put r (f e) State.member) m) (f e) = some State.member := by
  induction es generalizing m with
  | nil => exact he.resolve_left List.not_mem_nil
  | cons e' es ih =>
    refine ih _ ?_
    rcases he with he | he
    · rcases List.mem_cons.1 he with rfl | he
      · exact .inr (AMap.look_put_self _ _ _)
      · exact .inl he
    · by_cases hk : f e = f e'
      · rw [hk]
        exact .inr (AMap.look_put_self _ _ _)
      · rw [AMap.look_put_ne _ _ hk]
        exact .inr he

/-- Every strand of a' was one of a, of the same weave and the same index. -/
def seatsKept (a a' : State) : Prop := ∀ k u', a'.strand? k = some u' → ∃ u, a.strand? k = some u ∧ u'.weave = u.weave ∧ u'.widx = u.widx

theorem seatsKept_of_strands {a' : State} (h : a'.strands = a.strands) : seatsKept a a' := by
  intro k u' hu
  rw [State.strand?, h] at hu
  exact ⟨u', hu, rfl, rfl⟩

theorem seatsKept_doom (a : State) (me pa : Nat) (wr : Bool) : seatsKept a (a.doom me pa wr) := by
  intro k u' hu
  rw [strand_doom, Option.map_eq_some_iff] at hu
  obtain ⟨u, hu, rfl⟩ := hu
  refine ⟨u, hu, ?_⟩
  unfold doomed
  split
  · exact ⟨rfl, rfl⟩
  · split
    · split <;> exact ⟨rfl, rfl⟩
    · exact ⟨rfl, rfl⟩

theorem seatsKept_claspWrite (hrest : ClaspRest t p a) (me : Nat) (c : Clasp) : seatsKept a (a.claspWrite me p c) := by
  cases p with
  | scr wk off =>
    obtain ⟨w, -, -, he⟩ := claspWrite_scr hrest me c
    rw [he]
    exact seatsKept_of_strands rfl
  | mem pa =>
    rw [claspWrite_mem hrest]
    intro k u' hu
    rw [State.strand?, State.homeStore_strands] at hu
    exact seatsKept_doom a me pa true k u' hu

theorem advance_seat (t : Strand) (n : Nat) : (t.advance n).weave = t.weave ∧ (t.advance n).widx = t.widx := by
  unfold Strand.advance
  split <;> exact ⟨rfl, rfl⟩

/-- The records of a weave once INIT has made every strand of it a member. -/
def memberRecs (a : State) (wk h : Nat) (w : Weave) : AMap CRec :=
  (a.members wk).foldl (fun r e => AMap.put r (State.recKey w h e.2.widx) State.member) w.recs

theorem record_of_memberRecs {w' : Weave} {u : Strand} {k wk : Nat} (hu : a.strand? k = some u) (hk : k < ccBase) (hw : u.weave = wk)
    (hb : w'.binds = w.binds) (hrecs : w'.recs = memberRecs a wk h w) : record w' u h = State.member := by
  have hkey : State.recKey w' h u.widx = State.recKey w h u.widx := by rw [State.recKey, State.recKey, State.canonH, State.canonH, hb]
  have hmem : (k, u) ∈ a.members wk := by
    refine List.mem_filter.2 ⟨mem_of_look hu, ?_⟩
    rw [Bool.and_eq_true]
    exact ⟨decide_eq_true hk, beq_iff_eq.2 hw⟩
  have hlook := look_foldl_member (fun e => State.recKey w h e.2.widx) (a.members wk) w.recs (.inl hmem)
  rw [record, hkey, hrecs, AMap.get, memberRecs, hlook, Option.getD_some]

/-- What INIT writes into its weave: the records of a. -/
def withMembers (a : State) (wk h : Nat) (w w2 : Weave) : Weave := { w2 with recs := memberRecs a wk h w }

/-- The part once INIT has written its object and the records. -/
def initialised (s : State) (t : Strand) (x h : Nat) (w : Weave) (p : CPlace) : State :=
  ((s.claspPrep s.cur p).claspWrite s.cur p (freshClasp (s.claspRead p) (t.getS x))).updWeave t.weave (withMembers (s.claspPrep s.cur p) t.weave h w)

theorem exec_claspInit (hr : s.runs t) (hreach : reaches s t h true w b p) (hstill : still s t w b p) :
    exec (.claspInit x h) s = if (s.claspRead p).waiters || (s.claspRead p).held != 0#32 then (s.claspPrep s.cur p).raise t { code := 0xE, sub := 2, arg := h }
      else .next ((initialised s t x h w p).setCur (t.advance 1)) := by
  have hrest := rest_of_still hreach hstill
  have hprep := neutral_claspPrep hrest s.cur
  rw [show exec (.claspInit x h) s = execClaspInit x h s from rfl, execClaspInit, claspGo_reaches hr hreach hstill]
  simp only [hprep.claspRead hrest, claspTouch_eq_self hreach hstill (cores_claspPrep hrest s.cur), hprep.cur, State.finish_eq]
  rfl

/-- INIT makes every strand of its weave a member. -/
theorem record_initialised (hr : s.runs t) (hreach : reaches s t h true w b p) (hrest : ClaspRest t p s) {k : Nat} {u : Strand} {w' : Weave}
    (hu : ((initialised s t x h w p).setCur (t.advance 1)).strand? k = some u) (hk : k < ccBase) (huw : u.weave = t.weave)
    (hw' : (initialised s t x h w p).weave? t.weave = some w') : record w' u h = State.member := by
  have hprep := neutral_claspPrep hrest s.cur
  have hwrite := serves_claspWrite (hprep.rest hrest) s.cur (freshClasp (s.claspRead p) (t.getS x))
  have hcur : (initialised s t x h w p).cur = s.cur := hwrite.cur.trans hprep.cur
  have hseat : ∃ u0, (s.claspPrep s.cur p).strand? k = some u0 ∧ u.weave = u0.weave ∧ u.widx = u0.widx := by
    by_cases hkc : k = (initialised s t x h w p).cur
    · rw [hkc, State.strand_setCur] at hu
      obtain rfl := Option.some.inj hu
      exact ⟨t, by rw [hkc, hcur, strand_claspPrep hrest]; exact hr, advance_seat t 1⟩
    · rw [State.strand_setCur_ne _ _ hkc] at hu
      exact seatsKept_claspWrite (hprep.rest hrest) s.cur _ k u hu
  obtain ⟨u0, hu0, hweave, hwidx⟩ := hseat
  obtain ⟨w1, hw1, rfl⟩ := weave_of_updWeave hw'
  obtain ⟨w0, hw0, hb, -, -⟩ := weave_claspWrite (hprep.rest hrest) s.cur _ hw1
  rw [State.weave?, weaves_claspPrep hrest] at hw0
  obtain rfl := Option.some.inj (hreach.1.symm.trans hw0)
  have hmember := record_of_memberRecs (h := h) (w := w) (w' := withMembers (s.claspPrep s.cur p) t.weave h w w1) hu0 hk
    (hweave.symm.trans huw) hb rfl
  rw [record, hwidx]
  exact hmember

/-! #### INVAL -/

/-- Releasing waiters changes no wait that goes on. -/
theorem waitsOn_released (a : State) (p : CPlace) (u : Strand) : (releasedState a p).waitsOn u p = a.waitsOn u p := by
  have htwin : Twin a (releasedState a p) := ⟨rfl, rfl, rfl, rfl, rfl, rfl, rfl, rfl, rfl⟩
  simp only [State.waitsOn, State.claspAt, htwin.lookup]
  rfl

/-- Nobody waits at an object whose INV is set, once its waiters have been released. -/
theorem stillWaits_of_inv (hinv : (a.claspRead p).inv = true) : stillWaits a p = false := by
  refine List.any_eq_false.2 fun e he => ?_
  obtain ⟨e0, -, rfl⟩ := List.mem_map.1 he
  rw [waitsOn_released]
  unfold released
  split
  · rename_i hnone
    rw [hnone]
    exact Bool.false_ne_true
  · rename_i x _
    have hwoke : ∀ v, a.waitsOn { e0.2 with wait := .woke v x.2 } p = none := fun v => waitsOn_of_wait fun _ _ h => by cases h
    split
    · rw [hwoke]
      exact Bool.false_ne_true
    · rw [hwoke]
      exact Bool.false_ne_true

theorem exec_claspInval (hr : s.runs t) (hreach : reaches s t h true w b p) (hstill : still s t w b p) :
    exec (.claspInval h) s = .next
      ((((s.claspPrep s.cur p).claspWrite s.cur p ((s.claspRead p).setBit 16 true)).wakeClasp s.cur p).setCur (t.advance 1)) := by
  have hrest := rest_of_still hreach hstill
  have hprep := neutral_claspPrep hrest s.cur
  rw [show exec (.claspInval h) s = execClaspInval h s from rfl, execClaspInval, claspGo_reaches hr hreach hstill]
  simp only [State.invalidate, hprep.claspRead hrest, claspTouch_eq_self hreach hstill (cores_claspPrep hrest s.cur), hprep.cur, State.finish_eq]

/-! #### REG and UNREG -/

theorem binds_unbind (w : Weave) (h : Nat) : (unbind w h).binds = AMap.del w.binds h ∧ (unbind w h).scr = w.scr := by
  unfold unbind
  dsimp only
  split
  · exact ⟨rfl, rfl⟩
  · split
    · exact ⟨rfl, rfl⟩
    · split <;> exact ⟨rfl, rfl⟩

theorem binds_bindTo (w : Weave) (h : Nat) (b : Bind) (idxs : List Nat) :
    (bindTo w h b idxs).binds = AMap.put (AMap.del w.binds h) h b ∧ (bindTo w h b idxs).scr = w.scr := by
  obtain ⟨hb, hs⟩ := binds_unbind w h
  exact ⟨congrArg (fun m => AMap.put m h b) hb, hs⟩

/-- The binding that REG gives its handle. -/
def regBind (t : Strand) (x bolt : Nat) : Bind := { bolt := decide (bolt = 1), addr := if bolt = 1 then (t.getPair x).toNat else (t.getS x).toNat }

theorem exec_claspReg (hr : s.runs t) (bolt : Nat) : exec (.claspReg x h bolt) s =
    .next ((s.updWeave t.weave (fun w => bindTo w h (regBind t x bolt) ((s.members t.weave).map (·.2.widx)))).setCur (t.advance 1)) :=
  State.run_of_runs hr _

theorem exec_claspUnreg (hr : s.runs t) (hw : s.weave? t.weave = some w) : exec (.claspUnreg h) s =
    if AMap.look w.binds h = none then s.raise t { code := 0xE, sub := 1, arg := h } else .next ((s.setWeave t.weave (unbind w h)).setCur (t.advance 1)) := by
  refine (State.run_of_runs hr _).trans ?_
  simp only [hw]
  cases AMap.look w.binds h <;> rfl

end

theorem claspInitInvalRegAndUnregSetTheObjectOrItsHandle : ClaspInitInvalRegAndUnregSetTheObjectOrItsHandle := by
  intro s t x h hr _ _
  refine ⟨fun w b p hreach hstill => ⟨fun hbusy => ?_, fun hwait hheld => ?_, ?_⟩, fun bolt _ w hw => ?_, fun w hw => ⟨fun hnone => ?_, fun hsome => ?_⟩⟩
  · rw [exec_claspInit hr hreach hstill, if_pos]
    rw [Bool.or_eq_true, bne_iff_ne]
    exact hbusy
  · have hrest := rest_of_still hreach hstill
    have hprep := neutral_claspPrep hrest s.cur
    have hwrite := serves_claspWrite (hprep.rest hrest) s.cur (freshClasp (s.claspRead p) (t.getS x))
    have hupd := neutral_updWeave (a := (s.claspPrep s.cur p).claspWrite s.cur p (freshClasp (s.claspRead p) (t.getS x)))
      (k := t.weave) (f := withMembers (s.claspPrep s.cur p) t.weave h w) fun _ => ⟨rfl, rfl⟩
    have he := exec_claspInit (x := x) hr hreach hstill
    rw [if_neg (by simp [hwait, hheld])] at he
    have hread : ((initialised s t x h w p).setCur (t.advance 1)).claspRead p = freshClasp (s.claspRead p) (t.getS x) :=
      (claspRead_setCur (hupd.rest hwrite.rest) _).trans ((hupd.claspRead hwrite.rest).trans (claspRead_claspWrite (hprep.rest hrest) s.cur _))
    refine claspDone_quiet he (onlyObject_trans (hprep.only p) (onlyObject_trans hwrite.only (hupd.only p))) ?_
    dsimp only
    rw [hread]
    exact ⟨seq_freshClasp _ _, inv_freshClasp _ _, (waiters_freshClasp _ _).trans hwait, rfl, rfl, rfl, rfl, hheld,
      fun k u w' hu hk huw hw' => record_initialised hr hreach hrest hu hk huw hw'⟩
  · have hrest := rest_of_still hreach hstill
    have hprep := neutral_claspPrep hrest s.cur
    have hwrite := serves_claspWrite (hprep.rest hrest) s.cur ((s.claspRead p).setBit 16 true)
    have hwake := serves_wakeClasp hwrite.rest s.cur
    have hinv := claspRead_claspWrite (hprep.rest hrest) s.cur ((s.claspRead p).setBit 16 true)
    obtain ⟨⟨hseq, hinv', he, ha, hj, hearly, hheld⟩, hwait⟩ := claspRead_wakeClasp hwrite.rest s.cur
    refine claspDone_quiet (exec_claspInval hr hreach hstill) (onlyObject_trans (hprep.only p) (onlyObject_trans hwrite.only hwake.only)) ?_
    dsimp only
    rw [claspRead_setCur hwake.rest]
    rw [hinv] at hseq hinv' he ha hj hearly hheld
    exact ⟨hinv'.trans (inv_setBit_inv _), hwait.trans (stillWaits_of_inv (by rw [hinv]; exact inv_setBit_inv _)),
      hseq.trans (seq_setBit _ (.inl rfl) _), he, ha, hj, hearly, hheld⟩
  · obtain ⟨hb, hs⟩ := binds_bindTo w h (regBind t x bolt) ((s.members t.weave).map (·.2.widx))
    refine ⟨_, _, exec_claspReg hr bolt, State.strand_setCur (s.updWeave _ _) _, rfl, State.weave_updWeave s _ hw, ?_, fun g hg => ?_, hs⟩
    · rw [hb, AMap.look_put_self]
      rfl
    · rw [hb, AMap.look_put_ne _ _ hg, AMap.look_del_ne _ hg]
  · rw [exec_claspUnreg hr hw, if_pos hnone]
  · obtain ⟨hb, hs⟩ := binds_unbind w h
    have he := exec_claspUnreg (h := h) hr hw
    rw [if_neg hsome] at he
    refine ⟨_, _, he, State.strand_setCur (s.setWeave _ _) _, rfl, State.weave_setWeave s _ _, ?_, fun g hg => ?_, hs⟩
    · rw [hb, AMap.look_del_self]
    · rw [hb, AMap.look_del_ne _ hg]

/-- Settles O21: each CLASP word reaches its object and writes or tests it whole; a wait that has been released reads its object as it
stood, though the acquire has worked on the strand's own core (`claspRead_of_alike`). -/
theorem claspObjectsAreSetWaitedForAndTested : Obligations.ClaspObjectsAreSetWaitedForAndTested :=
  ⟨claspInitInvalRegAndUnregSetTheObjectOrItsHandle, claspWaitAndTestReportTheirTokensPhase⟩

end Sys2Proof.Proofs
end
